-- ==== Sys2Proof/Word.lean ====
section
/-! DEFINITION. The machine's words. -/

namespace Sys2Proof

/-- A general register, a control register, a doubleword of memory (R16, R24). -/
abbrev Word := BitVec 64

/-- A byte of memory (R9). -/
abbrev Byte := BitVec 8

end Sys2Proof
end

