-- ==== Sys2Proof/Machine/Bits.lean ====
section
/-! DEFINITION. Bit fields, sign extension and byte order (R9, R14), and maps held as lists. -/

namespace Sys2Proof

/-- bits(v, hi, lo) of R14, on a natural number. -/
def fld (v hi lo : Nat) : Nat := v / 2 ^ lo % 2 ^ (hi + 1 - lo)

/-- bits(w, hi, lo) of R14, on a word. -/
def bitsOf (w : BitVec 64) (hi lo : Nat) : Nat := fld w.toNat hi lo

/-- sext(v, n) of R14: the low n bits of v as two's complement. -/
def sextI (v n : Nat) : Int :=
  let u := v % 2 ^ n
  if n = 0 then 0 else if 2 ^ (n - 1) ≤ u then (u : Int) - 2 ^ n else u

/-- A natural number as a word, modulo 2^64. -/
def w64 (n : Nat) : BitVec 64 := BitVec.ofNat 64 n

/-- An integer as a word, modulo 2^64. -/
def i64 (n : Int) : BitVec 64 := BitVec.ofInt 64 n

/-- Little-endian bytes of a number, n of them (R9). -/
def leBytes : Nat → Nat → List (BitVec 8)
  | 0, _ => []
  | n + 1, v => BitVec.ofNat 8 v :: leBytes n (v / 256)

/-- The number that little-endian bytes hold (R9). -/
def ofLe : List (BitVec 8) → Nat
  | [] => 0
  | b :: bs => b.toNat + 256 * ofLe bs

/-- Set bit i of a bit vector to b. -/
def putBit {n : Nat} (v : BitVec n) (i : Nat) (b : Bool) : BitVec n :=
  let m := BitVec.ofNat n (2 ^ i)
  if b then v ||| m else v &&& ~~~m

/-- Population count of a number's low n bits. -/
def popCount : Nat → Nat → Nat
  | 0, _ => 0
  | n + 1, v => v % 2 + popCount n (v / 2)

/-- Ceiling division. -/
def ceilDiv (a b : Nat) : Nat := (a + b - 1) / b

/-- The value under key k of a map held as a list, or d. -/
def fget {α : Type} (d : α) : List (Nat × α) → Nat → α
  | [], _ => d
  | (j, v) :: r, k => if j = k then v else fget d r k

/-- Insert a pair before the first larger key. -/
def fins {α : Type} (k : Nat) (v : α) : List (Nat × α) → List (Nat × α)
  | [] => [(k, v)]
  | (j, w) :: r => if k < j then (k, v) :: (j, w) :: r else (j, w) :: fins k v r

/-- Drop every pair of key k. -/
def fdel {α : Type} (k : Nat) : List (Nat × α) → List (Nat × α)
  | [] => []
  | (j, w) :: r => if j = k then fdel k r else (j, w) :: fdel k r

/-- The map with v under k. -/
def fset {α : Type} (m : List (Nat × α)) (k : Nat) (v : α) : List (Nat × α) := fins k v (fdel k m)

/-- The map with v under k, which does not list the value d of an unlisted key: the canonical form of memory. -/
def fsetD {α : Type} [DecidableEq α] (d : α) (m : List (Nat × α)) (k : Nat) (v : α) : List (Nat × α) :=
  if v = d then fdel k m else fins k v (fdel k m)

/-- Remove the element at index k of a list. -/
def dropAt {α : Type} : List α → Nat → List α
  | [], _ => []
  | _ :: r, 0 => r
  | a :: r, k + 1 => a :: dropAt r k

/-- Replace the element at index k of a list. -/
def setAt {α : Type} : List α → Nat → α → List α
  | [], _, _ => []
  | _ :: r, 0, b => b :: r
  | a :: r, k + 1, b => a :: setAt r k b

end Sys2Proof
end

