-- ==== Sys2Proof/Syntax.lean ====
section
/-! DEFINITION. The instructions and steps of spec/opcode_table.json, one constructor per row.

A row with a word (R77) carries its fields as raw bit vectors, most significant first, under the names of R77.
A row without a word is a step of the device (spec/95): its arguments name the agents it concerns and the choices
the spec leaves to the moment (which message, in which context); see WellFormed for their ranges. -/

namespace Sys2Proof
set_option linter.unusedVariables false

/-- The instructions (words) and the device's steps (no word), in the table's order. -/
inductive Instr where
  /-- add (R119): Writes the 64-bit wrapped sum of ra and rb to rd. -/
  | add (rd : BitVec 4) (ra : BitVec 4) (rb : BitVec 4)
  /-- sub (R119): Writes the 64-bit wrapped difference of ra and rb to rd. -/
  | sub (rd : BitVec 4) (ra : BitVec 4) (rb : BitVec 4)
  /-- and (R119): Writes the bitwise AND of ra and rb to rd. -/
  | and (rd : BitVec 4) (ra : BitVec 4) (rb : BitVec 4)
  /-- or (R119): Writes the bitwise OR of ra and rb to rd. -/
  | or (rd : BitVec 4) (ra : BitVec 4) (rb : BitVec 4)
  /-- xor (R119): Writes the bitwise XOR of ra and rb to rd. -/
  | xor (rd : BitVec 4) (ra : BitVec 4) (rb : BitVec 4)
  /-- andn (R119): Writes ra AND NOT rb to rd. -/
  | andn (rd : BitVec 4) (ra : BitVec 4) (rb : BitVec 4)
  /-- orn (R119): Writes ra OR NOT rb to rd. -/
  | orn (rd : BitVec 4) (ra : BitVec 4) (rb : BitVec 4)
  /-- sll (R119): Shifts ra left by the low six bits of rb. -/
  | sll (rd : BitVec 4) (ra : BitVec 4) (rb : BitVec 4)
  /-- srl (R119): Shifts ra right logically by the low six bits of rb. -/
  | srl (rd : BitVec 4) (ra : BitVec 4) (rb : BitVec 4)
  /-- sra (R119): Shifts ra right arithmetically by the low six bits of rb. -/
  | sra (rd : BitVec 4) (ra : BitVec 4) (rb : BitVec 4)
  /-- rol (R119): Rotates ra left by the low six bits of rb. -/
  | rol (rd : BitVec 4) (ra : BitVec 4) (rb : BitVec 4)
  /-- ror (R119): Rotates ra right by the low six bits of rb. -/
  | ror (rd : BitVec 4) (ra : BitVec 4) (rb : BitVec 4)
  /-- slli (R119): Shifts ra left by the immediate sh. -/
  | slli (rd : BitVec 4) (ra : BitVec 4) (sh : BitVec 6)
  /-- srli (R119): Shifts ra right logically by the immediate sh. -/
  | srli (rd : BitVec 4) (ra : BitVec 4) (sh : BitVec 6)
  /-- srai (R119): Shifts ra right arithmetically by the immediate sh. -/
  | srai (rd : BitVec 4) (ra : BitVec 4) (sh : BitVec 6)
  /-- rori (R119): Rotates ra right by the immediate sh. -/
  | rori (rd : BitVec 4) (ra : BitVec 4) (sh : BitVec 6)
  /-- slt (R119): Writes 1 if ra is less than rb signed, else 0. -/
  | slt (rd : BitVec 4) (ra : BitVec 4) (rb : BitVec 4)
  /-- sltu (R119): Writes 1 if ra is less than rb unsigned, else 0. -/
  | sltu (rd : BitVec 4) (ra : BitVec 4) (rb : BitVec 4)
  /-- seq (R119): Writes 1 if ra equals rb, else 0. -/
  | seq (rd : BitVec 4) (ra : BitVec 4) (rb : BitVec 4)
  /-- min (R119): Writes the signed lesser of ra and rb. -/
  | min (rd : BitVec 4) (ra : BitVec 4) (rb : BitVec 4)
  /-- max (R119): Writes the signed greater of ra and rb. -/
  | max (rd : BitVec 4) (ra : BitVec 4) (rb : BitVec 4)
  /-- minu (R119): Writes the unsigned lesser of ra and rb. -/
  | minu (rd : BitVec 4) (ra : BitVec 4) (rb : BitVec 4)
  /-- maxu (R119): Writes the unsigned greater of ra and rb. -/
  | maxu (rd : BitVec 4) (ra : BitVec 4) (rb : BitVec 4)
  /-- clz (R119): Counts the leading zero bits of ra. -/
  | clz (rd : BitVec 4) (ra : BitVec 4)
  /-- ctz (R119): Counts the trailing zero bits of ra. -/
  | ctz (rd : BitVec 4) (ra : BitVec 4)
  /-- pop (R119): Counts the one bits of ra. -/
  | pop (rd : BitVec 4) (ra : BitVec 4)
  /-- sadd (R119): Writes ra plus rb shifted left by sc. -/
  | sadd (rd : BitVec 4) (ra : BitVec 4) (rb : BitVec 4) (sc : BitVec 2)
  /-- bfx (R122): Extracts a signed bit field of ra into rd. -/
  | bfx (rd : BitVec 4) (ra : BitVec 4) (pos : BitVec 6) (lm1 : BitVec 6)
  /-- bfxu (R122): Extracts an unsigned bit field of ra into rd. -/
  | bfxu (rd : BitVec 4) (ra : BitVec 4) (pos : BitVec 6) (lm1 : BitVec 6)
  /-- bfi (R122): Inserts the low bits of ra into a bit field of rd. -/
  | bfi (rd : BitVec 4) (ra : BitVec 4) (pos : BitVec 6) (lm1 : BitVec 6)
  /-- addi (R121): Adds a sign-extended 18-bit immediate to ra. -/
  | addi (rd : BitVec 4) (ra : BitVec 4) (imm : BitVec 18)
  /-- andi (R121): ANDs ra with a zero-extended immediate. -/
  | andi (rd : BitVec 4) (ra : BitVec 4) (imm : BitVec 18)
  /-- ori (R121): ORs ra with a zero-extended immediate. -/
  | ori (rd : BitVec 4) (ra : BitVec 4) (imm : BitVec 18)
  /-- xori (R121): XORs ra with a zero-extended immediate. -/
  | xori (rd : BitVec 4) (ra : BitVec 4) (imm : BitVec 18)
  /-- slti (R121): Writes 1 if ra is less than the signed immediate. -/
  | slti (rd : BitVec 4) (ra : BitVec 4) (imm : BitVec 18)
  /-- sltiu (R121): Writes 1 if ra is less than the sign-extended immediate compared unsigned. -/
  | sltiu (rd : BitVec 4) (ra : BitVec 4) (imm : BitVec 18)
  /-- lui (R121): Writes the sign-extended 22-bit immediate shifted left by 18. -/
  | lui (rd : BitVec 4) (imm : BitVec 22)
  /-- apc (R121): Writes pc plus the shifted 22-bit immediate. -/
  | apc (rd : BitVec 4) (imm : BitVec 22)
  /-- beq (R126): Branches when ra equals rb. -/
  | beq (ra : BitVec 4) (rb : BitVec 4) (off : BitVec 18)
  /-- bne (R126): Branches when ra differs from rb. -/
  | bne (ra : BitVec 4) (rb : BitVec 4) (off : BitVec 18)
  /-- blt (R126): Branches when ra is less than rb signed. -/
  | blt (ra : BitVec 4) (rb : BitVec 4) (off : BitVec 18)
  /-- bge (R126): Branches when ra is at least rb signed. -/
  | bge (ra : BitVec 4) (rb : BitVec 4) (off : BitVec 18)
  /-- bltu (R126): Branches when ra is less than rb unsigned. -/
  | bltu (ra : BitVec 4) (rb : BitVec 4) (off : BitVec 18)
  /-- bgeu (R126): Branches when ra is at least rb unsigned. -/
  | bgeu (ra : BitVec 4) (rb : BitVec 4) (off : BitVec 18)
  /-- dbnz (R127): Decrements ra and branches when the result is nonzero. -/
  | dbnz (ra : BitVec 4) (off : BitVec 18)
  /-- jal (R128): Writes the link to rd and jumps pc-relative. -/
  | jal (rd : BitVec 4) (off : BitVec 22)
  /-- jalr (R128): Writes the link to rd and jumps to ra plus the immediate, trapping on a misaligned or out-of-range target. -/
  | jalr (rd : BitVec 4) (ra : BitVec 4) (imm : BitVec 18)
  /-- mul (R123): Writes the low 64 bits of ra times rb. -/
  | mul (la : BitVec 4) (rd : BitVec 4) (ra : BitVec 4) (rb : BitVec 4)
  /-- mulh (R123): Writes the high 64 bits of the signed product. -/
  | mulh (la : BitVec 4) (rd : BitVec 4) (ra : BitVec 4) (rb : BitVec 4)
  /-- mulhu (R123): Writes the high 64 bits of the unsigned product. -/
  | mulhu (la : BitVec 4) (rd : BitVec 4) (ra : BitVec 4) (rb : BitVec 4)
  /-- mulhsu (R123): Writes the high 64 bits of the signed-by-unsigned product. -/
  | mulhsu (la : BitVec 4) (rd : BitVec 4) (ra : BitVec 4) (rb : BitVec 4)
  /-- div (R124): Writes the signed quotient with defined results for division by zero and overflow. -/
  | div (la : BitVec 4) (rd : BitVec 4) (ra : BitVec 4) (rb : BitVec 4)
  /-- divu (R124): Writes the unsigned quotient. -/
  | divu (la : BitVec 4) (rd : BitVec 4) (ra : BitVec 4) (rb : BitVec 4)
  /-- rem (R124): Writes the signed remainder. -/
  | rem (la : BitVec 4) (rd : BitVec 4) (ra : BitVec 4) (rb : BitVec 4)
  /-- remu (R124): Writes the unsigned remainder. -/
  | remu (la : BitVec 4) (rd : BitVec 4) (ra : BitVec 4) (rb : BitVec 4)
  /-- madd (R123): Writes the low 64 bits of ra times rb plus rc. -/
  | madd (la : BitVec 4) (rd : BitVec 4) (ra : BitVec 4) (rb : BitVec 4) (rc : BitVec 4)
  /-- fadd (R137): Rounded floating-point sum in the format fs selects. -/
  | fadd (la : BitVec 4) (rd : BitVec 4) (ra : BitVec 4) (rb : BitVec 4) (fs : BitVec 2)
  /-- fsub (R137): Rounded floating-point difference. -/
  | fsub (la : BitVec 4) (rd : BitVec 4) (ra : BitVec 4) (rb : BitVec 4) (fs : BitVec 2)
  /-- fmul (R137): Rounded floating-point product. -/
  | fmul (la : BitVec 4) (rd : BitVec 4) (ra : BitVec 4) (rb : BitVec 4) (fs : BitVec 2)
  /-- fdiv (R137): Correctly rounded floating-point quotient. -/
  | fdiv (la : BitVec 4) (rd : BitVec 4) (ra : BitVec 4) (rb : BitVec 4) (fs : BitVec 2)
  /-- fsqrt (R137): Correctly rounded square root. -/
  | fsqrt (la : BitVec 4) (rd : BitVec 4) (ra : BitVec 4) (fs : BitVec 2)
  /-- fmin (R137): Floating-point minimum with -0 below +0. -/
  | fmin (la : BitVec 4) (rd : BitVec 4) (ra : BitVec 4) (rb : BitVec 4) (fs : BitVec 2)
  /-- fmax (R137): Floating-point maximum with -0 below +0. -/
  | fmax (la : BitVec 4) (rd : BitVec 4) (ra : BitVec 4) (rb : BitVec 4) (fs : BitVec 2)
  /-- fma (R137): Fused multiply-add with one rounding. -/
  | fma (la : BitVec 4) (rd : BitVec 4) (ra : BitVec 4) (rb : BitVec 4) (rc : BitVec 4) (fs : BitVec 2)
  /-- feq (R137): Writes 1 if the operands are equal. -/
  | feq (la : BitVec 4) (rd : BitVec 4) (ra : BitVec 4) (rb : BitVec 4) (fs : BitVec 2)
  /-- flt (R137): Writes 1 if a is less than b. -/
  | flt (la : BitVec 4) (rd : BitVec 4) (ra : BitVec 4) (rb : BitVec 4) (fs : BitVec 2)
  /-- fle (R137): Writes 1 if a is at most b. -/
  | fle (la : BitVec 4) (rd : BitVec 4) (ra : BitVec 4) (rb : BitVec 4) (fs : BitVec 2)
  /-- fcvti (R139): Converts a float to an integer of the width and signedness rc selects. -/
  | fcvti (la : BitVec 4) (rd : BitVec 4) (ra : BitVec 4) (u : BitVec 1) (width : BitVec 2) (fs : BitVec 2)
  /-- fcvtf (R139): Converts an integer of the selected width to a float. -/
  | fcvtf (la : BitVec 4) (rd : BitVec 4) (ra : BitVec 4) (u : BitVec 1) (width : BitVec 2) (fs : BitVec 2)
  /-- fcvt (R137): Converts a float between formats. -/
  | fcvt (la : BitVec 4) (rd : BitVec 4) (ra : BitVec 4) (src : BitVec 2) (fs : BitVec 2)
  /-- fsgnj (R137): Replaces the sign of a as sj selects. -/
  | fsgnj (la : BitVec 4) (rd : BitVec 4) (ra : BitVec 4) (rb : BitVec 4) (sj : BitVec 2) (fs : BitVec 2)
  /-- fclass (R139): Writes the class mask of a. -/
  | fclass (la : BitVec 4) (rd : BitVec 4) (ra : BitVec 4) (fs : BitVec 2)
  /-- ldb (R130): Loads a sign-extended byte, migrating or trapping on a remote address. -/
  | ldb (la : BitVec 4) (rd : BitVec 4) (ra : BitVec 4) (off : BitVec 11)
  /-- ldbu (R130): Loads a zero-extended byte. -/
  | ldbu (la : BitVec 4) (rd : BitVec 4) (ra : BitVec 4) (off : BitVec 11)
  /-- ldh (R130): Loads a sign-extended halfword. -/
  | ldh (la : BitVec 4) (rd : BitVec 4) (ra : BitVec 4) (off : BitVec 11)
  /-- ldhu (R130): Loads a zero-extended halfword. -/
  | ldhu (la : BitVec 4) (rd : BitVec 4) (ra : BitVec 4) (off : BitVec 11)
  /-- ldw (R130): Loads a sign-extended word. -/
  | ldw (la : BitVec 4) (rd : BitVec 4) (ra : BitVec 4) (off : BitVec 11)
  /-- ldwu (R130): Loads a zero-extended word. -/
  | ldwu (la : BitVec 4) (rd : BitVec 4) (ra : BitVec 4) (off : BitVec 11)
  /-- ldd (R130): Loads a doubleword. -/
  | ldd (la : BitVec 4) (rd : BitVec 4) (ra : BitVec 4) (off : BitVec 11)
  /-- stb (R130): Stores a byte. -/
  | stb (la : BitVec 4) (rd : BitVec 4) (ra : BitVec 4) (off : BitVec 11)
  /-- sth (R130): Stores a halfword. -/
  | sth (la : BitVec 4) (rd : BitVec 4) (ra : BitVec 4) (off : BitVec 11)
  /-- stw (R130): Stores a word. -/
  | stw (la : BitVec 4) (rd : BitVec 4) (ra : BitVec 4) (off : BitVec 11)
  /-- std (R130): Stores a doubleword. -/
  | std (la : BitVec 4) (rd : BitVec 4) (ra : BitVec 4) (off : BitVec 11)
  /-- MIGRATION_ARRIVAL (R132): A saddle takes a migrating strand's message, installs it in a free context and executes the access. -/
  | migrationArrival (k : Nat)
  /-- nop (R145): Does nothing. -/
  | nop
  /-- crr (R141): Reads a control register into rd. -/
  | crr (rd : BitVec 4) (cr : BitVec 12)
  /-- crw (R141): Writes a control register from ra and returns the old value. -/
  | crw (rd : BitVec 4) (ra : BitVec 4) (cr : BitVec 12)
  /-- crs (R141): Sets control-register bits from ra and returns the old value. -/
  | crs (rd : BitVec 4) (ra : BitVec 4) (cr : BitVec 12)
  /-- crc (R141): Clears control-register bits from ra and returns the old value. -/
  | crc (rd : BitVec 4) (ra : BitVec 4) (cr : BitVec 12)
  /-- svc (R143): Raises SVC with its service code. -/
  | svc (code : BitVec 12)
  /-- trap (R143): Raises SOFT_TRAP with its code. -/
  | trap (code : BitVec 12)
  /-- tret (R352): Returns from a trap, re-executing or continuing as tcause.re gives. -/
  | tret
  /-- brk (R143): Raises BREAKPOINT with its code. -/
  | brk (code : BitVec 12)
  /-- await (R145): Suspends the strand until the next wake event. -/
  | await
  /-- pin (R145): Sets sw.pin. -/
  | pin
  /-- unpin (R20): Waits for the strand's vector, matrix and macro work and clears sw.pin. -/
  | unpin
  /-- AWAIT_WAKE (R146): A suspended strand becomes ready on a wake event or after 2^wdog.lim cycles. -/
  | awaitWake (core : Nat) (ctx : Nat)
  /-- ptrset (R155): Writes a pointer's base and inner dimension and resets its outer dimension. -/
  | ptrset (la : BitVec 4) (vd : BitVec 4) (vs1 : BitVec 4) (vs2 : BitVec 4)
  /-- ptrdim (R156): Writes a pointer's outer dimension. -/
  | ptrdim (la : BitVec 4) (vd : BitVec 4) (vs1 : BitVec 4)
  /-- ptrget (R157): Reads pointer state into a general register. -/
  | ptrget (la : BitVec 4) (vd : BitVec 4) (vs1 : BitVec 4) (vs2 : BitVec 4)
  /-- vadd (R158): Elementwise add. -/
  | vadd (la : BitVec 4) (vd : BitVec 4) (vs1 : BitVec 4) (vs2 : BitVec 4) (pm : BitVec 4)
  /-- vsub (R158): Elementwise subtract. -/
  | vsub (la : BitVec 4) (vd : BitVec 4) (vs1 : BitVec 4) (vs2 : BitVec 4) (pm : BitVec 4)
  /-- vmul (R158): Elementwise multiply. -/
  | vmul (la : BitVec 4) (vd : BitVec 4) (vs1 : BitVec 4) (vs2 : BitVec 4) (pm : BitVec 4)
  /-- vmin (R158): Elementwise minimum. -/
  | vmin (la : BitVec 4) (vd : BitVec 4) (vs1 : BitVec 4) (vs2 : BitVec 4) (pm : BitVec 4)
  /-- vmax (R158): Elementwise maximum. -/
  | vmax (la : BitVec 4) (vd : BitVec 4) (vs1 : BitVec 4) (vs2 : BitVec 4) (pm : BitVec 4)
  /-- vabs (R158): Elementwise absolute value. -/
  | vabs (la : BitVec 4) (vd : BitVec 4) (vs1 : BitVec 4) (pm : BitVec 4)
  /-- vneg (R158): Elementwise negation. -/
  | vneg (la : BitVec 4) (vd : BitVec 4) (vs1 : BitVec 4) (pm : BitVec 4)
  /-- vand (R160): Bitwise AND of element codes. -/
  | vand (la : BitVec 4) (vd : BitVec 4) (vs1 : BitVec 4) (vs2 : BitVec 4) (pm : BitVec 4)
  /-- vor (R160): Bitwise OR of element codes. -/
  | vor (la : BitVec 4) (vd : BitVec 4) (vs1 : BitVec 4) (vs2 : BitVec 4) (pm : BitVec 4)
  /-- vxor (R160): Bitwise XOR of element codes. -/
  | vxor (la : BitVec 4) (vd : BitVec 4) (vs1 : BitVec 4) (vs2 : BitVec 4) (pm : BitVec 4)
  /-- vshl (R160): Elementwise shift left. -/
  | vshl (la : BitVec 4) (vd : BitVec 4) (vs1 : BitVec 4) (vs2 : BitVec 4) (pm : BitVec 4)
  /-- vshr (R160): Elementwise shift right. -/
  | vshr (la : BitVec 4) (vd : BitVec 4) (vs1 : BitVec 4) (vs2 : BitVec 4) (pm : BitVec 4)
  /-- vfma (R158): Elementwise fused multiply-add into the destination. -/
  | vfma (la : BitVec 4) (vd : BitVec 4) (vs1 : BitVec 4) (vs2 : BitVec 4) (pm : BitVec 4)
  /-- vsel (R161): Selects elements from two sources by predicate. -/
  | vsel (la : BitVec 4) (vd : BitVec 4) (vs1 : BitVec 4) (vs2 : BitVec 4) (pm : BitVec 4)
  /-- vcmp.eq (R161): Writes a predicate of element equality. -/
  | vcmpEq (la : BitVec 4) (vd : BitVec 4) (vs1 : BitVec 4) (vs2 : BitVec 4) (pm : BitVec 4)
  /-- vcmp.ne (R161): Writes a predicate of element inequality. -/
  | vcmpNe (la : BitVec 4) (vd : BitVec 4) (vs1 : BitVec 4) (vs2 : BitVec 4) (pm : BitVec 4)
  /-- vcmp.lt (R161): Writes a predicate of element less-than. -/
  | vcmpLt (la : BitVec 4) (vd : BitVec 4) (vs1 : BitVec 4) (vs2 : BitVec 4) (pm : BitVec 4)
  /-- vcmp.le (R161): Writes a predicate of element less-or-equal. -/
  | vcmpLe (la : BitVec 4) (vd : BitVec 4) (vs1 : BitVec 4) (vs2 : BitVec 4) (pm : BitVec 4)
  /-- vperm (R162): Permutes elements by a block of byte indices. -/
  | vperm (la : BitVec 4) (vd : BitVec 4) (vs1 : BitVec 4) (vs2 : BitVec 4) (pm : BitVec 4)
  /-- vbcast (R162): Broadcasts a register's low bits to every element. -/
  | vbcast (la : BitVec 4) (vd : BitVec 4) (vs1 : BitVec 4) (pm : BitVec 4)
  /-- vcvt (R163): Converts elements from a named source format to fmt.elem. -/
  | vcvt (la : BitVec 4) (vd : BitVec 4) (vs1 : BitVec 4) (vs2 : BitVec 4) (pm : BitVec 4)
  /-- vcvt.s (R164): Quantizes or dequantizes between a block-scaled and a wide format. -/
  | vcvtS (la : BitVec 4) (vd : BitVec 4) (vs1 : BitVec 4) (quant : BitVec 1) (sreg : BitVec 3) (pm : BitVec 4)
  /-- vpack (R165): Packs INT8 elements into INT4 or ternary. -/
  | vpack (la : BitVec 4) (vd : BitVec 4) (vs1 : BitVec 4)
  /-- vunpack (R165): Unpacks INT4 or ternary elements into INT8. -/
  | vunpack (la : BitVec 4) (vd : BitVec 4) (vs1 : BitVec 4)
  /-- vdot (R166): Accumulates lane-wise dot products into va. -/
  | vdot (la : BitVec 4) (vs1 : BitVec 4) (vs2 : BitVec 4) (pm : BitVec 4)
  /-- vdot.s (R167): Adds one block-scaled dot product to lane 0 of va. -/
  | vdotS (la : BitVec 4) (vd : BitVec 4) (vs1 : BitVec 4) (vs2 : BitVec 4) (pm : BitVec 4)
  /-- vsum (R166): Accumulates lane-wise sums into va. -/
  | vsum (la : BitVec 4) (vs1 : BitVec 4) (pm : BitVec 4)
  /-- vred.max (R166): Accumulates lane-wise maxima into va. -/
  | vredMax (la : BitVec 4) (vs1 : BitVec 4) (pm : BitVec 4)
  /-- vred.min (R166): Accumulates lane-wise minima into va. -/
  | vredMin (la : BitVec 4) (vs1 : BitVec 4) (pm : BitVec 4)
  /-- vacc.clr (R168): Writes every va lane from a general register. -/
  | vaccClr (la : BitVec 4) (vs1 : BitVec 4)
  /-- vacc.st (R168): Stores va lanes through a pointer. -/
  | vaccSt (la : BitVec 4) (vd : BitVec 4) (pm : BitVec 4)
  /-- vacc.rd (R169): Reads one lane or a lane reduction of va into a register. -/
  | vaccRd (la : BitVec 4) (vd : BitVec 4) (vs1 : BitVec 4) (vs2 : BitVec 4)
  /-- vexp2 (R170): Applies the defined base-2 exponential to each element. -/
  | vexp2 (la : BitVec 4) (vd : BitVec 4) (vs1 : BitVec 4) (pm : BitVec 4)
  /-- vrcp (R170): Applies the defined reciprocal to each element. -/
  | vrcp (la : BitVec 4) (vd : BitVec 4) (vs1 : BitVec 4) (pm : BitVec 4)
  /-- vrsqrt (R170): Applies the defined reciprocal square root to each element. -/
  | vrsqrt (la : BitVec 4) (vd : BitVec 4) (vs1 : BitVec 4) (pm : BitVec 4)
  /-- vgath (R171): Gathers elements from indexed scratchpad addresses. -/
  | vgath (la : BitVec 4) (vd : BitVec 4) (vs1 : BitVec 4) (vs2 : BitVec 4) (pm : BitVec 4)
  /-- vscat (R171): Scatters elements to indexed scratchpad addresses. -/
  | vscat (la : BitVec 4) (vd : BitVec 4) (vs1 : BitVec 4) (vs2 : BitVec 4) (pm : BitVec 4)
  /-- vcprs (R172): Compresses enabled elements and writes their count. -/
  | vcprs (la : BitVec 4) (vd : BitVec 4) (vs1 : BitVec 4) (vs2 : BitVec 4) (pm : BitVec 4)
  /-- vhamf (R173): Lists key signatures within a Hamming radius of a query signature. -/
  | vhamf (la : BitVec 4) (vd : BitVec 4) (vs1 : BitVec 4) (vs2 : BitVec 4) (pm : BitVec 4)
  /-- tcfg (R176): Sets tshape once prior matrix work completes, trapping while an accumulator is in use. -/
  | tcfg (ga : BitVec 4)
  /-- tcfg.d (R176): Resets every accumulator and sets tshape. -/
  | tcfgD (ga : BitVec 4)
  /-- mzero (R195): Restores an accumulator to reset and clears its in-use bit. -/
  | mzero (la : BitVec 4) (m : BitVec 2)
  /-- mwait (R202): Waits for the strand's matrix instructions and drains and reports the first drain error. -/
  | mwait
  /-- mexc (R206): Reads and optionally clears the matrix exception counters. -/
  | mexc (la : BitVec 4) (ga : BitVec 4) (clr : BitVec 1)
  /-- mscale (R198): Multiplies accumulator elements by a scalar or per-row factor. -/
  | mscale (la : BitVec 4) (m : BitVec 2) (p : BitVec 4) (ga : BitVec 4) (row : BitVec 1)
  /-- mma (R188): Accumulates the dome product of A through a pointer and B from a buffer. -/
  | mma (la : BitVec 4) (m : BitVec 2) (p : BitVec 4) (ga : BitVec 4) (gb : BitVec 4) (neg : BitVec 1) (nacc : BitVec 1) (fb : BitVec 1) (scl : BitVec 1)
  /-- mma.co (R191): Cooperative dome product sharing A rows across a rectangle of spires. -/
  | mmaCo (la : BitVec 4) (m : BitVec 2) (p : BitVec 4) (ga : BitVec 4) (gb : BitVec 4) (neg : BitVec 1) (nacc : BitVec 1) (fb : BitVec 1) (scl : BitVec 1)
  /-- mmi (R193): Integer macro product against INT8 weights. -/
  | mmi (la : BitVec 4) (m : BitVec 2) (p : BitVec 4) (ga : BitVec 4) (gb : BitVec 4) (lr : BitVec 1) (nacc : BitVec 1) (cm : BitVec 2)
  /-- mmt (R193): Integer macro product against ternary weights. -/
  | mmt (la : BitVec 4) (m : BitVec 2) (p : BitVec 4) (ga : BitVec 4) (gb : BitVec 4) (lr : BitVec 1) (nacc : BitVec 1) (cm : BitVec 2)
  /-- msig (R194): Computes 64-bit sign signatures of key rows. -/
  | msig (la : BitVec 4) (m : BitVec 2) (p : BitVec 4) (fb : BitVec 1)
  /-- mldb (R187): Loads B into a buffer or macro through a pointer. -/
  | mldb (la : BitVec 4) (p : BitVec 4) (lr : BitVec 1) (dst : BitVec 3)
  /-- mrd (R196): Writes accumulator rows through a pointer, converted. -/
  | mrd (la : BitVec 4) (m : BitVec 2) (p : BitVec 4) (fmt : BitVec 4)
  /-- mwr (R196): Reads rows through a pointer into an accumulator. -/
  | mwr (la : BitVec 4) (m : BitVec 2) (p : BitVec 4) (fmt : BitVec 4)
  /-- mdrain (R200): Hands accumulator elements to the bulk copy engine through a shape record. -/
  | mdrain (la : BitVec 4) (m : BitVec 2) (ga : BitVec 4) (clr : BitVec 1)
  /-- mdrain.add (R200): Hands accumulator elements to the engine to be added at their destinations. -/
  | mdrainAdd (la : BitVec 4) (m : BitVec 2) (ga : BitVec 4) (clr : BitVec 1)
  /-- mmov (R195): Copies one accumulator with its rows into another. -/
  | mmov (la : BitVec 4) (m : BitVec 2) (src : BitVec 2)
  /-- mrow.rd (R197): Writes an accumulator's max or den row through a pointer. -/
  | mrowRd (la : BitVec 4) (m : BitVec 2) (p : BitVec 4) (den : BitVec 1)
  /-- mrow.wr (R197): Reads an accumulator's max or den row through a pointer. -/
  | mrowWr (la : BitVec 4) (m : BitVec 2) (p : BitVec 4) (den : BitVec 1)
  /-- msmx (R203): Performs one streaming-softmax step. -/
  | msmx (la : BitVec 4) (m : BitVec 2) (p : BitVec 4) (ga : BitVec 4) (src : BitVec 2) (fb : BitVec 1) (mk : BitVec 1)
  /-- mmrg (R204): Merges two partial softmax states. -/
  | mmrg (la : BitVec 4) (m : BitVec 2) (other : BitVec 2)
  /-- mfin (R205): Finalises softmax rows by dividing by den. -/
  | mfin (la : BitVec 4) (m : BitVec 2)
  /-- MACRO_STEP_COMMIT (R183): A macro-operation step ends and commits its writes, flags, counters and rngs as one update. -/
  | macroStepCommit (core : Nat)
  /-- COOPERATIVE_ROW_ARRIVAL (R191): A member of an mma.co rectangle receives the A rows of a step from its row leader. -/
  | cooperativeRowArrival (k : Nat)
  /-- LONG_LATENCY_COMPLETE (R90): A pending instruction completes, merges its flags and releases its window. -/
  | longLatencyComplete (core : Nat) (unit : Nat)
  /-- send (R215): Queues a message of register words to a core's handler or queue. -/
  | send (la : BitVec 4) (w : BitVec 4) (ra : BitVec 4) (rb : BitVec 4) (rc : BitVec 4)
  /-- sendl (R215): Queues a message of scratchpad bytes. -/
  | sendl (la : BitVec 4) (rd : BitVec 4) (ra : BitVec 4) (rb : BitVec 4) (rc : BitVec 4)
  /-- reply (R216): Queues a held reply to the handler's source on the reply network. -/
  | reply (la : BitVec 4) (w : BitVec 4) (rb : BitVec 4) (rc : BitVec 4)
  /-- hret (R219): Ends a handler, releasing held sends and freeing its slot and context. -/
  | hret
  /-- mpoll (R221): Takes the head message of a receive queue into scratchpad. -/
  | mpoll (la : BitVec 4) (rd : BitVec 4) (ra : BitVec 4) (q : BitVec 4)
  /-- rsend (R217): Sends a mergeable reduction packet. -/
  | rsend (la : BitVec 4) (det : BitVec 1) (op : BitVec 2) (ra : BitVec 4) (rb : BitVec 4) (rc : BitVec 4)
  /-- SEND_QUEUE_ACCEPT (R214): The network accepts a message's last flit and its send-queue entry leaves. -/
  | sendQueueAccept (core : Nat)
  /-- MESSAGE_DELIVERY (R213): A program message is written whole into a ring slot of a receive queue in sequence order. -/
  | messageDelivery (k : Nat)
  /-- HANDLER_START (R218): A core starts a handler for the head message of a queue when a context is free. -/
  | handlerStart (core : Nat) (q : Nat) (ctx : Nat)
  /-- REDUCTION_PACKET_MERGE (R393): An arriving reduction packet merges into a matching waiting packet in a router queue. -/
  | reductionPacketMerge (j : Nat) (k : Nat)
  /-- bar.init (R227): Initialises a barrier's target and clears its state. -/
  | barInit (la : BitVec 4) (ra : BitVec 4) (n : BitVec 8)
  /-- bar.arr (R228): Releases bound regions and arrives at a local or remote barrier. -/
  | barArr (la : BitVec 4) (rd : BitVec 4) (ra : BitVec 4) (n : BitVec 8)
  /-- bar.exp (R229): Adds expected bytes to a barrier. -/
  | barExp (la : BitVec 4) (ra : BitVec 4) (n : BitVec 8)
  /-- bar.wait (R230): Waits for a barrier phase and acquires its bound regions. -/
  | barWait (ra : BitVec 4) (n : BitVec 8)
  /-- bar.test (R231): Reads a barrier's state. -/
  | barTest (la : BitVec 4) (rd : BitVec 4) (n : BitVec 8)
  /-- bar.flags (R231): Reads a barrier's merged flags. -/
  | barFlags (la : BitVec 4) (rd : BitVec 4) (n : BitVec 8)
  /-- REMOTE_BARRIER_ARRIVAL (R228): A remote arrival reaches a barrier's core and is counted, held or lost. -/
  | remoteBarrierArrival (k : Nat)
  /-- ec.set (R233): Writes an event counter. -/
  | ecSet (la : BitVec 4) (ra : BitVec 4) (n : BitVec 8)
  /-- ec.inc (R233): Adds to an event counter. -/
  | ecInc (la : BitVec 4) (ra : BitVec 4) (n : BitVec 8)
  /-- ec.arm (R234): Arms an operation on an event counter threshold. -/
  | ecArm (la : BitVec 4) (rd : BitVec 4) (ra : BitVec 4) (n : BitVec 8)
  /-- ec.rd (R233): Reads an event counter. -/
  | ecRd (la : BitVec 4) (rd : BitVec 4) (n : BitVec 8)
  /-- sem.post (R232): Adds to a spire semaphore after earlier scratchpad writes are performed. -/
  | semPost (la : BitVec 4) (ra : BitVec 4) (n : BitVec 8)
  /-- sem.take (R232): Waits until a semaphore suffices and subtracts from it. -/
  | semTake (la : BitVec 4) (ra : BitVec 4) (n : BitVec 8)
  /-- fence (R236): Waits until earlier accesses are performed within a scope and reports kept failures. -/
  | fence (n : BitVec 8)
  /-- atom (R223): Sends an atomic to the home of its address without a returned value. -/
  | atom (la : BitVec 4) (rd : BitVec 4) (ra : BitVec 4) (rb : BitVec 4) (op : BitVec 4)
  /-- atom.ret (R223): Sends an atomic and waits for the old value. -/
  | atomRet (la : BitVec 4) (rd : BitVec 4) (ra : BitVec 4) (rb : BitVec 4) (op : BitVec 4)
  /-- ATOMIC_APPLY (R223): A home applies an atomic request indivisibly, or answers from its reply cache, and replies. -/
  | atomicApply (k : Nat)
  /-- ATOMIC_REPLY (R223): An atomic reply reaches the requester, completing atom.ret and sending an acknowledgement. -/
  | atomicReply (k : Nat)
  /-- REPLY_ACK (R224): A requester's acknowledgement removes the reply-cache entry at the home. -/
  | replyAck (k : Nat)
  /-- REPLY_TIMEOUT (R224): A reply missing after 2^20 cycles makes the requester re-send the request. -/
  | replyTimeout (core : Nat) (tag : Nat)
  /-- acq (R239): Requests a lock and waits for its grant. -/
  | acq (rd : BitVec 4) (ra : BitVec 4)
  /-- rel (R240): Waits for bound writes and sends a lock release with its ticket. -/
  | rel (ra : BitVec 4) (rb : BitVec 4)
  /-- LOCK_REQUEST (R239): A home grants a free lock with a ticket or queues the request. -/
  | lockRequest (k : Nat)
  /-- LOCK_RELEASE (R240): A home checks a release ticket and grants the oldest queued request or frees the lock. -/
  | lockRelease (k : Nat)
  /-- LOCK_GRANT (R239): A grant reaches the requester, writes the ticket and completes acq. -/
  | lockGrant (k : Nat)
  /-- LOCK_RELEASE_ACK (R240): The home's acknowledgement completes rel or makes it trap with SYNC_STATE. -/
  | lockReleaseAck (k : Nat)
  /-- bind (R238): Adds a region bound to a synchronisation object to the bind table. -/
  | bind (la : BitVec 4) (ra : BitVec 4) (rb : BitVec 4) (rc : BitVec 4)
  /-- unbind (R238): Removes a bind-table entry. -/
  | unbind (la : BitVec 4) (ra : BitVec 4)
  /-- copy (R242): Checks and hands a copy to the bulk copy engine. -/
  | copy (la : BitVec 4) (rd : BitVec 4) (ra : BitVec 4) (rb : BitVec 4) (rc : BitVec 4)
  /-- COPY_PERFORM (R243): The engine performs a copy in acceptance order, applying its object effect or failing. -/
  | copyPerform (core : Nat)
  /-- coll.cfg (R246): Registers a collective descriptor with the tower and returns a handle. -/
  | collCfg (la : BitVec 4) (rd : BitVec 4) (ra : BitVec 4) (rb : BitVec 4)
  /-- coll.rdy (R247): Sets the ready flag of a collective tile. -/
  | collRdy (la : BitVec 4) (ra : BitVec 4) (rb : BitVec 4)
  /-- strm.open (R248): Opens a stream port claiming a route to a destination. -/
  | strmOpen (la : BitVec 4) (ra : BitVec 4)
  /-- strm.close (R249): Queues the closing flit of a stream port. -/
  | strmClose (la : BitVec 4) (ra : BitVec 4)
  /-- itreq (R256): Requests a tile with dflt itinerary values and waits for the saddle's answer. -/
  | itreq (la : BitVec 4) (ra : BitVec 4) (slot : BitVec 4)
  /-- itreq.x (R257): Requests a tile with the record's own values and an optional shape. -/
  | itreqX (la : BitVec 4) (ra : BitVec 4) (rb : BitVec 4) (slot : BitVec 4)
  /-- ithold (R260): Waits for and claims a tile in a slot. -/
  | ithold (la : BitVec 4) (rd : BitVec 4) (ra : BitVec 4) (slot : BitVec 4)
  /-- itrel (R261): Releases a held tile onward, lands it, or frees it. -/
  | itrel (la : BitVec 4) (slot : BitVec 4)
  /-- itstat (R264): Reads a tile slot's state. -/
  | itstat (la : BitVec 4) (rd : BitVec 4) (slot : BitVec 4)
  /-- itland (R263): Hands a copy of a held tile to the engine for writing back. -/
  | itland (la : BitVec 4) (ra : BitVec 4) (slot : BitVec 4)
  /-- bdeal (R269): Deals blocks from saddle memory into successive cores' scratchpads. -/
  | bdeal (la : BitVec 4) (rd : BitVec 4) (ra : BitVec 4) (rb : BitVec 4)
  /-- bdpat (R268): Writes the saddle's distributor pattern register. -/
  | bdpat (la : BitVec 4) (ra : BitVec 4) (rb : BitVec 4)
  /-- COMBINING_NODE_ARRIVAL (R306): A mergeable request reaches the valley's combining node and is held or joins an identical one. -/
  | combiningNodeArrival (core : Nat) (k : Nat)
  /-- COMBINING_HOLD_EXPIRY (R306): After 64 mesh cycles the node forwards one request standing for all merged ones. -/
  | combiningHoldExpiry (valley : Nat)
  /-- TILE_REQUEST (R258): A saddle takes a tile request, refuses a reissue or reads the tile once and sends it to stop 0. -/
  | tileRequest (k : Nat)
  /-- TILE_ANSWER (R256): The saddle's acceptance or refusal reaches the requester and completes or traps itreq. -/
  | tileAnswer (k : Nat)
  /-- TILE_FILL_START (R265): The first byte of a tile reaches a free slot, which becomes filling. -/
  | tileFillStart (k : Nat)
  /-- TILE_ARRIVED (R265): The last byte of a tile is written; the slot is arrived, its timer loaded and the post made. -/
  | tileArrived (k : Nat)
  /-- HOLD_TIMER_EXPIRY (R265): A slot's hold timer reaches 0 and the stop's policy applies. -/
  | holdTimerExpiry (spire : Nat) (slot : Nat)
  /-- SLOT_FORWARD_DONE (R265): The last byte of a forwarded tile leaves and the slot becomes free. -/
  | slotForwardDone (spire : Nat) (slot : Nat)
  /-- LANDING_PERFORM (R262): The engine writes a released tile back to its base. -/
  | landingPerform (core : Nat)
  /-- ITLAND_PERFORM (R263): The engine writes an itland copy of a tile. -/
  | itlandPerform (core : Nat)
  /-- DRAIN_PERFORM (R201): The engine performs a drain's element writes or adds in order. -/
  | drainPerform (core : Nat)
  /-- DEAL_PERFORM (R309): The saddle's engine delivers deal blocks in ascending order with their object effects. -/
  | dealPerform (core : Nat)
  /-- FORWARDING_REDIRECT (R311): A forwarding entry redirects a flit for a moved core toward its new place. -/
  | forwardingRedirect (k : Nat)
  /-- spawn (R271): Pushes a task record on the core's own deque. -/
  | spawn (la : BitVec 4) (ra : BitVec 4) (x : BitVec 1)
  /-- spawn.r (R272): Pushes a task record to another core's deque through a proxy shadow. -/
  | spawnR (la : BitVec 4) (ra : BitVec 4) (rb : BitVec 4) (x : BitVec 1)
  /-- yield (R273): Gives up the issue slot and restarts the watchdog count. -/
  | yield
  /-- halt (R274): Ends the strand, optionally pushing a successor and retaining banks. -/
  | halt (ra : BitVec 4) (rt : BitVec 1)
  /-- trig (R275): Waits for the strand's writes at domain scope and marks it triggered. -/
  | trig (la : BitVec 4)
  /-- await.ev (R276): Waits until an event counter reaches a threshold. -/
  | awaitEv (ra : BitVec 4) (rb : BitVec 4)
  /-- cmp (R277): Binds idle compute cores of the valley into a composed core. -/
  | cmp (ra : BitVec 4)
  /-- dcmp (R279): Hands a composed core back to a single strand. -/
  | dcmp
  /-- PROXY_BATCH_FORWARD (R272): A proxy shadow forwards a batch of records to the true deque when 8 wait or 64 cycles pass. -/
  | proxyBatchForward (plain : Nat) (target : Nat)
  /-- TASK_START (R333): A core starts the chosen task record from its deque in a free context. -/
  | taskStart (core : Nat) (ctx : Nat)
  /-- STEAL_IDLE_DETECT (R337): A core idle for 16 cycles reads the work summary and sends a steal request. -/
  | stealIdleDetect (core : Nat)
  /-- STEAL_REQUEST (R338): A victim takes a steal request and sends a qualifying record or a refusal. -/
  | stealRequest (k : Nat)
  /-- STEAL_RECORD_ARRIVAL (R337): A stolen record reaches the thief, which starts or pushes it. -/
  | stealRecordArrival (k : Nat) (ctx : Nat)
  /-- STEAL_REFUSAL_ARRIVAL (R337): A refusal reaches the thief, which tries again or backs off. -/
  | stealRefusalArrival (k : Nat)
  /-- STEAL_BACKOFF_EXPIRY (R337): The 256-cycle backoff timer expires and the thief reads the summary again. -/
  | stealBackoffExpiry (core : Nat)
  /-- PRIORITY_AGING (R340): A strand ready for 65,536 cycles without issuing drops its effective class by one. -/
  | priorityAging (core : Nat) (ctx : Nat)
  /-- WATCHDOG (R342): A strand's watchdog count reaches 2^wdog.lim and it takes WATCHDOG. -/
  | watchdog (core : Nat) (cycles : Nat)
  /-- STRAND_PARK (R341): While a handler waits for a context, the core spills the longest-waiting parkable strand. -/
  | strandPark (core : Nat)
  /-- STRAND_RESTORE (R341): A parked strand whose condition holds is restored into a free context. -/
  | strandRestore (core : Nat) (ctx : Nat)
  /-- TRAP_ENTRY (R349): A trap is delivered in program order, saving trap state and entering tvec. -/
  | trapEntry (core : Nat) (ctx : Nat)
  /-- LAUNCH_DONE (R332): A launch with no live strand or record and all writes performed is done and releases its resources. -/
  | launchDone (lix : Nat)
  /-- LAUNCH_PLACE (R329): The home front places a launch whose predecessors allow it and pushes its task records. -/
  | launchPlace (lix : Nat)
  /-- POSTED_STORE_PERFORM (R318): A saddle performs a request taken whole, such as a posted store or remote load, in sequence order. -/
  | postedStorePerform (k : Nat)
  /-- WRITE_ACK_ARRIVAL (R225): A write acknowledgement or error response reaches the issuing core, which keeps the first failure. -/
  | writeAckArrival (k : Nat)
  /-- LINE_SPARE (R421): A line whose corrected count reaches 16 is moved to a spare row during a bank hold. -/
  | lineSpare (line : Nat)
  /-- PAGE_WALK (R302): A walker reads the page table levels and yields a translation or a failure. -/
  | pageWalk (core : Nat) (ctx : Nat) (va : Nat)
  /-- MIGRATION_FREEZE (R358): A core to be moved stops starting work and brings its strands to a resumable state. -/
  | migrationFreeze (core : Nat)
  /-- MIGRATION_SWITCH (R360): After the last item, core numbers are swapped, a forwarding entry installed and the ports released. -/
  | migrationSwitch (core : Nat) (target : Nat)
  /-- FORWARDING_ENTRY_FREE (R360): A forwarding entry unused for 2^16 cycles after map confirmation is freed. -/
  | forwardingEntryFree (place : Nat)
  /-- SPIRE_REPLACE (R363): The Henud controller moves a worn spire's cores to a spare spire. -/
  | spireReplace (spire : Nat)
  /-- CORE_LOST (R364): A core leaving service without a move loses its strands and is reported. -/
  | coreLost (core : Nat)
  /-- COLL_TILE_FIRE (R401): A collective tile whose peers are all ready runs chunk by chunk and raises the counters. -/
  | collTileFire (lix : Nat) (group : Nat) (tile : Nat) (order : List Nat)
  /-- COLL_CONTRIBUTION (R402): A contribution chunk reaches the engine and is combined or discarded as a duplicate. -/
  | collContribution (lix : Nat) (group : Nat) (tile : Nat) (rank : Nat) (run : Nat) (chunk : Nat)
  /-- DELEUS_FLIT_RECEIVE (R395): A Deleus flit is received, checked by CRC and sequence, and accepted, dropped or retried. -/
  | deleusFlitReceive (link : Nat) (sq : Nat) (good : Bool)
  /-- LANE_FAILURE (R395): A failed Deleus or UCIe lane is replaced by a spare, or the link goes down. -/
  | laneFailure (link : Nat)
  /-- QUERY (R375): A holder scores a query against a block and sends a PARTIAL. -/
  | query (core : Nat) (desc : Nat)
  /-- PARTIAL (R373): A partial softmax state reaches the merger. -/
  | partialMsg (core : Nat)
  /-- APPEND (R375): A home appends a token row to a block and acknowledges it. -/
  | append (core : Nat) (desc : Nat)
  /-- ACK (R374): An answer with a status reaches the origin. -/
  | ack (core : Nat) (desc : Nat)
  /-- SHARE (R375): A home shares a block whole by alias or copies a prefix to a new sequence. -/
  | share (core : Nat) (desc : Nat)
  /-- RELEASE (R375): A home drops a reference and deletes the entry at zero. -/
  | release (core : Nat) (desc : Nat)
  /-- REHOME (R378): An old home marks a block moving and sends INSTALL to the new home. -/
  | rehome (core : Nat) (desc : Nat)
  /-- INSTALL (R378): A home installs a copied block or alias entry and answers. -/
  | install (core : Nat) (desc : Nat)
  /-- INSTALLED (R378): The old home turns the entry into a forwarding stub and sends on pending messages. -/
  | installed (core : Nat) (desc : Nat)
  /-- ALIAS (R375): A home creates an alias entry for a block shared whole. -/
  | aliasMsg (core : Nat) (desc : Nat)
  /-- QUEUE_LAUNCH (R413): A taken queue entry of kind launch submits a launch to its home front. -/
  | queueLaunch (q : Nat)
  /-- QUEUE_INVALIDATE (R305): A taken queue entry of kind invalidate drops matching translations across the domain. -/
  | queueInvalidate (q : Nat)
  /-- QUEUE_MOVE (R344): A taken queue entry of kind move requests live migration of a core. -/
  | queueMove (q : Nat) (target : Nat)
  /-- QUEUE_ENTRY_TAKE (R411): An active queue takes its next entry in sequence, or stops with err. -/
  | queueEntryTake (q : Nat)
  /-- QUEUE_TAIL_WRITE (R411): The host writes a queue's tail sequence number. -/
  | queueTailWrite (q : Nat) (v : BitVec 32)
  /-- QUEUE_CTL_WRITE (R410): The host writes a queue's class and enable bit. -/
  | queueCtlWrite (q : Nat) (v : BitVec 64)
  /-- QUEUE_ERR_CLEAR (R411): Writing 1 to cons.err clears it and resumes taking. -/
  | queueErrClear (q : Nat)
  /-- COMPLETION_HEAD_WRITE (R414): The host writes chead, freeing completion ring room. -/
  | completionHeadWrite (q : Nat) (v : BitVec 32)
  /-- HOST_REGISTER_WRITE (R410): A host write to a queue register with no behaviour of its own, discarded with err while enabled. -/
  | hostRegisterWrite (q : Nat) (off : Nat) (v : BitVec 64)
  /-- QUEUE_SWITCH_IN (R415): A waiting queue receives an active place and its shadow writes take effect. -/
  | queueSwitchIn (q : Nat)
  /-- QUEUE_SWITCH_OUT (R415): An active queue idle for 10 µs gives up its place while another waits. -/
  | queueSwitchOut (q : Nat)
  /-- HOST_BAR2_WRITE (R409): A host write through BAR 2 is performed by the channel saddle of its address. -/
  | hostBar2Write (addr : Nat) (v : BitVec 64)
  /-- HOST_WINDOW_WRITE_POST (R324): Tower 0 posts a strand's host-window write on the host link. -/
  | hostWindowWritePost (k : Nat)
  /-- IDENT (R418): Mailbox command returning the device identity certificate. -/
  | ident (tag : BitVec 32)
  /-- ATTEST (R418): Mailbox command returning a signed attestation over a nonce. -/
  | attest (tag : BitVec 32) (nonce : BitVec 256)
  /-- READ_ERROR_LOGS (R419): Mailbox command reading and optionally clearing the error logs. -/
  | readErrorLogs (tag : BitVec 32) (clear : Bool)
  /-- WRITE_ROUTE_TABLE (R419): Mailbox command writing a route table, refusing one that breaks R387. -/
  | writeRouteTable (tag : BitVec 32) (routes : List (Nat × Nat × Nat × Nat))
  /-- START_SYSTEM_STRAND (R419): Mailbox command starting a system strand on a named core at a named pc. -/
  | startSystemStrand (tag : BitVec 32) (core : Nat) (pc : BitVec 48)
  /-- READ_PENDING_SEQ (R412): Mailbox command returning the seq of a queue's taken entries without records. -/
  | readPendingSeq (tag : BitVec 32) (q : Nat)
  /-- ISLAND_STATES (R420): Mailbox command reading or setting island states. -/
  | islandStates (tag : BitVec 32) (set : Bool) (island : Nat) (state : Nat)
  /-- READ_SPARE_MAP (R419): Mailbox command reading the spare map and corrected-error counts. -/
  | readSpareMap (tag : BitVec 32)
  /-- POWER_THROTTLE (R420): The controller lowers island frequency steps to hold power and temperature limits. -/
  | powerThrottle (island : Nat) (step : Nat)
  /-- POWER_ON_BOOT (R417): At power-on the ROM verifies and loads firmware, then brings the device up. -/
  | powerOnBoot (version : Nat) (header : BitVec 2048) (digestOk : Bool)
  /-- CHANNEL_SADDLE_REPLACE (R297): The spare channel saddle of a plain takes over a worn channel saddle's number, memory and port, and index 48 then names no core. -/
  | channelSaddleReplace (plain : Nat) (channel : Nat)
  /-- TAKE_OUT_OF_SERVICE (R266): The Henud controller takes a core out of service, so that every later itinerary stop at it fails. -/
  | takeOutOfService (core : Nat)
  /-- ROW_REPLAY_REQUEST (R192): Member (i, 0) of an mma.co rectangle takes a replaying member's request and serves the A rows of the named steps from its scratchpad. -/
  | rowReplayRequest (k : Nat)
  /-- LINK_LEVEL_RETRY (R395): A Deleus sender resends flits from its replay buffer after a failed CRC or a missing acknowledgement. -/
  | linkLevelRetry (link : Nat) (sq : Nat)
  deriving DecidableEq, Repr

end Sys2Proof
end

