-- ==== Sys2Proof/WellFormed.lean ====
section
/-! DEFINITION. Which instruction terms the decoder can give, and which steps the schedule may name: field values in range
(R78, R84, R87), and agents that exist (R2, R37). -/

namespace Sys2Proof
set_option linter.unusedVariables false

/-- A pointer or predicate field names a0 to a7 or q0 to q7 (R78). -/
def ptrOk (p : BitVec 4) : Bool := decide (p.toNat < 8)

/-- pm is 0 or names a predicate (R78). -/
def pmOk (p : BitVec 4) : Bool := p == 0 || decide (8 ≤ p.toNat)

/-- pm names a predicate (R149). -/
def pmReq (p : BitVec 4) : Bool := decide (8 ≤ p.toNat)

/-- ra names the first of four record registers (R270). -/
def recOk (a : BitVec 4) : Bool := decide (1 ≤ a.toNat) && decide (a.toNat ≤ 12)

/-- A core number names a core or saddle (R37). -/
def coreOk (n : Nat) : Bool :=
  decide (n < 2 ^ 20) &&
    (if n / 2048 % 2 = 0 then decide (n % 2 = 0) else decide (n % 32 = 0) && decide (n / 32 % 64 ≤ 48))

/-- A core number names a stage or compute core. -/
def spireCoreOk (n : Nat) : Bool := coreOk n && decide (n / 2048 % 2 = 0)

/-- A core number names a compute core. -/
def computeOk (n : Nat) : Bool := spireCoreOk n && decide (n / 2 % 2 = 1)

/-- A spire number (core number / 4). -/
def spireOk (n : Nat) : Bool := decide (n < 2 ^ 18) && decide (n / 512 % 2 = 0)

/-- A valley number (core number / 64). -/
def valleyOk (n : Nat) : Bool := decide (n < 2 ^ 14) && decide (n / 32 % 2 = 0)

/-- A context of a core (R2). -/
def ctxOk (core ctx : Nat) : Bool := coreOk core && decide (ctx < (if core / 2048 % 2 = 1 then 64 else 8))

/-- A term the decoder can give, or a step the schedule may name. DESIGN CHOICE (log 61): the limits that R173's pseudocode sets to the
registers of vhamf are taken at decode with those of R88, before sw.pin is set and before LOOKAHEAD_CONFLICT. -/
def Instr.wf : Instr → Bool
  | .add _ _ _ => true
  | .sub _ _ _ => true
  | .and _ _ _ => true
  | .or _ _ _ => true
  | .xor _ _ _ => true
  | .andn _ _ _ => true
  | .orn _ _ _ => true
  | .sll _ _ _ => true
  | .srl _ _ _ => true
  | .sra _ _ _ => true
  | .rol _ _ _ => true
  | .ror _ _ _ => true
  | .slli _ _ _ => true
  | .srli _ _ _ => true
  | .srai _ _ _ => true
  | .rori _ _ _ => true
  | .slt _ _ _ => true
  | .sltu _ _ _ => true
  | .seq _ _ _ => true
  | .min _ _ _ => true
  | .max _ _ _ => true
  | .minu _ _ _ => true
  | .maxu _ _ _ => true
  | .clz _ _ => true
  | .ctz _ _ => true
  | .pop _ _ => true
  | .sadd _ _ _ _ => true
  | .bfx _ _ pos lm1 => decide (pos.toNat + lm1.toNat + 1 ≤ 64)
  | .bfxu _ _ pos lm1 => decide (pos.toNat + lm1.toNat + 1 ≤ 64)
  | .bfi _ _ pos lm1 => decide (pos.toNat + lm1.toNat + 1 ≤ 64)
  | .addi _ _ _ => true
  | .andi _ _ _ => true
  | .ori _ _ _ => true
  | .xori _ _ _ => true
  | .slti _ _ _ => true
  | .sltiu _ _ _ => true
  | .lui _ _ => true
  | .apc _ _ => true
  | .beq _ _ _ => true
  | .bne _ _ _ => true
  | .blt _ _ _ => true
  | .bge _ _ _ => true
  | .bltu _ _ _ => true
  | .bgeu _ _ _ => true
  | .dbnz ra _ => ra != 0
  | .jal _ _ => true
  | .jalr _ _ _ => true
  | .mul _ _ _ _ => true
  | .mulh _ _ _ _ => true
  | .mulhu _ _ _ _ => true
  | .mulhsu _ _ _ _ => true
  | .div _ _ _ _ => true
  | .divu _ _ _ _ => true
  | .rem _ _ _ _ => true
  | .remu _ _ _ _ => true
  | .madd _ _ _ _ _ => true
  | .fadd _ _ _ _ _ => true
  | .fsub _ _ _ _ _ => true
  | .fmul _ _ _ _ _ => true
  | .fdiv _ _ _ _ _ => true
  | .fsqrt _ _ _ _ => true
  | .fmin _ _ _ _ _ => true
  | .fmax _ _ _ _ _ => true
  | .fma _ _ _ _ _ _ => true
  | .feq _ _ _ _ _ => true
  | .flt _ _ _ _ _ => true
  | .fle _ _ _ _ _ => true
  | .fcvti _ _ _ _ _ _ => true
  | .fcvtf _ _ _ _ _ _ => true
  | .fcvt _ _ _ _ _ => true
  | .fsgnj _ _ _ _ sj _ => sj != 3
  | .fclass _ _ _ _ => true
  | .ldb _ _ _ _ => true
  | .ldbu _ _ _ _ => true
  | .ldh _ _ _ _ => true
  | .ldhu _ _ _ _ => true
  | .ldw _ _ _ _ => true
  | .ldwu _ _ _ _ => true
  | .ldd _ _ _ _ => true
  | .stb _ _ _ _ => true
  | .sth _ _ _ _ => true
  | .stw _ _ _ _ => true
  | .std _ _ _ _ => true
  | .migrationArrival _ => true
  | .nop => true
  | .crr _ _ => true
  | .crw _ _ _ => true
  | .crs _ _ _ => true
  | .crc _ _ _ => true
  | .svc _ => true
  | .trap _ => true
  | .tret => true
  | .brk _ => true
  | .await => true
  | .pin => true
  | .unpin => true
  | .awaitWake core ctx => ctxOk core ctx
  | .ptrset _ vd _ _ => ptrOk vd
  | .ptrdim _ vd _ => ptrOk vd
  | .ptrget _ _ vs1 vs2 => ptrOk vs1 && decide (vs2.toNat ≤ 3)
  | .vadd _ vd vs1 vs2 pm => ptrOk vd && ptrOk vs1 && ptrOk vs2 && pmOk pm
  | .vsub _ vd vs1 vs2 pm => ptrOk vd && ptrOk vs1 && ptrOk vs2 && pmOk pm
  | .vmul _ vd vs1 vs2 pm => ptrOk vd && ptrOk vs1 && ptrOk vs2 && pmOk pm
  | .vmin _ vd vs1 vs2 pm => ptrOk vd && ptrOk vs1 && ptrOk vs2 && pmOk pm
  | .vmax _ vd vs1 vs2 pm => ptrOk vd && ptrOk vs1 && ptrOk vs2 && pmOk pm
  | .vabs _ vd vs1 pm => ptrOk vd && ptrOk vs1 && pmOk pm
  | .vneg _ vd vs1 pm => ptrOk vd && ptrOk vs1 && pmOk pm
  | .vand _ vd vs1 vs2 pm => ptrOk vd && ptrOk vs1 && ptrOk vs2 && pmOk pm
  | .vor _ vd vs1 vs2 pm => ptrOk vd && ptrOk vs1 && ptrOk vs2 && pmOk pm
  | .vxor _ vd vs1 vs2 pm => ptrOk vd && ptrOk vs1 && ptrOk vs2 && pmOk pm
  | .vshl _ vd vs1 vs2 pm => ptrOk vd && ptrOk vs1 && ptrOk vs2 && pmOk pm
  | .vshr _ vd vs1 vs2 pm => ptrOk vd && ptrOk vs1 && ptrOk vs2 && pmOk pm
  | .vfma _ vd vs1 vs2 pm => ptrOk vd && ptrOk vs1 && ptrOk vs2 && pmOk pm
  | .vsel _ vd vs1 vs2 pm => ptrOk vd && ptrOk vs1 && ptrOk vs2 && pmReq pm
  | .vcmpEq _ vd vs1 vs2 pm => ptrOk vd && ptrOk vs1 && ptrOk vs2 && pmOk pm
  | .vcmpNe _ vd vs1 vs2 pm => ptrOk vd && ptrOk vs1 && ptrOk vs2 && pmOk pm
  | .vcmpLt _ vd vs1 vs2 pm => ptrOk vd && ptrOk vs1 && ptrOk vs2 && pmOk pm
  | .vcmpLe _ vd vs1 vs2 pm => ptrOk vd && ptrOk vs1 && ptrOk vs2 && pmOk pm
  | .vperm _ vd vs1 vs2 pm => ptrOk vd && ptrOk vs1 && ptrOk vs2 && pmOk pm
  | .vbcast _ vd _ pm => ptrOk vd && pmOk pm
  | .vcvt _ vd vs1 vs2 pm => ptrOk vd && ptrOk vs1 && pmOk pm && decide (vs2.toNat ≤ 12) && vs2 != 9
  | .vcvtS _ vd vs1 _ _ pm => ptrOk vd && ptrOk vs1 && pmOk pm
  | .vpack _ vd vs1 => ptrOk vd && ptrOk vs1
  | .vunpack _ vd vs1 => ptrOk vd && ptrOk vs1
  | .vdot _ vs1 vs2 pm => ptrOk vs1 && ptrOk vs2 && pmOk pm
  | .vdotS _ _ vs1 vs2 pm => ptrOk vs1 && ptrOk vs2 && pmOk pm
  | .vsum _ vs1 pm => ptrOk vs1 && pmOk pm
  | .vredMax _ vs1 pm => ptrOk vs1 && pmOk pm
  | .vredMin _ vs1 pm => ptrOk vs1 && pmOk pm
  | .vaccClr _ _ => true
  | .vaccSt _ vd pm => ptrOk vd && pmOk pm
  | .vaccRd _ _ vs1 vs2 => decide (vs2.toNat ≤ 3) && (vs2 == 0 || vs1 == 0)
  | .vexp2 _ vd vs1 pm => ptrOk vd && ptrOk vs1 && pmOk pm
  | .vrcp _ vd vs1 pm => ptrOk vd && ptrOk vs1 && pmOk pm
  | .vrsqrt _ vd vs1 pm => ptrOk vd && ptrOk vs1 && pmOk pm
  | .vgath _ vd _ vs2 pm => ptrOk vd && ptrOk vs2 && pmOk pm
  | .vscat _ _ vs1 vs2 pm => ptrOk vs1 && ptrOk vs2 && pmOk pm
  | .vcprs _ vd vs1 _ pm => ptrOk vd && ptrOk vs1 && pmReq pm
  | .vhamf _ vd vs1 vs2 pm => ptrOk vs1 && pmOk pm && vs2 != 0 && vs2 != 15 && vd != 0 && vd != vs2 && vd != vs2 + 1
  | .tcfg _ => true
  | .tcfgD _ => true
  | .mzero _ _ => true
  | .mwait => true
  | .mexc _ _ _ => true
  | .mscale _ _ p ga row => (if row == 1 then ptrOk p && ga == 0 else p == 0)
  | .mma _ _ p ga gb _ _ _ scl => ptrOk p && (scl == 1 || (ga == 0 && gb == 0))
  | .mmaCo _ _ p ga gb _ _ _ scl => ptrOk p && (scl == 1 || (ga == 0 && gb == 0))
  | .mmi _ _ p _ _ _ _ _ => ptrOk p
  | .mmt _ _ p _ _ _ _ _ => ptrOk p
  | .msig _ _ p _ => ptrOk p
  | .mldb _ p _ dst => ptrOk p && dst != 2 && dst != 3
  | .mrd _ _ p f => ptrOk p && decide (f.toNat < 13)
  | .mwr _ _ p f => ptrOk p && decide (f.toNat < 13)
  | .mdrain _ _ _ _ => true
  | .mdrainAdd _ _ _ _ => true
  | .mmov _ _ _ => true
  | .mrowRd _ _ p _ => ptrOk p
  | .mrowWr _ _ p _ => ptrOk p
  | .msmx _ _ p _ _ _ mk => (if mk == 1 then ptrOk p else p == 0)
  | .mmrg _ _ _ => true
  | .mfin _ _ => true
  | .macroStepCommit core => computeOk core
  | .cooperativeRowArrival _ => true
  | .longLatencyComplete core unit => coreOk core && decide (1 ≤ unit) && decide (unit ≤ 5)
  | .send _ w _ _ rc => decide (w.toNat ≤ 8) && decide (rc.toNat + w.toNat ≤ 16)
  | .sendl _ _ _ _ _ => true
  | .reply _ w _ rc => decide (w.toNat ≤ 8) && decide (rc.toNat + w.toNat ≤ 16)
  | .hret => true
  | .mpoll _ _ _ q => decide (q.toNat ≤ 1)
  | .rsend _ _ op _ _ rc => op != 3 && rc != 15
  | .sendQueueAccept core => coreOk core
  | .messageDelivery _ => true
  | .handlerStart core q ctx => spireCoreOk core && decide (q < 2) && ctxOk core ctx
  | .reductionPacketMerge _ _ => true
  | .barInit _ _ _ => true
  | .barArr _ _ _ _ => true
  | .barExp _ _ _ => true
  | .barWait _ _ => true
  | .barTest _ _ _ => true
  | .barFlags _ _ _ => true
  | .remoteBarrierArrival _ => true
  | .ecSet _ _ n => decide (n.toNat < 64)
  | .ecInc _ _ n => decide (n.toNat < 64)
  | .ecArm _ _ _ n => decide (n.toNat < 64)
  | .ecRd _ _ n => decide (n.toNat < 64)
  | .semPost _ _ n => decide (n.toNat < 16)
  | .semTake _ _ n => decide (n.toNat < 16)
  | .fence n => decide (n.toNat ≤ 5) || n == 255
  | .atom _ rd _ _ op => decide (op.toNat ≤ 8) && (op == 7 || rd == 0)
  | .atomRet _ _ _ _ op => decide (op.toNat ≤ 8)
  | .atomicApply _ => true
  | .atomicReply _ => true
  | .replyAck _ => true
  | .replyTimeout core _ => coreOk core
  | .acq _ _ => true
  | .rel _ _ => true
  | .lockRequest _ => true
  | .lockRelease _ => true
  | .lockGrant _ => true
  | .lockReleaseAck _ => true
  | .bind _ _ _ _ => true
  | .unbind _ _ => true
  | .copy _ _ _ _ _ => true
  | .copyPerform core => coreOk core
  | .collCfg _ _ _ _ => true
  | .collRdy _ _ _ => true
  | .strmOpen _ _ => true
  | .strmClose _ _ => true
  | .itreq _ _ _ => true
  | .itreqX _ _ _ _ => true
  | .ithold _ _ _ _ => true
  | .itrel _ _ => true
  | .itstat _ _ _ => true
  | .itland _ _ _ => true
  | .bdeal _ _ _ _ => true
  | .bdpat _ _ _ => true
  | .combiningNodeArrival core _ => coreOk core
  | .combiningHoldExpiry valley => valleyOk valley
  | .tileRequest _ => true
  | .tileAnswer _ => true
  | .tileFillStart _ => true
  | .tileArrived _ => true
  | .holdTimerExpiry spire slot => spireOk spire && decide (slot < 16)
  | .slotForwardDone spire slot => spireOk spire && decide (slot < 16)
  | .landingPerform core => coreOk core
  | .itlandPerform core => coreOk core
  | .drainPerform core => coreOk core
  | .dealPerform core => coreOk core
  | .forwardingRedirect _ => true
  | .spawn _ ra _ => recOk ra
  | .spawnR _ ra _ _ => recOk ra
  | .yield => true
  | .halt ra rt => (if ra == 0 then rt == 0 else recOk ra)
  | .trig _ => true
  | .awaitEv _ _ => true
  | .cmp _ => true
  | .dcmp => true
  | .proxyBatchForward plain target => decide (plain < 256) && coreOk target
  | .taskStart core ctx => ctxOk core ctx
  | .stealIdleDetect core => coreOk core
  | .stealRequest _ => true
  | .stealRecordArrival _ ctx => decide (ctx < 64)
  | .stealRefusalArrival _ => true
  | .stealBackoffExpiry core => coreOk core
  | .priorityAging core ctx => ctxOk core ctx
  | .watchdog core _ => coreOk core
  | .strandPark core => coreOk core
  | .strandRestore core ctx => ctxOk core ctx
  | .trapEntry core ctx => ctxOk core ctx
  | .launchDone lix => decide (lix < 16384)
  | .launchPlace lix => decide (lix < 16384)
  | .postedStorePerform _ => true
  | .writeAckArrival _ => true
  | .lineSpare line => decide (line % 64 = 0)
  | .pageWalk core ctx va => ctxOk core ctx && decide (va < 2 ^ 48)
  | .migrationFreeze core => coreOk core
  | .migrationSwitch core target => coreOk core && coreOk target
  | .forwardingEntryFree place => coreOk place
  | .spireReplace spire => spireOk spire
  | .coreLost core => coreOk core
  | .collTileFire lix _ _ _ => decide (lix ≤ 16384)
  | .collContribution lix _ _ _ _ _ => decide (lix ≤ 16384)
  | .deleusFlitReceive link sq _ => decide (link < 1024) && decide (sq < 65536)
  | .laneFailure link => decide (link < 65536)
  | .query core desc => spireCoreOk core && decide (desc % 64 = 0) && decide (desc < 2 ^ 20)
  | .partialMsg core => coreOk core
  | .append core desc => spireCoreOk core && decide (desc % 64 = 0) && decide (desc < 2 ^ 20)
  | .ack core desc => spireCoreOk core && decide (desc % 64 = 0) && decide (desc < 2 ^ 20)
  | .share core desc => spireCoreOk core && decide (desc % 64 = 0) && decide (desc < 2 ^ 20)
  | .release core desc => spireCoreOk core && decide (desc % 64 = 0) && decide (desc < 2 ^ 20)
  | .rehome core desc => spireCoreOk core && decide (desc % 64 = 0) && decide (desc < 2 ^ 20)
  | .install core desc => spireCoreOk core && decide (desc % 64 = 0) && decide (desc < 2 ^ 20)
  | .installed core desc => spireCoreOk core && decide (desc % 64 = 0) && decide (desc < 2 ^ 20)
  | .aliasMsg core desc => spireCoreOk core && decide (desc % 64 = 0) && decide (desc < 2 ^ 20)
  | .queueLaunch q => decide (q < 65536)
  | .queueInvalidate q => decide (q < 65536)
  | .queueMove q target => decide (q < 65536) && coreOk target
  | .queueEntryTake q => decide (q < 65536)
  | .queueTailWrite q _ => decide (q < 65536)
  | .queueCtlWrite q _ => decide (q < 65536)
  | .queueErrClear q => decide (q < 65536)
  | .completionHeadWrite q _ => decide (q < 65536)
  | .hostRegisterWrite q off _ => decide (q < 65536) && decide (off % 8 = 0) && (decide (off < 64) || (decide (0x10000 ≤ off) && decide (off < 0x20000)))
  | .queueSwitchIn q => decide (q < 65536)
  | .queueSwitchOut q => decide (q < 65536)
  | .hostBar2Write addr _ => decide (addr / 2 ^ 52 < 64)
  | .hostWindowWritePost _ => true
  | .ident _ => true
  | .attest _ _ => true
  | .readErrorLogs _ _ => true
  | .writeRouteTable _ _ => true
  | .startSystemStrand _ core pc => coreOk core && decide (pc.toNat % 4 = 0)
  | .readPendingSeq _ q => decide (q < 65536)
  | .islandStates _ _ island state => decide (island < 2048) && decide (island % 32 < 28) && decide (state ≤ 8)
  | .readSpareMap _ => true
  | .powerThrottle island step => decide (island < 2048) && decide (island % 32 < 28) && decide (4 ≤ step) && decide (step ≤ 8)
  | .powerOnBoot _ _ _ => true
  | .channelSaddleReplace plain channel => decide (plain < 256) && decide (channel < 16)
  | .takeOutOfService core => coreOk core
  | .rowReplayRequest _ => true
  | .linkLevelRetry link sq => decide (link < 1024) && decide (sq < 65536)

/-- Whether a term is a step of the device, which has no word. -/
def Instr.isEvent : Instr → Bool
  | .add _ _ _ => false
  | .sub _ _ _ => false
  | .and _ _ _ => false
  | .or _ _ _ => false
  | .xor _ _ _ => false
  | .andn _ _ _ => false
  | .orn _ _ _ => false
  | .sll _ _ _ => false
  | .srl _ _ _ => false
  | .sra _ _ _ => false
  | .rol _ _ _ => false
  | .ror _ _ _ => false
  | .slli _ _ _ => false
  | .srli _ _ _ => false
  | .srai _ _ _ => false
  | .rori _ _ _ => false
  | .slt _ _ _ => false
  | .sltu _ _ _ => false
  | .seq _ _ _ => false
  | .min _ _ _ => false
  | .max _ _ _ => false
  | .minu _ _ _ => false
  | .maxu _ _ _ => false
  | .clz _ _ => false
  | .ctz _ _ => false
  | .pop _ _ => false
  | .sadd _ _ _ _ => false
  | .bfx _ _ _ _ => false
  | .bfxu _ _ _ _ => false
  | .bfi _ _ _ _ => false
  | .addi _ _ _ => false
  | .andi _ _ _ => false
  | .ori _ _ _ => false
  | .xori _ _ _ => false
  | .slti _ _ _ => false
  | .sltiu _ _ _ => false
  | .lui _ _ => false
  | .apc _ _ => false
  | .beq _ _ _ => false
  | .bne _ _ _ => false
  | .blt _ _ _ => false
  | .bge _ _ _ => false
  | .bltu _ _ _ => false
  | .bgeu _ _ _ => false
  | .dbnz _ _ => false
  | .jal _ _ => false
  | .jalr _ _ _ => false
  | .mul _ _ _ _ => false
  | .mulh _ _ _ _ => false
  | .mulhu _ _ _ _ => false
  | .mulhsu _ _ _ _ => false
  | .div _ _ _ _ => false
  | .divu _ _ _ _ => false
  | .rem _ _ _ _ => false
  | .remu _ _ _ _ => false
  | .madd _ _ _ _ _ => false
  | .fadd _ _ _ _ _ => false
  | .fsub _ _ _ _ _ => false
  | .fmul _ _ _ _ _ => false
  | .fdiv _ _ _ _ _ => false
  | .fsqrt _ _ _ _ => false
  | .fmin _ _ _ _ _ => false
  | .fmax _ _ _ _ _ => false
  | .fma _ _ _ _ _ _ => false
  | .feq _ _ _ _ _ => false
  | .flt _ _ _ _ _ => false
  | .fle _ _ _ _ _ => false
  | .fcvti _ _ _ _ _ _ => false
  | .fcvtf _ _ _ _ _ _ => false
  | .fcvt _ _ _ _ _ => false
  | .fsgnj _ _ _ _ _ _ => false
  | .fclass _ _ _ _ => false
  | .ldb _ _ _ _ => false
  | .ldbu _ _ _ _ => false
  | .ldh _ _ _ _ => false
  | .ldhu _ _ _ _ => false
  | .ldw _ _ _ _ => false
  | .ldwu _ _ _ _ => false
  | .ldd _ _ _ _ => false
  | .stb _ _ _ _ => false
  | .sth _ _ _ _ => false
  | .stw _ _ _ _ => false
  | .std _ _ _ _ => false
  | .migrationArrival _ => true
  | .nop => false
  | .crr _ _ => false
  | .crw _ _ _ => false
  | .crs _ _ _ => false
  | .crc _ _ _ => false
  | .svc _ => false
  | .trap _ => false
  | .tret => false
  | .brk _ => false
  | .await => false
  | .pin => false
  | .unpin => false
  | .awaitWake _ _ => true
  | .ptrset _ _ _ _ => false
  | .ptrdim _ _ _ => false
  | .ptrget _ _ _ _ => false
  | .vadd _ _ _ _ _ => false
  | .vsub _ _ _ _ _ => false
  | .vmul _ _ _ _ _ => false
  | .vmin _ _ _ _ _ => false
  | .vmax _ _ _ _ _ => false
  | .vabs _ _ _ _ => false
  | .vneg _ _ _ _ => false
  | .vand _ _ _ _ _ => false
  | .vor _ _ _ _ _ => false
  | .vxor _ _ _ _ _ => false
  | .vshl _ _ _ _ _ => false
  | .vshr _ _ _ _ _ => false
  | .vfma _ _ _ _ _ => false
  | .vsel _ _ _ _ _ => false
  | .vcmpEq _ _ _ _ _ => false
  | .vcmpNe _ _ _ _ _ => false
  | .vcmpLt _ _ _ _ _ => false
  | .vcmpLe _ _ _ _ _ => false
  | .vperm _ _ _ _ _ => false
  | .vbcast _ _ _ _ => false
  | .vcvt _ _ _ _ _ => false
  | .vcvtS _ _ _ _ _ _ => false
  | .vpack _ _ _ => false
  | .vunpack _ _ _ => false
  | .vdot _ _ _ _ => false
  | .vdotS _ _ _ _ _ => false
  | .vsum _ _ _ => false
  | .vredMax _ _ _ => false
  | .vredMin _ _ _ => false
  | .vaccClr _ _ => false
  | .vaccSt _ _ _ => false
  | .vaccRd _ _ _ _ => false
  | .vexp2 _ _ _ _ => false
  | .vrcp _ _ _ _ => false
  | .vrsqrt _ _ _ _ => false
  | .vgath _ _ _ _ _ => false
  | .vscat _ _ _ _ _ => false
  | .vcprs _ _ _ _ _ => false
  | .vhamf _ _ _ _ _ => false
  | .tcfg _ => false
  | .tcfgD _ => false
  | .mzero _ _ => false
  | .mwait => false
  | .mexc _ _ _ => false
  | .mscale _ _ _ _ _ => false
  | .mma _ _ _ _ _ _ _ _ _ => false
  | .mmaCo _ _ _ _ _ _ _ _ _ => false
  | .mmi _ _ _ _ _ _ _ _ => false
  | .mmt _ _ _ _ _ _ _ _ => false
  | .msig _ _ _ _ => false
  | .mldb _ _ _ _ => false
  | .mrd _ _ _ _ => false
  | .mwr _ _ _ _ => false
  | .mdrain _ _ _ _ => false
  | .mdrainAdd _ _ _ _ => false
  | .mmov _ _ _ => false
  | .mrowRd _ _ _ _ => false
  | .mrowWr _ _ _ _ => false
  | .msmx _ _ _ _ _ _ _ => false
  | .mmrg _ _ _ => false
  | .mfin _ _ => false
  | .macroStepCommit _ => true
  | .cooperativeRowArrival _ => true
  | .longLatencyComplete _ _ => true
  | .send _ _ _ _ _ => false
  | .sendl _ _ _ _ _ => false
  | .reply _ _ _ _ => false
  | .hret => false
  | .mpoll _ _ _ _ => false
  | .rsend _ _ _ _ _ _ => false
  | .sendQueueAccept _ => true
  | .messageDelivery _ => true
  | .handlerStart _ _ _ => true
  | .reductionPacketMerge _ _ => true
  | .barInit _ _ _ => false
  | .barArr _ _ _ _ => false
  | .barExp _ _ _ => false
  | .barWait _ _ => false
  | .barTest _ _ _ => false
  | .barFlags _ _ _ => false
  | .remoteBarrierArrival _ => true
  | .ecSet _ _ _ => false
  | .ecInc _ _ _ => false
  | .ecArm _ _ _ _ => false
  | .ecRd _ _ _ => false
  | .semPost _ _ _ => false
  | .semTake _ _ _ => false
  | .fence _ => false
  | .atom _ _ _ _ _ => false
  | .atomRet _ _ _ _ _ => false
  | .atomicApply _ => true
  | .atomicReply _ => true
  | .replyAck _ => true
  | .replyTimeout _ _ => true
  | .acq _ _ => false
  | .rel _ _ => false
  | .lockRequest _ => true
  | .lockRelease _ => true
  | .lockGrant _ => true
  | .lockReleaseAck _ => true
  | .bind _ _ _ _ => false
  | .unbind _ _ => false
  | .copy _ _ _ _ _ => false
  | .copyPerform _ => true
  | .collCfg _ _ _ _ => false
  | .collRdy _ _ _ => false
  | .strmOpen _ _ => false
  | .strmClose _ _ => false
  | .itreq _ _ _ => false
  | .itreqX _ _ _ _ => false
  | .ithold _ _ _ _ => false
  | .itrel _ _ => false
  | .itstat _ _ _ => false
  | .itland _ _ _ => false
  | .bdeal _ _ _ _ => false
  | .bdpat _ _ _ => false
  | .combiningNodeArrival _ _ => true
  | .combiningHoldExpiry _ => true
  | .tileRequest _ => true
  | .tileAnswer _ => true
  | .tileFillStart _ => true
  | .tileArrived _ => true
  | .holdTimerExpiry _ _ => true
  | .slotForwardDone _ _ => true
  | .landingPerform _ => true
  | .itlandPerform _ => true
  | .drainPerform _ => true
  | .dealPerform _ => true
  | .forwardingRedirect _ => true
  | .spawn _ _ _ => false
  | .spawnR _ _ _ _ => false
  | .yield => false
  | .halt _ _ => false
  | .trig _ => false
  | .awaitEv _ _ => false
  | .cmp _ => false
  | .dcmp => false
  | .proxyBatchForward _ _ => true
  | .taskStart _ _ => true
  | .stealIdleDetect _ => true
  | .stealRequest _ => true
  | .stealRecordArrival _ _ => true
  | .stealRefusalArrival _ => true
  | .stealBackoffExpiry _ => true
  | .priorityAging _ _ => true
  | .watchdog _ _ => true
  | .strandPark _ => true
  | .strandRestore _ _ => true
  | .trapEntry _ _ => true
  | .launchDone _ => true
  | .launchPlace _ => true
  | .postedStorePerform _ => true
  | .writeAckArrival _ => true
  | .lineSpare _ => true
  | .pageWalk _ _ _ => true
  | .migrationFreeze _ => true
  | .migrationSwitch _ _ => true
  | .forwardingEntryFree _ => true
  | .spireReplace _ => true
  | .coreLost _ => true
  | .collTileFire _ _ _ _ => true
  | .collContribution _ _ _ _ _ _ => true
  | .deleusFlitReceive _ _ _ => true
  | .laneFailure _ => true
  | .query _ _ => true
  | .partialMsg _ => true
  | .append _ _ => true
  | .ack _ _ => true
  | .share _ _ => true
  | .release _ _ => true
  | .rehome _ _ => true
  | .install _ _ => true
  | .installed _ _ => true
  | .aliasMsg _ _ => true
  | .queueLaunch _ => true
  | .queueInvalidate _ => true
  | .queueMove _ _ => true
  | .queueEntryTake _ => true
  | .queueTailWrite _ _ => true
  | .queueCtlWrite _ _ => true
  | .queueErrClear _ => true
  | .completionHeadWrite _ _ => true
  | .hostRegisterWrite _ _ _ => true
  | .queueSwitchIn _ => true
  | .queueSwitchOut _ => true
  | .hostBar2Write _ _ => true
  | .hostWindowWritePost _ => true
  | .ident _ => true
  | .attest _ _ => true
  | .readErrorLogs _ _ => true
  | .writeRouteTable _ _ => true
  | .startSystemStrand _ _ _ => true
  | .readPendingSeq _ _ => true
  | .islandStates _ _ _ _ => true
  | .readSpareMap _ => true
  | .powerThrottle _ _ => true
  | .powerOnBoot _ _ _ => true
  | .channelSaddleReplace _ _ => true
  | .takeOutOfService _ => true
  | .rowReplayRequest _ => true
  | .linkLevelRetry _ _ => true

end Sys2Proof
end

