-- ==== Sys2Proof/Decode.lean ====
section
/-! DEFINITION. Decoding and encoding of instruction words (R76 to R89). -/

namespace Sys2Proof

/-- Which cores accept an instruction (R89). -/
inductive CoreClass where
  | all | compute | spire | saddle
  deriving DecidableEq, Repr

/-- Why bytes are no instruction (R76, R87): fewer than four bytes; ILLEGAL_OP; RESERVED_FIELD, with the class of cores the
instruction is valid on and whether it is privileged, which R88 checks first. -/
inductive DecodeErr where
  | short
  | illegalOp
  | reservedField (cls : CoreClass) (priv : Bool)
  deriving DecidableEq, Repr

/-- Field of k bits at bit lo of a word. -/
def fd (k lo n : Nat) : BitVec k := BitVec.ofNat k (n / 2 ^ lo)

/-- The cores that accept an instruction (R89). -/
def Instr.cls : Instr → CoreClass
  | .vadd _ _ _ _ _ => .compute
  | .vsub _ _ _ _ _ => .compute
  | .vmul _ _ _ _ _ => .compute
  | .vmin _ _ _ _ _ => .compute
  | .vmax _ _ _ _ _ => .compute
  | .vabs _ _ _ _ => .compute
  | .vneg _ _ _ _ => .compute
  | .vand _ _ _ _ _ => .compute
  | .vor _ _ _ _ _ => .compute
  | .vxor _ _ _ _ _ => .compute
  | .vshl _ _ _ _ _ => .compute
  | .vshr _ _ _ _ _ => .compute
  | .vfma _ _ _ _ _ => .compute
  | .vsel _ _ _ _ _ => .compute
  | .vcmpEq _ _ _ _ _ => .compute
  | .vcmpNe _ _ _ _ _ => .compute
  | .vcmpLt _ _ _ _ _ => .compute
  | .vcmpLe _ _ _ _ _ => .compute
  | .vperm _ _ _ _ _ => .compute
  | .vbcast _ _ _ _ => .compute
  | .vcvt _ _ _ _ _ => .compute
  | .vcvtS _ _ _ _ _ _ => .compute
  | .vpack _ _ _ => .compute
  | .vunpack _ _ _ => .compute
  | .vdot _ _ _ _ => .compute
  | .vdotS _ _ _ _ _ => .compute
  | .vsum _ _ _ => .compute
  | .vredMax _ _ _ => .compute
  | .vredMin _ _ _ => .compute
  | .vaccClr _ _ => .compute
  | .vaccSt _ _ _ => .compute
  | .vaccRd _ _ _ _ => .compute
  | .vexp2 _ _ _ _ => .compute
  | .vrcp _ _ _ _ => .compute
  | .vrsqrt _ _ _ _ => .compute
  | .vgath _ _ _ _ _ => .compute
  | .vscat _ _ _ _ _ => .compute
  | .vcprs _ _ _ _ _ => .compute
  | .vhamf _ _ _ _ _ => .compute
  | .tcfg _ => .compute
  | .tcfgD _ => .compute
  | .mzero _ _ => .compute
  | .mwait => .compute
  | .mexc _ _ _ => .compute
  | .mscale _ _ _ _ _ => .compute
  | .mma _ _ _ _ _ _ _ _ _ => .compute
  | .mmaCo _ _ _ _ _ _ _ _ _ => .compute
  | .mmi _ _ _ _ _ _ _ _ => .compute
  | .mmt _ _ _ _ _ _ _ _ => .compute
  | .msig _ _ _ _ => .compute
  | .mldb _ _ _ _ => .compute
  | .mrd _ _ _ _ => .compute
  | .mwr _ _ _ _ => .compute
  | .mdrain _ _ _ _ => .compute
  | .mdrainAdd _ _ _ _ => .compute
  | .mmov _ _ _ => .compute
  | .mrowRd _ _ _ _ => .compute
  | .mrowWr _ _ _ _ => .compute
  | .msmx _ _ _ _ _ _ _ => .compute
  | .mmrg _ _ _ => .compute
  | .mfin _ _ => .compute
  | .semPost _ _ _ => .spire
  | .semTake _ _ _ => .spire
  | .itreq _ _ _ => .spire
  | .itreqX _ _ _ _ => .spire
  | .ithold _ _ _ _ => .spire
  | .itrel _ _ => .spire
  | .itstat _ _ _ => .spire
  | .itland _ _ _ => .spire
  | .bdeal _ _ _ _ => .saddle
  | .bdpat _ _ _ => .saddle
  | .cmp _ => .compute
  | .dcmp => .compute
  | _ => .all

/-- A control-register number is assigned (R24, R346). -/
def crAssigned (n : Nat) : Bool :=
  decide (n ≤ 7) || (decide (0x10 ≤ n) && decide (n ≤ 0x13)) || n == 0x20 || n == 0x21 || n == 0x30 || n == 0x40 ||
    (decide (0x50 ≤ n) && decide (n ≤ 0x59))
/-- Needs sw.sys = 1: to read or write, or to write only (mstep) (R24). -/
def crSys (n : Nat) (write : Bool) : Bool := n == 0x40 || decide (0x50 ≤ n) || (n == 4 && write)
/-- An access to a control-register number that is not assigned (R24). -/
def Instr.unassigned : Instr → Bool
  | .crr _ cr => !crAssigned cr.toNat
  | .crw _ _ cr => !crAssigned cr.toNat
  | .crs _ _ cr => !crAssigned cr.toNat
  | .crc _ _ cr => !crAssigned cr.toNat
  | _ => false

/-- Whether an instruction needs sw.sys = 1 (R24, R85). -/
def Instr.priv : Instr → Bool
  | .tret => true
  | .crr _ cr => crSys cr.toNat false
  | .crw _ _ cr => crSys cr.toNat true
  | .crs _ _ cr => crSys cr.toNat true
  | .crc _ _ cr => crSys cr.toNat true
  | _ => false

/-- The instruction a word's fields give, when its reserved bits are zero and its values in range (R87). -/
def chk (zero : Bool) (i : Instr) : Except DecodeErr Instr :=
  if zero && i.wf then .ok i else if i.unassigned then .error .illegalOp else .error (.reservedField i.cls i.priv)

/-- Major 1 (R79). -/
def dec1 (n : Nat) : Except DecodeErr Instr :=
  match n / 2 ^ 8 % 2 ^ 6 with
  | 1 => chk (n / 2 ^ 0 % 2 ^ 8 == 0) (.add (fd 4 22 n) (fd 4 18 n) (fd 4 14 n))
  | 2 => chk (n / 2 ^ 0 % 2 ^ 8 == 0) (.sub (fd 4 22 n) (fd 4 18 n) (fd 4 14 n))
  | 3 => chk (n / 2 ^ 0 % 2 ^ 8 == 0) (.and (fd 4 22 n) (fd 4 18 n) (fd 4 14 n))
  | 4 => chk (n / 2 ^ 0 % 2 ^ 8 == 0) (.or (fd 4 22 n) (fd 4 18 n) (fd 4 14 n))
  | 5 => chk (n / 2 ^ 0 % 2 ^ 8 == 0) (.xor (fd 4 22 n) (fd 4 18 n) (fd 4 14 n))
  | 6 => chk (n / 2 ^ 0 % 2 ^ 8 == 0) (.andn (fd 4 22 n) (fd 4 18 n) (fd 4 14 n))
  | 7 => chk (n / 2 ^ 0 % 2 ^ 8 == 0) (.orn (fd 4 22 n) (fd 4 18 n) (fd 4 14 n))
  | 8 => chk (n / 2 ^ 0 % 2 ^ 8 == 0) (.sll (fd 4 22 n) (fd 4 18 n) (fd 4 14 n))
  | 9 => chk (n / 2 ^ 0 % 2 ^ 8 == 0) (.srl (fd 4 22 n) (fd 4 18 n) (fd 4 14 n))
  | 10 => chk (n / 2 ^ 0 % 2 ^ 8 == 0) (.sra (fd 4 22 n) (fd 4 18 n) (fd 4 14 n))
  | 11 => chk (n / 2 ^ 0 % 2 ^ 8 == 0) (.rol (fd 4 22 n) (fd 4 18 n) (fd 4 14 n))
  | 12 => chk (n / 2 ^ 0 % 2 ^ 8 == 0) (.ror (fd 4 22 n) (fd 4 18 n) (fd 4 14 n))
  | 13 => chk (n / 2 ^ 6 % 2 ^ 2 == 0 && n / 2 ^ 14 % 2 ^ 4 == 0) (.slli (fd 4 22 n) (fd 4 18 n) (fd 6 0 n))
  | 14 => chk (n / 2 ^ 6 % 2 ^ 2 == 0 && n / 2 ^ 14 % 2 ^ 4 == 0) (.srli (fd 4 22 n) (fd 4 18 n) (fd 6 0 n))
  | 15 => chk (n / 2 ^ 6 % 2 ^ 2 == 0 && n / 2 ^ 14 % 2 ^ 4 == 0) (.srai (fd 4 22 n) (fd 4 18 n) (fd 6 0 n))
  | 16 => chk (n / 2 ^ 6 % 2 ^ 2 == 0 && n / 2 ^ 14 % 2 ^ 4 == 0) (.rori (fd 4 22 n) (fd 4 18 n) (fd 6 0 n))
  | 17 => chk (n / 2 ^ 0 % 2 ^ 8 == 0) (.slt (fd 4 22 n) (fd 4 18 n) (fd 4 14 n))
  | 18 => chk (n / 2 ^ 0 % 2 ^ 8 == 0) (.sltu (fd 4 22 n) (fd 4 18 n) (fd 4 14 n))
  | 19 => chk (n / 2 ^ 0 % 2 ^ 8 == 0) (.seq (fd 4 22 n) (fd 4 18 n) (fd 4 14 n))
  | 20 => chk (n / 2 ^ 0 % 2 ^ 8 == 0) (.min (fd 4 22 n) (fd 4 18 n) (fd 4 14 n))
  | 21 => chk (n / 2 ^ 0 % 2 ^ 8 == 0) (.max (fd 4 22 n) (fd 4 18 n) (fd 4 14 n))
  | 22 => chk (n / 2 ^ 0 % 2 ^ 8 == 0) (.minu (fd 4 22 n) (fd 4 18 n) (fd 4 14 n))
  | 23 => chk (n / 2 ^ 0 % 2 ^ 8 == 0) (.maxu (fd 4 22 n) (fd 4 18 n) (fd 4 14 n))
  | 24 => chk (n / 2 ^ 0 % 2 ^ 8 == 0 && n / 2 ^ 14 % 2 ^ 4 == 0) (.clz (fd 4 22 n) (fd 4 18 n))
  | 25 => chk (n / 2 ^ 0 % 2 ^ 8 == 0 && n / 2 ^ 14 % 2 ^ 4 == 0) (.ctz (fd 4 22 n) (fd 4 18 n))
  | 26 => chk (n / 2 ^ 0 % 2 ^ 8 == 0 && n / 2 ^ 14 % 2 ^ 4 == 0) (.pop (fd 4 22 n) (fd 4 18 n))
  | 27 => chk (n / 2 ^ 2 % 2 ^ 6 == 0) (.sadd (fd 4 22 n) (fd 4 18 n) (fd 4 14 n) (fd 2 0 n))
  | _ => .error .illegalOp

/-- Major 3 (R79). -/
def dec3 (n : Nat) : Except DecodeErr Instr :=
  match n / 2 ^ 4 % 2 ^ 2 with
  | 0 => chk (n / 2 ^ 0 % 2 ^ 4 == 0) (.bfx (fd 4 22 n) (fd 4 18 n) (fd 6 12 n) (fd 6 6 n))
  | 1 => chk (n / 2 ^ 0 % 2 ^ 4 == 0) (.bfxu (fd 4 22 n) (fd 4 18 n) (fd 6 12 n) (fd 6 6 n))
  | 2 => chk (n / 2 ^ 0 % 2 ^ 4 == 0) (.bfi (fd 4 22 n) (fd 4 18 n) (fd 6 12 n) (fd 6 6 n))
  | _ => .error .illegalOp

/-- Major 4 (R79). -/
def dec4 (n : Nat) : Except DecodeErr Instr :=
  chk (true) (.addi (fd 4 22 n) (fd 4 18 n) (fd 18 0 n))

/-- Major 5 (R79). -/
def dec5 (n : Nat) : Except DecodeErr Instr :=
  chk (true) (.andi (fd 4 22 n) (fd 4 18 n) (fd 18 0 n))

/-- Major 6 (R79). -/
def dec6 (n : Nat) : Except DecodeErr Instr :=
  chk (true) (.ori (fd 4 22 n) (fd 4 18 n) (fd 18 0 n))

/-- Major 7 (R79). -/
def dec7 (n : Nat) : Except DecodeErr Instr :=
  chk (true) (.xori (fd 4 22 n) (fd 4 18 n) (fd 18 0 n))

/-- Major 8 (R79). -/
def dec8 (n : Nat) : Except DecodeErr Instr :=
  chk (true) (.slti (fd 4 22 n) (fd 4 18 n) (fd 18 0 n))

/-- Major 9 (R79). -/
def dec9 (n : Nat) : Except DecodeErr Instr :=
  chk (true) (.sltiu (fd 4 22 n) (fd 4 18 n) (fd 18 0 n))

/-- Major 10 (R79). -/
def dec10 (n : Nat) : Except DecodeErr Instr :=
  chk (true) (.lui (fd 4 22 n) (fd 22 0 n))

/-- Major 11 (R79). -/
def dec11 (n : Nat) : Except DecodeErr Instr :=
  chk (true) (.apc (fd 4 22 n) (fd 22 0 n))

/-- Major 12 (R79). -/
def dec12 (n : Nat) : Except DecodeErr Instr :=
  chk (true) (.beq (fd 4 22 n) (fd 4 18 n) (fd 18 0 n))

/-- Major 13 (R79). -/
def dec13 (n : Nat) : Except DecodeErr Instr :=
  chk (true) (.bne (fd 4 22 n) (fd 4 18 n) (fd 18 0 n))

/-- Major 14 (R79). -/
def dec14 (n : Nat) : Except DecodeErr Instr :=
  chk (true) (.blt (fd 4 22 n) (fd 4 18 n) (fd 18 0 n))

/-- Major 15 (R79). -/
def dec15 (n : Nat) : Except DecodeErr Instr :=
  chk (true) (.bge (fd 4 22 n) (fd 4 18 n) (fd 18 0 n))

/-- Major 16 (R79). -/
def dec16 (n : Nat) : Except DecodeErr Instr :=
  chk (true) (.bltu (fd 4 22 n) (fd 4 18 n) (fd 18 0 n))

/-- Major 17 (R79). -/
def dec17 (n : Nat) : Except DecodeErr Instr :=
  chk (true) (.bgeu (fd 4 22 n) (fd 4 18 n) (fd 18 0 n))

/-- Major 18 (R79). -/
def dec18 (n : Nat) : Except DecodeErr Instr :=
  chk (n / 2 ^ 18 % 2 ^ 4 == 0) (.dbnz (fd 4 22 n) (fd 18 0 n))

/-- Major 19 (R79). -/
def dec19 (n : Nat) : Except DecodeErr Instr :=
  chk (true) (.jal (fd 4 22 n) (fd 22 0 n))

/-- Major 20 (R79). -/
def dec20 (n : Nat) : Except DecodeErr Instr :=
  chk (true) (.jalr (fd 4 22 n) (fd 4 18 n) (fd 18 0 n))

/-- Major 21 (R79). -/
def dec21 (n : Nat) : Except DecodeErr Instr :=
  match n / 2 ^ 2 % 2 ^ 4 with
  | 0 => chk (n / 2 ^ 0 % 2 ^ 2 == 0 && n / 2 ^ 6 % 2 ^ 4 == 0) (.mul (fd 4 22 n) (fd 4 18 n) (fd 4 14 n) (fd 4 10 n))
  | 1 => chk (n / 2 ^ 0 % 2 ^ 2 == 0 && n / 2 ^ 6 % 2 ^ 4 == 0) (.mulh (fd 4 22 n) (fd 4 18 n) (fd 4 14 n) (fd 4 10 n))
  | 2 => chk (n / 2 ^ 0 % 2 ^ 2 == 0 && n / 2 ^ 6 % 2 ^ 4 == 0) (.mulhu (fd 4 22 n) (fd 4 18 n) (fd 4 14 n) (fd 4 10 n))
  | 3 => chk (n / 2 ^ 0 % 2 ^ 2 == 0 && n / 2 ^ 6 % 2 ^ 4 == 0) (.mulhsu (fd 4 22 n) (fd 4 18 n) (fd 4 14 n) (fd 4 10 n))
  | 4 => chk (n / 2 ^ 0 % 2 ^ 2 == 0 && n / 2 ^ 6 % 2 ^ 4 == 0) (.div (fd 4 22 n) (fd 4 18 n) (fd 4 14 n) (fd 4 10 n))
  | 5 => chk (n / 2 ^ 0 % 2 ^ 2 == 0 && n / 2 ^ 6 % 2 ^ 4 == 0) (.divu (fd 4 22 n) (fd 4 18 n) (fd 4 14 n) (fd 4 10 n))
  | 6 => chk (n / 2 ^ 0 % 2 ^ 2 == 0 && n / 2 ^ 6 % 2 ^ 4 == 0) (.rem (fd 4 22 n) (fd 4 18 n) (fd 4 14 n) (fd 4 10 n))
  | 7 => chk (n / 2 ^ 0 % 2 ^ 2 == 0 && n / 2 ^ 6 % 2 ^ 4 == 0) (.remu (fd 4 22 n) (fd 4 18 n) (fd 4 14 n) (fd 4 10 n))
  | 8 => chk (n / 2 ^ 0 % 2 ^ 2 == 0) (.madd (fd 4 22 n) (fd 4 18 n) (fd 4 14 n) (fd 4 10 n) (fd 4 6 n))
  | _ => .error .illegalOp

/-- Major 22 (R79). -/
def dec22 (n : Nat) : Except DecodeErr Instr :=
  match n / 2 ^ 2 % 2 ^ 4 with
  | 0 => chk (n / 2 ^ 6 % 2 ^ 4 == 0) (.fadd (fd 4 22 n) (fd 4 18 n) (fd 4 14 n) (fd 4 10 n) (fd 2 0 n))
  | 1 => chk (n / 2 ^ 6 % 2 ^ 4 == 0) (.fsub (fd 4 22 n) (fd 4 18 n) (fd 4 14 n) (fd 4 10 n) (fd 2 0 n))
  | 2 => chk (n / 2 ^ 6 % 2 ^ 4 == 0) (.fmul (fd 4 22 n) (fd 4 18 n) (fd 4 14 n) (fd 4 10 n) (fd 2 0 n))
  | 3 => chk (n / 2 ^ 6 % 2 ^ 4 == 0) (.fdiv (fd 4 22 n) (fd 4 18 n) (fd 4 14 n) (fd 4 10 n) (fd 2 0 n))
  | 4 => chk (n / 2 ^ 6 % 2 ^ 8 == 0) (.fsqrt (fd 4 22 n) (fd 4 18 n) (fd 4 14 n) (fd 2 0 n))
  | 5 => chk (n / 2 ^ 6 % 2 ^ 4 == 0) (.fmin (fd 4 22 n) (fd 4 18 n) (fd 4 14 n) (fd 4 10 n) (fd 2 0 n))
  | 6 => chk (n / 2 ^ 6 % 2 ^ 4 == 0) (.fmax (fd 4 22 n) (fd 4 18 n) (fd 4 14 n) (fd 4 10 n) (fd 2 0 n))
  | 7 => chk (true) (.fma (fd 4 22 n) (fd 4 18 n) (fd 4 14 n) (fd 4 10 n) (fd 4 6 n) (fd 2 0 n))
  | 8 => chk (n / 2 ^ 6 % 2 ^ 4 == 0) (.feq (fd 4 22 n) (fd 4 18 n) (fd 4 14 n) (fd 4 10 n) (fd 2 0 n))
  | 9 => chk (n / 2 ^ 6 % 2 ^ 4 == 0) (.flt (fd 4 22 n) (fd 4 18 n) (fd 4 14 n) (fd 4 10 n) (fd 2 0 n))
  | 10 => chk (n / 2 ^ 6 % 2 ^ 4 == 0) (.fle (fd 4 22 n) (fd 4 18 n) (fd 4 14 n) (fd 4 10 n) (fd 2 0 n))
  | 11 => chk (n / 2 ^ 8 % 2 ^ 1 == 0 && n / 2 ^ 10 % 2 ^ 4 == 0) (.fcvti (fd 4 22 n) (fd 4 18 n) (fd 4 14 n) (fd 1 9 n) (fd 2 6 n) (fd 2 0 n))
  | 12 => chk (n / 2 ^ 8 % 2 ^ 1 == 0 && n / 2 ^ 10 % 2 ^ 4 == 0) (.fcvtf (fd 4 22 n) (fd 4 18 n) (fd 4 14 n) (fd 1 9 n) (fd 2 6 n) (fd 2 0 n))
  | 13 => chk (n / 2 ^ 8 % 2 ^ 6 == 0) (.fcvt (fd 4 22 n) (fd 4 18 n) (fd 4 14 n) (fd 2 6 n) (fd 2 0 n))
  | 14 => chk (n / 2 ^ 8 % 2 ^ 2 == 0) (.fsgnj (fd 4 22 n) (fd 4 18 n) (fd 4 14 n) (fd 4 10 n) (fd 2 6 n) (fd 2 0 n))
  | 15 => chk (n / 2 ^ 6 % 2 ^ 8 == 0) (.fclass (fd 4 22 n) (fd 4 18 n) (fd 4 14 n) (fd 2 0 n))
  | _ => .error .illegalOp

/-- Major 23 (R79). -/
def dec23 (n : Nat) : Except DecodeErr Instr :=
  match n / 2 ^ 11 % 2 ^ 3 with
  | 0 => chk (true) (.ldb (fd 4 22 n) (fd 4 18 n) (fd 4 14 n) (fd 11 0 n))
  | 1 => chk (true) (.ldbu (fd 4 22 n) (fd 4 18 n) (fd 4 14 n) (fd 11 0 n))
  | 2 => chk (true) (.ldh (fd 4 22 n) (fd 4 18 n) (fd 4 14 n) (fd 11 0 n))
  | 3 => chk (true) (.ldhu (fd 4 22 n) (fd 4 18 n) (fd 4 14 n) (fd 11 0 n))
  | 4 => chk (true) (.ldw (fd 4 22 n) (fd 4 18 n) (fd 4 14 n) (fd 11 0 n))
  | 5 => chk (true) (.ldwu (fd 4 22 n) (fd 4 18 n) (fd 4 14 n) (fd 11 0 n))
  | 6 => chk (true) (.ldd (fd 4 22 n) (fd 4 18 n) (fd 4 14 n) (fd 11 0 n))
  | _ => .error .illegalOp

/-- Major 24 (R79). -/
def dec24 (n : Nat) : Except DecodeErr Instr :=
  match n / 2 ^ 11 % 2 ^ 3 with
  | 0 => chk (true) (.stb (fd 4 22 n) (fd 4 18 n) (fd 4 14 n) (fd 11 0 n))
  | 2 => chk (true) (.sth (fd 4 22 n) (fd 4 18 n) (fd 4 14 n) (fd 11 0 n))
  | 4 => chk (true) (.stw (fd 4 22 n) (fd 4 18 n) (fd 4 14 n) (fd 11 0 n))
  | 6 => chk (true) (.std (fd 4 22 n) (fd 4 18 n) (fd 4 14 n) (fd 11 0 n))
  | _ => .error .illegalOp

/-- Major 32 (R79). -/
def dec32 (n : Nat) : Except DecodeErr Instr :=
  match n / 2 ^ 0 % 2 ^ 6 with
  | 0 => chk (n / 2 ^ 6 % 2 ^ 4 == 0) (.ptrset (fd 4 22 n) (fd 4 18 n) (fd 4 14 n) (fd 4 10 n))
  | 1 => chk (n / 2 ^ 6 % 2 ^ 8 == 0) (.ptrdim (fd 4 22 n) (fd 4 18 n) (fd 4 14 n))
  | 2 => chk (n / 2 ^ 6 % 2 ^ 4 == 0) (.ptrget (fd 4 22 n) (fd 4 18 n) (fd 4 14 n) (fd 4 10 n))
  | _ => .error .illegalOp

/-- Major 33 (R79). -/
def dec33 (n : Nat) : Except DecodeErr Instr :=
  match n / 2 ^ 0 % 2 ^ 6 with
  | 0 => chk (true) (.vadd (fd 4 22 n) (fd 4 18 n) (fd 4 14 n) (fd 4 10 n) (fd 4 6 n))
  | 1 => chk (true) (.vsub (fd 4 22 n) (fd 4 18 n) (fd 4 14 n) (fd 4 10 n) (fd 4 6 n))
  | 2 => chk (true) (.vmul (fd 4 22 n) (fd 4 18 n) (fd 4 14 n) (fd 4 10 n) (fd 4 6 n))
  | 3 => chk (true) (.vmin (fd 4 22 n) (fd 4 18 n) (fd 4 14 n) (fd 4 10 n) (fd 4 6 n))
  | 4 => chk (true) (.vmax (fd 4 22 n) (fd 4 18 n) (fd 4 14 n) (fd 4 10 n) (fd 4 6 n))
  | 5 => chk (n / 2 ^ 10 % 2 ^ 4 == 0) (.vabs (fd 4 22 n) (fd 4 18 n) (fd 4 14 n) (fd 4 6 n))
  | 6 => chk (n / 2 ^ 10 % 2 ^ 4 == 0) (.vneg (fd 4 22 n) (fd 4 18 n) (fd 4 14 n) (fd 4 6 n))
  | 7 => chk (true) (.vand (fd 4 22 n) (fd 4 18 n) (fd 4 14 n) (fd 4 10 n) (fd 4 6 n))
  | 8 => chk (true) (.vor (fd 4 22 n) (fd 4 18 n) (fd 4 14 n) (fd 4 10 n) (fd 4 6 n))
  | 9 => chk (true) (.vxor (fd 4 22 n) (fd 4 18 n) (fd 4 14 n) (fd 4 10 n) (fd 4 6 n))
  | 10 => chk (true) (.vshl (fd 4 22 n) (fd 4 18 n) (fd 4 14 n) (fd 4 10 n) (fd 4 6 n))
  | 11 => chk (true) (.vshr (fd 4 22 n) (fd 4 18 n) (fd 4 14 n) (fd 4 10 n) (fd 4 6 n))
  | 12 => chk (true) (.vfma (fd 4 22 n) (fd 4 18 n) (fd 4 14 n) (fd 4 10 n) (fd 4 6 n))
  | 13 => chk (true) (.vsel (fd 4 22 n) (fd 4 18 n) (fd 4 14 n) (fd 4 10 n) (fd 4 6 n))
  | 14 => chk (true) (.vcmpEq (fd 4 22 n) (fd 4 18 n) (fd 4 14 n) (fd 4 10 n) (fd 4 6 n))
  | 15 => chk (true) (.vcmpNe (fd 4 22 n) (fd 4 18 n) (fd 4 14 n) (fd 4 10 n) (fd 4 6 n))
  | 16 => chk (true) (.vcmpLt (fd 4 22 n) (fd 4 18 n) (fd 4 14 n) (fd 4 10 n) (fd 4 6 n))
  | 17 => chk (true) (.vcmpLe (fd 4 22 n) (fd 4 18 n) (fd 4 14 n) (fd 4 10 n) (fd 4 6 n))
  | 18 => chk (true) (.vperm (fd 4 22 n) (fd 4 18 n) (fd 4 14 n) (fd 4 10 n) (fd 4 6 n))
  | 19 => chk (n / 2 ^ 10 % 2 ^ 4 == 0) (.vbcast (fd 4 22 n) (fd 4 18 n) (fd 4 14 n) (fd 4 6 n))
  | _ => .error .illegalOp

/-- Major 34 (R79). -/
def dec34 (n : Nat) : Except DecodeErr Instr :=
  match n / 2 ^ 0 % 2 ^ 6 with
  | 0 => chk (true) (.vcvt (fd 4 22 n) (fd 4 18 n) (fd 4 14 n) (fd 4 10 n) (fd 4 6 n))
  | 1 => chk (true) (.vcvtS (fd 4 22 n) (fd 4 18 n) (fd 4 14 n) (fd 1 13 n) (fd 3 10 n) (fd 4 6 n))
  | 2 => chk (n / 2 ^ 6 % 2 ^ 8 == 0) (.vpack (fd 4 22 n) (fd 4 18 n) (fd 4 14 n))
  | 3 => chk (n / 2 ^ 6 % 2 ^ 8 == 0) (.vunpack (fd 4 22 n) (fd 4 18 n) (fd 4 14 n))
  | _ => .error .illegalOp

/-- Major 35 (R79). -/
def dec35 (n : Nat) : Except DecodeErr Instr :=
  match n / 2 ^ 0 % 2 ^ 6 with
  | 0 => chk (n / 2 ^ 18 % 2 ^ 4 == 0) (.vdot (fd 4 22 n) (fd 4 14 n) (fd 4 10 n) (fd 4 6 n))
  | 1 => chk (true) (.vdotS (fd 4 22 n) (fd 4 18 n) (fd 4 14 n) (fd 4 10 n) (fd 4 6 n))
  | 2 => chk (n / 2 ^ 10 % 2 ^ 4 == 0 && n / 2 ^ 18 % 2 ^ 4 == 0) (.vsum (fd 4 22 n) (fd 4 14 n) (fd 4 6 n))
  | 3 => chk (n / 2 ^ 10 % 2 ^ 4 == 0 && n / 2 ^ 18 % 2 ^ 4 == 0) (.vredMax (fd 4 22 n) (fd 4 14 n) (fd 4 6 n))
  | 4 => chk (n / 2 ^ 10 % 2 ^ 4 == 0 && n / 2 ^ 18 % 2 ^ 4 == 0) (.vredMin (fd 4 22 n) (fd 4 14 n) (fd 4 6 n))
  | 5 => chk (n / 2 ^ 6 % 2 ^ 8 == 0 && n / 2 ^ 18 % 2 ^ 4 == 0) (.vaccClr (fd 4 22 n) (fd 4 14 n))
  | 6 => chk (n / 2 ^ 10 % 2 ^ 8 == 0) (.vaccSt (fd 4 22 n) (fd 4 18 n) (fd 4 6 n))
  | 7 => chk (n / 2 ^ 6 % 2 ^ 4 == 0) (.vaccRd (fd 4 22 n) (fd 4 18 n) (fd 4 14 n) (fd 4 10 n))
  | _ => .error .illegalOp

/-- Major 36 (R79). -/
def dec36 (n : Nat) : Except DecodeErr Instr :=
  match n / 2 ^ 0 % 2 ^ 6 with
  | 0 => chk (n / 2 ^ 10 % 2 ^ 4 == 0) (.vexp2 (fd 4 22 n) (fd 4 18 n) (fd 4 14 n) (fd 4 6 n))
  | 1 => chk (n / 2 ^ 10 % 2 ^ 4 == 0) (.vrcp (fd 4 22 n) (fd 4 18 n) (fd 4 14 n) (fd 4 6 n))
  | 2 => chk (n / 2 ^ 10 % 2 ^ 4 == 0) (.vrsqrt (fd 4 22 n) (fd 4 18 n) (fd 4 14 n) (fd 4 6 n))
  | _ => .error .illegalOp

/-- Major 37 (R79). -/
def dec37 (n : Nat) : Except DecodeErr Instr :=
  match n / 2 ^ 0 % 2 ^ 6 with
  | 0 => chk (true) (.vgath (fd 4 22 n) (fd 4 18 n) (fd 4 14 n) (fd 4 10 n) (fd 4 6 n))
  | 1 => chk (true) (.vscat (fd 4 22 n) (fd 4 18 n) (fd 4 14 n) (fd 4 10 n) (fd 4 6 n))
  | 2 => chk (true) (.vcprs (fd 4 22 n) (fd 4 18 n) (fd 4 14 n) (fd 4 10 n) (fd 4 6 n))
  | 3 => chk (true) (.vhamf (fd 4 22 n) (fd 4 18 n) (fd 4 14 n) (fd 4 10 n) (fd 4 6 n))
  | _ => .error .illegalOp

/-- Major 48 (R79). -/
def dec48 (n : Nat) : Except DecodeErr Instr :=
  match n / 2 ^ 0 % 2 ^ 4 with
  | 0 => chk (n / 2 ^ 4 % 2 ^ 8 == 0 && n / 2 ^ 16 % 2 ^ 10 == 0) (.tcfg (fd 4 12 n))
  | 1 => chk (n / 2 ^ 4 % 2 ^ 8 == 0 && n / 2 ^ 16 % 2 ^ 10 == 0) (.tcfgD (fd 4 12 n))
  | 2 => chk (n / 2 ^ 4 % 2 ^ 16 == 0) (.mzero (fd 4 22 n) (fd 2 20 n))
  | 3 => chk (n / 2 ^ 4 % 2 ^ 22 == 0) .mwait
  | 4 => chk (n / 2 ^ 5 % 2 ^ 7 == 0 && n / 2 ^ 16 % 2 ^ 6 == 0) (.mexc (fd 4 22 n) (fd 4 12 n) (fd 1 4 n))
  | 5 => chk (n / 2 ^ 5 % 2 ^ 7 == 0) (.mscale (fd 4 22 n) (fd 2 20 n) (fd 4 16 n) (fd 4 12 n) (fd 1 4 n))
  | _ => .error .illegalOp

/-- Major 49 (R79). -/
def dec49 (n : Nat) : Except DecodeErr Instr :=
  match n / 2 ^ 0 % 2 ^ 4 with
  | 0 => chk (true) (.mma (fd 4 22 n) (fd 2 20 n) (fd 4 16 n) (fd 4 12 n) (fd 4 8 n) (fd 1 7 n) (fd 1 6 n) (fd 1 5 n) (fd 1 4 n))
  | 1 => chk (true) (.mmaCo (fd 4 22 n) (fd 2 20 n) (fd 4 16 n) (fd 4 12 n) (fd 4 8 n) (fd 1 7 n) (fd 1 6 n) (fd 1 5 n) (fd 1 4 n))
  | 2 => chk (true) (.mmi (fd 4 22 n) (fd 2 20 n) (fd 4 16 n) (fd 4 12 n) (fd 4 8 n) (fd 1 7 n) (fd 1 6 n) (fd 2 4 n))
  | 3 => chk (true) (.mmt (fd 4 22 n) (fd 2 20 n) (fd 4 16 n) (fd 4 12 n) (fd 4 8 n) (fd 1 7 n) (fd 1 6 n) (fd 2 4 n))
  | 4 => chk (n / 2 ^ 4 % 2 ^ 1 == 0 && n / 2 ^ 6 % 2 ^ 10 == 0) (.msig (fd 4 22 n) (fd 2 20 n) (fd 4 16 n) (fd 1 5 n))
  | _ => .error .illegalOp

/-- Major 50 (R79). -/
def dec50 (n : Nat) : Except DecodeErr Instr :=
  match n / 2 ^ 0 % 2 ^ 4 with
  | 0 => chk (n / 2 ^ 8 % 2 ^ 8 == 0 && n / 2 ^ 20 % 2 ^ 2 == 0) (.mldb (fd 4 22 n) (fd 4 16 n) (fd 1 7 n) (fd 3 4 n))
  | 1 => chk (n / 2 ^ 8 % 2 ^ 8 == 0) (.mrd (fd 4 22 n) (fd 2 20 n) (fd 4 16 n) (fd 4 4 n))
  | 2 => chk (n / 2 ^ 8 % 2 ^ 8 == 0) (.mwr (fd 4 22 n) (fd 2 20 n) (fd 4 16 n) (fd 4 4 n))
  | 3 => chk (n / 2 ^ 5 % 2 ^ 7 == 0 && n / 2 ^ 16 % 2 ^ 4 == 0) (.mdrain (fd 4 22 n) (fd 2 20 n) (fd 4 12 n) (fd 1 4 n))
  | 4 => chk (n / 2 ^ 5 % 2 ^ 7 == 0 && n / 2 ^ 16 % 2 ^ 4 == 0) (.mdrainAdd (fd 4 22 n) (fd 2 20 n) (fd 4 12 n) (fd 1 4 n))
  | 5 => chk (n / 2 ^ 6 % 2 ^ 14 == 0) (.mmov (fd 4 22 n) (fd 2 20 n) (fd 2 4 n))
  | 6 => chk (n / 2 ^ 5 % 2 ^ 11 == 0) (.mrowRd (fd 4 22 n) (fd 2 20 n) (fd 4 16 n) (fd 1 4 n))
  | 7 => chk (n / 2 ^ 5 % 2 ^ 11 == 0) (.mrowWr (fd 4 22 n) (fd 2 20 n) (fd 4 16 n) (fd 1 4 n))
  | _ => .error .illegalOp

/-- Major 51 (R79). -/
def dec51 (n : Nat) : Except DecodeErr Instr :=
  match n / 2 ^ 0 % 2 ^ 4 with
  | 0 => chk (n / 2 ^ 8 % 2 ^ 4 == 0) (.msmx (fd 4 22 n) (fd 2 20 n) (fd 4 16 n) (fd 4 12 n) (fd 2 6 n) (fd 1 5 n) (fd 1 4 n))
  | 1 => chk (n / 2 ^ 6 % 2 ^ 14 == 0) (.mmrg (fd 4 22 n) (fd 2 20 n) (fd 2 4 n))
  | 2 => chk (n / 2 ^ 4 % 2 ^ 16 == 0) (.mfin (fd 4 22 n) (fd 2 20 n))
  | _ => .error .illegalOp

/-- Major 56 (R79). -/
def dec56 (n : Nat) : Except DecodeErr Instr :=
  match n / 2 ^ 0 % 2 ^ 6 with
  | 0 => chk (true) (.send (fd 4 22 n) (fd 4 18 n) (fd 4 14 n) (fd 4 10 n) (fd 4 6 n))
  | 1 => chk (true) (.sendl (fd 4 22 n) (fd 4 18 n) (fd 4 14 n) (fd 4 10 n) (fd 4 6 n))
  | 2 => chk (n / 2 ^ 14 % 2 ^ 4 == 0) (.reply (fd 4 22 n) (fd 4 18 n) (fd 4 10 n) (fd 4 6 n))
  | 3 => chk (n / 2 ^ 6 % 2 ^ 20 == 0) .hret
  | 4 => chk (n / 2 ^ 10 % 2 ^ 4 == 0) (.mpoll (fd 4 22 n) (fd 4 18 n) (fd 4 14 n) (fd 4 6 n))
  | 5 => chk (n / 2 ^ 21 % 2 ^ 1 == 0) (.rsend (fd 4 22 n) (fd 1 20 n) (fd 2 18 n) (fd 4 14 n) (fd 4 10 n) (fd 4 6 n))
  | _ => .error .illegalOp

/-- Major 57 (R79). -/
def dec57 (n : Nat) : Except DecodeErr Instr :=
  match n / 2 ^ 0 % 2 ^ 6 with
  | 0 => chk (n / 2 ^ 18 % 2 ^ 4 == 0) (.barInit (fd 4 22 n) (fd 4 14 n) (fd 8 6 n))
  | 1 => chk (true) (.barArr (fd 4 22 n) (fd 4 18 n) (fd 4 14 n) (fd 8 6 n))
  | 2 => chk (n / 2 ^ 18 % 2 ^ 4 == 0) (.barExp (fd 4 22 n) (fd 4 14 n) (fd 8 6 n))
  | 3 => chk (n / 2 ^ 18 % 2 ^ 8 == 0) (.barWait (fd 4 14 n) (fd 8 6 n))
  | 4 => chk (n / 2 ^ 14 % 2 ^ 4 == 0) (.barTest (fd 4 22 n) (fd 4 18 n) (fd 8 6 n))
  | 5 => chk (n / 2 ^ 14 % 2 ^ 4 == 0) (.barFlags (fd 4 22 n) (fd 4 18 n) (fd 8 6 n))
  | 8 => chk (n / 2 ^ 18 % 2 ^ 4 == 0) (.ecSet (fd 4 22 n) (fd 4 14 n) (fd 8 6 n))
  | 9 => chk (n / 2 ^ 18 % 2 ^ 4 == 0) (.ecInc (fd 4 22 n) (fd 4 14 n) (fd 8 6 n))
  | 10 => chk (true) (.ecArm (fd 4 22 n) (fd 4 18 n) (fd 4 14 n) (fd 8 6 n))
  | 11 => chk (n / 2 ^ 14 % 2 ^ 4 == 0) (.ecRd (fd 4 22 n) (fd 4 18 n) (fd 8 6 n))
  | 16 => chk (n / 2 ^ 18 % 2 ^ 4 == 0) (.semPost (fd 4 22 n) (fd 4 14 n) (fd 8 6 n))
  | 17 => chk (n / 2 ^ 18 % 2 ^ 4 == 0) (.semTake (fd 4 22 n) (fd 4 14 n) (fd 8 6 n))
  | 24 => chk (n / 2 ^ 14 % 2 ^ 12 == 0) (.fence (fd 8 6 n))
  | _ => .error .illegalOp

/-- Major 58 (R79). -/
def dec58 (n : Nat) : Except DecodeErr Instr :=
  match n / 2 ^ 0 % 2 ^ 6 with
  | 0 => chk (true) (.atom (fd 4 22 n) (fd 4 18 n) (fd 4 14 n) (fd 4 10 n) (fd 4 6 n))
  | 1 => chk (true) (.atomRet (fd 4 22 n) (fd 4 18 n) (fd 4 14 n) (fd 4 10 n) (fd 4 6 n))
  | 8 => chk (n / 2 ^ 6 % 2 ^ 8 == 0 && n / 2 ^ 22 % 2 ^ 4 == 0) (.acq (fd 4 18 n) (fd 4 14 n))
  | 9 => chk (n / 2 ^ 6 % 2 ^ 4 == 0 && n / 2 ^ 18 % 2 ^ 8 == 0) (.rel (fd 4 14 n) (fd 4 10 n))
  | 10 => chk (n / 2 ^ 18 % 2 ^ 4 == 0) (.bind (fd 4 22 n) (fd 4 14 n) (fd 4 10 n) (fd 4 6 n))
  | 11 => chk (n / 2 ^ 6 % 2 ^ 8 == 0 && n / 2 ^ 18 % 2 ^ 4 == 0) (.unbind (fd 4 22 n) (fd 4 14 n))
  | 16 => chk (true) (.copy (fd 4 22 n) (fd 4 18 n) (fd 4 14 n) (fd 4 10 n) (fd 4 6 n))
  | 24 => chk (n / 2 ^ 6 % 2 ^ 4 == 0) (.collCfg (fd 4 22 n) (fd 4 18 n) (fd 4 14 n) (fd 4 10 n))
  | 25 => chk (n / 2 ^ 6 % 2 ^ 4 == 0 && n / 2 ^ 18 % 2 ^ 4 == 0) (.collRdy (fd 4 22 n) (fd 4 14 n) (fd 4 10 n))
  | 28 => chk (n / 2 ^ 6 % 2 ^ 8 == 0 && n / 2 ^ 18 % 2 ^ 4 == 0) (.strmOpen (fd 4 22 n) (fd 4 14 n))
  | 29 => chk (n / 2 ^ 6 % 2 ^ 8 == 0 && n / 2 ^ 18 % 2 ^ 4 == 0) (.strmClose (fd 4 22 n) (fd 4 14 n))
  | _ => .error .illegalOp

/-- Major 59 (R79). -/
def dec59 (n : Nat) : Except DecodeErr Instr :=
  match n / 2 ^ 0 % 2 ^ 6 with
  | 0 => chk (n / 2 ^ 10 % 2 ^ 4 == 0 && n / 2 ^ 18 % 2 ^ 4 == 0) (.itreq (fd 4 22 n) (fd 4 14 n) (fd 4 6 n))
  | 1 => chk (n / 2 ^ 18 % 2 ^ 4 == 0) (.itreqX (fd 4 22 n) (fd 4 14 n) (fd 4 10 n) (fd 4 6 n))
  | 2 => chk (n / 2 ^ 10 % 2 ^ 4 == 0) (.ithold (fd 4 22 n) (fd 4 18 n) (fd 4 14 n) (fd 4 6 n))
  | 3 => chk (n / 2 ^ 10 % 2 ^ 12 == 0) (.itrel (fd 4 22 n) (fd 4 6 n))
  | 4 => chk (n / 2 ^ 10 % 2 ^ 8 == 0) (.itstat (fd 4 22 n) (fd 4 18 n) (fd 4 6 n))
  | 5 => chk (n / 2 ^ 10 % 2 ^ 4 == 0 && n / 2 ^ 18 % 2 ^ 4 == 0) (.itland (fd 4 22 n) (fd 4 14 n) (fd 4 6 n))
  | 8 => chk (n / 2 ^ 6 % 2 ^ 4 == 0) (.bdeal (fd 4 22 n) (fd 4 18 n) (fd 4 14 n) (fd 4 10 n))
  | 9 => chk (n / 2 ^ 6 % 2 ^ 4 == 0 && n / 2 ^ 18 % 2 ^ 4 == 0) (.bdpat (fd 4 22 n) (fd 4 14 n) (fd 4 10 n))
  | _ => .error .illegalOp

/-- Major 60 (R79). -/
def dec60 (n : Nat) : Except DecodeErr Instr :=
  match n / 2 ^ 0 % 2 ^ 6 with
  | 0 => chk (n / 2 ^ 7 % 2 ^ 7 == 0 && n / 2 ^ 18 % 2 ^ 4 == 0) (.spawn (fd 4 22 n) (fd 4 14 n) (fd 1 6 n))
  | 1 => chk (n / 2 ^ 7 % 2 ^ 3 == 0 && n / 2 ^ 18 % 2 ^ 4 == 0) (.spawnR (fd 4 22 n) (fd 4 14 n) (fd 4 10 n) (fd 1 6 n))
  | 2 => chk (n / 2 ^ 6 % 2 ^ 20 == 0) .yield
  | 3 => chk (n / 2 ^ 7 % 2 ^ 7 == 0 && n / 2 ^ 18 % 2 ^ 8 == 0) (.halt (fd 4 14 n) (fd 1 6 n))
  | 4 => chk (n / 2 ^ 6 % 2 ^ 16 == 0) (.trig (fd 4 22 n))
  | 5 => chk (n / 2 ^ 6 % 2 ^ 4 == 0 && n / 2 ^ 18 % 2 ^ 8 == 0) (.awaitEv (fd 4 14 n) (fd 4 10 n))
  | 8 => chk (n / 2 ^ 6 % 2 ^ 8 == 0 && n / 2 ^ 18 % 2 ^ 8 == 0) (.cmp (fd 4 14 n))
  | 9 => chk (n / 2 ^ 6 % 2 ^ 20 == 0) .dcmp
  | _ => .error .illegalOp

/-- Major 62 (R79). -/
def dec62 (n : Nat) : Except DecodeErr Instr :=
  match n / 2 ^ 12 % 2 ^ 6 with
  | 0 => chk (n / 2 ^ 0 % 2 ^ 12 == 0 && n / 2 ^ 18 % 2 ^ 8 == 0) .nop
  | 1 => chk (n / 2 ^ 18 % 2 ^ 4 == 0) (.crr (fd 4 22 n) (fd 12 0 n))
  | 2 => chk (true) (.crw (fd 4 22 n) (fd 4 18 n) (fd 12 0 n))
  | 3 => chk (true) (.crs (fd 4 22 n) (fd 4 18 n) (fd 12 0 n))
  | 4 => chk (true) (.crc (fd 4 22 n) (fd 4 18 n) (fd 12 0 n))
  | 5 => chk (n / 2 ^ 18 % 2 ^ 8 == 0) (.svc (fd 12 0 n))
  | 6 => chk (n / 2 ^ 18 % 2 ^ 8 == 0) (.trap (fd 12 0 n))
  | 7 => chk (n / 2 ^ 0 % 2 ^ 12 == 0 && n / 2 ^ 18 % 2 ^ 8 == 0) .tret
  | 8 => chk (n / 2 ^ 18 % 2 ^ 8 == 0) (.brk (fd 12 0 n))
  | 9 => chk (n / 2 ^ 0 % 2 ^ 12 == 0 && n / 2 ^ 18 % 2 ^ 8 == 0) .await
  | 10 => chk (n / 2 ^ 0 % 2 ^ 12 == 0 && n / 2 ^ 18 % 2 ^ 8 == 0) .pin
  | 11 => chk (n / 2 ^ 0 % 2 ^ 12 == 0 && n / 2 ^ 18 % 2 ^ 8 == 0) .unpin
  | _ => .error .illegalOp

/-- A word from its fixed bits and its fields, each with its lowest bit (R77). -/
def encSum (b : Nat) : List (Nat × Nat) → Nat
  | [] => b
  | (v, lo) :: r => v * 2 ^ lo + encSum b r

/-- Decoding of a word's number (R79, R87): every major not listed is ILLEGAL_OP. -/
def decodeNat (n : Nat) : Except DecodeErr Instr :=
  match n / 2 ^ 26 with
  | 1 => dec1 n
  | 3 => dec3 n
  | 4 => dec4 n
  | 5 => dec5 n
  | 6 => dec6 n
  | 7 => dec7 n
  | 8 => dec8 n
  | 9 => dec9 n
  | 10 => dec10 n
  | 11 => dec11 n
  | 12 => dec12 n
  | 13 => dec13 n
  | 14 => dec14 n
  | 15 => dec15 n
  | 16 => dec16 n
  | 17 => dec17 n
  | 18 => dec18 n
  | 19 => dec19 n
  | 20 => dec20 n
  | 21 => dec21 n
  | 22 => dec22 n
  | 23 => dec23 n
  | 24 => dec24 n
  | 32 => dec32 n
  | 33 => dec33 n
  | 34 => dec34 n
  | 35 => dec35 n
  | 36 => dec36 n
  | 37 => dec37 n
  | 48 => dec48 n
  | 49 => dec49 n
  | 50 => dec50 n
  | 51 => dec51 n
  | 56 => dec56 n
  | 57 => dec57 n
  | 58 => dec58 n
  | 59 => dec59 n
  | 60 => dec60 n
  | 62 => dec62 n
  | _ => .error .illegalOp

/-- Decoding of a word. -/
def decode (w : BitVec 32) : Except DecodeErr Instr := decodeNat w.toNat

/-- Decoding of the first instruction of a list of bytes, with the bytes after it (R9, R76). -/
def decodeBytes : List (BitVec 8) → Except DecodeErr (Instr × List (BitVec 8))
  | b0 :: b1 :: b2 :: b3 :: rest =>
    match decodeNat (ofLe [b0, b1, b2, b3]) with
    | .ok i => .ok (i, rest)
    | .error e => .error e
  | _ => .error .short

/-- The word of an instruction, as a number (R77, R79 to R85, R210, R255); a step of the device has none. -/
def encodeNat : Instr → Option Nat
  | .add rd ra rb => some (encSum 0x4000100 [(rd.toNat, 22), (ra.toNat, 18), (rb.toNat, 14)])
  | .sub rd ra rb => some (encSum 0x4000200 [(rd.toNat, 22), (ra.toNat, 18), (rb.toNat, 14)])
  | .and rd ra rb => some (encSum 0x4000300 [(rd.toNat, 22), (ra.toNat, 18), (rb.toNat, 14)])
  | .or rd ra rb => some (encSum 0x4000400 [(rd.toNat, 22), (ra.toNat, 18), (rb.toNat, 14)])
  | .xor rd ra rb => some (encSum 0x4000500 [(rd.toNat, 22), (ra.toNat, 18), (rb.toNat, 14)])
  | .andn rd ra rb => some (encSum 0x4000600 [(rd.toNat, 22), (ra.toNat, 18), (rb.toNat, 14)])
  | .orn rd ra rb => some (encSum 0x4000700 [(rd.toNat, 22), (ra.toNat, 18), (rb.toNat, 14)])
  | .sll rd ra rb => some (encSum 0x4000800 [(rd.toNat, 22), (ra.toNat, 18), (rb.toNat, 14)])
  | .srl rd ra rb => some (encSum 0x4000900 [(rd.toNat, 22), (ra.toNat, 18), (rb.toNat, 14)])
  | .sra rd ra rb => some (encSum 0x4000a00 [(rd.toNat, 22), (ra.toNat, 18), (rb.toNat, 14)])
  | .rol rd ra rb => some (encSum 0x4000b00 [(rd.toNat, 22), (ra.toNat, 18), (rb.toNat, 14)])
  | .ror rd ra rb => some (encSum 0x4000c00 [(rd.toNat, 22), (ra.toNat, 18), (rb.toNat, 14)])
  | .slli rd ra sh => some (encSum 0x4000d00 [(rd.toNat, 22), (ra.toNat, 18), (sh.toNat, 0)])
  | .srli rd ra sh => some (encSum 0x4000e00 [(rd.toNat, 22), (ra.toNat, 18), (sh.toNat, 0)])
  | .srai rd ra sh => some (encSum 0x4000f00 [(rd.toNat, 22), (ra.toNat, 18), (sh.toNat, 0)])
  | .rori rd ra sh => some (encSum 0x4001000 [(rd.toNat, 22), (ra.toNat, 18), (sh.toNat, 0)])
  | .slt rd ra rb => some (encSum 0x4001100 [(rd.toNat, 22), (ra.toNat, 18), (rb.toNat, 14)])
  | .sltu rd ra rb => some (encSum 0x4001200 [(rd.toNat, 22), (ra.toNat, 18), (rb.toNat, 14)])
  | .seq rd ra rb => some (encSum 0x4001300 [(rd.toNat, 22), (ra.toNat, 18), (rb.toNat, 14)])
  | .min rd ra rb => some (encSum 0x4001400 [(rd.toNat, 22), (ra.toNat, 18), (rb.toNat, 14)])
  | .max rd ra rb => some (encSum 0x4001500 [(rd.toNat, 22), (ra.toNat, 18), (rb.toNat, 14)])
  | .minu rd ra rb => some (encSum 0x4001600 [(rd.toNat, 22), (ra.toNat, 18), (rb.toNat, 14)])
  | .maxu rd ra rb => some (encSum 0x4001700 [(rd.toNat, 22), (ra.toNat, 18), (rb.toNat, 14)])
  | .clz rd ra => some (encSum 0x4001800 [(rd.toNat, 22), (ra.toNat, 18)])
  | .ctz rd ra => some (encSum 0x4001900 [(rd.toNat, 22), (ra.toNat, 18)])
  | .pop rd ra => some (encSum 0x4001a00 [(rd.toNat, 22), (ra.toNat, 18)])
  | .sadd rd ra rb sc => some (encSum 0x4001b00 [(rd.toNat, 22), (ra.toNat, 18), (rb.toNat, 14), (sc.toNat, 0)])
  | .bfx rd ra pos lm1 => some (encSum 0xc000000 [(rd.toNat, 22), (ra.toNat, 18), (pos.toNat, 12), (lm1.toNat, 6)])
  | .bfxu rd ra pos lm1 => some (encSum 0xc000010 [(rd.toNat, 22), (ra.toNat, 18), (pos.toNat, 12), (lm1.toNat, 6)])
  | .bfi rd ra pos lm1 => some (encSum 0xc000020 [(rd.toNat, 22), (ra.toNat, 18), (pos.toNat, 12), (lm1.toNat, 6)])
  | .addi rd ra imm => some (encSum 0x10000000 [(rd.toNat, 22), (ra.toNat, 18), (imm.toNat, 0)])
  | .andi rd ra imm => some (encSum 0x14000000 [(rd.toNat, 22), (ra.toNat, 18), (imm.toNat, 0)])
  | .ori rd ra imm => some (encSum 0x18000000 [(rd.toNat, 22), (ra.toNat, 18), (imm.toNat, 0)])
  | .xori rd ra imm => some (encSum 0x1c000000 [(rd.toNat, 22), (ra.toNat, 18), (imm.toNat, 0)])
  | .slti rd ra imm => some (encSum 0x20000000 [(rd.toNat, 22), (ra.toNat, 18), (imm.toNat, 0)])
  | .sltiu rd ra imm => some (encSum 0x24000000 [(rd.toNat, 22), (ra.toNat, 18), (imm.toNat, 0)])
  | .lui rd imm => some (encSum 0x28000000 [(rd.toNat, 22), (imm.toNat, 0)])
  | .apc rd imm => some (encSum 0x2c000000 [(rd.toNat, 22), (imm.toNat, 0)])
  | .beq ra rb off => some (encSum 0x30000000 [(ra.toNat, 22), (rb.toNat, 18), (off.toNat, 0)])
  | .bne ra rb off => some (encSum 0x34000000 [(ra.toNat, 22), (rb.toNat, 18), (off.toNat, 0)])
  | .blt ra rb off => some (encSum 0x38000000 [(ra.toNat, 22), (rb.toNat, 18), (off.toNat, 0)])
  | .bge ra rb off => some (encSum 0x3c000000 [(ra.toNat, 22), (rb.toNat, 18), (off.toNat, 0)])
  | .bltu ra rb off => some (encSum 0x40000000 [(ra.toNat, 22), (rb.toNat, 18), (off.toNat, 0)])
  | .bgeu ra rb off => some (encSum 0x44000000 [(ra.toNat, 22), (rb.toNat, 18), (off.toNat, 0)])
  | .dbnz ra off => some (encSum 0x48000000 [(ra.toNat, 22), (off.toNat, 0)])
  | .jal rd off => some (encSum 0x4c000000 [(rd.toNat, 22), (off.toNat, 0)])
  | .jalr rd ra imm => some (encSum 0x50000000 [(rd.toNat, 22), (ra.toNat, 18), (imm.toNat, 0)])
  | .mul la rd ra rb => some (encSum 0x54000000 [(la.toNat, 22), (rd.toNat, 18), (ra.toNat, 14), (rb.toNat, 10)])
  | .mulh la rd ra rb => some (encSum 0x54000004 [(la.toNat, 22), (rd.toNat, 18), (ra.toNat, 14), (rb.toNat, 10)])
  | .mulhu la rd ra rb => some (encSum 0x54000008 [(la.toNat, 22), (rd.toNat, 18), (ra.toNat, 14), (rb.toNat, 10)])
  | .mulhsu la rd ra rb => some (encSum 0x5400000c [(la.toNat, 22), (rd.toNat, 18), (ra.toNat, 14), (rb.toNat, 10)])
  | .div la rd ra rb => some (encSum 0x54000010 [(la.toNat, 22), (rd.toNat, 18), (ra.toNat, 14), (rb.toNat, 10)])
  | .divu la rd ra rb => some (encSum 0x54000014 [(la.toNat, 22), (rd.toNat, 18), (ra.toNat, 14), (rb.toNat, 10)])
  | .rem la rd ra rb => some (encSum 0x54000018 [(la.toNat, 22), (rd.toNat, 18), (ra.toNat, 14), (rb.toNat, 10)])
  | .remu la rd ra rb => some (encSum 0x5400001c [(la.toNat, 22), (rd.toNat, 18), (ra.toNat, 14), (rb.toNat, 10)])
  | .madd la rd ra rb rc => some (encSum 0x54000020 [(la.toNat, 22), (rd.toNat, 18), (ra.toNat, 14), (rb.toNat, 10), (rc.toNat, 6)])
  | .fadd la rd ra rb fs => some (encSum 0x58000000 [(la.toNat, 22), (rd.toNat, 18), (ra.toNat, 14), (rb.toNat, 10), (fs.toNat, 0)])
  | .fsub la rd ra rb fs => some (encSum 0x58000004 [(la.toNat, 22), (rd.toNat, 18), (ra.toNat, 14), (rb.toNat, 10), (fs.toNat, 0)])
  | .fmul la rd ra rb fs => some (encSum 0x58000008 [(la.toNat, 22), (rd.toNat, 18), (ra.toNat, 14), (rb.toNat, 10), (fs.toNat, 0)])
  | .fdiv la rd ra rb fs => some (encSum 0x5800000c [(la.toNat, 22), (rd.toNat, 18), (ra.toNat, 14), (rb.toNat, 10), (fs.toNat, 0)])
  | .fsqrt la rd ra fs => some (encSum 0x58000010 [(la.toNat, 22), (rd.toNat, 18), (ra.toNat, 14), (fs.toNat, 0)])
  | .fmin la rd ra rb fs => some (encSum 0x58000014 [(la.toNat, 22), (rd.toNat, 18), (ra.toNat, 14), (rb.toNat, 10), (fs.toNat, 0)])
  | .fmax la rd ra rb fs => some (encSum 0x58000018 [(la.toNat, 22), (rd.toNat, 18), (ra.toNat, 14), (rb.toNat, 10), (fs.toNat, 0)])
  | .fma la rd ra rb rc fs => some (encSum 0x5800001c [(la.toNat, 22), (rd.toNat, 18), (ra.toNat, 14), (rb.toNat, 10), (rc.toNat, 6), (fs.toNat, 0)])
  | .feq la rd ra rb fs => some (encSum 0x58000020 [(la.toNat, 22), (rd.toNat, 18), (ra.toNat, 14), (rb.toNat, 10), (fs.toNat, 0)])
  | .flt la rd ra rb fs => some (encSum 0x58000024 [(la.toNat, 22), (rd.toNat, 18), (ra.toNat, 14), (rb.toNat, 10), (fs.toNat, 0)])
  | .fle la rd ra rb fs => some (encSum 0x58000028 [(la.toNat, 22), (rd.toNat, 18), (ra.toNat, 14), (rb.toNat, 10), (fs.toNat, 0)])
  | .fcvti la rd ra u width fs => some (encSum 0x5800002c [(la.toNat, 22), (rd.toNat, 18), (ra.toNat, 14), (u.toNat, 9), (width.toNat, 6), (fs.toNat, 0)])
  | .fcvtf la rd ra u width fs => some (encSum 0x58000030 [(la.toNat, 22), (rd.toNat, 18), (ra.toNat, 14), (u.toNat, 9), (width.toNat, 6), (fs.toNat, 0)])
  | .fcvt la rd ra src fs => some (encSum 0x58000034 [(la.toNat, 22), (rd.toNat, 18), (ra.toNat, 14), (src.toNat, 6), (fs.toNat, 0)])
  | .fsgnj la rd ra rb sj fs => some (encSum 0x58000038 [(la.toNat, 22), (rd.toNat, 18), (ra.toNat, 14), (rb.toNat, 10), (sj.toNat, 6), (fs.toNat, 0)])
  | .fclass la rd ra fs => some (encSum 0x5800003c [(la.toNat, 22), (rd.toNat, 18), (ra.toNat, 14), (fs.toNat, 0)])
  | .ldb la rd ra off => some (encSum 0x5c000000 [(la.toNat, 22), (rd.toNat, 18), (ra.toNat, 14), (off.toNat, 0)])
  | .ldbu la rd ra off => some (encSum 0x5c000800 [(la.toNat, 22), (rd.toNat, 18), (ra.toNat, 14), (off.toNat, 0)])
  | .ldh la rd ra off => some (encSum 0x5c001000 [(la.toNat, 22), (rd.toNat, 18), (ra.toNat, 14), (off.toNat, 0)])
  | .ldhu la rd ra off => some (encSum 0x5c001800 [(la.toNat, 22), (rd.toNat, 18), (ra.toNat, 14), (off.toNat, 0)])
  | .ldw la rd ra off => some (encSum 0x5c002000 [(la.toNat, 22), (rd.toNat, 18), (ra.toNat, 14), (off.toNat, 0)])
  | .ldwu la rd ra off => some (encSum 0x5c002800 [(la.toNat, 22), (rd.toNat, 18), (ra.toNat, 14), (off.toNat, 0)])
  | .ldd la rd ra off => some (encSum 0x5c003000 [(la.toNat, 22), (rd.toNat, 18), (ra.toNat, 14), (off.toNat, 0)])
  | .stb la rd ra off => some (encSum 0x60000000 [(la.toNat, 22), (rd.toNat, 18), (ra.toNat, 14), (off.toNat, 0)])
  | .sth la rd ra off => some (encSum 0x60001000 [(la.toNat, 22), (rd.toNat, 18), (ra.toNat, 14), (off.toNat, 0)])
  | .stw la rd ra off => some (encSum 0x60002000 [(la.toNat, 22), (rd.toNat, 18), (ra.toNat, 14), (off.toNat, 0)])
  | .std la rd ra off => some (encSum 0x60003000 [(la.toNat, 22), (rd.toNat, 18), (ra.toNat, 14), (off.toNat, 0)])
  | .nop => some (encSum 0xf8000000 [])
  | .crr rd cr => some (encSum 0xf8001000 [(rd.toNat, 22), (cr.toNat, 0)])
  | .crw rd ra cr => some (encSum 0xf8002000 [(rd.toNat, 22), (ra.toNat, 18), (cr.toNat, 0)])
  | .crs rd ra cr => some (encSum 0xf8003000 [(rd.toNat, 22), (ra.toNat, 18), (cr.toNat, 0)])
  | .crc rd ra cr => some (encSum 0xf8004000 [(rd.toNat, 22), (ra.toNat, 18), (cr.toNat, 0)])
  | .svc code => some (encSum 0xf8005000 [(code.toNat, 0)])
  | .trap code => some (encSum 0xf8006000 [(code.toNat, 0)])
  | .tret => some (encSum 0xf8007000 [])
  | .brk code => some (encSum 0xf8008000 [(code.toNat, 0)])
  | .await => some (encSum 0xf8009000 [])
  | .pin => some (encSum 0xf800a000 [])
  | .unpin => some (encSum 0xf800b000 [])
  | .ptrset la vd vs1 vs2 => some (encSum 0x80000000 [(la.toNat, 22), (vd.toNat, 18), (vs1.toNat, 14), (vs2.toNat, 10)])
  | .ptrdim la vd vs1 => some (encSum 0x80000001 [(la.toNat, 22), (vd.toNat, 18), (vs1.toNat, 14)])
  | .ptrget la vd vs1 vs2 => some (encSum 0x80000002 [(la.toNat, 22), (vd.toNat, 18), (vs1.toNat, 14), (vs2.toNat, 10)])
  | .vadd la vd vs1 vs2 pm => some (encSum 0x84000000 [(la.toNat, 22), (vd.toNat, 18), (vs1.toNat, 14), (vs2.toNat, 10), (pm.toNat, 6)])
  | .vsub la vd vs1 vs2 pm => some (encSum 0x84000001 [(la.toNat, 22), (vd.toNat, 18), (vs1.toNat, 14), (vs2.toNat, 10), (pm.toNat, 6)])
  | .vmul la vd vs1 vs2 pm => some (encSum 0x84000002 [(la.toNat, 22), (vd.toNat, 18), (vs1.toNat, 14), (vs2.toNat, 10), (pm.toNat, 6)])
  | .vmin la vd vs1 vs2 pm => some (encSum 0x84000003 [(la.toNat, 22), (vd.toNat, 18), (vs1.toNat, 14), (vs2.toNat, 10), (pm.toNat, 6)])
  | .vmax la vd vs1 vs2 pm => some (encSum 0x84000004 [(la.toNat, 22), (vd.toNat, 18), (vs1.toNat, 14), (vs2.toNat, 10), (pm.toNat, 6)])
  | .vabs la vd vs1 pm => some (encSum 0x84000005 [(la.toNat, 22), (vd.toNat, 18), (vs1.toNat, 14), (pm.toNat, 6)])
  | .vneg la vd vs1 pm => some (encSum 0x84000006 [(la.toNat, 22), (vd.toNat, 18), (vs1.toNat, 14), (pm.toNat, 6)])
  | .vand la vd vs1 vs2 pm => some (encSum 0x84000007 [(la.toNat, 22), (vd.toNat, 18), (vs1.toNat, 14), (vs2.toNat, 10), (pm.toNat, 6)])
  | .vor la vd vs1 vs2 pm => some (encSum 0x84000008 [(la.toNat, 22), (vd.toNat, 18), (vs1.toNat, 14), (vs2.toNat, 10), (pm.toNat, 6)])
  | .vxor la vd vs1 vs2 pm => some (encSum 0x84000009 [(la.toNat, 22), (vd.toNat, 18), (vs1.toNat, 14), (vs2.toNat, 10), (pm.toNat, 6)])
  | .vshl la vd vs1 vs2 pm => some (encSum 0x8400000a [(la.toNat, 22), (vd.toNat, 18), (vs1.toNat, 14), (vs2.toNat, 10), (pm.toNat, 6)])
  | .vshr la vd vs1 vs2 pm => some (encSum 0x8400000b [(la.toNat, 22), (vd.toNat, 18), (vs1.toNat, 14), (vs2.toNat, 10), (pm.toNat, 6)])
  | .vfma la vd vs1 vs2 pm => some (encSum 0x8400000c [(la.toNat, 22), (vd.toNat, 18), (vs1.toNat, 14), (vs2.toNat, 10), (pm.toNat, 6)])
  | .vsel la vd vs1 vs2 pm => some (encSum 0x8400000d [(la.toNat, 22), (vd.toNat, 18), (vs1.toNat, 14), (vs2.toNat, 10), (pm.toNat, 6)])
  | .vcmpEq la vd vs1 vs2 pm => some (encSum 0x8400000e [(la.toNat, 22), (vd.toNat, 18), (vs1.toNat, 14), (vs2.toNat, 10), (pm.toNat, 6)])
  | .vcmpNe la vd vs1 vs2 pm => some (encSum 0x8400000f [(la.toNat, 22), (vd.toNat, 18), (vs1.toNat, 14), (vs2.toNat, 10), (pm.toNat, 6)])
  | .vcmpLt la vd vs1 vs2 pm => some (encSum 0x84000010 [(la.toNat, 22), (vd.toNat, 18), (vs1.toNat, 14), (vs2.toNat, 10), (pm.toNat, 6)])
  | .vcmpLe la vd vs1 vs2 pm => some (encSum 0x84000011 [(la.toNat, 22), (vd.toNat, 18), (vs1.toNat, 14), (vs2.toNat, 10), (pm.toNat, 6)])
  | .vperm la vd vs1 vs2 pm => some (encSum 0x84000012 [(la.toNat, 22), (vd.toNat, 18), (vs1.toNat, 14), (vs2.toNat, 10), (pm.toNat, 6)])
  | .vbcast la vd vs1 pm => some (encSum 0x84000013 [(la.toNat, 22), (vd.toNat, 18), (vs1.toNat, 14), (pm.toNat, 6)])
  | .vcvt la vd vs1 vs2 pm => some (encSum 0x88000000 [(la.toNat, 22), (vd.toNat, 18), (vs1.toNat, 14), (vs2.toNat, 10), (pm.toNat, 6)])
  | .vcvtS la vd vs1 quant sreg pm => some (encSum 0x88000001 [(la.toNat, 22), (vd.toNat, 18), (vs1.toNat, 14), (quant.toNat, 13), (sreg.toNat, 10), (pm.toNat, 6)])
  | .vpack la vd vs1 => some (encSum 0x88000002 [(la.toNat, 22), (vd.toNat, 18), (vs1.toNat, 14)])
  | .vunpack la vd vs1 => some (encSum 0x88000003 [(la.toNat, 22), (vd.toNat, 18), (vs1.toNat, 14)])
  | .vdot la vs1 vs2 pm => some (encSum 0x8c000000 [(la.toNat, 22), (vs1.toNat, 14), (vs2.toNat, 10), (pm.toNat, 6)])
  | .vdotS la vd vs1 vs2 pm => some (encSum 0x8c000001 [(la.toNat, 22), (vd.toNat, 18), (vs1.toNat, 14), (vs2.toNat, 10), (pm.toNat, 6)])
  | .vsum la vs1 pm => some (encSum 0x8c000002 [(la.toNat, 22), (vs1.toNat, 14), (pm.toNat, 6)])
  | .vredMax la vs1 pm => some (encSum 0x8c000003 [(la.toNat, 22), (vs1.toNat, 14), (pm.toNat, 6)])
  | .vredMin la vs1 pm => some (encSum 0x8c000004 [(la.toNat, 22), (vs1.toNat, 14), (pm.toNat, 6)])
  | .vaccClr la vs1 => some (encSum 0x8c000005 [(la.toNat, 22), (vs1.toNat, 14)])
  | .vaccSt la vd pm => some (encSum 0x8c000006 [(la.toNat, 22), (vd.toNat, 18), (pm.toNat, 6)])
  | .vaccRd la vd vs1 vs2 => some (encSum 0x8c000007 [(la.toNat, 22), (vd.toNat, 18), (vs1.toNat, 14), (vs2.toNat, 10)])
  | .vexp2 la vd vs1 pm => some (encSum 0x90000000 [(la.toNat, 22), (vd.toNat, 18), (vs1.toNat, 14), (pm.toNat, 6)])
  | .vrcp la vd vs1 pm => some (encSum 0x90000001 [(la.toNat, 22), (vd.toNat, 18), (vs1.toNat, 14), (pm.toNat, 6)])
  | .vrsqrt la vd vs1 pm => some (encSum 0x90000002 [(la.toNat, 22), (vd.toNat, 18), (vs1.toNat, 14), (pm.toNat, 6)])
  | .vgath la vd vs1 vs2 pm => some (encSum 0x94000000 [(la.toNat, 22), (vd.toNat, 18), (vs1.toNat, 14), (vs2.toNat, 10), (pm.toNat, 6)])
  | .vscat la vd vs1 vs2 pm => some (encSum 0x94000001 [(la.toNat, 22), (vd.toNat, 18), (vs1.toNat, 14), (vs2.toNat, 10), (pm.toNat, 6)])
  | .vcprs la vd vs1 vs2 pm => some (encSum 0x94000002 [(la.toNat, 22), (vd.toNat, 18), (vs1.toNat, 14), (vs2.toNat, 10), (pm.toNat, 6)])
  | .vhamf la vd vs1 vs2 pm => some (encSum 0x94000003 [(la.toNat, 22), (vd.toNat, 18), (vs1.toNat, 14), (vs2.toNat, 10), (pm.toNat, 6)])
  | .tcfg ga => some (encSum 0xc0000000 [(ga.toNat, 12)])
  | .tcfgD ga => some (encSum 0xc0000001 [(ga.toNat, 12)])
  | .mzero la m => some (encSum 0xc0000002 [(la.toNat, 22), (m.toNat, 20)])
  | .mwait => some (encSum 0xc0000003 [])
  | .mexc la ga clr => some (encSum 0xc0000004 [(la.toNat, 22), (ga.toNat, 12), (clr.toNat, 4)])
  | .mscale la m p ga row => some (encSum 0xc0000005 [(la.toNat, 22), (m.toNat, 20), (p.toNat, 16), (ga.toNat, 12), (row.toNat, 4)])
  | .mma la m p ga gb neg nacc fb scl => some (encSum 0xc4000000 [(la.toNat, 22), (m.toNat, 20), (p.toNat, 16), (ga.toNat, 12), (gb.toNat, 8), (neg.toNat, 7), (nacc.toNat, 6), (fb.toNat, 5), (scl.toNat, 4)])
  | .mmaCo la m p ga gb neg nacc fb scl => some (encSum 0xc4000001 [(la.toNat, 22), (m.toNat, 20), (p.toNat, 16), (ga.toNat, 12), (gb.toNat, 8), (neg.toNat, 7), (nacc.toNat, 6), (fb.toNat, 5), (scl.toNat, 4)])
  | .mmi la m p ga gb lr nacc cm => some (encSum 0xc4000002 [(la.toNat, 22), (m.toNat, 20), (p.toNat, 16), (ga.toNat, 12), (gb.toNat, 8), (lr.toNat, 7), (nacc.toNat, 6), (cm.toNat, 4)])
  | .mmt la m p ga gb lr nacc cm => some (encSum 0xc4000003 [(la.toNat, 22), (m.toNat, 20), (p.toNat, 16), (ga.toNat, 12), (gb.toNat, 8), (lr.toNat, 7), (nacc.toNat, 6), (cm.toNat, 4)])
  | .msig la m p fb => some (encSum 0xc4000004 [(la.toNat, 22), (m.toNat, 20), (p.toNat, 16), (fb.toNat, 5)])
  | .mldb la p lr dst => some (encSum 0xc8000000 [(la.toNat, 22), (p.toNat, 16), (lr.toNat, 7), (dst.toNat, 4)])
  | .mrd la m p fmt => some (encSum 0xc8000001 [(la.toNat, 22), (m.toNat, 20), (p.toNat, 16), (fmt.toNat, 4)])
  | .mwr la m p fmt => some (encSum 0xc8000002 [(la.toNat, 22), (m.toNat, 20), (p.toNat, 16), (fmt.toNat, 4)])
  | .mdrain la m ga clr => some (encSum 0xc8000003 [(la.toNat, 22), (m.toNat, 20), (ga.toNat, 12), (clr.toNat, 4)])
  | .mdrainAdd la m ga clr => some (encSum 0xc8000004 [(la.toNat, 22), (m.toNat, 20), (ga.toNat, 12), (clr.toNat, 4)])
  | .mmov la m src => some (encSum 0xc8000005 [(la.toNat, 22), (m.toNat, 20), (src.toNat, 4)])
  | .mrowRd la m p den => some (encSum 0xc8000006 [(la.toNat, 22), (m.toNat, 20), (p.toNat, 16), (den.toNat, 4)])
  | .mrowWr la m p den => some (encSum 0xc8000007 [(la.toNat, 22), (m.toNat, 20), (p.toNat, 16), (den.toNat, 4)])
  | .msmx la m p ga src fb mk => some (encSum 0xcc000000 [(la.toNat, 22), (m.toNat, 20), (p.toNat, 16), (ga.toNat, 12), (src.toNat, 6), (fb.toNat, 5), (mk.toNat, 4)])
  | .mmrg la m other => some (encSum 0xcc000001 [(la.toNat, 22), (m.toNat, 20), (other.toNat, 4)])
  | .mfin la m => some (encSum 0xcc000002 [(la.toNat, 22), (m.toNat, 20)])
  | .send la w ra rb rc => some (encSum 0xe0000000 [(la.toNat, 22), (w.toNat, 18), (ra.toNat, 14), (rb.toNat, 10), (rc.toNat, 6)])
  | .sendl la rd ra rb rc => some (encSum 0xe0000001 [(la.toNat, 22), (rd.toNat, 18), (ra.toNat, 14), (rb.toNat, 10), (rc.toNat, 6)])
  | .reply la w rb rc => some (encSum 0xe0000002 [(la.toNat, 22), (w.toNat, 18), (rb.toNat, 10), (rc.toNat, 6)])
  | .hret => some (encSum 0xe0000003 [])
  | .mpoll la rd ra q => some (encSum 0xe0000004 [(la.toNat, 22), (rd.toNat, 18), (ra.toNat, 14), (q.toNat, 6)])
  | .rsend la det op ra rb rc => some (encSum 0xe0000005 [(la.toNat, 22), (det.toNat, 20), (op.toNat, 18), (ra.toNat, 14), (rb.toNat, 10), (rc.toNat, 6)])
  | .barInit la ra n => some (encSum 0xe4000000 [(la.toNat, 22), (ra.toNat, 14), (n.toNat, 6)])
  | .barArr la rd ra n => some (encSum 0xe4000001 [(la.toNat, 22), (rd.toNat, 18), (ra.toNat, 14), (n.toNat, 6)])
  | .barExp la ra n => some (encSum 0xe4000002 [(la.toNat, 22), (ra.toNat, 14), (n.toNat, 6)])
  | .barWait ra n => some (encSum 0xe4000003 [(ra.toNat, 14), (n.toNat, 6)])
  | .barTest la rd n => some (encSum 0xe4000004 [(la.toNat, 22), (rd.toNat, 18), (n.toNat, 6)])
  | .barFlags la rd n => some (encSum 0xe4000005 [(la.toNat, 22), (rd.toNat, 18), (n.toNat, 6)])
  | .ecSet la ra n => some (encSum 0xe4000008 [(la.toNat, 22), (ra.toNat, 14), (n.toNat, 6)])
  | .ecInc la ra n => some (encSum 0xe4000009 [(la.toNat, 22), (ra.toNat, 14), (n.toNat, 6)])
  | .ecArm la rd ra n => some (encSum 0xe400000a [(la.toNat, 22), (rd.toNat, 18), (ra.toNat, 14), (n.toNat, 6)])
  | .ecRd la rd n => some (encSum 0xe400000b [(la.toNat, 22), (rd.toNat, 18), (n.toNat, 6)])
  | .semPost la ra n => some (encSum 0xe4000010 [(la.toNat, 22), (ra.toNat, 14), (n.toNat, 6)])
  | .semTake la ra n => some (encSum 0xe4000011 [(la.toNat, 22), (ra.toNat, 14), (n.toNat, 6)])
  | .fence n => some (encSum 0xe4000018 [(n.toNat, 6)])
  | .atom la rd ra rb op => some (encSum 0xe8000000 [(la.toNat, 22), (rd.toNat, 18), (ra.toNat, 14), (rb.toNat, 10), (op.toNat, 6)])
  | .atomRet la rd ra rb op => some (encSum 0xe8000001 [(la.toNat, 22), (rd.toNat, 18), (ra.toNat, 14), (rb.toNat, 10), (op.toNat, 6)])
  | .acq rd ra => some (encSum 0xe8000008 [(rd.toNat, 18), (ra.toNat, 14)])
  | .rel ra rb => some (encSum 0xe8000009 [(ra.toNat, 14), (rb.toNat, 10)])
  | .bind la ra rb rc => some (encSum 0xe800000a [(la.toNat, 22), (ra.toNat, 14), (rb.toNat, 10), (rc.toNat, 6)])
  | .unbind la ra => some (encSum 0xe800000b [(la.toNat, 22), (ra.toNat, 14)])
  | .copy la rd ra rb rc => some (encSum 0xe8000010 [(la.toNat, 22), (rd.toNat, 18), (ra.toNat, 14), (rb.toNat, 10), (rc.toNat, 6)])
  | .collCfg la rd ra rb => some (encSum 0xe8000018 [(la.toNat, 22), (rd.toNat, 18), (ra.toNat, 14), (rb.toNat, 10)])
  | .collRdy la ra rb => some (encSum 0xe8000019 [(la.toNat, 22), (ra.toNat, 14), (rb.toNat, 10)])
  | .strmOpen la ra => some (encSum 0xe800001c [(la.toNat, 22), (ra.toNat, 14)])
  | .strmClose la ra => some (encSum 0xe800001d [(la.toNat, 22), (ra.toNat, 14)])
  | .itreq la ra slot => some (encSum 0xec000000 [(la.toNat, 22), (ra.toNat, 14), (slot.toNat, 6)])
  | .itreqX la ra rb slot => some (encSum 0xec000001 [(la.toNat, 22), (ra.toNat, 14), (rb.toNat, 10), (slot.toNat, 6)])
  | .ithold la rd ra slot => some (encSum 0xec000002 [(la.toNat, 22), (rd.toNat, 18), (ra.toNat, 14), (slot.toNat, 6)])
  | .itrel la slot => some (encSum 0xec000003 [(la.toNat, 22), (slot.toNat, 6)])
  | .itstat la rd slot => some (encSum 0xec000004 [(la.toNat, 22), (rd.toNat, 18), (slot.toNat, 6)])
  | .itland la ra slot => some (encSum 0xec000005 [(la.toNat, 22), (ra.toNat, 14), (slot.toNat, 6)])
  | .bdeal la rd ra rb => some (encSum 0xec000008 [(la.toNat, 22), (rd.toNat, 18), (ra.toNat, 14), (rb.toNat, 10)])
  | .bdpat la ra rb => some (encSum 0xec000009 [(la.toNat, 22), (ra.toNat, 14), (rb.toNat, 10)])
  | .spawn la ra x => some (encSum 0xf0000000 [(la.toNat, 22), (ra.toNat, 14), (x.toNat, 6)])
  | .spawnR la ra rb x => some (encSum 0xf0000001 [(la.toNat, 22), (ra.toNat, 14), (rb.toNat, 10), (x.toNat, 6)])
  | .yield => some (encSum 0xf0000002 [])
  | .halt ra rt => some (encSum 0xf0000003 [(ra.toNat, 14), (rt.toNat, 6)])
  | .trig la => some (encSum 0xf0000004 [(la.toNat, 22)])
  | .awaitEv ra rb => some (encSum 0xf0000005 [(ra.toNat, 14), (rb.toNat, 10)])
  | .cmp ra => some (encSum 0xf0000008 [(ra.toNat, 14)])
  | .dcmp => some (encSum 0xf0000009 [])
  | _ => none

/-- The word of an instruction; a step of the device has none. -/
def encode (i : Instr) : Option (BitVec 32) := (encodeNat i).map (BitVec.ofNat 32)

/-- The instruction word that a trap's info holds (R88). -/
def Instr.word (i : Instr) : BitVec 64 := BitVec.ofNat 64 ((encodeNat i).getD 0)

/-- The instruction read from a word of nbits bits whose value is w (bit 0 least significant): laid out in memory order and
given to the decoder. -/
def decodeTableWord (nbits w : Nat) : Option Instr :=
  if nbits = 32 then
    match decodeBytes (leBytes 4 w) with
    | .ok (i, _) => some i
    | .error _ => none
  else none

end Sys2Proof
end

