-- ==== Sys2Proof/Machine/Fp.lean ====
section
/-! DEFINITION. Number formats, rounding and the defined approximations (R44 to R73).

A finite value is (-1)^neg * m * 2^e with m a natural number, so sums and products are exact; a quotient and a root carry
one sticky bit below more bits than any format keeps, which rounds as the exact value does. -/

namespace Sys2Proof.Machine
open Sys2Proof

/-- A floating-point value (R44, R45): NaN, an infinity, or a finite value with its sign. -/
inductive Fv where
  | nan
  | inf (neg : Bool)
  | fin (neg : Bool) (m : Nat) (e : Int)
  deriving DecidableEq, Repr

/-- How a format spends its all-ones codes (R44, R47, R48). -/
inductive FpKind where
  | ieee | e4m3 | fp4
  deriving DecidableEq, Repr

/-- A floating-point format (R44). -/
structure FpFmt where
  ebits : Nat
  fbits : Nat
  bias  : Nat
  kind  : FpKind
  deriving DecidableEq, Repr

def fp64 : FpFmt := ⟨11, 52, 1023, .ieee⟩
def fp32 : FpFmt := ⟨8, 23, 127, .ieee⟩
def bf16 : FpFmt := ⟨8, 7, 127, .ieee⟩
def fp16 : FpFmt := ⟨5, 10, 15, .ieee⟩
def e4m3 : FpFmt := ⟨4, 3, 7, .e4m3⟩
def e5m2 : FpFmt := ⟨5, 2, 15, .ieee⟩
def fp4 : FpFmt := ⟨2, 1, 1, .fp4⟩

/-- Width of a format in bits. -/
def FpFmt.width (f : FpFmt) : Nat := 1 + f.ebits + f.fbits

/-- Sticky flags (R17, R57), in the order of fflags. -/
abbrev Flags := BitVec 5
def fNV : Flags := 16
def fDZ : Flags := 8
def fOF : Flags := 4
def fUF : Flags := 2
def fNX : Flags := 1

/-- Rounding modes by the code of sw.rm (R17, R56). -/
abbrev Rm := BitVec 2
def rne : Rm := 0
def rtz : Rm := 1
def rup : Rm := 2
def rdn : Rm := 3

/-- The canonical NaN of a format (R45); FP4 has none. -/
def FpFmt.canonNaN (f : FpFmt) : Nat :=
  match f.kind with
  | .ieee => (2 ^ f.ebits - 1) * 2 ^ f.fbits + 2 ^ (f.fbits - 1)
  | .e4m3 => 0x7F
  | .fp4 => 0

/-- Exponent-field-and-fraction code of the largest finite value (R44). -/
def FpFmt.maxCode (f : FpFmt) : Nat :=
  match f.kind with
  | .ieee => (2 ^ f.ebits - 1) * 2 ^ f.fbits - 1
  | .e4m3 => 0x7E
  | .fp4 => 0x7

/-- Value of a code (R44, R47, R48). -/
def FpFmt.value (f : FpFmt) (code : Nat) : Fv :=
  let neg := code / 2 ^ (f.ebits + f.fbits) % 2 == 1
  let e := code / 2 ^ f.fbits % 2 ^ f.ebits
  let m := code % 2 ^ f.fbits
  let fin := if e = 0 then Fv.fin neg m (1 - (f.bias : Int) - f.fbits)
             else Fv.fin neg (2 ^ f.fbits + m) ((e : Int) - f.bias - f.fbits)
  match f.kind with
  | .ieee => if e = 2 ^ f.ebits - 1 then (if m = 0 then .inf neg else .nan) else fin
  | .e4m3 => if e = 15 ∧ m = 7 then .nan else fin
  | .fp4 => fin

/-- Sign bit of a code placed in a code of a format. -/
def FpFmt.signed (f : FpFmt) (neg : Bool) (code : Nat) : Nat := if neg then code + 2 ^ (f.ebits + f.fbits) else code

/-- Position of the most significant 1 of a nonzero number. -/
def msb (m : Nat) : Nat := Nat.log2 m

/-- Round m * 2^e, with an extra part below its last bit when sticky, to integer multiples of 2^q; the second component
says whether anything was lost. -/
def roundAt (mode : Rm) (neg : Bool) (m : Nat) (e q : Int) (sticky : Bool) : Nat × Bool :=
  if q ≤ e then (m * 2 ^ (e - q).toNat, sticky)
  else
    let sh := (q - e).toNat
    let d := 2 ^ sh
    let quo := m / d
    let r := m % d
    let lost := r != 0 || sticky
    let up :=
      if mode = rne then decide (2 * r > d) || (decide (2 * r = d) && (sticky || quo % 2 == 1))
      else if mode = rup then lost && !neg
      else if mode = rdn then lost && neg
      else false
    (if up then quo + 1 else quo, lost)

/-- The infinity of a sign, in a format that has one. -/
def FpFmt.infCode (f : FpFmt) (neg : Bool) : Nat := f.signed neg ((2 ^ f.ebits - 1) * 2 ^ f.fbits)

/-- Round a nonzero finite value to a format (R49, R56, R57): the code and the flags. -/
def FpFmt.roundFin (f : FpFmt) (mode : Rm) (neg : Bool) (m : Nat) (e : Int) (sticky : Bool) : Nat × Flags :=
  let emin := 1 - (f.bias : Int)
  let top := e + msb m
  let q := max (top - f.fbits) (emin - f.fbits)
  let r := roundAt mode neg m e q sticky
  let n := r.1
  let maxV := f.value f.maxCode
  let tooBig := match maxV with
    | .fin _ mm me => if q ≤ me then decide (n > mm * 2 ^ (me - q).toNat) else decide (n * 2 ^ (q - me).toNat > mm)
    | _ => false
  if tooBig then
    let toInf := mode = rne ∨ (mode = rup ∧ neg = false) ∨ (mode = rdn ∧ neg = true)
    let code := if f.kind = .ieee ∧ toInf then f.infCode neg else f.signed neg f.maxCode
    (code, fOF ||| fNX)
  else
    let tiny := decide (top < emin)
    let fl : Flags := if r.2 then (if tiny then fNX ||| fUF else fNX) else 0
    -- n counts multiples of 2^q, and the codes of one sign are consecutive in magnitude
    let code := (q - (emin - f.fbits)).toNat * 2 ^ f.fbits + n
    (f.signed neg code, fl)

/-- rnd(x, fmt, mode) of R14 and R56 on an exact value, with the rules of R49 for formats without infinities; sticky says
that the finite value has an extra part below its last bit. -/
def FpFmt.round (f : FpFmt) (mode : Rm) (x : Fv) (sticky : Bool := false) : Nat × Flags :=
  match x with
  | .nan => if f.kind = .fp4 then (0, fNV) else (f.canonNaN, 0)
  | .inf neg =>
    match f.kind with
    | .ieee => (f.infCode neg, 0)
    | .e4m3 => (f.canonNaN, fNV)
    | .fp4 => (f.signed neg 7, fNV)
  | .fin neg m e =>
    if m = 0 then (f.signed neg 0, 0) else f.roundFin mode neg m e sticky

/-- Negation, magnitude. -/
def Fv.neg : Fv → Fv
  | .nan => .nan
  | .inf s => .inf (!s)
  | .fin s m e => .fin (!s) m e

/-- Exact product; the flag is nv for 0 × ∞ (R57). -/
def Fv.mul (a b : Fv) : Fv × Flags :=
  match a, b with
  | .nan, _ => (.nan, 0)
  | _, .nan => (.nan, 0)
  | .inf s, .inf t => (.inf (s != t), 0)
  | .inf s, .fin t m _ => if m = 0 then (.nan, fNV) else (.inf (s != t), 0)
  | .fin s m _, .inf t => if m = 0 then (.nan, fNV) else (.inf (s != t), 0)
  | .fin s m e, .fin t n d => (.fin (s != t) (m * n) (e + d), 0)

/-- m * 2^(e - q) as an integer with its sign, q at most e. -/
def scaledInt (neg : Bool) (m : Nat) (e q : Int) : Int :=
  let v : Int := (m : Int) * 2 ^ (e - q).toNat
  if neg then -v else v

/-- What an exact sum has met so far: a NaN, infinities of each sign, the finite part as (value, exponent), whether every
term so far is a zero, and whether all zeros so far are negative. -/
structure SumAcc where
  nan  : Bool := false
  pInf : Bool := false
  nInf : Bool := false
  v    : Int := 0
  e    : Int := 0
  zeros : Bool := true
  negs : Bool := true
  poss : Bool := true
  deriving DecidableEq, Repr

/-- Add one term to an exact sum. -/
def SumAcc.add (a : SumAcc) (x : Fv) : SumAcc :=
  match x with
  | .nan => { a with nan := true }
  | .inf s => if s then { a with nInf := true } else { a with pInf := true }
  | .fin s m e =>
    let a := { a with zeros := a.zeros && m == 0, negs := a.negs && s, poss := a.poss && !s }
    if m = 0 then a
    else if a.v = 0 then { a with v := (if s then -(m : Int) else m), e := e }
    else
      let q := min a.e e
      { a with v := a.v * 2 ^ (a.e - q).toNat + scaledInt s m e q, e := q }

/-- The exact sum (R46): a zero sum of zeros of one sign keeps it; any other zero sum is -0 in mode rdn and +0 otherwise. A NaN term
prevails over infinities of both signs, whose nv is then not raised (R45, R57, log 59). -/
def SumAcc.done (a : SumAcc) (mode : Rm) : Fv × Flags :=
  if a.nan then (.nan, 0)
  else if a.pInf && a.nInf then (.nan, fNV)
  else if a.pInf then (.inf false, 0)
  else if a.nInf then (.inf true, 0)
  else if a.v = 0 then
    (.fin (if a.zeros && a.negs && !a.poss then true else if a.zeros && a.poss && !a.negs then false else mode == rdn) 0 0, 0)
  else (.fin (decide (a.v < 0)) a.v.natAbs a.e, 0)

/-- Exact sum of a list of values. -/
def sumFv (mode : Rm) (xs : List Fv) : Fv × Flags := (xs.foldl SumAcc.add {}).done mode

/-- Exact sum of two values. -/
def Fv.add (mode : Rm) (a b : Fv) : Fv × Flags := sumFv mode [a, b]

/-- The quotient as a value to round, with its sticky bit; nv and dz of R57. -/
def Fv.div (a b : Fv) : (Fv × Bool) × Flags :=
  match a, b with
  | .nan, _ => ((.nan, false), 0)
  | _, .nan => ((.nan, false), 0)
  | .inf _, .inf _ => ((.nan, false), fNV)
  | .inf s, .fin t _ _ => ((.inf (s != t), false), 0)
  | .fin s _ _, .inf t => ((.fin (s != t) 0 0, false), 0)
  | .fin s m e, .fin t n d =>
    if n = 0 then (if m = 0 then ((.nan, false), fNV) else ((.inf (s != t), false), fDZ))
    else if m = 0 then ((.fin (s != t) 0 0, false), 0)
    else
      let k := 130 + msb n
      let num := m * 2 ^ k
      ((.fin (s != t) (num / n) (e - d - k), decide (num % n ≠ 0)), 0)

/-- Integer square root, by bits from 2^(k-1) down. -/
def isqrtGo (n : Nat) : Nat → Nat → Nat
  | 0, r => r
  | k + 1, r => if (r + 2 ^ k) * (r + 2 ^ k) ≤ n then isqrtGo n k (r + 2 ^ k) else isqrtGo n k r

/-- Integer square root of n. -/
def isqrt (n : Nat) : Nat := isqrtGo n (msb n / 2 + 1) 0

/-- The square root as a value to round, with its sticky bit (R57, R137). -/
def Fv.sqrt (a : Fv) : (Fv × Bool) × Flags :=
  match a with
  | .nan => ((.nan, false), 0)
  | .inf s => if s then ((.nan, false), fNV) else ((.inf false, false), 0)
  | .fin s m e =>
    if m = 0 then ((.fin s 0 0, false), 0)
    else if s then ((.nan, false), fNV)
    else
      let m1 := if e % 2 = 0 then m * 2 ^ 130 else m * 2 ^ 131
      let e1 := if e % 2 = 0 then e - 130 else e - 131
      let r := isqrt m1
      ((.fin false r (e1 / 2), decide (r * r ≠ m1)), 0)

/-- Order of two values that are not NaN: negative, zero or positive as a is below, equal to or above b; zeros are equal. -/
def Fv.cmp (a b : Fv) : Int :=
  match a, b with
  | .nan, _ => 0
  | _, .nan => 0
  | .inf s, .inf t => if s = t then 0 else if s then -1 else 1
  | .inf s, .fin _ _ _ => if s then -1 else 1
  | .fin _ _ _, .inf t => if t then 1 else -1
  | .fin s m e, .fin t n d =>
    let q := min e d
    scaledInt s m e q - scaledInt t n d q

/-- Sign of a value. -/
def Fv.sgn : Fv → Bool
  | .nan => false
  | .inf s => s
  | .fin s _ _ => s

def Fv.isNaN : Fv → Bool
  | .nan => true
  | _ => false

/-- The lesser or greater, with -0 < +0 (R137). -/
def Fv.minmax (isMax : Bool) (a b : Fv) : Fv :=
  if a.isNaN || b.isNaN then .nan
  else
    let c := a.cmp b
    let aLess := decide (c < 0) || (decide (c = 0) && a.sgn && !b.sgn)
    if isMax then (if aLess then b else a) else (if aLess then a else b)

/-- Round a value to the nearest integer in a mode (R58): the integer and whether it differs. -/
def Fv.toInt (mode : Rm) (neg : Bool) (m : Nat) (e : Int) (sticky : Bool) : Int × Bool :=
  let r := roundAt mode neg m e 0 sticky
  (if neg then -(r.1 : Int) else r.1, r.2)

/-- Conversion of a value to an integer range (R58). -/
def Fv.fit (mode : Rm) (lo hi : Int) (x : Fv) (sticky : Bool := false) : Int × Flags :=
  match x with
  | .nan => (0, fNV)
  | .inf s => (if s then lo else hi, fNV)
  | .fin s m e =>
    let r := Fv.toInt mode s m e sticky
    if r.1 > hi then (hi, fNV)
    else if r.1 < lo then (lo, fNV)
    else (r.1, if r.2 then fNX else 0)

/-- An integer as an exact value. -/
def Fv.ofInt (v : Int) : Fv := .fin (decide (v < 0)) v.natAbs 0

/-- One step of the stochastic generator (R60). -/
def rngStep (x : BitVec 32) : BitVec 32 :=
  let x := x ^^^ (x <<< 13)
  let x := x ^^^ (x >>> 17)
  x ^^^ (x <<< 5)

/-- Stochastic rounding to BF16 with the advanced generator state (R60); the mode gives the sign of an exact zero sum. -/
def roundStoch (st : BitVec 32) (x : Fv) (sticky : Bool := false) : Nat × Flags :=
  match x with
  | .nan => (bf16.canonNaN, 0)
  | .inf s => (bf16.infCode s, 0)
  | .fin s m e =>
    if m = 0 then (bf16.signed s 0, 0)
    else
      let top := e + msb m
      if top ≥ 128 then (bf16.infCode s, fOF ||| fNX)
      else
        let q := max (top - 7) (-126 - 7)
        let r := roundAt rtz s m e q sticky
        if r.2 = false then ((bf16.roundFin rtz s m e sticky).1, 0)
        else
          let tiny := decide (top < -126)
          -- f * 65536 below the last kept bit: floor of the lost part, scaled
          let sh := (q - e).toNat
          let lost := m % 2 ^ sh
          let thr := lost * 65536 / 2 ^ sh
          let loCode := (bf16.roundFin rtz s m e sticky).1
          if st.toNat % 65536 < thr then
            -- the neighbour away from zero is the next code; past the largest finite it is the infinity's code
            (loCode + 1, if loCode % 32768 + 1 = 0x7F80 then fOF ||| fNX else if tiny then fNX ||| fUF else fNX)
          else (loCode, if tiny then fNX ||| fUF else fNX)

/-- The exact a × b + c; a NaN operand gives a NaN without nv (R45, R137, R158). -/
def Fv.fma (mode : Rm) (a b c : Fv) : Fv × Flags :=
  if a.isNaN || b.isNaN || c.isNaN then (.nan, 0)
  else
    let p := a.mul b
    let s := p.1.add mode c
    (s.1, p.2 ||| s.2)

/-- A rounded product and sum in one rounding: rnd(a × b + c). -/
def fmaRnd (f : FpFmt) (mode : Rm) (a b c : Fv) : Nat × Flags :=
  let s := Fv.fma mode a b c
  let r := f.round mode s.1
  (r.1, s.2 ||| r.2)

/-- fmaRnd on codes of one format, the code only. -/
def fmaC (f : FpFmt) (a b c : Nat) : Nat := (fmaRnd f rne (f.value a) (f.value b) (f.value c)).1

/-- rnd(a + b) on codes, rne. -/
def addC (f : FpFmt) (a b : Nat) : Nat × Flags :=
  let s := (f.value a).add rne (f.value b)
  let r := f.round rne s.1
  (r.1, s.2 ||| r.2)

/-- rnd(a × b) on codes, rne. -/
def mulC (f : FpFmt) (a b : Nat) : Nat × Flags :=
  let p := (f.value a).mul (f.value b)
  let r := f.round rne p.1
  (r.1, p.2 ||| r.2)

/-- floor of a finite value. -/
def floorFin (s : Bool) (m : Nat) (e : Int) : Int :=
  let r := roundAt rdn s m e 0 false
  if s then -(r.1 : Int) else r.1

/-- exp2a of R68 and R69, on FP32 codes; it raises no flag. -/
def exp2a (x : Nat) : Nat :=
  match fp32.value x with
  | .nan => 0x7FC00000
  | .inf s => if s then 0 else 0x7F800000
  | .fin s m e =>
    let n := floorFin s m e
    if n < -126 then 0
    else if n > 127 then 0x7F800000
    else
      let fr := (Fv.fin s m e).add rne (Fv.ofInt (-n))
      let f := fr.1
      let t := (fmaRnd fp32 rne (fp32.value 0x3DA00000) f (fp32.value 0x3E680000)).1
      let t := (fmaRnd fp32 rne (fp32.value t) f (fp32.value 0x3F320000)).1
      let t := (fmaRnd fp32 rne (fp32.value t) f (fp32.value 0x3F800000)).1
      match fp32.value t with
      | .fin _ tm te =>
        let r := fp32.round rtz (.fin false tm (te + n))
        if (r.2 &&& fOF) ≠ 0 then 0x7F800000 else r.1
      | _ => 0x7F800000

/-- Widen an FP32 code exactly to a format (R73). -/
def widen32 (f : FpFmt) (c : Nat) : Nat := (f.round rne (fp32.value c)).1

/-- Newton iterations of the reciprocal (R70). -/
def rcpIter (f : FpFmt) (d : Nat) : Nat → Nat → Nat
  | 0, y => y
  | k + 1, y =>
    let one := widen32 f 0x3F800000
    let nd := f.signed true d
    let e := fmaC f nd y one
    rcpIter f d k (fmaC f y e y)

/-- The reciprocal of R70, R72, R73 in FP32 or FP64: code and flags. -/
def rcpFp (f : FpFmt) (x : Nat) : Nat × Flags :=
  match f.value x with
  | .nan => (f.canonNaN, 0)
  | .inf s => (f.signed s 0, 0)
  | .fin s m e =>
    if m = 0 then (f.infCode s, fDZ)
    else
      let k := e + msb m + 1
      let d := (f.round rne (.fin false m (e - k))).1
      let y0 := fmaC f (f.signed true (widen32 f 0x3FF0F0F1)) d (widen32 f 0x4034B4B5)
      let y := rcpIter f d (if f = fp64 then 4 else 3) y0
      match f.value y with
      | .fin _ ym ye => f.round rne (.fin s ym (ye - k))
      | v => f.round rne v

/-- Newton iterations of the reciprocal square root (R71). -/
def rsqrtIter (f : FpFmt) (d : Nat) : Nat → Nat → Nat
  | 0, y => y
  | k + 1, y =>
    let one := widen32 f 0x3F800000
    let half := widen32 f 0x3F000000
    let t := (mulC f y y).1
    let e := fmaC f (f.signed true d) t one
    let hy := (mulC f half y).1
    rsqrtIter f d k (fmaC f hy e y)

/-- The reciprocal square root of R71 to R73. -/
def rsqrtFp (f : FpFmt) (x : Nat) : Nat × Flags :=
  match f.value x with
  | .nan => (f.canonNaN, 0)
  | .inf s => if s then (f.canonNaN, fNV) else (0, 0)
  | .fin s m e =>
    if m = 0 then (f.infCode s, fDZ)
    else if s then (f.canonNaN, fNV)
    else
      let top := e + msb m + 1
      let k := if top % 2 = 0 then top else top + 1
      let d := (f.round rne (.fin false m (e - k))).1
      let y0 := fmaC f (f.signed true (widen32 f 0x3FA00000)) d (widen32 f 0x40100000)
      let y := rsqrtIter f d (if f = fp64 then 5 else 4) y0
      match f.value y with
      | .fin _ ym ye => f.round rne (.fin false ym (ye - k / 2))
      | v => f.round rne v

/-- An element format by its code (R28). -/
inductive Elem where
  | f (fmt : FpFmt)
  | i (w : Nat)
  | tern
  deriving DecidableEq, Repr

/-- The format of a code of R28; reserved codes give none. -/
def elemOf (c : Nat) : Option Elem :=
  match c with
  | 0 => some (.f fp64)
  | 1 => some (.f fp32)
  | 2 => some (.f bf16)
  | 3 => some (.f fp16)
  | 4 => some (.f e4m3)
  | 5 => some (.f e5m2)
  | 6 => some (.f fp4)
  | 7 => some (.i 8)
  | 8 => some (.i 4)
  | 9 => some .tern
  | 10 => some (.i 16)
  | 11 => some (.i 32)
  | 12 => some (.i 64)
  | _ => none

/-- Width of an element in bits. -/
def Elem.width : Elem → Nat
  | .f fmt => fmt.width
  | .i w => w
  | .tern => 2

/-- Value of an integer code (R52 to R54); the second component says a reserved code was read. -/
def intVal (el : Elem) (uns : Bool) (code : Nat) : Int × Bool :=
  match el with
  | .tern => if code % 4 = 1 then (1, false) else if code % 4 = 3 then (-1, false) else (0, code % 4 == 2)
  | .i w =>
    if uns then ((code % 2 ^ w : Nat), false)
    else if w = 4 ∧ code % 16 = 8 then (0, true)
    else (sextI code w, false)
  | .f _ => (0, false)

/-- Range of an integer format as a target (R52, R55, R58). -/
def intLo (el : Elem) (uns : Bool) : Int :=
  match el with
  | .tern => -1
  | .i w => if uns then 0 else if w = 4 then -7 else -(2 ^ (w - 1))
  | .f _ => 0

def intHi (el : Elem) (uns : Bool) : Int :=
  match el with
  | .tern => 1
  | .i w => if uns then 2 ^ w - 1 else 2 ^ (w - 1) - 1
  | .f _ => 0

/-- Clamp to a range (R159). -/
def clampI (lo hi v : Int) : Int := if v > hi then hi else if v < lo then lo else v

/-- Code of an integer in w bits. -/
def codeI (w : Nat) (v : Int) : Nat := (v % 2 ^ w).toNat

end Sys2Proof.Machine
end

