-- ==== Sys2Proof/Config.lean ====
section
/-! DEFINITION. What an implementation fixes, and the values the spec leaves open.

A free value has no body: nothing in Lean can evaluate it, so a claim about it holds whatever it is. -/

namespace Sys2Proof.Config

/-- A value the spec does not state, one for each reading of the counter State.free (log 14). -/
opaque freeWord : Nat → BitVec 64

/-- The certificate that IDENT returns (R418), signed by the maker: its bytes are not in the spec (log 16). -/
opaque identityCertificate : List (BitVec 8)

/-- The signature ATTEST returns over its fields (R418): the key is not readable (log 16). -/
opaque attestSignature : BitVec 256 → BitVec 256 → Nat → Nat → BitVec 256 → List (BitVec 8)

/-- Whether a firmware header's signature verifies against the fused key (R417) (log 16). -/
opaque headerSigned : BitVec 2048 → Bool

/-- The digest of the firmware body that a header carries (R417): the header's layout is not in the spec (log 16). -/
opaque headerDigest : BitVec 2048 → BitVec 256

/-- The digest of the spare map and route table (R418), as a function of their sizes and contents (log 16). -/
opaque mapDigest : List (Nat × Nat) → List (Nat × Nat × Nat × Nat) → BitVec 256

/-- The package at the other end of a Deleus link (R387): package, tower, link. How packages are wired is not in the spec (log 19). -/
opaque linkPeer : Nat → Nat → Nat → Nat

/-- The tower of that package at which the link ends (R387) (log 19). -/
opaque linkPeerTower : Nat → Nat → Nat → Nat

/-- The spare rows and columns that the boot fuses bring in (R421), as entries of the spare map (log 52). -/
opaque bootSpares : List (Nat × Nat)

/-- The version that a firmware header holds (R417): the header's layout is not in the spec (log 16). -/
opaque headerVersion : BitVec 2048 → Nat

/-- Packages of a domain at most (R396). -/
def maxPackages : Nat := 64

/-- Strand contexts of a small core and of a saddle (R2). -/
def coreContexts : Nat := 8
def saddleContexts : Nat := 64

/-- Records of a deque (R271), of a proxy shadow (R272); entries of an engine queue (R308). -/
def dequeDepth : Nat := 128
def shadowDepth : Nat := 64
def engineDepth : Nat := 16
/-- Entries of a core's translation cache and of a shared one (R303); lines of a valley instruction cache, 256 KiB of 64 bytes (R345). -/
def coreTlb : Nat := 32
def sharedTlb : Nat := 2048
def icacheLines : Nat := 4096

end Sys2Proof.Config
end

