-- ==== Sys2Proof/Machine/State.lean ====
section
/-! DEFINITION. The machine's state as plain data, and its state after reset.

Everything indexed (registers, cores, spires, launches) is a list of (key, value) pairs read through fget of Machine/Bits.lean:
an unlisted key reads as its reset value. Cores are keyed by core number (R37), spires by place number / 4, valleys by core
number / 64, plains by core number / 4096. Memory is keyed by a global physical address: package * 2^52 + device physical
address (R296); byte o of the scratchpad of spire p is at 2^60 + p * 2^20 + o. -/

namespace Sys2Proof.Machine
open Sys2Proof

/-- Why a step stops. Every step of this device goes on (R98, R349: what an instruction cannot do is a trap, which is taken). -/
inductive Fault where
  /-- Raised by nothing: an input of the schedule that names what the machine does not have changes nothing (R2, log 1). Safe. -/
  | illFormedInput
  deriving DecidableEq, Repr

/-- Why a step has no meaning. -/
inductive Refusal where
  /-- Raised by exec for a row without a meaning yet; no arm raises it in this model. Safe. -/
  | notModelled (mnemonic : String)
  deriving DecidableEq, Repr

/-- A trap as it is raised: cause code, info, whether the error was raised earlier and is reported here (R348). -/
structure Trap where
  code : Nat
  info : Word
  dfr  : Bool := false
  /-- a HOLD_EXPIRED raised by a last-read release: re is 0 (R349) -/
  noRe : Bool := false
  deriving DecidableEq, Repr

/-- A pointer register (R21). -/
structure Ptr where
  base : BitVec 48 := 0
  s1   : BitVec 32 := 64
  c1   : BitVec 16 := 1
  s2   : BitVec 32 := 0
  c2   : BitVec 16 := 1
  i1   : BitVec 16 := 0
  i2   : BitVec 16 := 0
  deriving DecidableEq, Repr

/-- A stop of an itinerary (R253). -/
structure Stop where
  any  : Bool
  post : Bool
  pol  : BitVec 2
  hold : BitVec 16
  alt  : BitVec 20
  core : BitVec 20
  deriving DecidableEq, Repr

/-- A run of bytes: virtual address, global physical address, bytes. -/
structure Seg where
  va : Nat
  ga : Nat
  n  : Nat
  deriving DecidableEq, Repr

/-- An itinerary's header and stops (R252), as they travel with the tile, and the elements of its shape (R257): the
physical address and size of each run of bytes of the tile in memory. -/
structure Itin where
  base  : Nat := 0
  bytes : Nat := 0
  tile  : BitVec 32 := 0
  land  : Bool := false
  stops : List Stop := []
  slot  : Nat := 0
  segs  : List Seg := []
  lix   : Option Nat := none
  /-- the tensor shape record of a shaped request, by which identical requests are told (R258) -/
  shape : List Byte := []
  deriving DecidableEq, Repr

/-- What an instruction that its unit keeps pending has read and checked at issue (R93, R94, R215, R222, R254, R285): nothing, its
checks, the bytes it has read there (a tensor shape record, a payload, a descriptor), a tile request and its saddle, a physical address,
or the bits of q registers; with an entry of the send queue that it holds from its issue on (R214); full: the queue has none for it. -/
inductive Prep where
  | none
  | checked
  | shape (bs : List Byte)
  | tile (saddle : Nat) (it : Itin)
  | addr (pa : Nat)
  | bits (qs : List (BitVec 128))
  | full
  | entry (p : Prep)
  deriving DecidableEq, Repr

/-- A pending instruction of a strand (R90): an instruction its unit has accepted and not completed. -/
structure Pend where
  pc    : BitVec 48
  instr : Instr
  /-- window instructions that may still issue -/
  win   : Nat
  /-- unit of R91: 1 scalar long, 2 local memory, 3 vector, 4 matrix, 5 message -/
  unit  : Nat
  /-- g registers as they stood at issue (R93) -/
  g     : List (Nat × Word)
  /-- place in the order of acceptance on its core (R91) -/
  order : Nat
  /-- window instructions of it that have committed: W of R98 -/
  w     : Nat := 0
  /-- false while it waits behind an earlier pending instruction of its strand on its unit (R96) -/
  com   : Bool := true
  /-- steps of a macro-operation already committed (R182) -/
  step  : Nat := 0
  /-- its pointer registers as they stood at its first step, by number (R22, R184) -/
  ptrs  : List (Nat × Ptr) := []
  /-- a macro-operation has started; the A rows of its row group, or the addresses of its drain (R182, R200) -/
  started : Bool := false
  rows  : List Nat := []
  /-- tag of the request it waits for, when it waits for an answer -/
  tag   : Option Nat := none
  /-- the answer, when it has arrived: a value, or a trap -/
  ans   : Option Word := none
  /-- the trap it has raised, held until it can be delivered (R98, R99) -/
  trap  : Option Trap := none
  /-- dflt, sqcfg and rngs as they stood at issue (R34, R93); rngs goes on with what the instruction draws (R60, R61) -/
  dflt  : Word := 0
  sqcfg : Word := 0
  rngs  : Word := 0
  /-- what it read and checked at its issue (R254, R285) -/
  prep  : Prep := .none
  /-- it is the re-execution of R352 -/
  re    : Bool := false
  /-- its strand is in the waiting state for it (R339) -/
  yields : Bool := false
  deriving DecidableEq, Repr

/-- A failure kept for a strand until an instruction reports it (R202, R225, R236, R262). -/
structure Kept where
  /-- 0 a posted store or atomic, 1 a copy, 2 a landing, 3 a drain, 4 a deal -/
  kind : Nat
  /-- program order of the instruction that failed -/
  order : Nat
  code : Nat
  addr : Nat
  deriving DecidableEq, Repr

/-- State of a strand context (R339); a parked strand has left its context. -/
inductive Life where
  | free | ready | waiting
  deriving DecidableEq, Repr

/-- A trap held under R99. -/
structure HeldTrap where
  trap : Trap
  pc   : BitVec 48
  w    : Nat
  deriving DecidableEq, Repr

/-- A strand context: registers (R16), state word (R17), trap state (R346), and what its core keeps for it. -/
structure Strand where
  life  : Life := .free
  g     : List (Nat × Word) := []
  flags : BitVec 5 := 0
  pin   : Bool := false
  hnd   : Bool := false
  cmp   : Bool := false
  prio  : BitVec 2 := 0
  rm    : BitVec 2 := 0
  sr    : Bool := false
  sys   : Bool := false
  pc    : BitVec 48 := 0
  /-- launch front index of its launch, or none (R38) -/
  lix   : Option Nat := none
  /-- footprint banks of its task record (R270) -/
  banks : BitVec 8 := 0
  triggered : Bool := false
  /-- effective class, moment it last became ready or yielded, watchdog count (R340, R342) -/
  cls   : Nat := 0
  since : Nat := 0
  wd    : Nat := 0
  tHeld : BitVec 4 := 0
  tW    : BitVec 4 := 0
  tAct  : Bool := false
  tRe   : Bool := false
  tCmp  : Bool := false
  tHab  : Bool := false
  tDfr  : Bool := false
  tCode : BitVec 8 := 0
  tInfo : Word := 0
  tPc   : BitVec 48 := 0
  tCont : BitVec 48 := 0
  tSwHi : BitVec 16 := 0
  tMsg  : Word := 0
  tScr  : Word := 0
  /-- pending instructions, in program order (R90) -/
  pend  : List Pend := []
  /-- a trap found at issue that waits for the pending instructions (R348), with its pc -/
  found : Option (Trap × BitVec 48) := none
  held  : List HeldTrap := []
  /-- set by tret: the next instruction is a re-execution; some (W, pc): execution then continues at pc (R352) -/
  replay : Option (Option (Nat × BitVec 48)) := none
  /-- suspended by await (R146) -/
  awaiting : Bool := false
  /-- the barrier its bar.wait waits on, and the counter and threshold its await.ev waits for (R230, R276) -/
  waitBar : Option Nat := none
  waitEv  : Option (Nat × Word) := none
  /-- the condition it waited for has come to hold (R339) -/
  cond  : Bool := false
  /-- it waits for an entry of the send queue (R214, R366) -/
  waitSq : Bool := false
  /-- its launch has ended: it stops when its committed instructions are done (R351) -/
  ended : Bool := false
  kept  : List Kept := []
  /-- a handler's queue (0 request, 1 reply) and the source core of its message (R216, R218) -/
  hq    : Nat := 0
  hsrc  : Nat := 0
  /-- the core whose queue holds the message of an aborted handler (R353) -/
  hcore : Nat := 0
  /-- what its first instruction waits for: the writes before the push of its record (R335) -/
  after : List (Nat × Nat × Nat) := []
  /-- the cores it has left by R132, each with the core's acceptance count then, under which they hold what is still to do for it -/
  left : List (Nat × Nat) := []
  deriving DecidableEq, Repr

/-- An arrival that waits for the next phase (R228): its flags, and of a local one the context and the tag of its instruction. -/
structure Arrival where
  flags : BitVec 5
  who   : Option (Nat × Nat) := none
  deriving DecidableEq, Repr

/-- A barrier (R39), with the arrivals that wait for the next phase (R228), in arrival order. -/
structure Bar where
  target  : BitVec 16 := 0
  arrived : BitVec 16 := 0
  xbytes  : BitVec 32 := 0
  phase   : Bool := false
  broken  : Bool := false
  flags   : BitVec 5 := 0
  heldArr : List Arrival := []
  deriving DecidableEq, Repr

/-- An armed operation of an event counter (R234). -/
structure Armed where
  ec   : Nat
  thr  : Word
  kind : Nat
  arg  : Nat
  deriving DecidableEq, Repr

/-- An entry of the bind table (R238): region, object word, launch. -/
structure BindEnt where
  base : Nat
  len  : Nat
  obj  : Word
  lix  : Option Nat
  deriving DecidableEq, Repr

/-- A task record (R270). -/
structure TaskRec where
  succ  : Bool
  cmpt  : Bool
  prio  : BitVec 2
  banks : BitVec 8
  lix   : Option Nat
  entry : BitVec 48
  a1 : Word
  a2 : Word
  a3 : Word
  /-- banks retained for this record, a named successor (R274) -/
  ret : BitVec 8 := 0
  /-- core, context and acceptance count at the push, and of the cores that the pushing strand has left: the started strand issues when the
  earlier writes are performed (R335) -/
  mark : List (Nat × Nat × Nat) := []
  deriving DecidableEq, Repr

/-- State of a tile slot (R41). -/
inductive SlotSt where
  | free | filling | arrived | held | forwarding
  deriving DecidableEq, Repr

/-- A tile slot (R41) with its itinerary part (R259). -/
structure Slot where
  base   : Nat := 0
  size   : Nat := 0
  state  : SlotSt := .free
  tile   : BitVec 32 := 0
  missed : BitVec 16 := 0
  timer  : BitVec 16 := 0
  /-- a limit is loaded (hold not 0) -/
  armed  : Bool := false
  itin   : Itin := {}
  stop   : Nat := 0
  gone   : Bool := false
  exp    : Bool := false
  /-- the tile reached its stand-in (R259, R265) -/
  divert : Bool := false
  /-- claiming core while held -/
  owner  : Option Nat := none
  deriving DecidableEq, Repr

/-- A parsed tile-table entry of a collective (R399). -/
structure TileEnt where
  src : List Seg
  dst : List Seg
  op  : Nat
  bytes : Nat
  ps  : Nat
  pn  : Nat
  p0  : Nat
  deriving DecidableEq, Repr

/-- What a message carries (R212, R383). -/
inductive Pay where
  /-- send, sendl, reply: handler address, payload words (R213) -/
  | prog (hnd : Nat) (ws : List Word)
  /-- rsend: handler, key, op, det, value, count (R217) -/
  | red (hnd : Nat) (key : Word) (op : Nat) (det : Bool) (val : Word) (cnt : Word)
  /-- a migrating strand (R132) -/
  | migr (st : Strand)
  /-- a posted store to a physical address (R318) -/
  | store (pa size va : Nat) (v : Word)
  /-- acknowledgement of a posted store: 0 or an error code, and its address (R225) -/
  | ack (code addr : Nat)
  /-- an atomic request (R222): physical and virtual address, op, operand, compare value, atom.ret -/
  | atomReq (pa va op : Nat) (b c : Word) (ret : Bool)
  /-- its reply: old value, atom.ret, 0 or an error code, address -/
  | atomRep (old : Word) (ret : Bool) (code addr : Nat) (req : Nat)
  /-- the requester's acknowledgement of a reply, by the request's sequence number (R224) -/
  | repAck (req : Nat)
  | lockReq (pa va : Nat)
  | lockGrant (ticket : Word) (code addr : Nat)
  | lockRel (pa va : Nat) (ticket : Word)
  /-- answer to a release: 0 or a cause code -/
  | lockRelAck (code va : Nat)
  /-- a remote barrier arrival (R228) -/
  | barArr (bar : Nat) (flags : BitVec 5)
  /-- a tile request (R256): the requester's itinerary after substitution, and the requests it stands for:
  source, sequence number, context, tag (R306) -/
  | tileReq (it : Itin) (also : List (Nat × Nat × Nat × Nat))
  /-- the saddle's answer: 0 for acceptance or a cause code, and its info (R256) -/
  | tileAns (code : Nat) (info : Word)
  /-- a tile on its way to a stop (R265) -/
  | tile (it : Itin) (stop : Nat) (missed : BitVec 16) (divert : Bool) (data : List Byte)
  /-- A rows of one step of an mma.co (R191): descriptor, number of the product, K, af, row group or step, bytes -/
  | rows (desc : Word) (ord k af step : Nat) (data : List (List Nat))
  /-- a replaying member's request for rows (R192): the number of the product among those of its descriptor, first step wanted -/
  | rowReq (desc : Word) (ord step : Nat)
  /-- a steal request (R338): compute-core thief, launch front indices -/
  | steal (compute : Bool) (lixs : List Nat)
  | stealRec (r : TaskRec)
  | stealRef
  /-- a host-window write on its way to the host link (R324): physical and virtual address, bytes -/
  | hostWr (ga va : Nat) (data : List Byte) (bk num core : Nat) (last : Bool)
  deriving DecidableEq, Repr

/-- A message in flight: source and destination core, virtual network (0 request, 1 reply, 2 tile and stream, 3 migration,
4 control, 5 the steal network), sequence number (R212), issuing context, launch, tag of the request. -/
structure Flight where
  src : Nat
  dst : Nat
  net : Nat
  seq : Nat
  ctx : Nat
  lix : Option Nat
  tag : Nat
  pay : Pay
  /-- places where a forwarding entry has still to redirect it (R311, R360) -/
  hops : List Nat := []
  /-- the strands whose packets have merged into this one (R217): core, context -/
  merged : List (Nat × Nat) := []
  deriving DecidableEq, Repr

/-- A send-queue entry (R214): held entries belong to a handler's context. -/
structure SqEnt where
  held : Bool
  ctx  : Nat
  dst  : Nat
  net  : Nat
  lix  : Option Nat
  tag  : Nat
  pay  : Pay
  deriving DecidableEq, Repr

/-- A message in a receive-queue slot (R213): first line, lines, header doublewords, payload, held bit (R220). -/
structure RMsg where
  line : Nat
  n    : Nat
  hdr0 : Word
  hdr1 : Word
  ws   : List Word
  held : Bool
  /-- true for an rsend packet's merge identity -/
  lix  : Option Nat
  deriving DecidableEq, Repr

/-- A receive queue (R213): the line of its region after the newest slot, counted from the region's first line (the region is
that of the spire's carve-out), and its messages in delivery order. -/
structure RQueue where
  next : Nat := 0
  msgs : List RMsg := []
  deriving DecidableEq, Repr

/-- The object of a copy or deal (R242, R269): 0 none, 1 barrier, 2 counter. -/
structure Obj where
  bk   : Nat := 0
  num  : Nat := 0
  core : Nat := 0
  deriving DecidableEq, Repr

/-- Where the bytes of an engine operation come from: memory; the rest of a saddle's 64-byte line, read as one access, with the memory
behind it (R298); or bytes that a node or a saddle has read for it (R306, R262), with the error that ended them: cause, virtual and
global address. -/
inductive EngSrc where
  | mem (gs : List Seg)
  | line (bs : List Byte) (gs : List Seg)
  | bytes (bs : List Byte) (bad : Option (Nat × Nat × Nat))
  deriving DecidableEq, Repr

/-- One element of a drain (R200): physical and virtual address, bytes, value. -/
structure DrainEl where
  pa : Nat
  va : Nat
  n  : Nat
  v  : Nat
  deriving DecidableEq, Repr

/-- What an engine operation has still to do (R308): sources and destinations not yet performed, and for a copy the bytes it has
moved; plain: unshaped; node: held by the combining node (R306). A deal counts the 64-byte lines it has performed. -/
inductive EngJob where
  | copy (src : EngSrc) (dst : List Seg) (obj : Obj) (moved : Nat) (plain node : Bool)
  | drain (add : Bool) (fmt : Nat) (els : List DrainEl)
  | landing (src : EngSrc) (dst : List Seg) (spire slot : Nat)
  | itland (src dst : List Seg)
  | deal (src : List Seg) (patA patB : Word) (len : Nat) (obj : Obj) (line : Nat)
  deriving DecidableEq, Repr

/-- An operation in an engine queue (R308): the strand it belongs to, the place of its instruction in program order, its launch. -/
structure EngOp where
  ctx   : Nat
  order : Nat
  lix   : Option Nat
  job   : EngJob
  deriving DecidableEq, Repr

/-- A landing of no strand (R262), with the operations of the spire's stage and compute core that the engine accepted before it. -/
structure Orphan where
  op    : EngOp
  stage : Nat
  comp  : Nat
  deriving DecidableEq, Repr

/-- A queued lock request (R239). -/
structure LockReq where
  core : Nat
  ctx  : Nat
  tag  : Nat
  pa   : Nat
  deriving DecidableEq, Repr

/-- An entry of a reply cache (R224). -/
structure RepEnt where
  src : Nat
  seq : Nat
  ctx : Nat
  tag : Nat
  old : Word
  ret : Bool
  code : Nat
  addr : Nat
  deriving DecidableEq, Repr

/-- What a home keeps (R224, R239). -/
structure Home where
  ticket : BitVec 16 := 0
  lockq  : List LockReq := []
  cache  : List RepEnt := []
  deriving DecidableEq, Repr

/-- An atomic request of a core whose reply has not arrived (R224). -/
structure Outst where
  flight  : Flight
  resends : Nat := 0
  order   : Nat := 0
  deriving DecidableEq, Repr

/-- States of the steal protocol (R337). -/
inductive StealSt where
  | run | selv | selp | askv | askp | back
  deriving DecidableEq, Repr

/-- A parked strand (R294): the global and the virtual address of its image, whether that lies in the spill area, and the strand. -/
structure Parked where
  image : Nat
  va : Nat
  inSpill : Bool
  order : Nat
  strand : Strand
  deriving DecidableEq, Repr

/-- A translation-cache entry (R303): launch, page size, number of the page, its physical base, permissions. -/
structure TlbEnt where
  lix  : Nat
  size : Nat
  page : Nat
  base : Nat
  perm : BitVec 4
  deriving DecidableEq, Repr

/-- A part of a PARTIAL held by a merger until the last has arrived (R373). -/
structure PartialPart where
  seq  : Nat
  b    : Nat
  part : Nat
  tag  : Nat
  status : Nat
  ws   : List Word
  deriving DecidableEq, Repr

/-- A cache message held as pending while its entry is moving (R378): words, source core, launch. -/
structure CacheHeld where
  ws  : List Word
  src : Nat
  lix : Option Nat
  deriving DecidableEq, Repr

/-- What member (i, 0) keeps of an mma.co to serve replays (R192): descriptor, its number among those of the descriptor, pointer at
issue, tshape, fmt, scl, launch, sys and context. -/
structure Coop where
  desc : Word
  ord  : Nat
  ptr  : Ptr
  tsh  : Word
  fmt  : Word
  scl  : Bool
  lix  : Option Nat
  sys  : Bool
  ctx  : Nat
  deriving DecidableEq, Repr

/-- Rows on their way to a product, or waiting for it (R191): descriptor, the number of the product among those of the descriptor, K,
af, row group or step, the rows. -/
structure CoRows where
  desc : Word
  ord  : Nat
  k    : Nat
  af   : Nat
  step : Nat
  rows : List (List Nat)
  deriving DecidableEq, Repr

/-- A core: a stage core, a compute core or a saddle (R15). -/
structure Core where
  ctxs  : List (Nat × Strand) := []
  ptr   : List (Nat × Ptr) := []
  va    : List (Nat × Word) := []
  q     : List (Nat × BitVec 128) := []
  /-- words of m0 to m3: accumulator * 16384 + row * 128 + column -/
  acc   : List (Nat × BitVec 32) := []
  amax  : List (Nat × BitVec 32) := []
  aden  : List (Nat × BitVec 32) := []
  /-- bytes of fb0 and fb1: buffer * 65536 + byte -/
  fb    : List (Nat × Byte) := []
  /-- cells of cm0 to cm3: macro * 16384 + row * 128 + column; codes of INT8 or ternary -/
  cm    : List (Nat × Byte) := []
  /-- mode of cm0 to cm3: true for ternary -/
  cmTern : List (Nat × Bool) := []
  fmt   : Word := 0x22
  tsc   : Word := 0x3F803F80
  mstep : Word := 0
  /-- while mstep.act is 1: the slot that the interrupted macro-operation's last-read mark names (R185) -/
  lrSlot : Option Nat := none
  /-- while mstep.act is 1: the state that the interrupted macro-operation's next step draws from (R61, R177); none for one that a
  program has named by a write of mstep -/
  mrngs : Option Word := none
  dflt  : Word := 0xA1000FA0
  rngs  : Word := 0x2545F491
  tshape : Word := 0x08800000
  mxsat : Word := 0
  mxsub : Word := 0
  mxmrow : Word := 0
  mxnan : Word := 0
  sqcfg : Word := 32
  wdog  : Word := 21
  tvec  : Word := 0
  tcount : Word := 0
  moves : BitVec 16 := 0
  bars  : List (Nat × Bar) := []
  ecs   : List (Nat × Word) := []
  armed : List Armed := []
  binds : List BindEnt := []
  sendq : List SqEnt := []
  rq    : List (Nat × RQueue) := []
  ports : List Nat := []
  /-- next sequence number sent, by destination * 8 + network; next expected, by source * 8 + network -/
  txSeq : List (Nat × Nat) := []
  rxSeq : List (Nat × Nat) := []
  outst : List Outst := []
  deque : List TaskRec := []
  eng   : List EngOp := []
  parked : List Parked := []
  steal : StealSt := .run
  refusals : Nat := 0
  /-- composed core this core belongs to: its leader; and, on a leader, the members in order (R277) -/
  leader : Option Nat := none
  members : List Nat := []
  frozen : Bool := false
  oos   : Bool := false
  lost  : Bool := false
  patA  : Word := 0
  patB  : Word := 0
  /-- read-once filter: (launch front index, tile id) (R258) -/
  filter : List (Option Nat × BitVec 32) := []
  home  : Home := {}
  tlb   : List TlbEnt := []
  /-- rows received for mma.co before or while it runs (R191) -/
  rowBuf : List CoRows := []
  /-- the mma.co products this core has begun as a sender, newest first (R192), and by descriptor the number of the product it has last
  begun to send, or to receive or discard (log 31) -/
  coops : List Coop := []
  coCnt : List (Nat × Nat) := []
  parts : List PartialPart := []
  acks  : List (Nat × Nat × Nat) := []
  cacheHeld : List CacheHeld := []
  /-- RELEASE messages that a stub of this holder has sent on, by which the home finds the stubs of their way (R378) -/
  passed : List CacheHeld := []
  /-- parts of a query or append whose last part has not arrived (R373): messages -/
  cacheParts : List CacheHeld := []
  /-- failures kept for strands that have left the core (R132, R225, R236): context under which the core knows them -/
  away  : List (Nat × Kept) := []
  /-- acceptance counter of the core (R91) -/
  seqNo : Nat := 0
  deriving DecidableEq, Repr

/-- A region of a carve-out descriptor (R290). -/
structure Region where
  base : Nat := 0
  size : Nat := 0
  deriving DecidableEq, Repr

/-- A carve-out descriptor (R290); its default is that of R291. -/
structure Carve where
  sreq : Region := { base := 0xF0000, size := 4096 }
  srep : Region := { base := 0xF1000, size := 4096 }
  creq : Region := { base := 0xF2000, size := 4096 }
  crep : Region := { base := 0xF3000, size := 4096 }
  hstk : Region := { base := 0xF4000, size := 16384 }
  spill : Region := { base := 0xF8000, size := 8192 }
  ovBase : Nat := 0
  ovSize : Nat := 0
  slots : List Region := [
    { base := 0xE0000, size := 4096 }, { base := 0xE1000, size := 4096 }, { base := 0xE2000, size := 4096 },
    { base := 0xE3000, size := 4096 }, { base := 0xE4000, size := 4096 }, { base := 0xE5000, size := 4096 },
    { base := 0xE6000, size := 4096 }, { base := 0xE7000, size := 4096 }, { base := 0xE8000, size := 4096 },
    { base := 0xE9000, size := 4096 }, { base := 0xEA000, size := 4096 }, { base := 0xEB000, size := 4096 },
    { base := 0xEC000, size := 4096 }, { base := 0xED000, size := 4096 }, { base := 0xEE000, size := 4096 },
    { base := 0xEF000, size := 4096 }]
  deriving DecidableEq, Repr

/-- A sem.take that waits (R232): core, context, order tag, semaphore, amount. -/
structure SemWait where
  core : Nat
  ctx  : Nat
  tag  : Nat
  n    : Nat
  amount : Nat
  deriving DecidableEq, Repr

/-- A spire's place: what its scratchpad, slots and semaphores hold (R15, R41, R42). -/
structure Spire where
  slots : List (Nat × Slot) := []
  hs    : List (Nat × BitVec 16) := []
  semq  : List SemWait := []
  /-- banks powered up -/
  up    : BitVec 8 := 0
  /-- tags of lines; an unlisted line holds 0x2 (log 8) -/
  tags  : List (Nat × BitVec 4) := []
  carve : Carve := {}
  /-- a carve-out of a running launch lies here -/
  carved : Bool := false
  home  : Home := {}
  /-- landings that belong to no strand (R262) -/
  orphans : List Orphan := []
  /-- whose turn the engine is at: 0 stage core, 1 compute core, 2 the landings of no strand; bytes moved in it (R308) -/
  engTurn : Nat := 0
  engMoved : Nat := 0
  deriving DecidableEq, Repr

/-- An error-log entry (R315). -/
structure LogEnt where
  code : Nat
  info : Nat
  launch : Nat
  seq : Nat
  src : Nat
  deriving DecidableEq, Repr

/-- An error log: entries oldest first, entries lost, entries logged so far (R315). -/
structure ErrLog where
  ents : List LogEnt := []
  lost : Nat := 0
  count : Nat := 0
  deriving DecidableEq, Repr

/-- A request held by a combining node (R306): the flights it stands for, or the copies (core, operation) of one copy. -/
inductive NodeEnt where
  | tiles (fs : List Flight)
  | copies (cs : List (Nat × EngOp))
  deriving DecidableEq, Repr

/-- A line of a valley instruction cache (R345): launch, global address, its 64 bytes (log 13). -/
structure ICLine where
  lix  : Option Nat
  ga   : Nat
  data : List Byte
  deriving DecidableEq, Repr

/-- A valley: its error log, corrected-error count (R313), combining node, use of its spare spire, shared translation cache (R303),
instruction cache (R345), newest line first. -/
structure Valley where
  log : ErrLog := {}
  corr : Nat := 0
  node : List NodeEnt := []
  spareUsed : Bool := false
  tlb : List TlbEnt := []
  icache : List ICLine := []
  deriving DecidableEq, Repr

/-- A plain: the saddle ring's log, the proxy shadows by target core (R272), the channel its spare saddle replaced, the translation
cache of its channel saddles (R303). -/
structure Plain where
  log : ErrLog := {}
  shadows : List (Nat × List TaskRec) := []
  spareFor : Option Nat := none
  tlb : List TlbEnt := []
  deriving DecidableEq, Repr

/-- States of a launch (R329, R332, R351). -/
inductive LaunchSt where
  | waiting | placed | ended | done
  deriving DecidableEq, Repr

/-- A launch: its record (R325), queue entry (R326) and progress. -/
structure Launch where
  id    : BitVec 32 := 0
  pkg   : Nat := 0
  st    : LaunchSt := .waiting
  prio  : BitVec 2 := 0
  entry : BitVec 48 := 0
  foot  : Nat := 0
  c : Nat := 1
  sg : Nat := 1
  vg : Nat := 1
  pg : Nat := 1
  dg : Nat := 1
  a1 : Word := 0
  a2 : Word := 0
  a3 : Word := 0
  root  : Nat := 0
  carve : Carve := {}
  /-- the predecessors it waits for, by index, and whether with early trigger (R326) -/
  preds : List (Nat × Bool) := []
  cores : List Nat := []
  queue : Nat := 0
  eseq  : Nat := 0
  /-- why it ended (R350): code, info, pc, reason -/
  why   : Option (Nat × Word × Nat × Nat) := none
  deriving DecidableEq, Repr

/-- A completion record (R414): entry seq, kind, status, reason, code, launch id, info, pc. -/
structure CRec where
  eseq : Nat
  kind : Nat
  status : Nat
  reason : Nat := 0
  code : Nat := 0
  launch : Nat := 0
  info : Word := 0
  pc : Nat := 0
  deriving DecidableEq, Repr

/-- A taken entry whose completion record is not written (R412): seq, kind, doublewords, whether its launch, invalidation or
move has begun, whether its record waits. -/
structure Taken where
  seq  : BitVec 32
  kind : Nat
  ws   : List Word
  busy : Bool := false
  done : Bool := false
  deriving DecidableEq, Repr

/-- A host queue (R410 to R415); its key is 1024 * package + its number on the package (log 21). -/
structure HQueue where
  base : BitVec 52 := 0
  lsz  : BitVec 4 := 0
  cbase : BitVec 52 := 0
  cls  : BitVec 2 := 1
  en   : Bool := false
  tail : BitVec 32 := 0xFFFFFFFF
  act  : Bool := false
  err  : Bool := false
  stale : Bool := true
  cons : BitVec 32 := 0xFFFFFFFF
  savedCons : BitVec 32 := 0xFFFFFFFF
  cprod : BitVec 32 := 0xFFFFFFFF
  savedCprod : BitVec 32 := 0xFFFFFFFF
  /-- pend as it was saved: cnt, seq -/
  savedCnt : Nat := 0
  savedSeq : BitVec 32 := 0
  chead : BitVec 32 := 0xFFFFFFFF
  shTail : Option (BitVec 32) := none
  shChead : Option (BitVec 32) := none
  since : Nat := 0
  /-- taken entries whose completion records are not written, ascending (R412) -/
  taken : List Taken := []
  /-- records that wait in tower 0 (R414) -/
  recs : List CRec := []
  deriving DecidableEq, Repr

/-- A registered participant of a collective (R397 to R400); entries of the tiles of which it is a peer, tiles readied. -/
structure Coll where
  tower : Nat
  handle : Nat
  lix : Option Nat
  group : Nat
  rank : Nat
  np : Nat
  nt : Nat
  chk : Nat
  ec : Nat
  ecore : Nat
  prio : Bool
  det : Bool
  ents : List (Nat × TileEnt)
  ready : List Nat
  deriving DecidableEq, Repr

/-- A contribution chunk of a tile in flight as far as the engine has read it (R401, R402): launch, group, tile, rank, run, chunk,
bytes of the lines read. -/
structure Contrib where
  lix : Option Nat
  group : Nat
  tile : Nat
  rank : Nat
  run : Nat
  chunk : Nat
  data : List Byte
  deriving DecidableEq, Repr

/-- A link: failed lanes, next sequence number accepted, flits not acknowledged. Keys: 16 * package + 8 * tower + link for a
Deleus link; 1024 + 256 * package + port for a UCIe port (log 19). -/
structure Link where
  failed : Nat := 0
  expect : BitVec 16 := 0
  replay : List Nat := []
  deriving DecidableEq, Repr

/-- Why the ROM refuses a firmware image (R417). -/
inductive BootFail where
  | signature | digest | version
  deriving DecidableEq, Repr

/-- The Henud controller (R417 to R421). -/
structure Henud where
  booted : Bool := false
  refused : Option BootFail := none
  version : Nat := 0
  rollback : Nat := 0
  digest : BitVec 256 := 0
  /-- the mailbox (R419): command doubleword, argument and result area, and of its status the last command's tag and whether it was
  done or refused -/
  mbCmd : Word := 0
  mbResult : List Byte := []
  mbTag : BitVec 32 := 0
  mbOk : Bool := false
  /-- islands (32 * package + island) that differ from on at step 8: 0 off, 1 clock-gated, 4 to 8 on at that step (R420) -/
  islands : List (Nat × Nat) := []
  /-- replacements (R421): kind (1 line, 2 spire, 3 channel saddle, 4 UCIe lane, 5 Deleus lane) * 2^56 + what was replaced, and
  by what -/
  spareMap : List (Nat × Nat) := []
  /-- route tables: package, destination package, tower, link (R387) -/
  routes : List (Nat × Nat × Nat × Nat) := []
  log : List LogEnt := []
  deriving DecidableEq, Repr

/-- What the schedule says happens next: a core issues (slow: what it issues stays pending and what it posts in flight, even where
it could be done at once, log 2), or a step of the device happens. -/
inductive Act where
  | core (c : Nat) (slow : Bool)
  | event (e : Instr)
  deriving DecidableEq, Repr

/-- The state of the machine. -/
structure State where
  cores  : List (Nat × Core)
  spires : List (Nat × Spire)
  valleys : List (Nat × Valley)
  plains : List (Nat × Plain)
  mem    : List Host.Cell
  /-- doublewords with an uncorrectable error, by address of the doubleword; with a single-bit error (R313) -/
  bad    : List (Nat × Bool)
  soft   : List (Nat × Bool)
  /-- corrections made in a line, by line address (R313) -/
  corrLine : List (Nat × Nat)
  net    : List Flight
  /-- physical place of a core number, where it has moved (R360) -/
  place  : List (Nat × Nat)
  /-- forwarding entries of a place: core numbers redirected (R360) -/
  fwd    : List (Nat × List Nat)
  launches : List (Nat × Launch)
  colls  : List Coll
  runs   : List (Nat × Nat)
  contribs : List Contrib
  /-- the tiles that have fired and not run, in firing order (R401, R404): launch front index (256 for none), group, tile -/
  fired  : List (Nat × Nat × Nat)
  queues : List (Nat × HQueue)
  links  : List (Nat × Link)
  henud  : Henud
  /-- MSI-X messages sent, by vector (R408, R419) -/
  msix   : List (Nat × Nat)
  /-- the model's own: schedule, acting core and context, step count, the slow mark of this step, counter of free values (logs 1, 2, 14) -/
  acts   : List Act
  core   : Nat
  ctx    : Nat
  tick   : Nat
  split  : Bool
  free   : Nat
  /-- set when the instruction at the issue stage could not issue in this step (R340) -/
  stalled : Bool
  deriving DecidableEq, Repr

/-- The state after reset: every register at the value of its register map, every context free, memory with nothing
listed, nothing in flight, the controller not booted. The acting core is compute core 0 of spire 0 (log 1). -/
def State.reset : State where
  cores := []
  spires := []
  valleys := []
  plains := []
  mem := []
  bad := []
  soft := []
  corrLine := []
  net := []
  place := []
  fwd := []
  launches := []
  colls := []
  runs := []
  contribs := []
  fired := []
  queues := []
  links := []
  henud := {}
  msix := []
  acts := []
  core := 2
  ctx := 0
  tick := 0
  split := false
  free := 0
  stalled := false

end Sys2Proof.Machine
end

