-- ==== Sys2Proof/Machine/Ops.lean ====
section
/-! DEFINITION. The operations every meaning shares: the acting strand and its core, core numbers and places, memory with its
errors, translation, the error log, taking a trap and stopping a strand. -/

namespace Sys2Proof.Machine
open Sys2Proof

/-! ### Trap causes (R356) -/
def cIllegalOp := 0x01
def cReservedField := 0x02
def cLookahead := 0x03
def cPriv := 0x04
def cNotCompute := 0x05
def cNotSpire := 0x06
def cNotSaddle := 0x07
def cSvc := 0x08
def cSoftTrap := 0x09
def cBreakpoint := 0x0A
def cTretState := 0x0B
def cMisalign := 0x10
def cTranslation := 0x11
def cPerm := 0x12
def cUncorrectable := 0x13
def cPinnedRemote := 0x14
def cSpillOverflow := 0x15
def cTcfgInUse := 0x20
def cFmtMismatch := 0x21
def cMstepPending := 0x22
def cSendqFull := 0x30
def cHandlerFault := 0x31
def cMsgDest := 0x32
def cReplyLost := 0x33
def cBindFull := 0x34
def cSyncState := 0x35
def cCollState := 0x36
def cStreamState := 0x37
def cTileReissue := 0x40
def cHoldExpired := 0x41
def cBarrierBroken := 0x42
def cComposeBusy := 0x43
def cBarrierState := 0x44
def cBarrierScope := 0x45
def cEcArmFull := 0x46
def cItinFormat := 0x47
def cSlotState := 0x48
def cDequeFull := 0x49
def cComposeState := 0x4A
def cWatchdog := 0x50
def cLinkDown := 0x51
def cHostAbort := 0x52
def cCoreLost := 0x53
def cContextLost := 0x54

/-- A trap of a cause with an info. -/
def tr (code : Nat) (info : Word) : Trap := { code := code, info := info }

/-- What an instruction's own effect answers: it completes, it cannot complete yet (and whether that wait counts as a yield,
R339), or it traps. -/
inductive Res where
  | done (s : State)
  | wait (y : Bool) (s : State)
  | trap (t : Trap) (s : State)
  /-- a request has left; the instruction is pending until its answer arrives, and y as above -/
  | sent (y : Bool) (s : State)
  /-- the strand has left its context -/
  | gone (s : State)

/-- Continue a result. -/
def Res.bind (r : Res) (f : State → Res) : Res :=
  match r with
  | .done s => f s
  | .wait y s => .wait y s
  | .trap t s => .trap t s
  | .sent y s => .sent y s
  | .gone s => .gone s

/-! ### Core numbers and places (R37, R131) -/
def pkgOf (c : Nat) : Nat := c / 16384
def isSaddle (c : Nat) : Bool := c / 2048 % 2 == 1
def isCompute (c : Nat) : Bool := !isSaddle c && c / 2 % 2 == 1
/-- Valley of a spire core or of a valley-store saddle, over the domain; a place of a spare spire, 2^20 above those of its valley, lies in
that valley. -/
def valleyOf (c : Nat) : Nat := if isSaddle c then c / 4096 * 64 + c / 32 % 64 else c % 2 ^ 20 / 64
def plainOf (c : Nat) : Nat := c / 4096
/-- Saddle index (R37). -/
def sadIx (c : Nat) : Nat := c / 32 % 64
def isChannel (c : Nat) : Bool := isSaddle c && decide (32 ≤ sadIx c)

/-- Physical place of a core number (R360). -/
def State.placeOf (s : State) (c : Nat) : Nat := fget c s.place c
/-- Key of the spire a core stands in. -/
def State.spireOf (s : State) (c : Nat) : Nat := s.placeOf c / 4

/-! ### Accessors -/
def State.coreAt (s : State) (c : Nat) : Core := fget {} s.cores c
def State.setCore (s : State) (c : Nat) (k : Core) : State := { s with cores := fset s.cores c k }
def State.modCore (s : State) (c : Nat) (f : Core → Core) : State := s.setCore c (f (s.coreAt c))
def State.spireAt (s : State) (p : Nat) : Spire := fget {} s.spires p
def State.setSpire (s : State) (p : Nat) (k : Spire) : State := { s with spires := fset s.spires p k }
def State.modSpire (s : State) (p : Nat) (f : Spire → Spire) : State := s.setSpire p (f (s.spireAt p))
def State.valleyAt (s : State) (v : Nat) : Valley := fget {} s.valleys v
def State.modValley (s : State) (v : Nat) (f : Valley → Valley) : State :=
  { s with valleys := fset s.valleys v (f (s.valleyAt v)) }
def State.plainAt (s : State) (p : Nat) : Plain := fget {} s.plains p
def State.modPlain (s : State) (p : Nat) (f : Plain → Plain) : State :=
  { s with plains := fset s.plains p (f (s.plainAt p)) }
def State.launchAt (s : State) (l : Nat) : Launch := fget {} s.launches l
def State.modLaunch (s : State) (l : Nat) (f : Launch → Launch) : State :=
  { s with launches := fset s.launches l (f (s.launchAt l)) }

/-- A receive queue of a core (R213). -/
def Core.queue (k : Core) (q : Nat) : RQueue := fget {} k.rq q

/-- Strand context x of core c. -/
def State.strandAt (s : State) (c x : Nat) : Strand := fget {} (s.coreAt c).ctxs x
def State.setStrand (s : State) (c x : Nat) (t : Strand) : State :=
  s.modCore c fun k => { k with ctxs := fset k.ctxs x t }
def State.modStrand (s : State) (c x : Nat) (f : Strand → Strand) : State := s.setStrand c x (f (s.strandAt c x))

/-- The acting core, the acting strand. -/
def State.me (s : State) : Core := s.coreAt s.core
def State.st (s : State) : Strand := s.strandAt s.core s.ctx
def State.modMe (s : State) (f : Core → Core) : State := s.modCore s.core f
def State.modSt (s : State) (f : Strand → Strand) : State := s.modStrand s.core s.ctx f
/-- Key of the acting core's spire. -/
def State.mySpire (s : State) : Nat := s.spireOf s.core
def State.sp (s : State) : Spire := s.spireAt s.mySpire
def State.modSp (s : State) (f : Spire → Spire) : State := s.modSpire s.mySpire f

/-- A g register: g0 reads as zero (R13, R16). -/
def gread (g : List (Nat × Word)) (r : BitVec 4) : Word := if r = 0 then 0 else fget 0 g r.toNat
/-- The acting strand's register. -/
def State.g (s : State) (r : BitVec 4) : Word := gread s.st.g r
/-- Write a register of the acting strand: a write to g0 is discarded (R13). -/
def State.setG (s : State) (r : BitVec 4) (v : Word) : State :=
  if r = 0 then s else s.modSt fun t => { t with g := fsetD 0 t.g r.toNat v }
/-- Merge sticky flags into the acting strand's sw.flags (R57, R97). -/
def State.mergeFlags (s : State) (f : BitVec 5) : State :=
  if f = 0 then s else s.modSt fun t => { t with flags := t.flags ||| f }

/-- Launch id of a launch front index; 0 for a strand of no launch (R38). -/
def State.launchId (s : State) (l : Option Nat) : Nat :=
  match l with
  | none => 0
  | some n => (s.launchAt n).id.toNat

/-- sw of a strand (R17). -/
def Strand.sw (t : Strand) : Word :=
  t.flags ++ BitVec.ofBool t.pin ++ BitVec.ofBool t.hnd ++ BitVec.ofBool t.cmp ++ t.prio ++ t.rm ++ BitVec.ofBool t.sr ++
    BitVec.ofBool t.sys ++ (0 : BitVec 2) ++ t.pc

/-! ### The error log (R315) -/
/-- Enter an error in a log: when it is full the newest replaces the oldest. -/
def ErrLog.add (l : ErrLog) (code info launch src : Nat) : ErrLog :=
  let e : LogEnt := { code := code, info := info % 2 ^ 48, launch := launch, seq := l.count % 4096, src := src }
  if l.ents.length < 64 then { l with ents := l.ents ++ [e], count := l.count + 1 }
  else { ents := l.ents.drop 1 ++ [e], lost := l.lost + 1, count := l.count + 1 }

/-- Log in the log of a responder's core number: its valley's, or its plain's saddle-ring log for a channel saddle. DESIGN CHOICE: the
spec does not say whether a core that has moved (R360) logs in the valley of its number or of its place, a lost arrival (R281) among
what it logs; the model takes the valley of its number (log 26). -/
def State.logAt (s : State) (resp code info launch src : Nat) : State :=
  if isChannel resp then s.modPlain (plainOf resp) fun p => { p with log := p.log.add code info launch src }
  else s.modValley (valleyOf resp) fun v => { v with log := v.log.add code info launch src }

/-- Log in the Henud controller's log (R356, R405). -/
def State.henudLog (s : State) (code info launch src : Nat) : State :=
  let e : LogEnt := { code := code, info := info % 2 ^ 48, launch := launch, seq := s.henud.log.length % 4096, src := src }
  { s with henud := { s.henud with log := s.henud.log ++ [e] } }

/-- Log an error response of responder resp to the acting strand. -/
def State.logErr (s : State) (resp : Nat) (t : Trap) : State :=
  s.logAt resp t.code t.info.toNat (s.launchId s.st.lix) s.core

/-! ### Physical addresses (R296, R297) -/
/-- Global address of the first byte of a spire's scratchpad. -/
def spBase (p : Nat) : Nat := 2 ^ 60 + p * 2 ^ 20
/-- A physical address is backed. -/
def physOk (pa : Nat) : Bool :=
  decide (pa < 2 ^ 37) ||
  (decide (0x8000000000 ≤ pa) && decide (pa < 0x8000000000 + 128 * 0x4000000) &&
    decide ((pa - 0x8000000000) % 0x4000000 < 0x3000000)) ||
  (decide (0xFF0000000000 ≤ pa) && decide (pa < 0xFF0000100000)) ||
  (decide (0x8000000000000 ≤ pa) && decide (pa < 2 ^ 52))
def isSpPa (pa : Nat) : Bool := decide (0xFF0000000000 ≤ pa) && decide (pa < 0xFF0000100000)
def isHostPa (pa : Nat) : Bool := decide (0x8000000000000 ≤ pa)
def isStorePa (pa : Nat) : Bool := decide (0x8000000000 ≤ pa) && decide (pa < 0xFF0000000000)
/-- Global address of a physical address seen from core c. -/
def State.globalOf (s : State) (c pa : Nat) : Nat :=
  if isSpPa pa then spBase (s.spireOf c) + (pa - 0xFF0000000000) else pkgOf c * 2 ^ 52 + pa
/-- The saddle of a physical address of a package (R297): of a valley store, or of a channel. -/
def saddleOf (pkg pa : Nat) : Nat :=
  if isStorePa pa then
    let v := (pa - 0x8000000000) / 0x4000000
    pkg * 16384 + v / 32 * 4096 + 2048 + v % 32 * 32
  else pkg * 16384 + pa / 2 ^ 35 % 4 * 4096 + 2048 + (32 + pa / 65536 % 16) * 32
/-- The responder of a global address: its spire's first core, or its saddle; tower 0 answers for the host as the valley 0 of
its package. -/
def respOf (ga : Nat) : Nat :=
  if 2 ^ 60 ≤ ga then (ga - 2 ^ 60) / 2 ^ 20 * 4 % 2 ^ 20
  else if isHostPa (ga % 2 ^ 52) then ga / 2 ^ 52 * 16384
  else saddleOf (ga / 2 ^ 52) (ga % 2 ^ 52)

/-! ### Routes (R385 to R387, R394, R395) -/
/-- Position in the package of the router that serves a core (R190, R385, R386). -/
def State.posOf (s : State) (c : Nat) : Nat × Nat :=
  let q := s.placeOf c
  let p := c / 4096 % 4
  let xy :=
    if isSaddle c then
      let i := sadIx c
      if i < 32 then (4 * (i % 8) + 1, 4 * (i / 8) + 1)
      else if i < 40 then (4 * (i - 32) + 1, 0)
      else if i < 48 then (4 * (i - 40) + 2, 15)
      else (0, 0)
    else (4 * (q / 64 % 8) + q / 4 % 4, 4 * (q / 64 % 32 / 8) + q / 16 % 4)
  (32 * (p % 2) + xy.1, 16 * (p / 2) + xy.2)
/-- A UCIe port of a package has more failed lanes than its repair (R394): port y joins the left and right plain at row y, port
32 + x the upper and lower plain at column x, port 96 + 8 p + i plain p and its tower (log 19). -/
def State.portDown (s : State) (pkg port : Nat) : Bool := decide (3 ≤ (fget {} s.links (1024 + 256 * pkg + port)).failed)
/-- The dimension-ordered path from a to b crosses a port that is down (R385). -/
def State.pathDown (s : State) (pkg : Nat) (a b : Nat × Nat) : Bool :=
  (decide (a.1 / 32 ≠ b.1 / 32) && s.portDown pkg a.2) || (decide (a.2 / 16 ≠ b.2 / 16) && s.portDown pkg (32 + b.1))
/-- Port of a package at which a tower joins a plain next to row y of the package, and the row at which it stands (R386). -/
def joinPort (tower y : Nat) : Nat := 96 + 8 * (tower + 2 * (y / 16)) + (y % 16 - 1) / 2
def joinRow (y : Nat) : Nat := y / 16 * 16 + 2 * ((y % 16 - 1) / 2) + 1
/-- The path from a position to a tower is down (R386): in X to the tower's edge, then in Y to the nearest join port. -/
def State.towerDown (s : State) (pkg : Nat) (a : Nat × Nat) (tower : Nat) : Bool :=
  s.pathDown pkg a (63 * tower, a.2) || s.portDown pkg (joinPort tower a.2)
/-- The path from a tower to a position is down (R385 to R387): through the join port nearest to the position's row, from there in X and
then in Y. DEDUCED (log 19): R386 gives the join port of a flit bound for a tower, and that of one that comes from it is chosen alike. -/
def State.fromTowerDown (s : State) (pkg tower : Nat) (b : Nat × Nat) : Bool :=
  s.portDown pkg (joinPort tower b.2) || s.pathDown pkg (63 * tower, joinRow b.2) b
/-- The path from one tower of a package to the other is down: through the join ports of row 1 (log 19). -/
def State.crossDown (s : State) (pkg t u : Nat) : Bool :=
  decide (t ≠ u) && (s.portDown pkg (joinPort t 1) || s.towerDown pkg (63 * t, 1) u)
/-- A Deleus link has two failed lanes (R395). -/
def State.deleusDown (s : State) (pkg tower link : Nat) : Bool :=
  decide (2 ≤ (fget {} s.links (16 * pkg + 8 * tower + link)).failed)
/-- The way from a position of a package, or from its tower at which the message came in, to another package, over at most n links
(R387): whether it is down, and the tower it comes in by. -/
def State.ingress (s : State) (dst : Nat) : Nat → Nat → Nat × Nat → Option Nat → Bool × Nat
  | 0, _, _, _ => (false, 0)
  | n + 1, pkg, a, tin =>
    match s.henud.routes.find? fun r => r.1 == pkg && r.2.1 == dst with
    | none => (false, 0)
    | some (_, _, t, l) =>
      let u := Config.linkPeerTower pkg t l
      let leg := match tin with
        | none => s.towerDown pkg a t
        | some v => s.crossDown pkg v t
      if leg || s.deleusDown pkg t l then (true, 0)
      else if Config.linkPeer pkg t l = dst then (false, u)
      else s.ingress dst n (Config.linkPeer pkg t l) a (some u)
/-- The route from a position of a package to a position of another is down: to the egress tower, over one or two links, and from the
ingress tower (R387). -/
def State.pkgDown (s : State) (pkg : Nat) (a : Nat × Nat) (dst : Nat) (b : Nat × Nat) : Bool :=
  let r := s.ingress dst 2 pkg a none
  r.1 || s.fromTowerDown dst r.2 b
/-- The route from a position of a package to a tower, of this package or another, is down. -/
def State.toTowerDown (s : State) (pkg : Nat) (a : Nat × Nat) (dst tower : Nat) : Bool :=
  if pkg = dst then s.towerDown pkg a tower
  else
    let r := s.ingress dst 2 pkg a none
    r.1 || s.crossDown dst r.2 tower
/-- The route from a tower of a package to a position of this package or another is down. -/
def State.towerToDown (s : State) (pkg tower dst : Nat) (b : Nat × Nat) : Bool :=
  if pkg = dst then s.fromTowerDown pkg tower b
  else
    let r := s.ingress dst 2 pkg (0, 0) (some tower)
    r.1 || s.fromTowerDown dst r.2 b
/-- The route from one core to another crosses a link that is down. -/
def State.linkDown (s : State) (src dst : Nat) : Bool :=
  if s.links.isEmpty then false
  else if pkgOf src = pkgOf dst then s.pathDown (pkgOf src) (s.posOf src) (s.posOf dst)
  else s.pkgDown (pkgOf src) (s.posOf src) (pkgOf dst) (s.posOf dst)

/-- Island of a place (R420): 32 * package + 6 p + k, k the quadrant of its valley or 4 for the saddle ring (log 20). -/
def islandOf (q : Nat) : Nat :=
  32 * pkgOf q + 6 * (q / 4096 % 4) + (if isSaddle q then 4 else q / 64 % 8 / 4 + 2 * (q / 64 % 32 / 16))
/-- Island in which a core number stands; the places of spare spires lie 2^20 above those of their valley. -/
def State.islandOf (s : State) (c : Nat) : Nat := Sys2Proof.Machine.islandOf (if isSaddle c then c else s.placeOf c % 2 ^ 20)
/-- The island a core stands in is off. -/
def State.islandOff (s : State) (c : Nat) : Bool := fget 8 s.henud.islands (s.islandOf c) == 0
/-- A core has left service, or its island is off (R364, R420). -/
def State.away (s : State) (c : Nat) : Bool := (s.coreAt c).lost || s.islandOff c
/-- The saddle of a valley store's physical address has left service, or its island is off, for a spire core of that package (R420,
log 20). -/
def State.storeAway (s : State) (pa : Nat) : Bool := isStorePa pa && s.away (saddleOf (pkgOf s.core) pa)
/-- The route from a core to the responder of a global address is down, or the responder's island is off (R420): a spire, a saddle,
or tower 0 for the host. -/
def State.gaDown (s : State) (c ga : Nat) : Bool :=
  if 2 ^ 60 ≤ ga then false
  else if isHostPa (ga % 2 ^ 52) then !s.links.isEmpty && s.towerDown (pkgOf c) (s.posOf c) 0
  else
    let d := saddleOf (ga / 2 ^ 52) (ga % 2 ^ 52)
    s.linkDown c d || s.islandOff d
/-- The route from the responder of a global address to a core, which the bytes of a read take, is down (R394). -/
def State.backDown (s : State) (c ga : Nat) : Bool :=
  if 2 ^ 60 ≤ ga then false
  else if isHostPa (ga % 2 ^ 52) then !s.links.isEmpty && s.fromTowerDown (pkgOf c) 0 (s.posOf c)
  else s.linkDown (saddleOf (ga / 2 ^ 52) (ga % 2 ^ 52)) c
/-- A read by a core is not answered: its request does not reach the responder, or the bytes do not come back. -/
def State.readDown (s : State) (c ga : Nat) : Bool := s.gaDown c ga || s.backDown c ga

/-! ### Bytes of memory -/
/-- What an unlisted address of memory reads as (log 3). -/
def memDefault : Byte := 0
/-- One byte. -/
def State.byte (s : State) (a : Nat) : Byte := fget memDefault s.mem a
/-- Bytes n of memory from a. -/
def State.bytes (s : State) (a : Nat) : Nat → List Byte
  | 0 => []
  | n + 1 => s.byte a :: s.bytes (a + 1) n
/-- Memory with bytes written from a, in the canonical form. -/
def memWrite (m : List Host.Cell) (a : Nat) : List Byte → List Host.Cell
  | [] => m
  | b :: r => memWrite (fsetD memDefault m a b) (a + 1) r
/-- The state with bytes written from a. -/
def State.poke (s : State) (a : Nat) (bs : List Byte) : State := { s with mem := memWrite s.mem a bs }

/-- The canonical form of memory: addresses strictly rising, no entry equal to what an unlisted address reads as. -/
def memWfFrom : Nat → List Host.Cell → Bool
  | _, [] => true
  | lo, (a, b) :: r => decide (lo ≤ a) && decide (b ≠ memDefault) && memWfFrom (a + 1) r
/-- Memory.wf: the form holds. -/
abbrev Memory.wf (m : List Host.Cell) : Prop := memWfFrom 0 m = true

/-! ### Soft errors and bank power (R289, R313, R314) -/
/-- The lowest of some doublewords (R314). -/
def lowest : List (Nat × Bool) → Option Nat
  | [] => none
  | e :: r => some (r.foldl (fun m d => Nat.min m d.1) e.1)
/-- The lowest doubleword with an uncorrectable error that meets n bytes from a. -/
def State.badIn (s : State) (a n : Nat) : Option Nat :=
  lowest (s.bad.filter fun e => decide (a < e.1 + 8) && decide (e.1 < a + n))
/-- Count one correction: in its valley and in its line. DESIGN CHOICE: R313 counts by valley and a GDDR channel lies in none; the model
counts a channel's corrections in valley 0 of its plain (log 39). -/
def State.corrected (s : State) (d : Nat) : State :=
  let r := respOf d
  let s := s.modValley (if isChannel r then plainOf r * 64 else valleyOf r) fun v => { v with corr := Nat.min (v.corr + 1) 0xFFFFFFFF }
  if isChannel r || isHostPa (d % 2 ^ 52) && decide (d < 2 ^ 60) then s
  else { s with corrLine := fset s.corrLine (d / 64 * 64) (Nat.min (fget 0 s.corrLine (d / 64 * 64) + 1) 31) }
/-- A read of n bytes from a corrects the single-bit errors it meets (R313). -/
def State.scrub (s : State) (a n : Nat) : State :=
  let hit := s.soft.filter fun e => decide (a < e.1 + 8) && decide (e.1 < a + n)
  if hit.isEmpty then s
  else hit.foldl (fun s e => State.corrected { s with soft := fdel e.1 s.soft } e.1) s
/-- An access to the scratchpad powers its bank up (R289). -/
def State.power (s : State) (a : Nat) : State :=
  if a < 2 ^ 60 then s
  else
    let p := (a - 2 ^ 60) / 2 ^ 20
    let b := (a - 2 ^ 60) % 2 ^ 20 / 0x20000
    if (s.spireAt p).up.getLsbD b then s else s.modSpire p fun k => { k with up := putBit k.up b true }
/-- A transfer of n bytes powers up every bank it meets; it meets at most two (R289). -/
def State.powerSpan (s : State) (a n : Nat) : State := (s.power a).power (a + (n - 1))
/-- A transfer of any length powers up every bank of a scratchpad that it meets (R289). -/
def State.powerRange (s : State) (a n : Nat) : State :=
  if n = 0 then s else ((List.range 8).foldl (fun s b => if b * 0x20000 < n then s.power (a + b * 0x20000) else s) s).power (a + (n - 1))
/-- Doublewords wholly inside n bytes from a hold no error after a write of them (R314). -/
def State.cleared (s : State) (a n : Nat) : State :=
  if s.bad.isEmpty && s.soft.isEmpty then s
  else { s with bad := s.bad.filter fun e => !(decide (a ≤ e.1) && decide (e.1 + 8 ≤ a + n)),
                soft := s.soft.filter fun e => !(decide (a ≤ e.1) && decide (e.1 + 8 ≤ a + n)) }
/-- The lowest doubleword with an uncorrectable error that a write of n bytes from a covers only in part. -/
def State.badPart (s : State) (a n : Nat) : Option Nat :=
  lowest (s.bad.filter fun e => decide (a < e.1 + 8) && decide (e.1 < a + n) && !(decide (a ≤ e.1) && decide (e.1 + 8 ≤ a + n)))

/-- Read n bytes at a global address, for an access at virtual address va: the bytes, or UNCORRECTABLE with the lowest
doubleword's address (R314). -/
def State.readAt (s : State) (a n va : Nat) : Except Trap (List Byte) × State :=
  let s := s.power a
  match s.badIn a n with
  | some d => (.error (tr cUncorrectable (w64 (va + d - a))), s)
  | none => (.ok (s.bytes a n), s.scrub a n)

/-- Write bytes at a global address (R314): nothing is written when part of an uncorrectable doubleword would be. -/
def State.writeAt (s : State) (a va : Nat) (bs : List Byte) : Except Trap Unit × State :=
  let s := s.power a
  match s.badPart a bs.length with
  | some d => (.error (tr cUncorrectable (w64 (va + d - a))), s)
  | none => (.ok (), (s.cleared a bs.length).poke a bs)

/-! ### Carve-outs (R290 to R293) -/
/-- A region meets n bytes at o; one of size 0 meets nothing (R291). -/
def Region.meets (r : Region) (o n : Nat) : Bool := decide (0 < r.size) && decide (o < r.base + r.size) && decide (r.base < o + n)
/-- Whether an access of n bytes at scratchpad offset o is refused (R292). -/
def Carve.denies (c : Carve) (o n : Nat) (write : Bool) : Bool :=
  c.spill.meets o n || (write && (c.sreq.meets o n || c.srep.meets o n || c.creq.meets o n || c.crep.meets o n))
/-- The region of a core's receive queue (R290): q 0 request, 1 reply. -/
def State.queueRegion (s : State) (c q : Nat) : Region :=
  let v := (s.spireAt (s.spireOf c)).carve
  if isCompute c then (if q = 0 then v.creq else v.crep) else (if q = 0 then v.sreq else v.srep)

/-! ### Translation (R43, R300 to R304) -/
/-- Kind of an access: read, write, read and write, fetch. -/
inductive Acc where
  | rd | wr | rw | fx
  deriving DecidableEq, Repr

/-- A virtual address lies in a window of R43. -/
def vaOk (va : Nat) : Bool :=
  decide (va < 2 ^ 37) ||
  (decide (0x8000000000 ≤ va) && decide (va < 0x8000000000 + 128 * 0x4000000) &&
    decide ((va - 0x8000000000) % 0x4000000 < 0x3000000)) ||
  (decide (0x400000000000 ≤ va) && decide (va < 0x800000000000)) ||
  (decide (0xFF0000000000 ≤ va) && decide (va < 0xFF0000100000))
def isSpVa (va : Nat) : Bool := decide (0xFF0000000000 ≤ va) && decide (va < 0xFF0000100000)
def isHostVa (va : Nat) : Bool := decide (0x400000000000 ≤ va) && decide (va < 0x800000000000)
def isStoreVa (va : Nat) : Bool := decide (0x8000000000 ≤ va) && decide (va < 0xFF0000000000) && !isHostVa va

/-- A page-table walk (R302) from level lvl on: page's physical base, page size, and permissions sys x w r. -/
def State.walk (s : State) (c va : Nat) : Nat → Nat → Nat → Except Nat (Nat × Nat × BitVec 4)
  | 0, _, _ => .error cTranslation
  | k + 1, lvl, t =>
    let shift := if lvl = 3 then 16 else 39 - 9 * lvl
    let n := if lvl = 3 then 32 else 512
    let a := t + 8 * (va / 2 ^ shift % n)
    if !physOk a then .error cTranslation
    else if s.readDown c (pkgOf c * 2 ^ 52 + a) then .error cLinkDown
    else
      let ga := pkgOf c * 2 ^ 52 + a
      match s.badIn ga 8 with
      | some _ => .error cUncorrectable
      | none =>
        let e := ofLe (s.bytes ga 8)
        let addr := fld e 51 8 * 256
        let perm : BitVec 4 := BitVec.ofNat 4 (fld e 5 2)
        if e % 2 = 0 ∨ fld e 63 52 ≠ 0 ∨ fld e 7 6 ≠ 0 then .error cTranslation
        else if fld e 1 1 = 1 then
          if lvl = 0 ∨ addr % 2 ^ shift ≠ 0 then .error cTranslation
          else .ok (addr, 2 ^ shift, perm)
        else if lvl = 3 ∨ perm ≠ 0 then .error cTranslation
        else s.walk c va k (lvl + 1) addr

/-- A walk's reads correct the single-bit errors they meet (R302, R313). -/
def State.walkScrub (s : State) (c va : Nat) : Nat → Nat → Nat → State
  | 0, _, _ => s
  | k + 1, lvl, t =>
    let a := t + 8 * (va / 2 ^ (if lvl = 3 then 16 else 39 - 9 * lvl) % (if lvl = 3 then 32 else 512))
    let ga := pkgOf c * 2 ^ 52 + a
    let e := ofLe (s.bytes ga 8)
    if !physOk a || s.readDown c ga || (s.badIn ga 8).isSome then s
    else if e % 2 = 0 ∨ fld e 63 52 ≠ 0 ∨ fld e 7 6 ≠ 0 ∨ fld e 5 1 ≠ 0 then s.scrub ga 8
    else (s.scrub ga 8).walkScrub c va k (lvl + 1) (fld e 51 8 * 256)
/-- The entry of a translation cache that translates an address for a launch. -/
def tlbFind (l va : Nat) (t : List TlbEnt) : Option TlbEnt := t.find? fun e => e.lix == l && e.page == va / e.size
/-- The valley in which a core stands, by its place (R360). -/
def State.valleyAtPlace (s : State) (c : Nat) : Nat := valleyOf (s.placeOf c % 2 ^ 20)
/-- The shared translation cache a core uses (R303): that of the valley it stands in, or the saddle ring's for a channel saddle. -/
def State.sharedTlb (s : State) (c : Nat) : List TlbEnt :=
  if isChannel c then (s.plainAt (plainOf c)).tlb else (s.valleyAt (s.valleyAtPlace c)).tlb
def State.setSharedTlb (s : State) (c : Nat) (t : List TlbEnt) : State :=
  if isChannel c then s.modPlain (plainOf c) fun p => { p with tlb := t } else s.modValley (s.valleyAtPlace c) fun v => { v with tlb := t }
/-- The entry that translates an address on a core: of its own cache, or of the shared one (R303). -/
def State.cachedEntry (s : State) (c l va : Nat) : Option TlbEnt :=
  match tlbFind l va (s.coreAt c).tlb with
  | some e => some e
  | none => tlbFind l va (s.sharedTlb c)
/-- Physical address and permissions of a virtual address for a launch, or the failure's code: through a translation
cache, or by a walk (R303). -/
def State.lookup (s : State) (c : Nat) (lix : Option Nat) (va : Nat) : Except Nat (Nat × BitVec 4) :=
  match lix with
  | none => .ok (if isHostVa va then 0x8000000000000 + va else va, 15)
  | some l =>
    match s.cachedEntry c l va with
    | some e => .ok (e.base + va % e.size, e.perm)
    | none =>
      match s.walk c va 4 0 (s.launchAt l).root with
      | .error e => .error e
      | .ok (b, sz, perm) => .ok (b + va % sz, perm)

/-- The walk of an access of core c for a launch corrects the single-bit errors it meets (R302, R313); a translation that a cache gives
walks nothing. -/
def State.walked (s : State) (c : Nat) (lix : Option Nat) (va : Nat) : State :=
  match lix with
  | none => s
  | some l =>
    if s.soft.isEmpty || !vaOk va || (s.cachedEntry c l va).isSome then s else s.walkScrub c va 4 0 (s.launchAt l).root
/-- The walks of the pages of n bytes from va. -/
def State.walkedAll (s : State) (c : Nat) (lix : Option Nat) (va n : Nat) : State :=
  if s.soft.isEmpty then s
  else (List.range ((va % 65536 + n + 65535) / 65536)).foldl (fun s i => s.walked c lix (if i = 0 then va else (va / 65536 + i) * 65536)) s

/-- Permission check of R302: perm is sys, x, w, r from the top. -/
def permOk (perm : BitVec 4) (sys : Bool) (a : Acc) : Bool :=
  (sys || !perm.getLsbD 3) &&
  match a with
  | .rd => perm.getLsbD 0
  | .wr => perm.getLsbD 1
  | .rw => perm.getLsbD 0 && perm.getLsbD 1
  | .fx => perm.getLsbD 2

/-- Translate an access of n bytes at va by a strand of launch lix on core c: the physical address, or the cause. Reads and
writes of carve-out bytes are checked here (R292). -/
def State.physOf (s : State) (c : Nat) (lix : Option Nat) (sys : Bool) (va n : Nat) (a : Acc) : Except Nat Nat :=
  if !vaOk va then .error cTranslation
  else
    match s.lookup c lix va with
    | .error e => .error e
    | .ok (pa, perm) =>
      if !physOk pa || (isSpVa va && !isSpPa pa) || (isSpPa pa && isSaddle c) then .error cTranslation
      else if !(lix == none) && !permOk perm sys a then .error cPerm
      else if isSpPa pa && a != .fx && (s.spireAt (s.spireOf c)).carve.denies (pa - 0xFF0000000000) n (a != .rd) then .error cPerm
      else .ok pa

/-- Physical address of the page-table entry with an uncorrectable error at which a walk stops (R302, R314). -/
def State.badEntry (s : State) (c va : Nat) : Nat → Nat → Nat → Nat
  | 0, _, t => t
  | k + 1, lvl, t =>
    let a := t + 8 * (va / 2 ^ (if lvl = 3 then 16 else 39 - 9 * lvl) % (if lvl = 3 then 32 else 512))
    let ga := pkgOf c * 2 ^ 52 + a
    if (s.badIn ga 8).isSome then a else s.badEntry c va k (lvl + 1) (fld (ofLe (s.bytes ga 8)) 51 8 * 256)
/-- Info of a failed translation: the address of the access, or of the uncorrectable page-table entry (R314). -/
def State.xlateInfo (s : State) (va code : Nat) : Word :=
  w64 (if code = cUncorrectable then s.badEntry s.core va 4 0 (match s.st.lix with | some l => (s.launchAt l).root | none => 0) else va)
/-- Translation for the acting strand: the physical address, or the trap. -/
def State.xlate (s : State) (va n : Nat) (a : Acc) : Except Trap Nat :=
  match s.physOf s.core s.st.lix s.st.sys va n a with
  | .ok pa => .ok pa
  | .error e => .error (tr e (s.xlateInfo va e))

/-- Whether a physical address is local to a core (R131), judged by the core's number, which a move leaves it (R362, log 5). -/
def State.isLocal (_ : State) (c pa : Nat) : Bool :=
  if isSaddle c then
    !isSpPa pa && !isHostPa pa && saddleOf (pkgOf c) pa == c
  else isSpPa pa || (isStorePa pa && (pa - 0x8000000000) / 0x4000000 == c / 64 % 64 % 32 + c / 4096 % 4 * 32)

/-- The walks of an access of the acting strand to n bytes from va. -/
def State.xlated (s : State) (va n : Nat) : State := s.walkedAll s.core s.st.lix va n
/-- The walks of the accesses to segments. -/
def State.xlatedSegs (s : State) (gs : List Seg) : State :=
  if s.soft.isEmpty then s else gs.foldl (fun s g => s.xlated g.va g.n) s

/-- The responder of a failed translation: the saddle of an uncorrectable page-table entry, else the requester itself (R315). -/
def State.xlateResp (s : State) (t : Trap) : Nat :=
  if t.code = cUncorrectable then respOf (pkgOf s.core * 2 ^ 52 + t.info.toNat) else s.core
/-- A translation for a launch on core c has failed with a cause at an address: that is logged (R315), an uncorrectable page-table entry
where it lies (R314), another failure at the core. -/
def State.xlateLog (s : State) (c : Nat) (lix : Option Nat) (va code : Nat) : State :=
  if code = cUncorrectable then
    let t := s.badEntry c va 4 0 (match lix with | some l => (s.launchAt l).root | none => 0)
    s.logAt (respOf (pkgOf c * 2 ^ 52 + t)) code t (s.launchId lix) c
  else s.logAt c code va (s.launchId lix) c
/-- Log a failed access of the acting strand and answer the trap: translation and permission failures are logged at the
requester, errors of a memory at its responder (R315). -/
def State.fail (s : State) (t : Trap) : Res := .trap t (s.logErr (s.xlateResp t) t)
def State.failAt (s : State) (ga : Nat) (t : Trap) : Res := .trap t (s.logErr (respOf ga) t)

/-! ### Waking strands (R146) -/
/-- A parked strand's suspension by await is over (R146, R339). -/
def Parked.wake (p : Parked) (now : Nat) : Parked := { p with strand := { p.strand with awaiting := false, life := .ready, since := now } }
/-- A wake event of core c: strands suspended by await become ready. -/
def State.wakeCore (s : State) (c : Nat) : State :=
  s.modCore c fun k => { k with
    ctxs := k.ctxs.map fun e =>
      if e.2.awaiting then (e.1, { e.2 with awaiting := false, life := .ready, since := s.tick }) else e
    parked := k.parked.map fun p => if p.strand.awaiting then p.wake s.tick else p }
/-- A wake event of a spire: of both its cores. -/
def State.wakeSpire (s : State) (p : Nat) : State :=
  let cs := s.cores.filter fun e => s.spireOf e.1 == p && !isSaddle e.1
  cs.foldl (fun s e => s.wakeCore e.1) s

/-! ### Kept failures (R202, R225, R236, R262) -/
/-- Keep a failure for a strand: the first of each kind until it is reported (R202, R225, R236). -/
def Strand.keep (t : Strand) (f : Kept) : Strand :=
  if t.kept.any (fun k => k.kind == f.kind) then t else { t with kept := t.kept ++ [f] }
/-- Keep a failure for a strand that has left the core (R132), under the number the core knows it by. -/
def Core.keepAway (k : Core) (x : Nat) (f : Kept) : Core :=
  if k.away.any fun e => e.1 == x && e.2.kind == f.kind then k else { k with away := k.away ++ [(x, f)] }
/-- Keep a failure for the strand that core c knows as x: one in a context, one parked (2000 + its order), one that has left. -/
def State.keep (s : State) (c x : Nat) (f : Kept) : State :=
  if x < 64 then s.modStrand c x fun t => t.keep f
  else if x < 2000 then s
  else if (s.coreAt c).parked.any fun p => p.order + 2000 == x then
    s.modCore c fun k => { k with parked := k.parked.map fun p => if p.order + 2000 = x then { p with strand := p.strand.keep f } else p }
  else s.modCore c fun k => k.keepAway x f
/-- The kept failure of the kinds wanted whose instruction is earliest (R236). -/
def firstKept (want : Nat → Bool) : List Kept → Option Kept
  | [] => none
  | k :: r =>
    match firstKept want r with
    | none => if want k.kind then some k else none
    | some b => if want k.kind && decide (k.order ≤ b.order) then some k else some b
/-- The trap that reports a kept failure. -/
def Kept.trap (k : Kept) : Trap := { code := k.code, info := w64 k.addr, dfr := true }
/-- Report a failure kept on a core that the acting strand has left, the first such core first (R132, R236). -/
def State.reportAway (s : State) (want : Nat → Bool) : List (Nat × Nat) → Option (Trap × State)
  | [] => none
  | e :: r =>
    match firstKept want (((s.coreAt e.1).away.filter fun a => a.1 == 2000 + e.2).map (·.2)) with
    | none => s.reportAway want r
    | some k => some (k.trap, s.modCore e.1 fun q => { q with away := q.away.filter fun a => !(a.1 == 2000 + e.2 && a.2 == k) })
/-- Report a kept failure of the acting strand: it is consumed (R348). Those of the cores it has left come first in program order. -/
def State.report (s : State) (want : Nat → Bool) : Option (Trap × State) :=
  match s.reportAway want s.st.left with
  | some x => some x
  | none =>
    match firstKept want s.st.kept with
    | none => none
    | some k => some (k.trap, s.modSt fun t => { t with kept := t.kept.filter fun j => !(j == k) })
/-- Where the acting strand may have work that is still to be done: the cores it has left, and its own. -/
def State.places (s : State) : List (Nat × Nat) := (s.st.left.map fun e => (e.1, 2000 + e.2)) ++ [(s.core, s.ctx)]

/-! ### The send queue (R214) -/
/-- Depth of the send queue (R35). -/
def Core.sqDepth (k : Core) : Nat := if k.sqcfg.getLsbD 8 then bitsOf k.sqcfg 5 0 else 32
/-- An instruction that has issued and has still to place the entry it holds. -/
def Pend.holdsEntry (p : Pend) : Bool :=
  p.tag.isNone && p.trap.isNone && match p.prep with
    | .entry _ => true
    | _ => false
/-- Entries of the send queue: those placed, and those that instructions hold from their issue on (R214). -/
def Core.sqCount (k : Core) : Nat := k.sendq.length + (k.ctxs.flatMap fun e => e.2.pend.filter Pend.holdsEntry).length
/-- The send queue holds at least its depth (R214). -/
def Core.sqFull (k : Core) : Bool := decide (k.sqDepth ≤ k.sqCount)
/-- The waiters of R214 are checked against the queue again, and are ready when it has room (R366). -/
def Core.recheck (k : Core) (now : Nat) : Core :=
  if k.sqFull then k
  else { k with ctxs := k.ctxs.map fun e =>
    if e.2.waitSq && e.2.life == .waiting then (e.1, { e.2 with life := .ready, since := now }) else e }

/-! ### Freeing a context, ending a launch (R350, R351) -/
/-- An engine operation was accepted for the strand of context x. -/
def EngOp.mine (x : Nat) (o : EngOp) : Bool := o.ctx == x
/-- The strand of context x is gone: the operation belongs to no strand of the core. -/
def EngOp.disown (x : Nat) (o : EngOp) : EngOp := if o.mine x then { o with ctx := 1000 } else o
/-- The core whose context a message's ctx names: the source of a request, the destination of an answer. -/
def Flight.asker (f : Flight) : Nat :=
  match f.pay with
  | .ack .. => f.dst
  | .atomRep .. => f.dst
  | .lockGrant .. => f.dst
  | .lockRelAck .. => f.dst
  | .tileAns .. => f.dst
  | _ => f.src
/-- What refers to context x of core c refers to y. -/
def State.rekey (s : State) (c x y : Nat) : State :=
  let eng (o : EngOp) : EngOp := if o.mine x then { o with ctx := y } else o
  let s := s.modCore c fun k => { k with
    eng := k.eng.map eng
    sendq := k.sendq.map fun e => if e.ctx = x then { e with ctx := y } else e
    outst := k.outst.map fun o => if o.flight.ctx = x then { o with flight := { o.flight with ctx := y } } else o }
  let s := { s with net := s.net.map fun (f : Flight) =>
    let f := if f.asker = c ∧ f.ctx = x then { f with ctx := y } else f
    if f.merged.contains (c, x) then { f with merged := f.merged.map fun e => if e = (c, x) then (c, y) else e } else f }
  let p := s.spireOf c
  if (s.spireAt p).semq.isEmpty then s
  else s.modSpire p fun k => { k with semq := k.semq.map fun (w : SemWait) => if w.core = c ∧ w.ctx = x then { w with ctx := y } else w }
/-- What a strand that has ended has left on other cores belongs to no strand. -/
def State.disownLeft (s : State) (t : Strand) : State := t.left.foldl (fun s e => s.rekey e.1 (2000 + e.2) 1000) s
/-- The arrivals of a barrier that waits for its next phase without those of a context. -/
def Bar.without (x : Nat) (b : Bar) : Bar :=
  { b with heldArr := b.heldArr.filter fun a => match a.who with
      | some w => w.1 != x
      | none => true }
/-- Of the takes of context x of core c the first n stay in a spire's queue (R232). -/
def keepTakes (c x : Nat) : Nat → List SemWait → List SemWait
  | _, [] => []
  | n, w :: r =>
    if w.core = c ∧ w.ctx = x then (if n = 0 then keepTakes c x 0 r else w :: keepTakes c x (n - 1) r) else w :: keepTakes c x n r
/-- The takes of a context that have been discarded leave the queue of its spire, of which n are still pending. -/
def State.trimTakes (s : State) (c x n : Nat) : State :=
  let p := s.spireOf c
  if (s.spireAt p).semq.isEmpty then s else s.modSpire p fun k => { k with semq := keepTakes c x n k.semq }
/-- Free a context: what it left behind belongs to no strand, its waiting takes leave the spire's queue, and its waiting arrivals their
barriers. -/
def State.freeCtx (s : State) (c x : Nat) : State :=
  let s := s.modCore c fun k => { k with
    ctxs := fdel x k.ctxs
    bars := k.bars.map fun b => (b.1, b.2.without x)
    eng := k.eng.map (EngOp.disown x)
    sendq := k.sendq.map fun e => if e.ctx = x && !e.held then { e with ctx := 1000 } else e
    outst := k.outst.map fun o => if o.flight.ctx = x then { o with flight := { o.flight with ctx := 1000 } } else o }
  let s := { s with net := s.net.map fun (f : Flight) =>
    let f := if f.asker = c ∧ f.ctx = x then { f with ctx := 1000 } else f
    if f.merged.contains (c, x) then { f with merged := f.merged.map fun e => if e = (c, x) then (c, 1000) else e } else f }
  s.trimTakes c x 0
/-- Discard a context's held send-queue entries (R220). -/
def dropHeld (x : Nat) (q : List SqEnt) : List SqEnt := q.filter fun e => !(e.held && e.ctx == x)
def mstepAct (w : Word) : Bool := w.getLsbD 31
def mstepCtx (w : Word) : Nat := bitsOf w 20 18
/-- Clear the held bit of an aborted handler's message, when it is still at the head of its queue (R220, R352): the queue is that of
the core on which the handler was aborted, wherever the trap strand ends. -/
def State.unhold (s : State) (t : Strand) : State :=
  if t.tHab then
    s.modCore t.hcore fun k =>
      let q := k.queue t.hq
      match q.msgs with
      | m :: r => if m.held && m.hdr0 == t.tMsg then { k with rq := fset k.rq t.hq { q with msgs := { m with held := false } :: r } } else k
      | [] => k
  else s

/-- A composed core hands its state back to its leader (R279): its members become idle. -/
def State.handBack (s : State) (c : Nat) : State :=
  let ms := (s.coreAt c).members
  let s := ms.foldl (fun s m => s.modCore m fun k => { k with leader := none }) s
  s.modCore c fun k => { k with leader := none, members := [] }
/-- The core's part of a strand's end by R350 and R351: mstep, held sends. -/
def Core.quit (k : Core) (x : Nat) : Core :=
  { k with mstep := if mstepAct k.mstep && mstepCtx k.mstep == x then 0 else k.mstep, sendq := dropHeld x k.sendq }
/-- The acting part of a strand's end by R350 and R351: mstep, held sends, after which what waits for the send queue is checked again
(R366), the message of an aborted handler. -/
def State.quit (s : State) (c x : Nat) (t : Strand) : State := ((s.modCore c fun k => (k.quit x).recheck s.tick).unhold t).disownLeft t
/-- The launch of a strand has ended (R351). -/
def State.over (s : State) (l : Option Nat) : Bool :=
  match l with
  | none => false
  | some n => (s.launchAt n).st == .ended
/-- What of an ended strand's pending instructions runs on (R351): what has committed, but a macro-operation and, of a strand in the
waiting state, the instruction it waits at. -/
def Pend.runsOn (p : Pend) : Bool := p.com && p.unit != 4 && p.tag.isNone && p.trap.isNone && !p.yields
/-- Takes of a list of pending instructions. -/
def takesOf (ps : List Pend) : Nat := (ps.filter fun p => match p.instr with
  | .semTake _ _ _ => true
  | _ => false).length
/-- Stop strand x of core c, of an ended launch (R351): what has committed runs on, the rest is discarded; a handler runs on. -/
def State.endStrandOf (s : State) (c x : Nat) : State :=
  let t := s.strandAt c x
  if t.hnd then s
  else
    let left := t.pend.filter Pend.runsOn
    let s := if t.cmp then s.handBack c else s
    let s := s.quit c x t
    if left.isEmpty then s.freeCtx c x
    else (s.trimTakes c x (takesOf left)).modStrand c x fun t =>
      { t with ended := true, pend := left, found := none, held := [], replay := none, life := .ready, awaiting := false, cmp := false,
               waitSq := false }
/-- The strands of a launch in their contexts: core, context. -/
def State.strandsOf (s : State) (l : Nat) : List (Nat × Nat) :=
  s.cores.flatMap fun e => (e.2.ctxs.filter fun x => x.2.lix == some l).map fun x => (e.1, x.1)
/-- A take of a spire's semaphore waits for a parked strand of a launch. -/
def State.parkedTake (s : State) (l : Nat) (w : SemWait) : Bool :=
  (s.coreAt w.core).parked.any fun p => p.strand.lix == some l && w.ctx == 2000 + p.order

/-- The records of a launch leave a deque and a shadow, its parked strands their core. -/
def Core.dropLaunch (k : Core) (l : Nat) : Core :=
  { k with deque := k.deque.filter fun r => r.lix != some l, parked := k.parked.filter fun p => p.strand.lix != some l }
def Plain.dropLaunch (p : Plain) (l : Nat) : Plain :=
  { p with shadows := p.shadows.map fun d => (d.1, d.2.filter fun r => r.lix != some l) }

/-- What the parked strands of a launch have issued belongs to no strand from now on. -/
def State.disownParked (s : State) (l : Nat) : State :=
  (s.cores.flatMap fun e => (e.2.parked.filter fun p => p.strand.lix == some l).map fun p => (e.1, p)).foldl
    (fun s e => (s.rekey e.1 (2000 + e.2.order) 1000).disownLeft e.2.strand) s
/-- End a launch that is not done (R351): its records leave the deques and shadows, its parked strands and its strands stop. -/
def State.endLaunch (s : State) (l : Nat) (why : Nat × Word × Nat × Nat) : State :=
  if (s.launchAt l).st = .done then s
  else
  let s := s.modLaunch l fun a => { a with st := .ended, why := some (a.why.getD why) }
  let s := { s with spires := s.spires.map fun (e : Nat × Spire) => (e.1, { e.2 with semq := e.2.semq.filter fun w => !s.parkedTake l w }) }
  let s := s.disownParked l
  let s := { s with plains := s.plains.map fun (e : Nat × Plain) => (e.1, e.2.dropLaunch l) }
  let s := { s with cores := s.cores.map fun (e : Nat × Core) => (e.1, e.2.dropLaunch l) }
  (s.strandsOf l).foldl (fun s e => s.endStrandOf e.1 e.2) s

/-- Stop a strand (R350): reason 0 no handler, 1 double trap. -/
def State.stopStrand (s : State) (c x : Nat) (t : Trap) (pc : BitVec 48) (reason : Nat) : State :=
  let st := s.strandAt c x
  let s := (s.quit c x st).freeCtx c x
  match st.lix with
  | none => s
  | some l => s.endLaunch l (t.code, t.info, pc.toNat, reason)

/-! ### Taking a trap (R349) -/
/-- Abort a handler (R220, R353): held sends are discarded and what waits for the send queue is checked again (R366), the message stays
at the head of its queue with its held bit, and tmsg receives its id. -/
def State.abortHandler (s : State) (c x : Nat) : State :=
  let q := (s.strandAt c x).hq
  let rq := (s.coreAt c).queue q
  let id : Word := match rq.msgs with
    | m :: _ => m.hdr0
    | [] => 0
  let rq' := match rq.msgs with
    | m :: r => fset (s.coreAt c).rq q { rq with msgs := { m with held := true } :: r }
    | [] => (s.coreAt c).rq
  let s := s.modCore c fun k => { k with sendq := dropHeld x k.sendq, rq := rq' }.recheck s.tick
  s.modStrand c x fun t => { t with hnd := false, tMsg := id, hcore := c }

/-- re of R349 for a trap. -/
def trapRe (t : Trap) : Bool := !(t.code == cSvc || t.code == cSoftTrap || t.code == cBreakpoint || t.noRe)

/-- Trap entry of strand x of core c for trap t raised at pc, with W and the continuation of R98 (R349); the strand is stopped
when there is no trap handler or a trap is being handled (R350); a handler whose launch has ended ends at its trap (R351, log 53). -/
def State.enterTrap (s : State) (c x : Nat) (t : Trap) (pc : BitVec 48) (w : Nat) (cont : BitVec 48) : State :=
  let cmp := (s.strandAt c x).cmp
  let s := if cmp then (s.handBack c).modStrand c x fun u => { u with cmp := false } else s
  let k := s.coreAt c
  let st := s.strandAt c x
  if st.hnd && s.over st.lix then (s.quit c x st).freeCtx c x
  else if bitsOf k.tvec 47 2 = 0 then s.stopStrand c x t pc 0
  else if st.tAct then s.stopStrand c x t pc 1
  else
    let sw := st.sw
    let hab := st.hnd
    let s := s.trimTakes c x 0
    let s := if hab then s.abortHandler c x else s
    let s := s.modStrand c x fun u => { u with
      tCode := BitVec.ofNat 8 t.code, tInfo := t.info, tPc := pc, tW := BitVec.ofNat 4 w, tDfr := t.dfr,
      tCont := if w = 0 then pc + 4 else cont, tRe := trapRe t, tCmp := cmp, tSwHi := sw.extractLsb' 48 16, tHab := hab,
      tHeld := BitVec.ofNat 4 u.held.length,
      sys := true, pc := BitVec.ofNat 48 (bitsOf k.tvec 47 2 * 4), tAct := true, wd := 0,
      since := if u.life = .ready then u.since else s.tick, life := .ready, awaiting := false, waitBar := none, waitEv := none,
      cond := false, waitSq := false, found := none, replay := none }
    s.modCore c fun k => { k with tcount := if k.tcount.toNat < 0xFFFFFFFF then k.tcount + 1 else k.tcount }

/-! ### The writes before a push (R335) -/
/-- The writes that the strand of context x of core c had issued before the core had accepted n operations are performed at domain
scope: what its units, its send queue, the network and the engine still hold of that core (log 54). -/
def State.pushSeen (s : State) (ms : List (Nat × Nat × Nat)) : Bool :=
  ms.all fun m =>
    let c := m.1
    let x := m.2.1
    let n := m.2.2
    let k := s.coreAt c
    !(k.eng.any fun o => decide (o.order < n)) &&
      !((fget {} k.ctxs x).pend.any fun p => decide (p.order < n) && decide (2 ≤ p.unit) && decide (p.unit ≤ 4)) &&
      !(k.sendq.any fun e => decide (e.tag < n) && match e.pay with
        | .atomReq .. => true
        | _ => false) &&
      !(s.net.any fun f => match f.pay with
        | .store .. => f.src == c && decide (f.tag < n)
        | .ack .. => f.dst == c && decide (f.tag < n)
        | .hostWr .. => f.src == c && decide (f.tag < n)
        | _ => false) &&
      !(k.outst.any fun o => decide (o.order < n))

/-! ### Settling a strand whose pending instructions are done (R98, R99, R348) -/
/-- The pc of the first instruction that has not committed. -/
def contOf (t : Strand) : BitVec 48 :=
  match t.pend.find? fun p => !p.com with
  | some p => p.pc
  | none => t.pc

/-- Deliver what a strand has to deliver, when its committed instructions are done. -/
def State.settle (s : State) (c x : Nat) : State :=
  let t := s.strandAt c x
  match t.pend.find? fun p => p.trap.isSome with
  | some _ =>
    let cont := contOf t
    let live := t.pend.filter fun p => p.com
    let s := s.modStrand c x fun u => { u with pend := live, found := none }
    let s := if live.length = t.pend.length then s else s.trimTakes c x (takesOf live)
    if live.any fun p => p.trap.isNone then
      -- the uncommitted are gone; keep the continuation as the pc of the strand
      s.modStrand c x fun u => { u with pc := cont }
    else
      match live with
      | [] => s
      | p :: r =>
        if t.ended then s.freeCtx c x
        else
        let held := r.filterMap fun q => q.trap.map fun t => HeldTrap.mk t q.pc q.w
        let s := s.modStrand c x fun u => { u with pend := [], held := held ++ t.held, pc := p.pc }
        let wc := match t.replay with
          | some (some wc) => if p.re then wc else (p.w, cont)
          | _ => (p.w, cont)
        match p.trap with
        | some tp => s.enterTrap c x tp p.pc wc.1 wc.2
        | none => s
  | none =>
    if !t.pend.isEmpty then s
    else if t.ended then s.freeCtx c x
    else
      match t.found with
      | some (tp, pc) =>
        let wc := match t.replay with
          | some (some wc) => wc
          | _ => (0, pc + 4)
        (s.modStrand c x fun u => { u with found := none }).enterTrap c x tp pc wc.1 wc.2
      | none => s

/-! ### Pointers (R21, R22) -/
/-- A count after decoding. -/
def cnt (c : BitVec 16) : Nat := if c = 0 then 65536 else c.toNat
/-- The address a pointer's next read uses. -/
def Ptr.addr (p : Ptr) : Nat :=
  (((p.base.toNat : Int) + p.i1.toNat * p.s1.toInt + p.i2.toNat * p.s2.toInt) % 2 ^ 48).toNat
/-- The pointer after one read. -/
def Ptr.next (p : Ptr) : Ptr :=
  if p.i1.toNat + 1 = cnt p.c1 then
    { p with i1 := 0, i2 := if p.i2.toNat + 1 = cnt p.c2 then 0 else p.i2 + 1 }
  else { p with i1 := p.i1 + 1 }
/-- n successive addresses of a pointer, and the pointer after them. -/
def Ptr.run (p : Ptr) : Nat → List Nat × Ptr
  | 0 => ([], p)
  | n + 1 =>
    let r := p.next.run n
    (p.addr :: r.1, r.2)
/-- A pointer register of a list. -/
def ptrOf (ps : List (Nat × Ptr)) (k : BitVec 4) : Ptr := fget {} ps k.toNat

end Sys2Proof.Machine
end

