-- ==== Sys2Proof/Machine/Operands.lean ====
section
/-! DEFINITION. Operand forms: units and register sets (R91, R92), pointer registers (R21, R22). -/

namespace Sys2Proof.Machine
open Sys2Proof

end Sys2Proof.Machine

namespace Sys2Proof
set_option linter.unusedVariables false

/-- The unit of R91: 0 issue, 1 scalar long, 2 local memory, 3 vector, 4 matrix sequencer, 5 message. -/
def Instr.unit : Instr → Nat
  | .mul _ _ _ _ => 1
  | .mulh _ _ _ _ => 1
  | .mulhu _ _ _ _ => 1
  | .mulhsu _ _ _ _ => 1
  | .div _ _ _ _ => 1
  | .divu _ _ _ _ => 1
  | .rem _ _ _ _ => 1
  | .remu _ _ _ _ => 1
  | .madd _ _ _ _ _ => 1
  | .fadd _ _ _ _ _ => 1
  | .fsub _ _ _ _ _ => 1
  | .fmul _ _ _ _ _ => 1
  | .fdiv _ _ _ _ _ => 1
  | .fsqrt _ _ _ _ => 1
  | .fmin _ _ _ _ _ => 1
  | .fmax _ _ _ _ _ => 1
  | .fma _ _ _ _ _ _ => 1
  | .feq _ _ _ _ _ => 1
  | .flt _ _ _ _ _ => 1
  | .fle _ _ _ _ _ => 1
  | .fcvti _ _ _ _ _ _ => 1
  | .fcvtf _ _ _ _ _ _ => 1
  | .fcvt _ _ _ _ _ => 1
  | .fsgnj _ _ _ _ _ _ => 1
  | .fclass _ _ _ _ => 1
  | .ldb _ _ _ _ => 2
  | .ldbu _ _ _ _ => 2
  | .ldh _ _ _ _ => 2
  | .ldhu _ _ _ _ => 2
  | .ldw _ _ _ _ => 2
  | .ldwu _ _ _ _ => 2
  | .ldd _ _ _ _ => 2
  | .stb _ _ _ _ => 2
  | .sth _ _ _ _ => 2
  | .stw _ _ _ _ => 2
  | .std _ _ _ _ => 2
  | .ptrset _ _ _ _ => 3
  | .ptrdim _ _ _ => 3
  | .ptrget _ _ _ _ => 3
  | .vadd _ _ _ _ _ => 3
  | .vsub _ _ _ _ _ => 3
  | .vmul _ _ _ _ _ => 3
  | .vmin _ _ _ _ _ => 3
  | .vmax _ _ _ _ _ => 3
  | .vabs _ _ _ _ => 3
  | .vneg _ _ _ _ => 3
  | .vand _ _ _ _ _ => 3
  | .vor _ _ _ _ _ => 3
  | .vxor _ _ _ _ _ => 3
  | .vshl _ _ _ _ _ => 3
  | .vshr _ _ _ _ _ => 3
  | .vfma _ _ _ _ _ => 3
  | .vsel _ _ _ _ _ => 3
  | .vcmpEq _ _ _ _ _ => 3
  | .vcmpNe _ _ _ _ _ => 3
  | .vcmpLt _ _ _ _ _ => 3
  | .vcmpLe _ _ _ _ _ => 3
  | .vperm _ _ _ _ _ => 3
  | .vbcast _ _ _ _ => 3
  | .vcvt _ _ _ _ _ => 3
  | .vcvtS _ _ _ _ _ _ => 3
  | .vpack _ _ _ => 3
  | .vunpack _ _ _ => 3
  | .vdot _ _ _ _ => 3
  | .vdotS _ _ _ _ _ => 3
  | .vsum _ _ _ => 3
  | .vredMax _ _ _ => 3
  | .vredMin _ _ _ => 3
  | .vaccClr _ _ => 3
  | .vaccSt _ _ _ => 3
  | .vaccRd _ _ _ _ => 3
  | .vexp2 _ _ _ _ => 3
  | .vrcp _ _ _ _ => 3
  | .vrsqrt _ _ _ _ => 3
  | .vgath _ _ _ _ _ => 3
  | .vscat _ _ _ _ _ => 3
  | .vcprs _ _ _ _ _ => 3
  | .vhamf _ _ _ _ _ => 3
  | .tcfg _ => 4
  | .tcfgD _ => 4
  | .mzero _ _ => 4
  | .mwait => 4
  | .mexc _ _ _ => 4
  | .mscale _ _ _ _ _ => 4
  | .mma _ _ _ _ _ _ _ _ _ => 4
  | .mmaCo _ _ _ _ _ _ _ _ _ => 4
  | .mmi _ _ _ _ _ _ _ _ => 4
  | .mmt _ _ _ _ _ _ _ _ => 4
  | .msig _ _ _ _ => 4
  | .mldb _ _ _ _ => 4
  | .mrd _ _ _ _ => 4
  | .mwr _ _ _ _ => 4
  | .mdrain _ _ _ _ => 4
  | .mdrainAdd _ _ _ _ => 4
  | .mmov _ _ _ => 4
  | .mrowRd _ _ _ _ => 4
  | .mrowWr _ _ _ _ => 4
  | .msmx _ _ _ _ _ _ _ => 4
  | .mmrg _ _ _ => 4
  | .mfin _ _ => 4
  | .send _ _ _ _ _ => 5
  | .sendl _ _ _ _ _ => 5
  | .reply _ _ _ _ => 5
  | .hret => 5
  | .mpoll _ _ _ _ => 5
  | .rsend _ _ _ _ _ _ => 5
  | .barInit _ _ _ => 5
  | .barArr _ _ _ _ => 5
  | .barExp _ _ _ => 5
  | .barWait _ _ => 5
  | .barTest _ _ _ => 5
  | .barFlags _ _ _ => 5
  | .ecSet _ _ _ => 5
  | .ecInc _ _ _ => 5
  | .ecArm _ _ _ _ => 5
  | .ecRd _ _ _ => 5
  | .semPost _ _ _ => 5
  | .semTake _ _ _ => 5
  | .fence _ => 5
  | .atom _ _ _ _ _ => 5
  | .atomRet _ _ _ _ _ => 5
  | .acq _ _ => 5
  | .rel _ _ => 5
  | .bind _ _ _ _ => 5
  | .unbind _ _ => 5
  | .copy _ _ _ _ _ => 5
  | .collCfg _ _ _ _ => 5
  | .collRdy _ _ _ => 5
  | .strmOpen _ _ => 5
  | .strmClose _ _ => 5
  | .itreq _ _ _ => 5
  | .itreqX _ _ _ _ => 5
  | .ithold _ _ _ _ => 5
  | .itrel _ _ => 5
  | .itstat _ _ _ => 5
  | .itland _ _ _ => 5
  | .bdeal _ _ _ _ => 5
  | .bdpat _ _ _ => 5
  | .spawn _ _ _ => 5
  | .spawnR _ _ _ _ => 5
  | .yield => 5
  | .halt _ _ => 5
  | .trig _ => 5
  | .awaitEv _ _ => 5
  | .cmp _ => 5
  | .dcmp => 5
  | _ => 0

/-- The lookahead field (R77, R90); 0 in an instruction without one. -/
def Instr.la : Instr → Nat
  | .mul la _ _ _ => la.toNat
  | .mulh la _ _ _ => la.toNat
  | .mulhu la _ _ _ => la.toNat
  | .mulhsu la _ _ _ => la.toNat
  | .div la _ _ _ => la.toNat
  | .divu la _ _ _ => la.toNat
  | .rem la _ _ _ => la.toNat
  | .remu la _ _ _ => la.toNat
  | .madd la _ _ _ _ => la.toNat
  | .fadd la _ _ _ _ => la.toNat
  | .fsub la _ _ _ _ => la.toNat
  | .fmul la _ _ _ _ => la.toNat
  | .fdiv la _ _ _ _ => la.toNat
  | .fsqrt la _ _ _ => la.toNat
  | .fmin la _ _ _ _ => la.toNat
  | .fmax la _ _ _ _ => la.toNat
  | .fma la _ _ _ _ _ => la.toNat
  | .feq la _ _ _ _ => la.toNat
  | .flt la _ _ _ _ => la.toNat
  | .fle la _ _ _ _ => la.toNat
  | .fcvti la _ _ _ _ _ => la.toNat
  | .fcvtf la _ _ _ _ _ => la.toNat
  | .fcvt la _ _ _ _ => la.toNat
  | .fsgnj la _ _ _ _ _ => la.toNat
  | .fclass la _ _ _ => la.toNat
  | .ldb la _ _ _ => la.toNat
  | .ldbu la _ _ _ => la.toNat
  | .ldh la _ _ _ => la.toNat
  | .ldhu la _ _ _ => la.toNat
  | .ldw la _ _ _ => la.toNat
  | .ldwu la _ _ _ => la.toNat
  | .ldd la _ _ _ => la.toNat
  | .stb la _ _ _ => la.toNat
  | .sth la _ _ _ => la.toNat
  | .stw la _ _ _ => la.toNat
  | .std la _ _ _ => la.toNat
  | .ptrset la _ _ _ => la.toNat
  | .ptrdim la _ _ => la.toNat
  | .ptrget la _ _ _ => la.toNat
  | .vadd la _ _ _ _ => la.toNat
  | .vsub la _ _ _ _ => la.toNat
  | .vmul la _ _ _ _ => la.toNat
  | .vmin la _ _ _ _ => la.toNat
  | .vmax la _ _ _ _ => la.toNat
  | .vabs la _ _ _ => la.toNat
  | .vneg la _ _ _ => la.toNat
  | .vand la _ _ _ _ => la.toNat
  | .vor la _ _ _ _ => la.toNat
  | .vxor la _ _ _ _ => la.toNat
  | .vshl la _ _ _ _ => la.toNat
  | .vshr la _ _ _ _ => la.toNat
  | .vfma la _ _ _ _ => la.toNat
  | .vsel la _ _ _ _ => la.toNat
  | .vcmpEq la _ _ _ _ => la.toNat
  | .vcmpNe la _ _ _ _ => la.toNat
  | .vcmpLt la _ _ _ _ => la.toNat
  | .vcmpLe la _ _ _ _ => la.toNat
  | .vperm la _ _ _ _ => la.toNat
  | .vbcast la _ _ _ => la.toNat
  | .vcvt la _ _ _ _ => la.toNat
  | .vcvtS la _ _ _ _ _ => la.toNat
  | .vpack la _ _ => la.toNat
  | .vunpack la _ _ => la.toNat
  | .vdot la _ _ _ => la.toNat
  | .vdotS la _ _ _ _ => la.toNat
  | .vsum la _ _ => la.toNat
  | .vredMax la _ _ => la.toNat
  | .vredMin la _ _ => la.toNat
  | .vaccClr la _ => la.toNat
  | .vaccSt la _ _ => la.toNat
  | .vaccRd la _ _ _ => la.toNat
  | .vexp2 la _ _ _ => la.toNat
  | .vrcp la _ _ _ => la.toNat
  | .vrsqrt la _ _ _ => la.toNat
  | .vgath la _ _ _ _ => la.toNat
  | .vscat la _ _ _ _ => la.toNat
  | .vcprs la _ _ _ _ => la.toNat
  | .vhamf la _ _ _ _ => la.toNat
  | .mzero la _ => la.toNat
  | .mexc la _ _ => la.toNat
  | .mscale la _ _ _ _ => la.toNat
  | .mma la _ _ _ _ _ _ _ _ => la.toNat
  | .mmaCo la _ _ _ _ _ _ _ _ => la.toNat
  | .mmi la _ _ _ _ _ _ _ => la.toNat
  | .mmt la _ _ _ _ _ _ _ => la.toNat
  | .msig la _ _ _ => la.toNat
  | .mldb la _ _ _ => la.toNat
  | .mrd la _ _ _ => la.toNat
  | .mwr la _ _ _ => la.toNat
  | .mdrain la _ _ _ => la.toNat
  | .mdrainAdd la _ _ _ => la.toNat
  | .mmov la _ _ => la.toNat
  | .mrowRd la _ _ _ => la.toNat
  | .mrowWr la _ _ _ => la.toNat
  | .msmx la _ _ _ _ _ _ => la.toNat
  | .mmrg la _ _ => la.toNat
  | .mfin la _ => la.toNat
  | .send la _ _ _ _ => la.toNat
  | .sendl la _ _ _ _ => la.toNat
  | .reply la _ _ _ => la.toNat
  | .mpoll la _ _ _ => la.toNat
  | .rsend la _ _ _ _ _ => la.toNat
  | .barInit la _ _ => la.toNat
  | .barArr la _ _ _ => la.toNat
  | .barExp la _ _ => la.toNat
  | .barTest la _ _ => la.toNat
  | .barFlags la _ _ => la.toNat
  | .ecSet la _ _ => la.toNat
  | .ecInc la _ _ => la.toNat
  | .ecArm la _ _ _ => la.toNat
  | .ecRd la _ _ => la.toNat
  | .semPost la _ _ => la.toNat
  | .semTake la _ _ => la.toNat
  | .atom la _ _ _ _ => la.toNat
  | .atomRet la _ _ _ _ => la.toNat
  | .bind la _ _ _ => la.toNat
  | .unbind la _ => la.toNat
  | .copy la _ _ _ _ => la.toNat
  | .collCfg la _ _ _ => la.toNat
  | .collRdy la _ _ => la.toNat
  | .strmOpen la _ => la.toNat
  | .strmClose la _ => la.toNat
  | .itreq la _ _ => la.toNat
  | .itreqX la _ _ _ => la.toNat
  | .ithold la _ _ _ => la.toNat
  | .itrel la _ => la.toNat
  | .itstat la _ _ => la.toNat
  | .itland la _ _ => la.toNat
  | .bdeal la _ _ _ => la.toNat
  | .bdpat la _ _ => la.toNat
  | .spawn la _ _ => la.toNat
  | .spawnR la _ _ _ => la.toNat
  | .trig la => la.toNat
  | _ => 0

/-- Issue of the instruction pins its strand (R19): vector, matrix and macro instructions and those that name a pointer. -/
def Instr.pins (i : Instr) : Bool := i.unit == 3 || i.unit == 4

/-- A g register of a register set; g0 is none. -/
def gS (r : BitVec 4) : List Nat := if r = 0 then [] else [r.toNat]
/-- Registers g_i to g_(i+n-1). -/
def gRun (i : Nat) : Nat → List Nat
  | 0 => []
  | n + 1 => if i = 0 ∨ 15 < i then gRun (i + 1) n else i :: gRun (i + 1) n
/-- A pointer register, and the predicate register of a pm field. -/
def pS (p : BitVec 4) : List Nat := [16 + p.toNat]
def qM (pm : BitVec 4) : List Nat := if pm.toNat < 8 then [] else [17 + pm.toNat]
/-- Block length of fmt.blk (R27). -/
def blkLen (fmt : Word) : Nat := 8 * 2 ^ bitsOf fmt 5 4
/-- Width in bits of a format code (R28). -/
def fmtWidth (c : Nat) : Nat :=
  match c with
  | 0 => 64
  | 1 => 32
  | 2 => 16
  | 3 => 16
  | 4 => 8
  | 5 => 8
  | 6 => 4
  | 7 => 8
  | 8 => 4
  | 9 => 2
  | 10 => 16
  | 11 => 32
  | 12 => 64
  | _ => 0
/-- Scale blocks of a vector instruction (R164, R167). -/
def vecNb (fmt : Word) : Nat := if fmtWidth (bitsOf fmt 3 0) = 0 then 0 else 512 / fmtWidth (bitsOf fmt 3 0) / blkLen fmt
/-- Scale registers that a matrix instruction reads through a field (R62). -/
def scaleRegs (fmt tshape : Word) (r : BitVec 4) : List Nat :=
  if r = 0 then [] else gRun r.toNat (if 8 < ceilDiv (bitsOf tshape 7 0 + 1) (blkLen fmt) then 2 else 1)

/-- Register sets of R92, read and written: g1 to g15 are 1 to 15, a0 to a7 16 to 23, va 24, q0 to q7 25 to 32, m0 to m3
33 to 36, fb0 and fb1 37 and 38, cm0 to cm3 39 to 42. DESIGN CHOICE: ptrget counts as writing the pointer it names, as R92 says of a
named pointer, although it does not advance it (R157) (log 60). -/
def Instr.regs (fmt tshape : Word) : Instr → List Nat × List Nat
  | .add rd ra rb => (gS ra ++ gS rb, gS rd)
  | .sub rd ra rb => (gS ra ++ gS rb, gS rd)
  | .and rd ra rb => (gS ra ++ gS rb, gS rd)
  | .or rd ra rb => (gS ra ++ gS rb, gS rd)
  | .xor rd ra rb => (gS ra ++ gS rb, gS rd)
  | .andn rd ra rb => (gS ra ++ gS rb, gS rd)
  | .orn rd ra rb => (gS ra ++ gS rb, gS rd)
  | .sll rd ra rb => (gS ra ++ gS rb, gS rd)
  | .srl rd ra rb => (gS ra ++ gS rb, gS rd)
  | .sra rd ra rb => (gS ra ++ gS rb, gS rd)
  | .rol rd ra rb => (gS ra ++ gS rb, gS rd)
  | .ror rd ra rb => (gS ra ++ gS rb, gS rd)
  | .slli rd ra _ => (gS ra, gS rd)
  | .srli rd ra _ => (gS ra, gS rd)
  | .srai rd ra _ => (gS ra, gS rd)
  | .rori rd ra _ => (gS ra, gS rd)
  | .slt rd ra rb => (gS ra ++ gS rb, gS rd)
  | .sltu rd ra rb => (gS ra ++ gS rb, gS rd)
  | .seq rd ra rb => (gS ra ++ gS rb, gS rd)
  | .min rd ra rb => (gS ra ++ gS rb, gS rd)
  | .max rd ra rb => (gS ra ++ gS rb, gS rd)
  | .minu rd ra rb => (gS ra ++ gS rb, gS rd)
  | .maxu rd ra rb => (gS ra ++ gS rb, gS rd)
  | .clz rd ra => (gS ra, gS rd)
  | .ctz rd ra => (gS ra, gS rd)
  | .pop rd ra => (gS ra, gS rd)
  | .sadd rd ra rb _ => (gS ra ++ gS rb, gS rd)
  | .bfx rd ra _ _ => (gS ra, gS rd)
  | .bfxu rd ra _ _ => (gS ra, gS rd)
  | .bfi rd ra _ _ => (gS rd ++ gS ra, gS rd)
  | .addi rd ra _ => (gS ra, gS rd)
  | .andi rd ra _ => (gS ra, gS rd)
  | .ori rd ra _ => (gS ra, gS rd)
  | .xori rd ra _ => (gS ra, gS rd)
  | .slti rd ra _ => (gS ra, gS rd)
  | .sltiu rd ra _ => (gS ra, gS rd)
  | .lui rd _ => ([], gS rd)
  | .apc rd _ => ([], gS rd)
  | .beq ra rb _ => (gS ra ++ gS rb, [])
  | .bne ra rb _ => (gS ra ++ gS rb, [])
  | .blt ra rb _ => (gS ra ++ gS rb, [])
  | .bge ra rb _ => (gS ra ++ gS rb, [])
  | .bltu ra rb _ => (gS ra ++ gS rb, [])
  | .bgeu ra rb _ => (gS ra ++ gS rb, [])
  | .dbnz ra _ => (gS ra, gS ra)
  | .jal rd _ => ([], gS rd)
  | .jalr rd ra _ => (gS ra, gS rd)
  | .mul _ rd ra rb => (gS ra ++ gS rb, gS rd)
  | .mulh _ rd ra rb => (gS ra ++ gS rb, gS rd)
  | .mulhu _ rd ra rb => (gS ra ++ gS rb, gS rd)
  | .mulhsu _ rd ra rb => (gS ra ++ gS rb, gS rd)
  | .div _ rd ra rb => (gS ra ++ gS rb, gS rd)
  | .divu _ rd ra rb => (gS ra ++ gS rb, gS rd)
  | .rem _ rd ra rb => (gS ra ++ gS rb, gS rd)
  | .remu _ rd ra rb => (gS ra ++ gS rb, gS rd)
  | .madd _ rd ra rb rc => (gS ra ++ gS rb ++ gS rc, gS rd)
  | .fadd _ rd ra rb _ => (gS ra ++ gS rb, gS rd)
  | .fsub _ rd ra rb _ => (gS ra ++ gS rb, gS rd)
  | .fmul _ rd ra rb _ => (gS ra ++ gS rb, gS rd)
  | .fdiv _ rd ra rb _ => (gS ra ++ gS rb, gS rd)
  | .fsqrt _ rd ra _ => (gS ra, gS rd)
  | .fmin _ rd ra rb _ => (gS ra ++ gS rb, gS rd)
  | .fmax _ rd ra rb _ => (gS ra ++ gS rb, gS rd)
  | .fma _ rd ra rb rc _ => (gS ra ++ gS rb ++ gS rc, gS rd)
  | .feq _ rd ra rb _ => (gS ra ++ gS rb, gS rd)
  | .flt _ rd ra rb _ => (gS ra ++ gS rb, gS rd)
  | .fle _ rd ra rb _ => (gS ra ++ gS rb, gS rd)
  | .fcvti _ rd ra _ _ _ => (gS ra, gS rd)
  | .fcvtf _ rd ra _ _ _ => (gS ra, gS rd)
  | .fcvt _ rd ra _ _ => (gS ra, gS rd)
  | .fsgnj _ rd ra rb _ _ => (gS ra ++ gS rb, gS rd)
  | .fclass _ rd ra _ => (gS ra, gS rd)
  | .ldb _ rd ra _ => (gS ra, gS rd)
  | .ldbu _ rd ra _ => (gS ra, gS rd)
  | .ldh _ rd ra _ => (gS ra, gS rd)
  | .ldhu _ rd ra _ => (gS ra, gS rd)
  | .ldw _ rd ra _ => (gS ra, gS rd)
  | .ldwu _ rd ra _ => (gS ra, gS rd)
  | .ldd _ rd ra _ => (gS ra, gS rd)
  | .stb _ rd ra _ => (gS rd ++ gS ra, [])
  | .sth _ rd ra _ => (gS rd ++ gS ra, [])
  | .stw _ rd ra _ => (gS rd ++ gS ra, [])
  | .std _ rd ra _ => (gS rd ++ gS ra, [])
  | .nop => ([], [])
  | .crr rd _ => ([], gS rd)
  | .crw rd ra _ => (gS ra, gS rd)
  | .crs rd ra _ => (gS ra, gS rd)
  | .crc rd ra _ => (gS ra, gS rd)
  | .svc _ => ([], [])
  | .trap _ => ([], [])
  | .tret => ([], [])
  | .brk _ => ([], [])
  | .await => ([], [])
  | .pin => ([], [])
  | .unpin => ([], [])
  | .ptrset _ vd vs1 vs2 => (pS vd ++ gS vs1 ++ gS vs2, pS vd)
  | .ptrdim _ vd vs1 => (pS vd ++ gS vs1, pS vd)
  | .ptrget _ vd vs1 _ => (pS vs1, gS vd ++ pS vs1)
  | .vadd _ vd vs1 vs2 pm => (pS vd ++ pS vs1 ++ pS vs2 ++ qM pm, pS vd ++ pS vs1 ++ pS vs2)
  | .vsub _ vd vs1 vs2 pm => (pS vd ++ pS vs1 ++ pS vs2 ++ qM pm, pS vd ++ pS vs1 ++ pS vs2)
  | .vmul _ vd vs1 vs2 pm => (pS vd ++ pS vs1 ++ pS vs2 ++ qM pm, pS vd ++ pS vs1 ++ pS vs2)
  | .vmin _ vd vs1 vs2 pm => (pS vd ++ pS vs1 ++ pS vs2 ++ qM pm, pS vd ++ pS vs1 ++ pS vs2)
  | .vmax _ vd vs1 vs2 pm => (pS vd ++ pS vs1 ++ pS vs2 ++ qM pm, pS vd ++ pS vs1 ++ pS vs2)
  | .vabs _ vd vs1 pm => (pS vd ++ pS vs1 ++ qM pm, pS vd ++ pS vs1)
  | .vneg _ vd vs1 pm => (pS vd ++ pS vs1 ++ qM pm, pS vd ++ pS vs1)
  | .vand _ vd vs1 vs2 pm => (pS vd ++ pS vs1 ++ pS vs2 ++ qM pm, pS vd ++ pS vs1 ++ pS vs2)
  | .vor _ vd vs1 vs2 pm => (pS vd ++ pS vs1 ++ pS vs2 ++ qM pm, pS vd ++ pS vs1 ++ pS vs2)
  | .vxor _ vd vs1 vs2 pm => (pS vd ++ pS vs1 ++ pS vs2 ++ qM pm, pS vd ++ pS vs1 ++ pS vs2)
  | .vshl _ vd vs1 vs2 pm => (pS vd ++ pS vs1 ++ pS vs2 ++ qM pm, pS vd ++ pS vs1 ++ pS vs2)
  | .vshr _ vd vs1 vs2 pm => (pS vd ++ pS vs1 ++ pS vs2 ++ qM pm, pS vd ++ pS vs1 ++ pS vs2)
  | .vfma _ vd vs1 vs2 pm => (pS vd ++ pS vs1 ++ pS vs2 ++ qM pm, pS vd ++ pS vs1 ++ pS vs2)
  | .vsel _ vd vs1 vs2 pm => (pS vd ++ pS vs1 ++ pS vs2 ++ qM pm, pS vd ++ pS vs1 ++ pS vs2)
  | .vcmpEq _ vd vs1 vs2 pm => (pS vs1 ++ pS vs2 ++ qM pm, [25 + vd.toNat] ++ pS vs1 ++ pS vs2)
  | .vcmpNe _ vd vs1 vs2 pm => (pS vs1 ++ pS vs2 ++ qM pm, [25 + vd.toNat] ++ pS vs1 ++ pS vs2)
  | .vcmpLt _ vd vs1 vs2 pm => (pS vs1 ++ pS vs2 ++ qM pm, [25 + vd.toNat] ++ pS vs1 ++ pS vs2)
  | .vcmpLe _ vd vs1 vs2 pm => (pS vs1 ++ pS vs2 ++ qM pm, [25 + vd.toNat] ++ pS vs1 ++ pS vs2)
  | .vperm _ vd vs1 vs2 pm => (pS vd ++ pS vs1 ++ pS vs2 ++ qM pm, pS vd ++ pS vs1 ++ pS vs2)
  | .vbcast _ vd vs1 pm => (pS vd ++ gS vs1 ++ qM pm, pS vd)
  | .vcvt _ vd vs1 _ pm => (pS vd ++ pS vs1 ++ qM pm, pS vd ++ pS vs1)
  | .vcvtS _ vd vs1 _ sreg pm => (pS vd ++ pS vs1 ++ gRun (8 + sreg.toNat) (if 8 < vecNb fmt then 2 else 1) ++ qM pm, pS vd ++ pS vs1)
  | .vpack _ vd vs1 => (pS vd ++ pS vs1, pS vd ++ pS vs1)
  | .vunpack _ vd vs1 => (pS vd ++ pS vs1, pS vd ++ pS vs1)
  | .vdot _ vs1 vs2 pm => (pS vs1 ++ pS vs2 ++ qM pm ++ [24], pS vs1 ++ pS vs2 ++ [24])
  | .vdotS _ vd vs1 vs2 pm => (pS vs1 ++ pS vs2 ++ (if vd = 0 then [] else gRun vd.toNat (if 8 < vecNb fmt then 4 else 2)) ++ qM pm ++ [24], pS vs1 ++ pS vs2 ++ [24])
  | .vsum _ vs1 pm => (pS vs1 ++ qM pm ++ [24], pS vs1 ++ [24])
  | .vredMax _ vs1 pm => (pS vs1 ++ qM pm ++ [24], pS vs1 ++ [24])
  | .vredMin _ vs1 pm => (pS vs1 ++ qM pm ++ [24], pS vs1 ++ [24])
  | .vaccClr _ vs1 => (gS vs1, [24])
  | .vaccSt _ vd pm => (pS vd ++ qM pm ++ [24], pS vd)
  | .vaccRd _ vd vs1 _ => (gS vs1 ++ [24], gS vd)
  | .vexp2 _ vd vs1 pm => (pS vd ++ pS vs1 ++ qM pm, pS vd ++ pS vs1)
  | .vrcp _ vd vs1 pm => (pS vd ++ pS vs1 ++ qM pm, pS vd ++ pS vs1)
  | .vrsqrt _ vd vs1 pm => (pS vd ++ pS vs1 ++ qM pm, pS vd ++ pS vs1)
  | .vgath _ vd vs1 vs2 pm => (pS vd ++ gS vs1 ++ pS vs2 ++ qM pm, pS vd ++ pS vs2)
  | .vscat _ vd vs1 vs2 pm => (gS vd ++ pS vs1 ++ pS vs2 ++ qM pm, pS vs1 ++ pS vs2)
  | .vcprs _ vd vs1 vs2 pm => (pS vd ++ pS vs1 ++ qM pm, pS vd ++ pS vs1 ++ gS vs2)
  | .vhamf _ vd vs1 vs2 pm => (pS vs1 ++ gS vd ++ gS vs2 ++ gS (vs2 + 1) ++ qM pm, pS vs1 ++ gS vd ++ gS (vs2 + 1))
  | .tcfg ga => (gS ga, [])
  | .tcfgD ga => (gS ga, [33, 34, 35, 36])
  | .mzero _ m => ([], [33 + m.toNat])
  | .mwait => ([], [])
  | .mexc _ ga _ => ([], gS ga)
  | .mscale _ m p ga row => ([33 + m.toNat] ++ (if row = 1 then pS p else gS ga), [33 + m.toNat] ++ (if row = 1 then pS p else []))
  | .mma _ m p ga gb _ _ fb scl => ([33 + m.toNat] ++ pS p ++ (if scl = 1 then scaleRegs fmt tshape ga ++ scaleRegs fmt tshape gb else []) ++ [37 + fb.toNat], [33 + m.toNat] ++ pS p)
  | .mmaCo _ m p ga gb _ _ fb scl => ([33 + m.toNat] ++ pS p ++ (if scl = 1 then scaleRegs fmt tshape ga ++ scaleRegs fmt tshape gb else []) ++ [13] ++ [37 + fb.toNat], [33 + m.toNat] ++ pS p)
  | .mmi _ m p ga gb _ _ cm => ([33 + m.toNat] ++ pS p ++ (if bitsOf tshape 31 30 = 0 then scaleRegs fmt tshape ga ++ scaleRegs fmt tshape gb else []) ++ [39 + cm.toNat], [33 + m.toNat] ++ pS p)
  | .mmt _ m p ga gb _ _ cm => ([33 + m.toNat] ++ pS p ++ (if bitsOf tshape 31 30 = 0 then scaleRegs fmt tshape ga ++ scaleRegs fmt tshape gb else []) ++ [39 + cm.toNat], [33 + m.toNat] ++ pS p)
  | .msig _ m p fb => (pS p ++ [37 + fb.toNat], [33 + m.toNat] ++ pS p)
  | .mldb _ p _ dst => (pS p, pS p ++ [if dst.toNat < 2 then 37 + dst.toNat else 35 + dst.toNat])
  | .mrd _ m p _ => ([33 + m.toNat] ++ pS p, pS p)
  | .mwr _ m p _ => (pS p, [33 + m.toNat] ++ pS p)
  | .mdrain _ m ga clr => ([33 + m.toNat] ++ gS ga, (if clr = 1 then [33 + m.toNat] else []))
  | .mdrainAdd _ m ga clr => ([33 + m.toNat] ++ gS ga, (if clr = 1 then [33 + m.toNat] else []))
  | .mmov _ m src => ([33 + src.toNat], [33 + m.toNat])
  | .mrowRd _ m p _ => ([33 + m.toNat] ++ pS p, pS p)
  | .mrowWr _ m p _ => (pS p, [33 + m.toNat] ++ pS p)
  | .msmx _ m p ga src fb mk => ([33 + m.toNat] ++ [37 + fb.toNat] ++ [33 + src.toNat] ++ gS ga ++ (if mk = 1 then [25 + p.toNat] else []), [33 + m.toNat])
  | .mmrg _ m other => ([33 + m.toNat] ++ [33 + other.toNat], [33 + m.toNat])
  | .mfin _ m => ([33 + m.toNat], [33 + m.toNat])
  | .send _ w ra rb rc => (gRun rc.toNat w.toNat ++ gS ra ++ gS rb, [])
  | .sendl _ rd ra rb rc => (gS rd ++ gS ra ++ gS rb ++ gS rc, [])
  | .reply _ w rb rc => (gRun rc.toNat w.toNat ++ gS rb, [])
  | .hret => ([], [])
  | .mpoll _ rd ra _ => (gS ra, gS rd)
  | .rsend _ _ _ ra rb rc => (gRun rc.toNat 2 ++ gS ra ++ gS rb, [])
  | .barInit _ ra _ => (gS ra, [])
  | .barArr _ rd ra _ => (gS ra, gS rd)
  | .barExp _ ra _ => (gS ra, [])
  | .barWait ra _ => (gS ra, [])
  | .barTest _ rd _ => ([], gS rd)
  | .barFlags _ rd _ => ([], gS rd)
  | .ecSet _ ra _ => (gS ra, [])
  | .ecInc _ ra _ => (gS ra, [])
  | .ecArm _ rd ra _ => (gS rd ++ gS ra, [])
  | .ecRd _ rd _ => ([], gS rd)
  | .semPost _ ra _ => (gS ra, [])
  | .semTake _ ra _ => (gS ra, [])
  | .fence _ => ([], [])
  | .atom _ rd ra rb _ => (gS rd ++ gS ra ++ gS rb, [])
  | .atomRet _ rd ra rb _ => (gS rd ++ gS ra ++ gS rb, gS rd)
  | .acq rd ra => (gS ra, gS rd)
  | .rel ra rb => (gS ra ++ gS rb, [])
  | .bind _ ra rb rc => (gS ra ++ gS rb ++ gS rc, [])
  | .unbind _ ra => (gS ra, [])
  | .copy _ rd ra rb rc => (gS rd ++ gS ra ++ gS rb ++ gS rc, [])
  | .collCfg _ rd ra rb => (gS ra ++ gS rb, gS rd)
  | .collRdy _ ra rb => (gS ra ++ gS rb, [])
  | .strmOpen _ ra => (gS ra, [])
  | .strmClose _ ra => (gS ra, [])
  | .itreq _ ra _ => (gS ra, [])
  | .itreqX _ ra rb _ => (gS ra ++ gS rb, [])
  | .ithold _ rd ra _ => (gS ra, gS rd)
  | .itrel _ _ => ([], [])
  | .itstat _ rd _ => ([], gS rd)
  | .itland _ ra _ => (gS ra, [])
  | .bdeal _ rd ra rb => (gS rd ++ gS ra ++ gS rb, [])
  | .bdpat _ ra rb => (gS ra ++ gS rb, [])
  | .spawn _ ra _ => ((if ra = 0 then [] else gRun ra.toNat 4), [])
  | .spawnR _ ra rb _ => ((if ra = 0 then [] else gRun ra.toNat 4) ++ gS rb, [])
  | .yield => ([], [])
  | .halt ra _ => ((if ra = 0 then [] else gRun ra.toNat 4), [])
  | .trig _ => ([], [])
  | .awaitEv ra rb => (gS ra ++ gS rb, [])
  | .cmp ra => (gS ra, [])
  | .dcmp => ([], [])
  | _ => ([], [])

end Sys2Proof
end

