-- ==== Sys2Proof/Machine/Issue.lean ====
section
/-! DEFINITION. Issuing, accepting, completing: the lookahead window of R90 to R99 around an instruction's own effect. -/

namespace Sys2Proof.Machine
open Sys2Proof

/-- What an effect is given: the g registers as they stood at issue (R93), and the instruction's place in its core's order
of acceptance (R91), which is also the tag of a request it sends. -/
structure Env where
  g : List (Nat × Word)
  tag : Nat
  pc : BitVec 48
  /-- what the instruction has read and checked at issue -/
  prep : Prep := .none

/-- A register operand of an effect. -/
def Env.r (e : Env) (r : BitVec 4) : Word := gread e.g r

/-- The effect of a long-latency instruction. -/
abbrev Eff := Env → State → Res

/-- Whether the acting strand may issue (R90, R96, R98, R335): it lies inside the window of every pending instruction, and the writes
before the push of its record are performed. -/
def State.gate (s : State) : Bool :=
  let t := s.st
  t.found.isNone && !t.ended && !t.awaiting && !s.me.frozen && s.pushSeen t.after &&
    t.pend.all fun p => p.com && p.trap.isNone && decide (0 < p.win)

/-- The instruction could not issue: nothing changes, but that the strand enters the waiting state when the wait counts as
a yield (R339). -/
def State.stall (s : State) (y : Bool) : State :=
  let s := { s with stalled := true }
  if y && s.st.life != .waiting then
    s.modSt fun t => { t with life := .waiting, since := s.tick, wd := 0, cls := t.prio.toNat }
  else s

/-- The pending instruction an instruction conflicts with (R94): it writes what that one reads or writes, on another unit; of several
the earliest in program order (log 50). -/
def conflict (i : Instr) (fmt tshape : Word) (ps : List Pend) : Option Pend :=
  let w := (i.regs fmt tshape).2
  ps.find? fun p => p.unit != i.unit && w.any fun r =>
    (p.instr.regs fmt tshape).1.contains r || (p.instr.regs fmt tshape).2.contains r

/-- The cause when an instruction is not valid on a core (R89). -/
def clsTrap (c : CoreClass) (core : Nat) : Option Nat :=
  match c with
  | .all => none
  | .compute => if isSaddle core then some cNotSpire else if isCompute core then none else some cNotCompute
  | .spire => if isSaddle core then some cNotSpire else none
  | .saddle => if isSaddle core then none else some cNotSaddle
/-- The trap of R88 orders 1, 2, 3 and 5 an instruction meets, if any: of order 1 only the control-register number is left
(R24). DESIGN CHOICE (log 61): a user strand's write of mstep on a core that does not hold it takes PRIV, and not ILLEGAL_OP. -/
def State.decodeTrap (s : State) (i : Instr) : Option Trap :=
  if i.unassigned then some (tr cIllegalOp i.word)
  else
    match clsTrap i.cls s.core with
    | some c => some (tr c i.word)
    | none =>
      if i.priv && !s.st.sys then some (tr cPriv i.word)
      else if s.st.pend.isEmpty then none
      else (conflict i s.me.fmt s.me.tshape s.st.pend).map fun p => tr cLookahead (p.pc.setWidth 64)

/-- A trap found at decode or issue (R348): taken at once, or once every pending instruction has completed. -/
def State.raise (s : State) (t : Trap) : State :=
  let st := s.st
  if st.pend.isEmpty then
    match st.replay with
    | some (some wc) => s.enterTrap s.core s.ctx t st.pc wc.1 wc.2
    | _ => s.enterTrap s.core s.ctx t st.pc 0 (st.pc + 4)
  else s.modSt fun u => { u with found := some (t, st.pc) }

/-- After a re-executed instruction (R352): execution goes on where the trap said, and the next held trap is delivered. -/
def State.replayed (s : State) (c x : Nat) : State :=
  let t := s.strandAt c x
  match t.replay with
  | none => s
  | some r =>
    let s := s.modStrand c x fun u => { u with
      replay := none
      pc := match r with | some wc => wc.2 | none => u.pc
      found := match r with | some wc => u.found.map fun f => (f.1, wc.2) | none => u.found }
    match t.held with
    | [] => s
    | h :: rest =>
      let cont := (s.strandAt c x).pc
      (s.modStrand c x fun u => { u with held := rest, pc := h.pc }).enterTrap c x h.trap h.pc h.w cont

/-- An instruction of the acting strand has completed at issue: it counts in every open window (R90) and in W (R98). -/
def State.retire (s : State) (adv : Bool) : State :=
  let s := s.modSt fun t => { t with
    pc := if adv then t.pc + 4 else t.pc
    life := if t.awaiting then .waiting else .ready
    waitBar := none
    waitEv := none
    cond := false
    waitSq := false
    pend := t.pend.map fun p => { p with win := p.win - 1, w := p.w + 1 } }
  s.replayed s.core s.ctx

/-- Control registers whose access waits until the strand's pending instructions have completed (R97). -/
def crWaits (n : Nat) : Bool := decide (n ≤ 1) || (decide (0x10 ≤ n) && decide (n ≤ 0x13))
/-- The instructions that wait at issue until every pending instruction of their strand has completed (R97): those of R86, accesses
to sw, fflags and the counters of R32, svc, trap, brk and tret. The wait comes before the checks of R88 (log 50). -/
def waitsAll : Instr → Bool
  | .hret => true
  | .barWait _ _ => true
  | .fence _ => true
  | .acq _ _ => true
  | .rel _ _ => true
  | .yield => true
  | .halt _ _ => true
  | .awaitEv _ _ => true
  | .cmp _ => true
  | .dcmp => true
  | .tcfg _ => true
  | .tcfgD _ => true
  | .mwait => true
  | .crr _ cr => crWaits cr.toNat
  | .crw _ _ cr => crWaits cr.toNat
  | .crs _ _ cr => crWaits cr.toNat
  | .crc _ _ cr => crWaits cr.toNat
  | .svc _ => true
  | .trap _ => true
  | .brk _ => true
  | .tret => true
  | _ => false

/-- An instruction of formats A, T, I, U, B, J, Y: never pending (R91). adv: the pc advances by 4. -/
def issueNow (i : Instr) (adv : Bool) (body : State → Res) (s : State) : State :=
  if !s.gate || (waitsAll i && !s.st.pend.isEmpty) then s.stall false
  else
    match s.decodeTrap i with
    | some t => s.raise t
    | none =>
      match body s with
      | .done s => s.retire adv
      | .wait y s => s.stall y
      | .trap t s => s.raise t
      | .sent y s => s.stall y
      | .gone s => s

/-- A unit accepts an instruction (R91, R96). -/
def State.accept (s : State) (i : Instr) (la : Nat) (com sent y : Bool) (prep : Prep := .none) : State :=
  let tag := s.me.seqNo
  let s := s.modMe fun k => { k with seqNo := k.seqNo + 1 }
  s.modSt fun t =>
    let p : Pend := { pc := t.pc, instr := i, win := la, unit := i.unit, g := t.g, order := tag, com := com,
                      tag := if sent then some tag else none, dflt := s.me.dflt, sqcfg := s.me.sqcfg, rngs := s.me.rngs, prep := prep,
                      re := t.replay.isSome, yields := y && la == 0 }
    { t with pend := (t.pend.map fun p => { p with win := p.win - 1, w := if com then p.w + 1 else p.w }) ++ [p]
             pc := t.pc + 4
             waitSq := false
             life := if y && la == 0 then .waiting else .ready
             since := if y && la == 0 then s.tick else t.since
             wd := if y && la == 0 then 0 else t.wd
             cls := if y && la == 0 then t.prio.toNat else t.cls }

/-- Another strand of the core has an instruction on the unit that has not begun, or of units 1 to 4 one that has not completed,
behind which this one is accepted (R91, R100). -/
def State.unitBusy (s : State) (u : Nat) : Bool :=
  s.me.ctxs.any fun e => e.1 != s.ctx && e.2.pend.any fun p => p.unit == u && p.trap.isNone && (u != 5 || (!p.started && p.tag.isNone))

/-- What an instruction reads and checks at issue: what it keeps, or a trap. -/
abbrev Prepare := Env → State → Except (Trap × State) (Prep × State)
/-- The whole effect of an instruction that is prepared at issue: fin goes on with what prep keeps, or with what was kept; with no entry
of the send queue it waits (R214). -/
def prepared (prep : Prepare) (fin : Eff) : Eff := fun e s =>
  match e.prep with
  | .none =>
    match prep e s with
    | .error (t, s) => .trap t s
    | .ok (.full, s) => .wait true s
    | .ok (p, s) => fin { e with prep := p } s
  | _ => fin e s
/-- Nothing is read or checked before the effect. -/
def noPrep : Prepare := fun _ s => .ok (.none, s)
/-- A result of a check made at issue. -/
def Res.prep (r : Res) (p : Prep) : Except (Trap × State) (Prep × State) :=
  match r with
  | .trap t s => .error (t, s)
  | .done s => .ok (p, s)
  | .wait _ s => .ok (p, s)
  | .sent _ s => .ok (p, s)
  | .gone s => .ok (p, s)

/-- An instruction that holds an entry of the send queue from its issue on (R214), once it has been checked: with none free a handler
traps, and a task strand waits. -/
def withEntry (p : Prep) (s : State) : Except (Trap × State) (Prep × State) :=
  if s.me.sqFull then
    if s.st.hnd then .error (tr cSendqFull (w64 (s.me.sqDepth + s.me.sqCount * 256)), s) else .ok (.full, s)
  else .ok (.entry p, s)
/-- A long-latency instruction (formats L, M, V, X, N, K): prepared at issue; with a window it is pending until its unit completes
it; with none its unit performs it at once, or behind others, or in a slow step, keeps it pending (R90, R91, log 2). -/
def longPrep (i : Instr) (prep : Prepare) (fin : Eff) (s : State) : State :=
  if !s.gate || (waitsAll i && (!s.st.pend.isEmpty || s.unitBusy i.unit)) then s.stall false
  else
    match s.decodeTrap i with
    | some t => s.raise t
    | none =>
      let s := if i.pins then s.modSt fun t => { t with pin := true } else s
      let la := if s.st.replay.isSome then 0 else i.la
      let e : Env := { g := s.st.g, tag := s.me.seqNo, pc := s.st.pc }
      match prep e s with
      | .error (t, s) => s.raise t
      | .ok (.full, s) => (s.modSt fun t => { t with waitSq := true }).stall true
      | .ok (p, s) =>
        if s.st.pend.any fun p => p.unit == i.unit then s.accept i la false false false p
        else if s.unitBusy i.unit || decide (0 < la) || (s.split && !waitsAll i && s.st.replay.isNone) then
          s.accept i la true false false p
        else
          match fin { e with prep := p } s with
          | .done s => s.retire true
          | .wait y t => if la = 0 then t.stall y else t.accept i la true false y p
          | .trap t s => s.raise t
          | .sent y s => s.accept i la true true y p
          | .gone s => s
/-- A long-latency instruction that reads and checks nothing before its effect. -/
def longOp (i : Instr) (eff : Eff) : State → State := longPrep i noPrep eff

/-- A pending instruction is done: a strand in the waiting state for it is ready (R339), the next of its strand on its unit commits
(R96), and the strand settles. -/
def State.completed (s : State) (c x order : Nat) : State :=
  let t := s.strandAt c x
  let u := (t.pend.find? fun p => p.order == order).map (·.unit)
  let re := t.pend.any fun p => p.order == order && p.re
  let y := t.pend.any fun p => p.order == order && p.yields
  let left := t.pend.filter fun p => p.order != order
  let next := (left.find? fun p => some p.unit == u && !p.com).map (·.order)
  let stillOlder := left.any fun p => some p.unit == u && p.com
  let left := match next, stillOlder with
    | some o, false => left.map fun p =>
        if p.order = o then { p with com := true } else if p.order < o then { p with w := p.w + 1 } else p
    | _, _ => left
  let s := s.modStrand c x fun u =>
    { u with pend := left
             life := if y then .ready else u.life
             since := if y && u.life != .ready then s.tick else u.since }
  let s := if re then s.replayed c x else s
  s.settle c x

/-- A pending instruction has raised a trap (R98). -/
def State.failed (s : State) (c x order : Nat) (t : Trap) : State :=
  let y := (s.strandAt c x).pend.any fun p => p.order == order && p.yields
  (s.modStrand c x fun u => { u with
    life := if y then .ready else u.life
    since := if y && u.life != .ready then s.tick else u.since
    pend := u.pend.map fun p => if p.order = order then { p with trap := some t, tag := none } else p }).settle c x

/-- No pending instruction of the acting strand (R97). -/
def State.quiet (s : State) : Bool := s.st.pend.isEmpty
/-- An effect that waits until every pending instruction of its strand has completed (R97). -/
def afterPend (body : State → Res) (s : State) : Res := if s.quiet then body s else .wait false s

end Sys2Proof.Machine
end

