-- ==== Sys2Proof/Machine/Flags.lean ====
section
/-! DEFINITION. Results rounded for delivery, and the flags they raise (R56 to R60, R138). -/

namespace Sys2Proof.Machine
open Sys2Proof

/-- The format of fs (R136). -/
def fsFmt (fs : BitVec 2) : FpFmt := if fs = 0 then fp64 else if fs = 1 then fp32 else if fs = 2 then fp16 else bf16

/-- Stochastic rounding governs a result delivered in a format (R60, R138): BF16, with sw.sr = 1, on a compute core. -/
def State.stoch (s : State) (f : FpFmt) : Bool := f == bf16 && s.st.sr && isCompute s.core

/-- Advance rngs once (R60). -/
def State.nextRng (s : State) : State := s.modMe fun k => { k with rngs := (rngStep (k.rngs.setWidth 32)).setWidth 64 }

/-- Deliver one result (R60, R138): its code and flags, and the state with rngs advanced when the mode is stochastic. -/
def State.deliver (s : State) (f : FpFmt) (x : Fv) (sticky : Bool := false) : (Nat × Flags) × State :=
  if s.stoch f then
    let s := s.nextRng
    (roundStoch (s.me.rngs.setWidth 32) x sticky, s)
  else (f.round s.st.rm x sticky, s)

/-- The value of the low bits of a register in a format (R136). -/
def FpFmt.ofReg (f : FpFmt) (w : Word) : Fv := f.value (w.toNat % 2 ^ f.width)

/-- Deliver a scalar floating-point result to rd (R136): the bits above the format are zero; flags are merged. -/
def State.fpOut (s : State) (f : FpFmt) (rd : BitVec 4) (x : Fv) (sticky : Bool) (fl : Flags) : State :=
  let r := s.deliver f x sticky
  (r.2.setG rd (w64 r.1.1)).mergeFlags (fl ||| r.1.2)

/-- Class mask of fclass (R139). -/
def fclassOf (f : FpFmt) (c : Nat) : Nat :=
  match f.value c with
  | .nan => 256
  | .inf n => if n then 1 else 128
  | .fin n m _ =>
    if m = 0 then (if n then 8 else 16)
    else if m < 2 ^ f.fbits then (if n then 4 else 32)
    else if n then 2 else 64

/-- Integer format of a width code of fcvti and fcvtf (R139): bits, and range. -/
def wcBits (w : BitVec 2) : Nat := 8 * 2 ^ w.toNat

end Sys2Proof.Machine
end

