-- ==== Sys2Proof/Machine/Scalar.lean ====
section
/-! DEFINITION. Scalar instructions (R118 to R129, R136 to R139). -/

namespace Sys2Proof.Machine
open Sys2Proof

/-- What an instruction answers. -/
abbrev Out := Host.Outcome State Fault Refusal

/-- A register operation: rd receives a function of the state (R119, R121). -/
def scalar (i : Instr) (rd : BitVec 4) (f : State → Word) (s : State) : State :=
  issueNow i true (fun s => .done (s.setG rd (f s))) s

/-- A conditional branch (R126). -/
def branch (i : Instr) (off : BitVec 18) (cond : State → Bool) (s : State) : State :=
  issueNow i false (fun s => .done (s.modSt fun t =>
    { t with pc := if cond s then t.pc + off.signExtend 48 * 4 else t.pc + 4 })) s

/-- 1 or 0 as a word. -/
def b2w (b : Bool) : Word := if b then 1 else 0

/-- Arithmetic shift right by the low six bits. -/
def sraW (a : Word) (n : Nat) : Word := a.sshiftRight n
def rolW (a : Word) (n : Nat) : Word := (a <<< n) ||| (a >>> (64 - n))
def rorW (a : Word) (n : Nat) : Word := (a >>> n) ||| (a <<< (64 - n))
/-- Leading zeros (R119). -/
def clzW (a : Word) : Word := if a = 0 then 64 else w64 (63 - Nat.log2 a.toNat)
/-- Trailing zeros of a number's low n bits. -/
def ctzN : Nat → Nat → Nat
  | 0, _ => 0
  | n + 1, v => if v % 2 = 1 then 0 else ctzN n (v / 2) + 1
/-- Bit field extraction (R122). -/
def bfxW (a : Word) (pos lm1 : BitVec 6) : Word :=
  i64 (sextI (fld a.toNat (pos.toNat + lm1.toNat) pos.toNat) (lm1.toNat + 1))
def bfxuW (a : Word) (pos lm1 : BitVec 6) : Word := w64 (fld a.toNat (pos.toNat + lm1.toNat) pos.toNat)
/-- Bit field insertion (R122). -/
def bfiW (d a : Word) (pos lm1 : BitVec 6) : Word :=
  let m : Word := w64 (2 ^ (lm1.toNat + 1) - 1) <<< pos.toNat
  (d &&& ~~~m) ||| ((a <<< pos.toNat) &&& m)
/-- Division with the defined results of R124. -/
def divW (a b : Word) : Word := if b = 0 then 0xFFFFFFFFFFFFFFFF else i64 (a.toInt.tdiv b.toInt)
def remW (a b : Word) : Word := if b = 0 then a else i64 (a.toInt.tmod b.toInt)
def divuW (a b : Word) : Word := if b = 0 then 0xFFFFFFFFFFFFFFFF else w64 (a.toNat / b.toNat)
def remuW (a b : Word) : Word := if b = 0 then a else w64 (a.toNat % b.toNat)

/-- add (R119). -/
def execAdd (rd ra rb : BitVec 4) (s : State) : Out :=
  .next (scalar (.add rd ra rb) rd (fun s => s.g ra + s.g rb) s)

/-- sub (R119). -/
def execSub (rd ra rb : BitVec 4) (s : State) : Out :=
  .next (scalar (.sub rd ra rb) rd (fun s => s.g ra - s.g rb) s)

/-- and (R119). -/
def execAnd (rd ra rb : BitVec 4) (s : State) : Out :=
  .next (scalar (.and rd ra rb) rd (fun s => s.g ra &&& s.g rb) s)

/-- or (R119). -/
def execOr (rd ra rb : BitVec 4) (s : State) : Out :=
  .next (scalar (.or rd ra rb) rd (fun s => s.g ra ||| s.g rb) s)

/-- xor (R119). -/
def execXor (rd ra rb : BitVec 4) (s : State) : Out :=
  .next (scalar (.xor rd ra rb) rd (fun s => s.g ra ^^^ s.g rb) s)

/-- andn (R119). -/
def execAndn (rd ra rb : BitVec 4) (s : State) : Out :=
  .next (scalar (.andn rd ra rb) rd (fun s => s.g ra &&& ~~~(s.g rb)) s)

/-- orn (R119). -/
def execOrn (rd ra rb : BitVec 4) (s : State) : Out :=
  .next (scalar (.orn rd ra rb) rd (fun s => s.g ra ||| ~~~(s.g rb)) s)

/-- sll (R119). -/
def execSll (rd ra rb : BitVec 4) (s : State) : Out :=
  .next (scalar (.sll rd ra rb) rd (fun s => s.g ra <<< ((s.g rb).toNat % 64)) s)

/-- srl (R119). -/
def execSrl (rd ra rb : BitVec 4) (s : State) : Out :=
  .next (scalar (.srl rd ra rb) rd (fun s => s.g ra >>> ((s.g rb).toNat % 64)) s)

/-- sra (R119). -/
def execSra (rd ra rb : BitVec 4) (s : State) : Out :=
  .next (scalar (.sra rd ra rb) rd (fun s => sraW (s.g ra) ((s.g rb).toNat % 64)) s)

/-- rol (R119). -/
def execRol (rd ra rb : BitVec 4) (s : State) : Out :=
  .next (scalar (.rol rd ra rb) rd (fun s => rolW (s.g ra) ((s.g rb).toNat % 64)) s)

/-- ror (R119). -/
def execRor (rd ra rb : BitVec 4) (s : State) : Out :=
  .next (scalar (.ror rd ra rb) rd (fun s => rorW (s.g ra) ((s.g rb).toNat % 64)) s)

/-- slli (R119). -/
def execSlli (rd ra : BitVec 4) (sh : BitVec 6) (s : State) : Out :=
  .next (scalar (.slli rd ra sh) rd (fun s => s.g ra <<< sh.toNat) s)

/-- srli (R119). -/
def execSrli (rd ra : BitVec 4) (sh : BitVec 6) (s : State) : Out :=
  .next (scalar (.srli rd ra sh) rd (fun s => s.g ra >>> sh.toNat) s)

/-- srai (R119). -/
def execSrai (rd ra : BitVec 4) (sh : BitVec 6) (s : State) : Out :=
  .next (scalar (.srai rd ra sh) rd (fun s => sraW (s.g ra) sh.toNat) s)

/-- rori (R119). -/
def execRori (rd ra : BitVec 4) (sh : BitVec 6) (s : State) : Out :=
  .next (scalar (.rori rd ra sh) rd (fun s => rorW (s.g ra) sh.toNat) s)

/-- slt (R119). -/
def execSlt (rd ra rb : BitVec 4) (s : State) : Out :=
  .next (scalar (.slt rd ra rb) rd (fun s => b2w ((s.g ra).slt (s.g rb))) s)

/-- sltu (R119). -/
def execSltu (rd ra rb : BitVec 4) (s : State) : Out :=
  .next (scalar (.sltu rd ra rb) rd (fun s => b2w ((s.g ra).ult (s.g rb))) s)

/-- seq (R119). -/
def execSeq (rd ra rb : BitVec 4) (s : State) : Out :=
  .next (scalar (.seq rd ra rb) rd (fun s => b2w (s.g ra == s.g rb)) s)

/-- min (R119). -/
def execMin (rd ra rb : BitVec 4) (s : State) : Out :=
  .next (scalar (.min rd ra rb) rd (fun s => if (s.g ra).slt (s.g rb) then s.g ra else s.g rb) s)

/-- max (R119). -/
def execMax (rd ra rb : BitVec 4) (s : State) : Out :=
  .next (scalar (.max rd ra rb) rd (fun s => if (s.g ra).slt (s.g rb) then s.g rb else s.g ra) s)

/-- minu (R119). -/
def execMinu (rd ra rb : BitVec 4) (s : State) : Out :=
  .next (scalar (.minu rd ra rb) rd (fun s => if (s.g ra).ult (s.g rb) then s.g ra else s.g rb) s)

/-- maxu (R119). -/
def execMaxu (rd ra rb : BitVec 4) (s : State) : Out :=
  .next (scalar (.maxu rd ra rb) rd (fun s => if (s.g ra).ult (s.g rb) then s.g rb else s.g ra) s)

/-- clz (R119). -/
def execClz (rd ra : BitVec 4) (s : State) : Out :=
  .next (scalar (.clz rd ra) rd (fun s => clzW (s.g ra)) s)

/-- ctz (R119). -/
def execCtz (rd ra : BitVec 4) (s : State) : Out :=
  .next (scalar (.ctz rd ra) rd (fun s => w64 (ctzN 64 (s.g ra).toNat)) s)

/-- pop (R119). -/
def execPop (rd ra : BitVec 4) (s : State) : Out :=
  .next (scalar (.pop rd ra) rd (fun s => w64 (popCount 64 (s.g ra).toNat)) s)

/-- sadd (R119). -/
def execSadd (rd ra rb : BitVec 4) (sc : BitVec 2) (s : State) : Out :=
  .next (scalar (.sadd rd ra rb sc) rd (fun s => s.g ra + (s.g rb <<< sc.toNat)) s)

/-- bfx (R122). -/
def execBfx (rd ra : BitVec 4) (pos lm1 : BitVec 6) (s : State) : Out :=
  .next (scalar (.bfx rd ra pos lm1) rd (fun s => bfxW (s.g ra) pos lm1) s)

/-- bfxu (R122). -/
def execBfxu (rd ra : BitVec 4) (pos lm1 : BitVec 6) (s : State) : Out :=
  .next (scalar (.bfxu rd ra pos lm1) rd (fun s => bfxuW (s.g ra) pos lm1) s)

/-- bfi (R122). -/
def execBfi (rd ra : BitVec 4) (pos lm1 : BitVec 6) (s : State) : Out :=
  .next (scalar (.bfi rd ra pos lm1) rd (fun s => bfiW (s.g rd) (s.g ra) pos lm1) s)

/-- addi (R121). -/
def execAddi (rd ra : BitVec 4) (imm : BitVec 18) (s : State) : Out :=
  .next (scalar (.addi rd ra imm) rd (fun s => s.g ra + imm.signExtend 64) s)

/-- andi (R121). -/
def execAndi (rd ra : BitVec 4) (imm : BitVec 18) (s : State) : Out :=
  .next (scalar (.andi rd ra imm) rd (fun s => s.g ra &&& imm.setWidth 64) s)

/-- ori (R121). -/
def execOri (rd ra : BitVec 4) (imm : BitVec 18) (s : State) : Out :=
  .next (scalar (.ori rd ra imm) rd (fun s => s.g ra ||| imm.setWidth 64) s)

/-- xori (R121). -/
def execXori (rd ra : BitVec 4) (imm : BitVec 18) (s : State) : Out :=
  .next (scalar (.xori rd ra imm) rd (fun s => s.g ra ^^^ imm.setWidth 64) s)

/-- slti (R121). -/
def execSlti (rd ra : BitVec 4) (imm : BitVec 18) (s : State) : Out :=
  .next (scalar (.slti rd ra imm) rd (fun s => b2w ((s.g ra).slt (imm.signExtend 64))) s)

/-- sltiu (R121). -/
def execSltiu (rd ra : BitVec 4) (imm : BitVec 18) (s : State) : Out :=
  .next (scalar (.sltiu rd ra imm) rd (fun s => b2w ((s.g ra).ult (imm.signExtend 64))) s)

/-- lui (R121). -/
def execLui (rd : BitVec 4) (imm : BitVec 22) (s : State) : Out :=
  .next (scalar (.lui rd imm) rd (fun _ => imm.signExtend 64 <<< 18) s)

/-- apc (R121). -/
def execApc (rd : BitVec 4) (imm : BitVec 22) (s : State) : Out :=
  .next (scalar (.apc rd imm) rd (fun s => s.st.pc.setWidth 64 + (imm.signExtend 64 <<< 18)) s)

/-- beq (R126). -/
def execBeq (ra rb : BitVec 4) (off : BitVec 18) (s : State) : Out :=
  .next (branch (.beq ra rb off) off (fun s => s.g ra == s.g rb) s)

/-- bne (R126). -/
def execBne (ra rb : BitVec 4) (off : BitVec 18) (s : State) : Out :=
  .next (branch (.bne ra rb off) off (fun s => s.g ra != s.g rb) s)

/-- blt (R126). -/
def execBlt (ra rb : BitVec 4) (off : BitVec 18) (s : State) : Out :=
  .next (branch (.blt ra rb off) off (fun s => (s.g ra).slt (s.g rb)) s)

/-- bge (R126). -/
def execBge (ra rb : BitVec 4) (off : BitVec 18) (s : State) : Out :=
  .next (branch (.bge ra rb off) off (fun s => !(s.g ra).slt (s.g rb)) s)

/-- bltu (R126). -/
def execBltu (ra rb : BitVec 4) (off : BitVec 18) (s : State) : Out :=
  .next (branch (.bltu ra rb off) off (fun s => (s.g ra).ult (s.g rb)) s)

/-- bgeu (R126). -/
def execBgeu (ra rb : BitVec 4) (off : BitVec 18) (s : State) : Out :=
  .next (branch (.bgeu ra rb off) off (fun s => !(s.g ra).ult (s.g rb)) s)

/-- dbnz (R127): the decremented value decides. -/
def execDbnz (ra : BitVec 4) (off : BitVec 18) (s : State) : Out :=
  .next (issueNow (.dbnz ra off) false (fun s =>
    let v := s.g ra - 1
    .done ((s.setG ra v).modSt fun t => { t with pc := if v != 0 then t.pc + off.signExtend 48 * 4 else t.pc + 4 })) s)

/-- jal (R128). -/
def execJal (rd : BitVec 4) (off : BitVec 22) (s : State) : Out :=
  .next (issueNow (.jal rd off) false (fun s =>
    .done ((s.setG rd ((s.st.pc + 4).setWidth 64)).modSt fun t => { t with pc := t.pc + off.signExtend 48 * 4 })) s)

/-- jalr (R128): the target is formed from ra before the link is written. -/
def execJalr (rd ra : BitVec 4) (imm : BitVec 18) (s : State) : Out :=
  .next (issueNow (.jalr rd ra imm) false (fun s =>
    let t := s.g ra + imm.signExtend 64
    if t.toNat % 4 ≠ 0 then .trap (tr cMisalign t) s
    else if 2 ^ 48 ≤ t.toNat then .trap (tr cTranslation t) s
    else .done ((s.setG rd ((s.st.pc + 4).setWidth 64)).modSt fun u => { u with pc := t.setWidth 48 })) s)

/-- Effect of mul (R123). -/
def effMul (rd ra rb : BitVec 4) : Eff := fun e s => .done (s.setG rd (e.r ra * e.r rb))

/-- mul (R123). -/
def execMul (la rd ra rb : BitVec 4) (s : State) : Out := .next (longOp (.mul la rd ra rb) (effMul rd ra rb) s)

/-- Effect of mulh (R123). -/
def effMulh (rd ra rb : BitVec 4) : Eff := fun e s => .done (s.setG rd (i64 ((e.r ra).toInt * (e.r rb).toInt / 2 ^ 64)))

/-- mulh (R123). -/
def execMulh (la rd ra rb : BitVec 4) (s : State) : Out := .next (longOp (.mulh la rd ra rb) (effMulh rd ra rb) s)

/-- Effect of mulhu (R123). -/
def effMulhu (rd ra rb : BitVec 4) : Eff := fun e s => .done (s.setG rd (w64 ((e.r ra).toNat * (e.r rb).toNat / 2 ^ 64)))

/-- mulhu (R123). -/
def execMulhu (la rd ra rb : BitVec 4) (s : State) : Out := .next (longOp (.mulhu la rd ra rb) (effMulhu rd ra rb) s)

/-- Effect of mulhsu (R123). -/
def effMulhsu (rd ra rb : BitVec 4) : Eff := fun e s => .done (s.setG rd (i64 ((e.r ra).toInt * ((e.r rb).toNat : Int) / 2 ^ 64)))

/-- mulhsu (R123). -/
def execMulhsu (la rd ra rb : BitVec 4) (s : State) : Out := .next (longOp (.mulhsu la rd ra rb) (effMulhsu rd ra rb) s)

/-- Effect of div (R124). -/
def effDiv (rd ra rb : BitVec 4) : Eff := fun e s => .done (s.setG rd (divW (e.r ra) (e.r rb)))

/-- div (R124). -/
def execDiv (la rd ra rb : BitVec 4) (s : State) : Out := .next (longOp (.div la rd ra rb) (effDiv rd ra rb) s)

/-- Effect of divu (R124). -/
def effDivu (rd ra rb : BitVec 4) : Eff := fun e s => .done (s.setG rd (divuW (e.r ra) (e.r rb)))

/-- divu (R124). -/
def execDivu (la rd ra rb : BitVec 4) (s : State) : Out := .next (longOp (.divu la rd ra rb) (effDivu rd ra rb) s)

/-- Effect of rem (R124). -/
def effRem (rd ra rb : BitVec 4) : Eff := fun e s => .done (s.setG rd (remW (e.r ra) (e.r rb)))

/-- rem (R124). -/
def execRem (la rd ra rb : BitVec 4) (s : State) : Out := .next (longOp (.rem la rd ra rb) (effRem rd ra rb) s)

/-- Effect of remu (R124). -/
def effRemu (rd ra rb : BitVec 4) : Eff := fun e s => .done (s.setG rd (remuW (e.r ra) (e.r rb)))

/-- remu (R124). -/
def execRemu (la rd ra rb : BitVec 4) (s : State) : Out := .next (longOp (.remu la rd ra rb) (effRemu rd ra rb) s)

/-- Effect of madd (R123). -/
def effMadd (rd ra rb rc : BitVec 4) : Eff := fun e s => .done (s.setG rd (e.r ra * e.r rb + e.r rc))

/-- madd (R123). -/
def execMadd (la rd ra rb rc : BitVec 4) (s : State) : Out := .next (longOp (.madd la rd ra rb rc) (effMadd rd ra rb rc) s)

/-- Effect of fadd (R137). -/
def effFadd (rd ra rb : BitVec 4) (fs : BitVec 2) : Eff := fun e s =>
  let f := fsFmt fs
  let r := Fv.add s.st.rm (f.ofReg (e.r ra)) (f.ofReg (e.r rb))
  .done (s.fpOut f rd r.1 false r.2)

/-- fadd (R137). -/
def execFadd (la rd ra rb : BitVec 4) (fs : BitVec 2) (s : State) : Out := .next (longOp (.fadd la rd ra rb fs) (effFadd rd ra rb fs) s)

/-- Effect of fsub (R137). -/
def effFsub (rd ra rb : BitVec 4) (fs : BitVec 2) : Eff := fun e s =>
  let f := fsFmt fs
  let r := Fv.add s.st.rm (f.ofReg (e.r ra)) (f.ofReg (e.r rb)).neg
  .done (s.fpOut f rd r.1 false r.2)

/-- fsub (R137). -/
def execFsub (la rd ra rb : BitVec 4) (fs : BitVec 2) (s : State) : Out := .next (longOp (.fsub la rd ra rb fs) (effFsub rd ra rb fs) s)

/-- Effect of fmul (R137). -/
def effFmul (rd ra rb : BitVec 4) (fs : BitVec 2) : Eff := fun e s =>
  let f := fsFmt fs
  let r := Fv.mul (f.ofReg (e.r ra)) (f.ofReg (e.r rb))
  .done (s.fpOut f rd r.1 false r.2)

/-- fmul (R137). -/
def execFmul (la rd ra rb : BitVec 4) (fs : BitVec 2) (s : State) : Out := .next (longOp (.fmul la rd ra rb fs) (effFmul rd ra rb fs) s)

/-- Effect of fdiv (R137). -/
def effFdiv (rd ra rb : BitVec 4) (fs : BitVec 2) : Eff := fun e s =>
  let f := fsFmt fs
  let r := Fv.div (f.ofReg (e.r ra)) (f.ofReg (e.r rb))
  .done (s.fpOut f rd r.1.1 r.1.2 r.2)

/-- fdiv (R137). -/
def execFdiv (la rd ra rb : BitVec 4) (fs : BitVec 2) (s : State) : Out := .next (longOp (.fdiv la rd ra rb fs) (effFdiv rd ra rb fs) s)

/-- Effect of fsqrt (R137). -/
def effFsqrt (rd ra : BitVec 4) (fs : BitVec 2) : Eff := fun e s =>
  let f := fsFmt fs
  let r := Fv.sqrt (f.ofReg (e.r ra))
  .done (s.fpOut f rd r.1.1 r.1.2 r.2)

/-- fsqrt (R137). -/
def execFsqrt (la rd ra : BitVec 4) (fs : BitVec 2) (s : State) : Out := .next (longOp (.fsqrt la rd ra fs) (effFsqrt rd ra fs) s)

/-- Effect of fmin (R137). -/
def effFmin (rd ra rb : BitVec 4) (fs : BitVec 2) : Eff := fun e s =>
  let f := fsFmt fs
  .done (s.fpOut f rd (Fv.minmax false (f.ofReg (e.r ra)) (f.ofReg (e.r rb))) false 0)

/-- fmin (R137). -/
def execFmin (la rd ra rb : BitVec 4) (fs : BitVec 2) (s : State) : Out := .next (longOp (.fmin la rd ra rb fs) (effFmin rd ra rb fs) s)

/-- Effect of fmax (R137). -/
def effFmax (rd ra rb : BitVec 4) (fs : BitVec 2) : Eff := fun e s =>
  let f := fsFmt fs
  .done (s.fpOut f rd (Fv.minmax true (f.ofReg (e.r ra)) (f.ofReg (e.r rb))) false 0)

/-- fmax (R137). -/
def execFmax (la rd ra rb : BitVec 4) (fs : BitVec 2) (s : State) : Out := .next (longOp (.fmax la rd ra rb fs) (effFmax rd ra rb fs) s)

/-- Effect of fma (R137). -/
def effFma (rd ra rb rc : BitVec 4) (fs : BitVec 2) : Eff := fun e s =>
  let f := fsFmt fs
  let r := Fv.fma s.st.rm (f.ofReg (e.r ra)) (f.ofReg (e.r rb)) (f.ofReg (e.r rc))
  .done (s.fpOut f rd r.1 false r.2)

/-- fma (R137). -/
def execFma (la rd ra rb rc : BitVec 4) (fs : BitVec 2) (s : State) : Out := .next (longOp (.fma la rd ra rb rc fs) (effFma rd ra rb rc fs) s)

/-- Effect of feq (R137). -/
def effFeq (rd ra rb : BitVec 4) (fs : BitVec 2) : Eff := fun e s =>
  let f := fsFmt fs
  let a := f.ofReg (e.r ra)
  let b := f.ofReg (e.r rb)
  let c := a.cmp b
  .done (s.setG rd (b2w (!a.isNaN && !b.isNaN && decide (c = 0))))

/-- feq (R137). -/
def execFeq (la rd ra rb : BitVec 4) (fs : BitVec 2) (s : State) : Out := .next (longOp (.feq la rd ra rb fs) (effFeq rd ra rb fs) s)

/-- Effect of flt (R137). -/
def effFlt (rd ra rb : BitVec 4) (fs : BitVec 2) : Eff := fun e s =>
  let f := fsFmt fs
  let a := f.ofReg (e.r ra)
  let b := f.ofReg (e.r rb)
  let c := a.cmp b
  .done (s.setG rd (b2w (!a.isNaN && !b.isNaN && decide (c < 0))))

/-- flt (R137). -/
def execFlt (la rd ra rb : BitVec 4) (fs : BitVec 2) (s : State) : Out := .next (longOp (.flt la rd ra rb fs) (effFlt rd ra rb fs) s)

/-- Effect of fle (R137). -/
def effFle (rd ra rb : BitVec 4) (fs : BitVec 2) : Eff := fun e s =>
  let f := fsFmt fs
  let a := f.ofReg (e.r ra)
  let b := f.ofReg (e.r rb)
  let c := a.cmp b
  .done (s.setG rd (b2w (!a.isNaN && !b.isNaN && decide (c ≤ 0))))

/-- fle (R137). -/
def execFle (la rd ra rb : BitVec 4) (fs : BitVec 2) (s : State) : Out := .next (longOp (.fle la rd ra rb fs) (effFle rd ra rb fs) s)

/-- Effect of fcvti (R139). -/
def effFcvti (rd ra : BitVec 4) (u : BitVec 1) (width fs : BitVec 2) : Eff := fun e s =>
  let f := fsFmt fs
  let w := wcBits width
  let lo : Int := if u = 1 then 0 else -(2 ^ (w - 1))
  let hi : Int := if u = 1 then 2 ^ w - 1 else 2 ^ (w - 1) - 1
  let r := Fv.fit s.st.rm lo hi (f.ofReg (e.r ra))
  .done ((s.setG rd (i64 r.1)).mergeFlags r.2)

/-- fcvti (R139). -/
def execFcvti (la rd ra : BitVec 4) (u : BitVec 1) (width fs : BitVec 2) (s : State) : Out := .next (longOp (.fcvti la rd ra u width fs) (effFcvti rd ra u width fs) s)

/-- Effect of fcvtf (R139). -/
def effFcvtf (rd ra : BitVec 4) (u : BitVec 1) (width fs : BitVec 2) : Eff := fun e s =>
  let f := fsFmt fs
  let w := wcBits width
  let v : Int := if u = 1 then ((e.r ra).toNat % 2 ^ w : Nat) else sextI (e.r ra).toNat w
  .done (s.fpOut f rd (Fv.ofInt v) false 0)

/-- fcvtf (R139). -/
def execFcvtf (la rd ra : BitVec 4) (u : BitVec 1) (width fs : BitVec 2) (s : State) : Out := .next (longOp (.fcvtf la rd ra u width fs) (effFcvtf rd ra u width fs) s)

/-- Effect of fcvt (R137). -/
def effFcvt (rd ra : BitVec 4) (src fs : BitVec 2) : Eff := fun e s =>
  let f := fsFmt fs
  .done (s.fpOut f rd ((fsFmt src).ofReg (e.r ra)) false 0)

/-- fcvt (R137). -/
def execFcvt (la rd ra : BitVec 4) (src fs : BitVec 2) (s : State) : Out := .next (longOp (.fcvt la rd ra src fs) (effFcvt rd ra src fs) s)

/-- Effect of fsgnj (R137). DESIGN CHOICE: it copies bits and rounds nothing, so rngs does not advance for a BF16 result, whatever sw.sr
(R60, R138; log 60). -/
def effFsgnj (rd ra rb : BitVec 4) (sj fs : BitVec 2) : Eff := fun e s =>
  let f := fsFmt fs
  let top := 2 ^ (f.width - 1)
  let a := (e.r ra).toNat % 2 ^ f.width
  let sa := a / top
  let sb := (e.r rb).toNat % 2 ^ f.width / top
  let n := if sj = 0 then sb else if sj = 1 then 1 - sb else (sa + sb) % 2
  .done (s.setG rd (w64 (n * top + a % top)))

/-- fsgnj (R137). -/
def execFsgnj (la rd ra rb : BitVec 4) (sj fs : BitVec 2) (s : State) : Out := .next (longOp (.fsgnj la rd ra rb sj fs) (effFsgnj rd ra rb sj fs) s)

/-- Effect of fclass (R139). -/
def effFclass (rd ra : BitVec 4) (fs : BitVec 2) : Eff := fun e s =>
  let f := fsFmt fs
  .done (s.setG rd (w64 (fclassOf f ((e.r ra).toNat % 2 ^ f.width))))

/-- fclass (R139). -/
def execFclass (la rd ra : BitVec 4) (fs : BitVec 2) (s : State) : Out := .next (longOp (.fclass la rd ra fs) (effFclass rd ra fs) s)

end Sys2Proof.Machine
end

