-- ==== Sys2Proof/Machine/System.lean ====
section
/-! DEFINITION. System instructions (R141 to R146, R352): control registers, traps, return, pin, await. -/

namespace Sys2Proof.Machine
open Sys2Proof

/-! ### Control registers (R24 to R37, R346) -/
/-- Held by compute cores only (R24). -/
def crCompute (n : Nat) : Bool :=
  decide (2 ≤ n) && decide (n ≤ 7) && n != 5 || (decide (0x10 ≤ n) && decide (n ≤ 0x13))
/-- Reserved bits of a control register. -/
def crReserved (n : Nat) : Word :=
  match n with
  | 0x000 => 0x0003000000000000
  | 0x001 => 0xFFFFFFFFFFFFFFE0
  | 0x002 => 0xFFFFFFFFFFFF3080
  | 0x003 => 0xFFFFFFFF00000000
  | 0x004 => 0xFFFFFFFF7FE00000
  | 0x005 => 0xFFFFFFFF00FF0000
  | 0x006 => 0xFFFFFFFF00000000
  | 0x007 => 0xFFFFFFF000000000
  | 0x010 => 0xFFFFFFFF00000000
  | 0x011 => 0xFFFFFFFF00000000
  | 0x012 => 0xFFFFFFFF00000000
  | 0x013 => 0xFFFFFFFF00000000
  | 0x020 => 0xFFFFFFFFFFF00000
  | 0x021 => 0xFFFFFFFF00000000
  | 0x030 => 0xFFFFFFFFFFFFFEC0
  | 0x040 => 0xFFFFFFFFFFFFFFE0
  | 0x050 => 0xFFFF000000000003
  | 0x051 => 0xFFFFFFFF0007FF00
  | 0x053 => 0xFFFF000000000000
  | 0x054 => 0xFFFF000000000003
  | 0x058 => 0xFFFFFFFF00000000
  | 0x059 => 0xFFFFFFFF0000FF80
  | _ => 0
/-- Read-only bits of a control register. -/
def crRo (n : Nat) : Word :=
  match n with
  | 0x000 => 0x07C4FFFFFFFFFFFF
  | 0x007 => 0x0000000FFFFFFFFF
  | 0x020 => 0x00000000000FFFFF
  | 0x021 => 0x00000000FFFFFFFF
  | 0x051 => 0x00000000FFB800FF
  | 0x052 => 0xFFFFFFFFFFFFFFFF
  | 0x053 => 0x0000FFFFFFFFFFFF
  | 0x055 => 0x0000FFFFFFFFFFFF
  | 0x056 => 0xFFFFFFFFFFFFFFFF
  | 0x059 => 0x00000000FFFF007F
  | _ => 0
/-- Every field of a value holds a value in range (R25, R141), the read-only ones too: fmt, dflt, tshape, sqcfg, wdog, mig. -/
def crRange (n : Nat) (v : Word) : Bool :=
  match n with
  | 0x002 => bitsOf v 9 8 != 3 && bitsOf v 5 4 != 3 && decide (bitsOf v 3 0 ≤ 12)
  | 0x005 => decide (bitsOf v 31 29 ≤ 5) && bitsOf v 27 26 != 3
  | 0x007 => bitsOf v 31 30 != 3 && decide (bitsOf v 29 26 ≤ 12) && decide (bitsOf v 25 22 ≤ 12)
  | 0x030 => decide (1 ≤ bitsOf v 5 0) && decide (bitsOf v 5 0 ≤ 32)
  | 0x040 => decide (16 ≤ bitsOf v 4 0)
  | 0x059 => decide (bitsOf v 6 0 ≤ 64)
  | _ => true
/-- tcause of a strand (R346). -/
def Strand.tcause (t : Strand) : Word :=
  (0 : BitVec 32) ++ t.tHeld ++ t.tW ++ BitVec.ofBool t.tAct ++ BitVec.ofBool t.tRe ++ BitVec.ofBool t.tCmp ++
    BitVec.ofBool t.tHab ++ BitVec.ofBool t.tDfr ++ (0 : BitVec 11) ++ t.tCode
/-- A control register as the acting strand reads it; one its core does not hold reads as zero (R24). -/
def State.crGet (s : State) (n : Nat) : Word :=
  let k := s.me
  let t := s.st
  if crCompute n && !isCompute s.core then 0
  else
    match n with
    | 0x000 => t.sw
    | 0x001 => t.flags.setWidth 64
    | 0x002 => k.fmt
    | 0x003 => k.tsc
    | 0x004 => k.mstep
    | 0x005 => k.dflt
    | 0x006 => k.rngs
    | 0x007 => k.tshape
    | 0x010 => k.mxsat
    | 0x011 => k.mxsub
    | 0x012 => k.mxmrow
    | 0x013 => k.mxnan
    | 0x020 => w64 s.core
    | 0x021 => w64 (s.launchId t.lix)
    | 0x030 => k.sqcfg
    | 0x040 => k.wdog
    | 0x050 => k.tvec
    | 0x051 => t.tcause
    | 0x052 => t.tInfo
    | 0x053 => t.tPc.setWidth 64
    | 0x054 => t.tCont.setWidth 64
    | 0x055 => t.tSwHi ++ t.tPc
    | 0x056 => t.tMsg
    | 0x057 => t.tScr
    | 0x058 => k.tcount
    | 0x059 => w64 (k.moves.toNat * 65536 + (fget [] s.fwd (s.placeOf s.core)).length)
    | _ => 0
/-- sw fields from a word, all but the pc (R17, R352). -/
def Strand.setSwHigh (t : Strand) (h : BitVec 16) : Strand :=
  { t with flags := h.extractLsb' 11 5, pin := h.getLsbD 10, hnd := h.getLsbD 9, cmp := h.getLsbD 8,
           prio := h.extractLsb' 6 2, rm := h.extractLsb' 4 2, sr := h.getLsbD 3, sys := h.getLsbD 2 }
/-- Store a control register whose value has been checked. -/
def State.crPut (s : State) (n : Nat) (v : Word) : State :=
  match n with
  | 0x000 => s.modSt fun t => { t with flags := v.extractLsb' 59 5, rm := v.extractLsb' 52 2, sr := v.getLsbD 51 }
  | 0x001 => s.modSt fun t => { t with flags := v.extractLsb' 0 5 }
  | 0x002 => s.modMe fun k => { k with fmt := v }
  | 0x003 => s.modMe fun k => { k with tsc := v }
  | 0x004 => s.modMe fun k => { k with mstep := v, mrngs := if mstepAct k.mstep then k.mrngs else none }
  | 0x005 => s.modMe fun k => { k with dflt := v }
  | 0x006 => s.modMe fun k => { k with rngs := if v = 0 then 1 else v }
  | 0x010 => s.modMe fun k => { k with mxsat := v }
  | 0x011 => s.modMe fun k => { k with mxsub := v }
  | 0x012 => s.modMe fun k => { k with mxmrow := v }
  | 0x013 => s.modMe fun k => { k with mxnan := v }
  | 0x030 => s.modMe fun k => { k with sqcfg := v }
  | 0x040 => s.modMe fun k => { k with wdog := v }
  | 0x050 => s.modMe fun k => { k with tvec := v }
  | 0x051 => s.modSt fun t => { t with tRe := v.getLsbD 22 }
  | 0x054 => s.modSt fun t => { t with tCont := v.setWidth 48 }
  | 0x055 => s.modSt fun t => { t with tSwHi := v.extractLsb' 48 16 }
  | 0x057 => s.modSt fun t => { t with tScr := v }
  | 0x058 => s.modMe fun k => { k with tcount := v }
  | _ => s
/-- Registers whose write waits for the core's vector and matrix work (R26). -/
def crLate (n : Nat) : Bool := n == 2 || n == 3 || n == 6
/-- Vector or matrix work issued on the acting core has not completed: it is pending, or interrupted and awaits its replay (R26, R61,
R177). -/
def State.vecBusy (s : State) : Bool :=
  (s.me.ctxs.any fun e => e.2.pend.any fun p => p.unit == 3 || p.unit == 4) || mstepAct s.me.mstep
/-- A scalar result of the core that may draw from rngs is pending: it has the value of its issue (R93). -/
def State.drawBusy (s : State) : Bool := s.me.ctxs.any fun e => e.2.pend.any fun p => p.unit == 1

/-- Control-register access (R141): f gives the new value from the old and ra's; a read writes nothing. -/
def crOp (i : Instr) (rd : BitVec 4) (n : Nat) (write : Bool) (f : State → Word → Word) (s : State) : State :=
  issueNow i true (fun s =>
    let old := s.crGet n
    if !write then .done (s.setG rd old)
    else if crCompute n && !isCompute s.core then .trap (tr cIllegalOp i.word) s
    else if crLate n && (s.vecBusy || (n == 6 && s.drawBusy)) then .wait false s
    else
      let new := f s old
      if new &&& crReserved n ≠ 0 ∨ crRange n new = false then .trap (tr cReservedField (w64 n)) s
      else .done ((s.crPut n ((new &&& ~~~(crRo n)) ||| (old &&& crRo n))).setG rd old)) s

/-- crr (R141). -/
def execCrr (rd : BitVec 4) (cr : BitVec 12) (s : State) : Out :=
  .next (crOp (.crr rd cr) rd cr.toNat false (fun _ old => old) s)

/-- crw (R141). -/
def execCrw (rd ra : BitVec 4) (cr : BitVec 12) (s : State) : Out :=
  .next (crOp (.crw rd ra cr) rd cr.toNat true (fun s _ => s.g ra) s)

/-- crs (R141). -/
def execCrs (rd ra : BitVec 4) (cr : BitVec 12) (s : State) : Out :=
  .next (crOp (.crs rd ra cr) rd cr.toNat true (fun s old => old ||| s.g ra) s)

/-- crc (R141). -/
def execCrc (rd ra : BitVec 4) (cr : BitVec 12) (s : State) : Out :=
  .next (crOp (.crc rd ra cr) rd cr.toNat true (fun s old => old &&& ~~~(s.g ra)) s)

/-! ### Traps, return (R143, R352) -/
/-- A soft trap: it waits under R97, then delivers its cause with its code. -/
def softTrap (i : Instr) (cause : Nat) (code : BitVec 12) (s : State) : State :=
  issueNow i true (afterPend fun s => .trap (tr cause (code.setWidth 64)) s) s

/-- svc (R143). -/
def execSvc (code : BitVec 12) (s : State) : Out := .next (softTrap (.svc code) cSvc code s)

/-- trap (R143). -/
def execTrap (code : BitVec 12) (s : State) : Out := .next (softTrap (.trap code) cSoftTrap code s)

/-- brk (R143). -/
def execBrk (code : BitVec 12) (s : State) : Out := .next (softTrap (.brk code) cBreakpoint code s)

/-- The return of R352, for the acting strand. -/
def State.trapReturn (s : State) : Res :=
  let t := s.st
  if !t.tAct then .trap (tr cTretState 0xF8007000) s
  else if t.tHab then
    .gone (((s.modMe fun k => { k with sendq := dropHeld s.ctx k.sendq }).unhold t).freeCtx s.core s.ctx)
  else
    let s := s.modSt fun u => { (u.setSwHigh u.tSwHi) with tAct := false }
    if t.tRe then
      .gone (s.modSt fun u => { u with pc := u.tPc, life := .ready,
                                       replay := some (if u.tW = 0 then none else some (u.tW.toNat, u.tCont)) })
    else
      let s := s.modMe fun k => if mstepAct k.mstep && mstepCtx k.mstep == s.ctx then { k with mstep := 0 } else k
      .gone (s.modSt fun u => { u with pc := u.tCont, life := .ready, held := [], replay := none })

/-- tret (R352). -/
def execTret (s : State) : Out := .next (issueNow .tret false (afterPend State.trapReturn) s)

/-! ### nop, pin, unpin, await (R145, R146, R20) -/
/-- nop (R145). -/
def execNop (s : State) : Out := .next (issueNow .nop true .done s)

/-- await (R146): the strand is suspended after the instruction; a handler traps. -/
def execAwait (s : State) : Out :=
  .next (issueNow .await true (fun s =>
    if s.st.hnd then .trap (tr cHandlerFault Instr.await.word) s
    else .done (s.modSt fun t => { t with awaiting := true, since := s.tick, wd := 0, cls := t.prio.toNat })) s)

/-- pin (R19, R145). -/
def execPin (s : State) : Out := .next (issueNow .pin true (fun s => .done (s.modSt fun t => { t with pin := true })) s)

/-- A vector, matrix or macro instruction of the acting strand has not completed: it is pending, or interrupted and awaits its replay
(R20, R184). -/
def State.vecOwed (s : State) : Bool :=
  (s.st.pend.any fun p => p.unit == 3 || p.unit == 4) || (mstepAct s.me.mstep && mstepCtx s.me.mstep == s.ctx)
/-- unpin (R20): it waits for the strand's vector, matrix and macro instructions. -/
def execUnpin (s : State) : Out :=
  .next (issueNow .unpin true (fun s =>
    if s.vecOwed then .wait false s
    else .done (s.modSt fun t => { t with pin := false })) s)

/-- Wake the first parked strand that await suspends. -/
def wakeFirst (now : Nat) : List Parked → List Parked
  | [] => []
  | p :: r => if p.strand.awaiting then p.wake now :: r else p :: wakeFirst now r
/-- AWAIT_WAKE (R146): 2^wdog.lim cycles have passed, and the suspended strand becomes ready; when the context holds none, the
first of the core's parked strands that await suspends. -/
def execAwaitWake (core ctx : Nat) (s : State) : Out :=
  .next (if (s.strandAt core ctx).awaiting then
    s.modStrand core ctx fun t => { t with awaiting := false, life := .ready, since := s.tick }
  else s.modCore core fun k => { k with parked := wakeFirst s.tick k.parked })

end Sys2Proof.Machine
end

