-- ==== Sys2Proof/Machine/LoadStore.lean ====
section
/-! DEFINITION. Scalar loads and stores, strand migration, posted stores (R130 to R135, R318, R225). -/

namespace Sys2Proof.Machine
open Sys2Proof

/-! ### Messages into the network (R212) -/
/-- The next sequence number of a triple: source core, destination, network. -/
def State.nextSeq (s : State) (src dst net : Nat) : Nat := fget 0 (s.coreAt src).txSeq (dst * 8 + net)
/-- Put a message into the network with the next sequence number of its triple. -/
def State.post (s : State) (src dst net ctx : Nat) (lix : Option Nat) (tag : Nat) (pay : Pay) : State :=
  let q := s.nextSeq src dst net
  let s := s.modCore src fun k => { k with txSeq := fset k.txSeq (dst * 8 + net) ((q + 1) % 65536) }
  { s with net := s.net ++ [{ src := src, dst := dst, net := net, seq := q, ctx := ctx, lix := lix, tag := tag, pay := pay }] }
/-- A message may be delivered: its sequence number is the next its destination expects (R212). -/
def State.inOrder (s : State) (f : Flight) : Bool := fget 0 (s.coreAt f.dst).rxSeq (f.src * 8 + f.net) == f.seq
/-- Message k leaves the network, and its number counts as delivered. -/
def State.take (s : State) (k : Nat) (f : Flight) : State :=
  let s := { s with net := dropAt s.net k }
  s.modCore f.dst fun c => { c with rxSeq := fset c.rxSeq (f.src * 8 + f.net) ((f.seq + 1) % 65536) }
/-- A message's route is down (R394, R395), or its destination has left service (R364, R420). -/
def State.unreachable (s : State) (f : Flight) : Bool := s.linkDown f.src f.dst || s.away f.dst
/-- The saddle of a global address that is no scratchpad's and not the host's. -/
def sadOf (ga : Nat) : Option Nat :=
  if decide (2 ^ 60 ≤ ga) || isHostPa (ga % 2 ^ 52) then none else some (saddleOf (ga / 2 ^ 52) (ga % 2 ^ 52))
/-- Saddles a source of bytes in memory is read from. -/
def EngSrc.at' (d : Nat) : EngSrc → Bool
  | .mem gs => gs.any fun g => sadOf g.ga == some d
  | .line _ gs => gs.any fun g => sadOf g.ga == some d
  | .bytes .. => false
/-- The node holds the copy at the head of core c's engine queue, accepted before operation n, and its source is saddle d (R306). -/
def State.heldCopy (s : State) (c d n : Nat) : Bool :=
  match (s.coreAt c).eng with
  | { order := k, job := .copy src _ _ _ _ true, .. } :: _ => decide (k < n) && src.at' d
  | _ => false
/-- A valley's node holds a tile request of core c to saddle d, issued before operation n (R306). -/
def State.heldTile (s : State) (c d n : Nat) : Bool :=
  s.valleys.any fun v => v.2.node.any fun e => match e with
    | .tiles fs => fs.any fun f => f.src == c && f.dst == d && decide (f.tag < n)
    | .copies _ => false
/-- A request that waits at the valley's node behind a copy that the node holds (R306). -/
def State.nodeWaits (s : State) (f : Flight) : Bool := f.net == 0 && s.heldCopy f.src f.dst f.tag
/-- Message k of the network, when it may be delivered at its destination: the core is not frozen (R358), and no copy held at the
node stands before it (R306). -/
def State.arriving (s : State) (k : Nat) : Option Flight :=
  match s.net[k]? with
  | some f =>
    if s.inOrder f && f.hops.isEmpty && !(s.coreAt f.dst).frozen && !s.nodeWaits f && !s.unreachable f then some f else none
  | none => none
/-- Every request a message stands for is the next of its triple (R306), counting those of it that stand before it. -/
def State.alsoInOrder (s : State) (f : Flight) : List Nat → List (Nat × Nat × Nat × Nat) → Bool
  | _, [] => true
  | seen, r :: rest =>
    (fget 0 (s.coreAt f.dst).rxSeq (r.1 * 8 + f.net) + seen.count r.1) % 65536 == r.2.1 && s.alsoInOrder f (r.1 :: seen) rest
/-- The numbers of the requests that joined a message count as delivered. -/
def State.takeAlso (s : State) (f : Flight) (also : List (Nat × Nat × Nat × Nat)) : State :=
  also.foldl (fun s r => s.modCore f.dst fun c => { c with rxSeq := fset c.rxSeq (r.1 * 8 + f.net) ((r.2.1 + 1) % 65536) }) s
/-- A request with a tag meets an error response. -/
def State.failTag (s : State) (c x tag : Nat) (t : Trap) : State :=
  if (s.strandAt c x).pend.any fun p => p.tag == some tag then s.failed c x tag t else s
/-- A request that meets LINK_DOWN (R394, R395): logged at its source, and reported as an error response of its kind is. -/
def State.bounce (s : State) (k : Nat) (f : Flight) : State :=
  let s := s.take k f
  let log (info : Nat) : State := s.logAt f.src cLinkDown info (s.launchId f.lix) f.src
  match f.pay with
  | .store _ _ va _ => (log va).keep f.src f.ctx { kind := 0, order := f.tag, code := cLinkDown, addr := va }
  | .atomReq _ va _ _ _ ret =>
    let s := (log va).modCore f.src fun c => { c with outst := c.outst.filter fun o => !(o.flight.seq == f.seq && o.flight.dst == f.dst) }
    if ret then s.failTag f.src f.ctx f.tag (tr cLinkDown (w64 va))
    else s.keep f.src f.ctx { kind := 0, order := f.tag, code := cLinkDown, addr := va }
  | .lockReq _ va => (log va).failTag f.src f.ctx f.tag (tr cLinkDown (w64 va))
  | .lockRel _ va _ => (log va).failTag f.src f.ctx f.tag (tr cLinkDown (w64 va))
  | .tileReq it also =>
    ((f.src, f.seq, f.ctx, f.tag) :: also).foldl (fun s a => s.failTag a.1 a.2.2.1 a.2.2.2 (tr cLinkDown (w64 it.base)))
      ((log it.base).takeAlso f also)
  | _ => log f.dst
/-- What becomes of message k when it may not be delivered; a tile goes onward by itself, a migrating strand waits. -/
def State.bounced (s : State) (k : Nat) : State :=
  match s.net[k]? with
  | some f =>
    match f.pay with
    | .tile .. => s
    | .migr _ => s
    | .prog .. => s
    | .red .. => s
    | .tileReq _ also =>
      if s.inOrder f && s.alsoInOrder f [f.src] also && f.hops.isEmpty && s.unreachable f then s.bounce k f else s
    | _ => if s.inOrder f && f.hops.isEmpty && s.unreachable f then s.bounce k f else s
  | none => s

/-- Writes of strand (c, x) not acknowledged, and its atomics whose replies are missing (R225). -/
def State.unacked (s : State) (c x : Nat) : Bool :=
  (s.net.any fun f => match f.pay with
    | .store .. => f.src == c && f.ctx == x
    | .ack .. => f.dst == c && f.ctx == x
    | _ => false) ||
  ((s.coreAt c).outst.any fun o => o.flight.ctx == x)

/-- Report a failure of a posted store or atomic, after the acknowledgements it waits for (R225), on whatever core the strand issued
what they answer. -/
def afterAcks (body : State → Res) (s : State) : Res :=
  if s.places.any fun e => s.unacked e.1 e.2 then .wait false s
  else
    match s.report fun k => k == 0 with
    | some (t, s) => .trap t s
    | none => body s

/-! ### Migration (R132) -/
/-- The trap-state registers at their reset values (R347). -/
def Strand.untrapped (t : Strand) : Strand :=
  { t with tHeld := 0, tW := 0, tAct := false, tRe := false, tCmp := false, tHab := false, tDfr := false, tCode := 0, tInfo := 0,
           tPc := 0, tCont := 0, tSwHi := 0, tMsg := 0, tScr := 0 }
/-- The strand as it travels: pending work is done, and its trap state stays behind unless it is active (R347). -/
def Strand.packed (t : Strand) : Strand :=
  let t := { t with pend := [], found := none, kept := [], awaiting := false, after := [] }
  if t.tAct then t else t.untrapped
/-- Core c has still something to do for the strand of its context x, or a failure to report to it. -/
def State.owes (s : State) (c x : Nat) : Bool :=
  !(s.strandAt c x).kept.isEmpty || ((s.coreAt c).eng.any (EngOp.mine x)) || ((s.coreAt c).sendq.any fun e => e.ctx == x) ||
    s.net.any fun f => (f.asker == c && f.ctx == x) || f.merged.contains (c, x)
/-- A strand is about to leave its core: what the core has still to do for it, and the failures kept for it, stay there under a number
of their own, by which the strand's later instructions wait for them and report them (R225, R236, R245, R335, log 55). -/
def State.leave (s : State) (c x : Nat) : State :=
  if s.owes c x then
    let n := (s.coreAt c).seqNo
    let kept := (s.strandAt c x).kept
    let s := (s.rekey c x (2000 + n)).modCore c fun k => { k with seqNo := n + 1, away := k.away ++ kept.map fun f => (2000 + n, f) }
    s.modStrand c x fun t => { t with kept := [], left := t.left ++ [(c, n)] }
  else s
/-- The acting strand leaves for the saddle of a physical address (R132); a composed core hands back first (R134). DESIGN CHOICE (log 62):
it hands back at the access itself, wherever that stands in its block of 8 instructions. R134 and R279 have the boundary before the
instruction, R343 the one before the next block. -/
def State.migrate (s : State) (pa : Nat) : Res :=
  let s := if s.st.cmp then (s.handBack s.core).modSt fun t => { t with cmp := false } else s
  let s := s.leave s.core s.ctx
  let t := s.st
  let s := s.post s.core (saddleOf (pkgOf s.core) pa) 3 s.ctx t.lix 0 (.migr t.packed)
  .gone (s.freeCtx s.core s.ctx)
/-- A remote access (R132 to R134). -/
def remoteAccess (pa : Nat) (va : Word) (s : State) : Res :=
  if s.st.hnd then .trap (tr cPinnedRemote (va ||| 0x8000000000000000)) s
  else if s.st.pin then .trap (tr cPinnedRemote va) s
  else if s.linkDown s.core (saddleOf (pkgOf s.core) pa) || s.away (saddleOf (pkgOf s.core) pa) then s.fail (tr cLinkDown va)
  else afterPend (afterAcks fun s => s.migrate pa) s

/-! ### The access (R130) -/
/-- The exact address of a load or store. -/
def accAddr (g : List (Nat × Word)) (ra : BitVec 4) (off : BitVec 11) (size : Nat) : Int :=
  ((gread g ra).toNat : Int) + off.toInt * size
/-- Checks of R130 on an address: the trap, or the physical address. A load from the own valley store is answered with LINK_DOWN while its
saddle's island is off (R420, log 20); a store there is posted and fails as it arrives (R225). -/
def State.accPhys (s : State) (addr : Int) (size : Nat) (a : Acc) : Except (Trap × Bool) Nat :=
  if addr % size ≠ 0 then .error (tr cMisalign (i64 addr), false)
  else if addr < 0 ∨ 2 ^ 48 ≤ addr then .error (tr cTranslation (i64 addr), false)
  else
    match s.xlate addr.toNat size a with
    | .error t => .error (t, true)
    | .ok pa =>
      if isHostPa pa then .error (tr cPerm (i64 addr), true)
      else if a = .rd ∧ s.isLocal s.core pa = true ∧ s.storeAway pa = true then .error (tr cLinkDown (i64 addr), true)
      else .ok pa
/-- A load or store whose address is not local (R131), when the checks pass. -/
def State.remote? (s : State) (addr : Int) (size : Nat) (a : Acc) : Option Nat :=
  match s.accPhys addr size a with
  | .ok pa => if s.isLocal s.core pa then none else some pa
  | .error _ => none
/-- Requests of the acting core to a saddle on the request network that have not been performed: in the send queue; in the network; and
those with which the valley's node holds back the ones behind them (R306, R318). -/
def State.queuedTo (s : State) (d : Nat) : Bool := s.me.sendq.any fun e => !e.held && e.dst == d && e.net == 0
def State.flyingTo (s : State) (d tag : Nat) : Bool :=
  (s.net.any fun f => f.dst == d && f.net == 0 && (f.src == s.core || match f.pay with
    | .tileReq _ also => also.any fun a => a.1 == s.core
    | _ => false)) || s.heldTile s.core d tag || s.heldCopy s.core d tag

/-- The effect of a local load (R130, R135). -/
def loadEff (size : Nat) (sgn : Bool) (rd ra : BitVec 4) (off : BitVec 11) : Eff := fun e s =>
  let addr := accAddr e.g ra off size
  match s.accPhys addr size .rd with
  | .error (t, true) => (s.xlated addr.toNat size).fail t
  | .error (t, false) => .trap t s
  | .ok pa =>
    let s := s.xlated addr.toNat size
    let d := saddleOf (pkgOf s.core) pa
    if isStorePa pa && (s.queuedTo d || s.flyingTo d e.tag) then .wait false s
    else
      let ga := s.globalOf s.core pa
      match s.readAt ga size addr.toNat with
      | (.error t, s) => s.failAt ga t
      | (.ok bs, s) => .done (s.setG rd (if sgn then i64 (sextI (ofLe bs) (8 * size)) else w64 (ofLe bs)))

/-- A posted store is performed at its memory (R318); a failure is logged by the saddle and kept by the issuing core (R225). -/
def State.performStore (s : State) (src : Nat) (lix : Option Nat) (ga va size : Nat) (v : Word) : State × Nat :=
  match s.writeAt ga va (leBytes size v.toNat) with
  | (.ok _, s) => (s, 0)
  | (.error t, s) => (s.logAt (respOf ga) t.code t.info.toNat (s.launchId lix) src, t.info.toNat + 1)

/-- The effect of a local store (R130, R318): to the scratchpad and at a saddle it is performed at completion; to the own
valley store it is posted. -/
def storeEff (size : Nat) (rd ra : BitVec 4) (off : BitVec 11) : Eff := fun e s =>
  let addr := accAddr e.g ra off size
  match s.accPhys addr size .wr with
  | .error (t, true) => (s.xlated addr.toNat size).fail t
  | .error (t, false) => .trap t s
  | .ok pa =>
    let s := s.xlated addr.toNat size
    let ga := s.globalOf s.core pa
    let v := e.r rd
    if isSpPa pa || isSaddle s.core then
      match s.writeAt ga addr.toNat (leBytes size v.toNat) with
      | (.error t, s) => s.failAt ga t
      | (.ok _, s) => .done s
    else
      let d := saddleOf (pkgOf s.core) pa
      if s.queuedTo d then .wait false s
      else
        let s := s.modMe fun k => { k with seqNo := k.seqNo + 1 }
        if s.split || s.flyingTo d e.tag || s.away d then .done (s.post s.core d 0 s.ctx s.st.lix e.tag (.store pa size addr.toNat v))
        else
          let r := s.performStore s.core s.st.lix ga addr.toNat size v
          .done (if r.2 = 0 then r.1
            else r.1.keep s.core s.ctx { kind := 0, order := e.tag, code := cUncorrectable, addr := r.2 - 1 })

/-- A remote access migrates its strand (R132 to R134): it is no handler, is not pinned, and the saddle can be reached. -/
def State.migrates (s : State) (pa : Nat) : Bool :=
  !s.st.hnd && !s.st.pin && !(s.linkDown s.core (saddleOf (pkgOf s.core) pa) || s.away (saddleOf (pkgOf s.core) pa))
/-- A load or store (R130): one that migrates waits at issue (R97) and has no window (R132), any other runs on the local memory
unit. A remote one has been translated by then, and its walk has corrected what it met (R313). -/
def memOp (i : Instr) (ra : BitVec 4) (off : BitVec 11) (size : Nat) (a : Acc) (eff : Eff) (s : State) : State :=
  let addr := accAddr s.st.g ra off size
  match s.remote? addr size a with
  | some pa => if s.migrates pa && !s.st.pend.isEmpty then s.stall false else issueNow i true (fun s => remoteAccess pa (i64 addr) (s.xlated addr.toNat size)) s
  | none => longOp i eff s

/-- Effect of ldb (R130). -/
def effLdb (rd ra : BitVec 4) (off : BitVec 11) : Eff := loadEff 1 true rd ra off

/-- ldb (R130). -/
def execLdb (la rd ra : BitVec 4) (off : BitVec 11) (s : State) : Out :=
  .next (memOp (.ldb la rd ra off) ra off 1 .rd (effLdb rd ra off) s)

/-- Effect of ldbu (R130). -/
def effLdbu (rd ra : BitVec 4) (off : BitVec 11) : Eff := loadEff 1 false rd ra off

/-- ldbu (R130). -/
def execLdbu (la rd ra : BitVec 4) (off : BitVec 11) (s : State) : Out :=
  .next (memOp (.ldbu la rd ra off) ra off 1 .rd (effLdbu rd ra off) s)

/-- Effect of ldh (R130). -/
def effLdh (rd ra : BitVec 4) (off : BitVec 11) : Eff := loadEff 2 true rd ra off

/-- ldh (R130). -/
def execLdh (la rd ra : BitVec 4) (off : BitVec 11) (s : State) : Out :=
  .next (memOp (.ldh la rd ra off) ra off 2 .rd (effLdh rd ra off) s)

/-- Effect of ldhu (R130). -/
def effLdhu (rd ra : BitVec 4) (off : BitVec 11) : Eff := loadEff 2 false rd ra off

/-- ldhu (R130). -/
def execLdhu (la rd ra : BitVec 4) (off : BitVec 11) (s : State) : Out :=
  .next (memOp (.ldhu la rd ra off) ra off 2 .rd (effLdhu rd ra off) s)

/-- Effect of ldw (R130). -/
def effLdw (rd ra : BitVec 4) (off : BitVec 11) : Eff := loadEff 4 true rd ra off

/-- ldw (R130). -/
def execLdw (la rd ra : BitVec 4) (off : BitVec 11) (s : State) : Out :=
  .next (memOp (.ldw la rd ra off) ra off 4 .rd (effLdw rd ra off) s)

/-- Effect of ldwu (R130). -/
def effLdwu (rd ra : BitVec 4) (off : BitVec 11) : Eff := loadEff 4 false rd ra off

/-- ldwu (R130). -/
def execLdwu (la rd ra : BitVec 4) (off : BitVec 11) (s : State) : Out :=
  .next (memOp (.ldwu la rd ra off) ra off 4 .rd (effLdwu rd ra off) s)

/-- Effect of ldd (R130). -/
def effLdd (rd ra : BitVec 4) (off : BitVec 11) : Eff := loadEff 8 false rd ra off

/-- ldd (R130). -/
def execLdd (la rd ra : BitVec 4) (off : BitVec 11) (s : State) : Out :=
  .next (memOp (.ldd la rd ra off) ra off 8 .rd (effLdd rd ra off) s)

/-- Effect of stb (R130). -/
def effStb (rd ra : BitVec 4) (off : BitVec 11) : Eff := storeEff 1 rd ra off

/-- stb (R130). -/
def execStb (la rd ra : BitVec 4) (off : BitVec 11) (s : State) : Out :=
  .next (memOp (.stb la rd ra off) ra off 1 .wr (effStb rd ra off) s)

/-- Effect of sth (R130). -/
def effSth (rd ra : BitVec 4) (off : BitVec 11) : Eff := storeEff 2 rd ra off

/-- sth (R130). -/
def execSth (la rd ra : BitVec 4) (off : BitVec 11) (s : State) : Out :=
  .next (memOp (.sth la rd ra off) ra off 2 .wr (effSth rd ra off) s)

/-- Effect of stw (R130). -/
def effStw (rd ra : BitVec 4) (off : BitVec 11) : Eff := storeEff 4 rd ra off

/-- stw (R130). -/
def execStw (la rd ra : BitVec 4) (off : BitVec 11) (s : State) : Out :=
  .next (memOp (.stw la rd ra off) ra off 4 .wr (effStw rd ra off) s)

/-- Effect of std (R130). -/
def effStd (rd ra : BitVec 4) (off : BitVec 11) : Eff := storeEff 8 rd ra off

/-- std (R130). -/
def execStd (la rd ra : BitVec 4) (off : BitVec 11) (s : State) : Out :=
  .next (memOp (.std la rd ra off) ra off 8 .wr (effStd rd ra off) s)

/-! ### Steps of the memory system -/
/-- POSTED_STORE_PERFORM (R318, R298): the saddle performs message k, a posted store, in sequence order, and acknowledges it. -/
def execPostedStorePerform (k : Nat) (s : State) : Out :=
  .next (match s.arriving k with
    | some f =>
      match f.pay with
      | .store pa size va v =>
        let s := s.take k f
        let ga := s.globalOf f.src pa
        let r := s.performStore f.src f.lix ga va size v
        if r.2 = 0 then r.1.post f.dst f.src 4 f.ctx f.lix f.tag (.ack 0 0)
        else r.1.post f.dst f.src 4 f.ctx f.lix f.tag (.ack cUncorrectable (r.2 - 1))
      | _ => s
    | none => s.bounced k)

/-- WRITE_ACK_ARRIVAL (R225): the acknowledgement reaches the issuing core, which keeps a failure of the strand. -/
def execWriteAckArrival (k : Nat) (s : State) : Out :=
  .next (match s.arriving k with
    | some f =>
      match f.pay with
      | .ack code addr =>
        let s := s.take k f
        if code = 0 then s else s.keep f.dst f.ctx { kind := 0, order := f.tag, code := code, addr := addr }
      | _ => s
    | none => s.bounced k)

/-- The lowest free context of a core (R2). -/
def freeIn (ctxs : List (Nat × Strand)) : Nat → Nat → Option Nat
  | 0, _ => none
  | n + 1, x => if (fget {} ctxs x).life = .free then some x else freeIn ctxs n (x + 1)
def State.freeCtxOf (s : State) (c : Nat) : Option Nat :=
  freeIn (s.coreAt c).ctxs (if isSaddle c then Config.saddleContexts else Config.coreContexts) 0

/-- MIGRATION_ARRIVAL (R132, R347): the saddle installs message k's strand in a free context, where its access executes; the
message waits while all contexts are in use; a strand of an ended launch stops on arrival (R351). -/
def execMigrationArrival (k : Nat) (s : State) : Out :=
  .next (match s.arriving k with
    | some f =>
      match f.pay with
      | .migr t =>
        if s.over t.lix then ((s.take k f).unhold t).disownLeft t
        else
          match s.freeCtxOf f.dst with
          | some x => (s.take k f).setStrand f.dst x { t with life := .ready, since := s.tick, wd := 0 }
          | none => s
      | _ => s
    | none => s)

/-- A translation cache of n entries with one more (R303): the newest first. -/
def tlbPut (n : Nat) (e : TlbEnt) (t : List TlbEnt) : List TlbEnt :=
  (e :: t.filter fun o => !(o.lix == e.lix && o.size == e.size && o.page == e.page)).take n
/-- PAGE_WALK (R302, R303): a strand's miss fills its core's translation cache from the shared one, or, with the walker's reads of
the tables, both. -/
def execPageWalk (core ctx va : Nat) (s : State) : Out :=
  .next (match (s.strandAt core ctx).lix with
    | none => s
    | some l =>
      let fill (e : TlbEnt) (s : State) : State := s.modCore core fun k => { k with tlb := tlbPut Config.coreTlb e k.tlb }
      match tlbFind l va (s.sharedTlb core) with
      | some e => fill e s
      | none =>
        match s.walk core va 4 0 (s.launchAt l).root with
        | .error _ => s
        | .ok (b, sz, perm) =>
          let e : TlbEnt := { lix := l, size := sz, page := va / sz, base := b, perm := perm }
          fill e ((s.walkScrub core va 4 0 (s.launchAt l).root).setSharedTlb core (tlbPut Config.sharedTlb e (s.sharedTlb core))))

/-- LINE_SPARE (R421, R313): a line whose corrected count has reached 16 moves to a spare row, its count restarts, and the
replacement enters the spare map. -/
def execLineSpare (line : Nat) (s : State) : Out :=
  .next (if 16 ≤ fget 0 s.corrLine line then
    { s with corrLine := fdel line s.corrLine, henud := { s.henud with spareMap := s.henud.spareMap ++ [(2 ^ 56 + line, 0)] } }
    else s)

end Sys2Proof.Machine
end

