-- ==== Sys2Proof/Machine/Net.lean ====
section
/-! DEFINITION. The send queue (R214), and ranges of virtual memory as segments of physical memory. -/

namespace Sys2Proof.Machine
open Sys2Proof

/-- Place an entry in the send queue; a handler's is held (R214). -/
def State.queueSend (s : State) (dst net tag : Nat) (pay : Pay) : State :=
  s.modMe fun k => { k with sendq := k.sendq ++
    [{ held := s.st.hnd, ctx := s.ctx, dst := dst, net := net, lix := s.st.lix, tag := tag, pay := pay }] }
/-- The place in the send queue of an instruction that waits at issue for all before it (R214): a task strand waits while the queue is
full, a handler traps. -/
def withRoom (body : State → Res) (s : State) : Res :=
  if s.me.sqFull then
    if s.st.hnd then .trap (tr cSendqFull (w64 (s.me.sqDepth + s.me.sqCount * 256))) s
    else .wait true (s.modSt fun t => { t with waitSq := true })
  else body s

/-- The packages of the domain: the own one, and those its route table reaches (log 8). -/
def State.inDomain (s : State) (pkg : Nat) : Bool :=
  pkg == pkgOf s.core || s.henud.routes.any fun r => r.1 == pkgOf s.core && r.2.1 == pkg
/-- A register names a core of the domain that is no saddle (R215). -/
def State.destOk (s : State) (d : Word) : Bool :=
  decide (d.toNat < 2 ^ 20) && d.toNat % 2 == 0 && !isSaddle d.toNat && s.inDomain (pkgOf d.toNat)
/-- A core number no core bears: a reserved bit, or an index above 48, or 48 once the spare has replaced another (R37). -/
def State.badSaddle (s : State) (c : Nat) : Bool :=
  isSaddle c && (c % 32 != 0 || decide (48 < sadIx c) || (sadIx c == 48 && (s.plainAt (plainOf c)).spareFor.isSome))

/-! ### Segments -/
/-- The first byte of a scratchpad range that R292 refuses. -/
def Carve.refused (c : Carve) (o n : Nat) (write : Bool) : Nat :=
  let rs := c.spill :: (if write then [c.sreq, c.srep, c.creq, c.crep] else [])
  (rs.filter fun r => r.meets o n).foldl (fun m r => Nat.min m (Nat.max o r.base)) (o + n)

/-- Translate a range page by page (R304): its segments, or the first failure, with its address. -/
def State.segs (s : State) (a : Acc) : Nat → Nat → Nat → Except Trap (List Seg)
  | 0, _, _ => .ok []
  | k + 1, va, n =>
    if n = 0 then .ok []
    else
      let m := Nat.min n (65536 - va % 65536)
      match s.xlate va m a with
      | .error t =>
        if t.code = cPerm ∧ isSpVa va then
          .error (tr cPerm (w64 (va + ((s.spireAt s.mySpire).carve.refused (va % 2 ^ 20) m (a != .rd) - va % 2 ^ 20) % m)))
        else .error t
      | .ok pa =>
        match s.segs a k (va + m) (n - m) with
        | .error t => .error t
        | .ok r => .ok ({ va := va, ga := s.globalOf s.core pa, n := m } :: r)
/-- The segments of n bytes from va. -/
def State.segsOf (s : State) (va n : Nat) (a : Acc) : Except Trap (List Seg) :=
  if va + n > 2 ^ 48 then .error (tr cTranslation (w64 va)) else s.segs a (n / 65536 + 2) va n

/-- Read segments, or the first UNCORRECTABLE with the responder's address. -/
def State.readSegs (s : State) : List Seg → Except (Trap × Nat) (List Byte) × State
  | [] => (.ok [], s)
  | g :: r =>
    match s.readAt g.ga g.n g.va with
    | (.error t, s) => (.error (t, g.ga), s)
    | (.ok bs, s) =>
      match s.readSegs r with
      | (.error e, s) => (.error e, s)
      | (.ok cs, s) => (.ok (bs ++ cs), s)
/-- The doubleword that refuses a write of segments, if any (R314). -/
def State.badSegs (s : State) : List Seg → Option (Trap × Nat)
  | [] => none
  | g :: r =>
    match s.badPart g.ga g.n with
    | some d => some (tr cUncorrectable (w64 (g.va + d - g.ga)), g.ga)
    | none => s.badSegs r
/-- Write bytes over segments. -/
def State.pokeSegs (s : State) : List Seg → List Byte → State
  | [], _ => s
  | g :: r, bs => (((s.power g.ga).cleared g.ga g.n).poke g.ga (bs.take g.n)).pokeSegs r (bs.drop g.n)

/-- Read n bytes at va for the acting strand; an error is logged. -/
def State.readBytes (s : State) (va n : Nat) : Except (Trap × State) (List Byte × State) :=
  match s.segsOf va n .rd with
  | .error t => .error (t, (s.xlated va n).logErr (s.xlateResp t) t)
  | .ok gs =>
    match (s.xlated va n).readSegs gs with
    | (.error (t, ga), s) => .error (t, s.logErr (respOf ga) t)
    | (.ok bs, s) => .ok (bs, s)
/-- Read n bytes at va for the acting strand, and go on with them; an error is logged and traps. -/
def readVa (va n : Nat) (f : List Byte → State → Res) (s : State) : Res :=
  match s.readBytes va n with
  | .error (t, s) => .trap t s
  | .ok (bs, s) => f bs s
/-- Write bytes at va for the acting strand: all of them or none. -/
def writeVa (va : Nat) (bs : List Byte) (f : State → Res) (s : State) : Res :=
  match s.segsOf va bs.length .wr with
  | .error t => (s.xlated va bs.length).fail t
  | .ok gs =>
    let s := s.xlated va bs.length
    match s.badSegs gs with
    | some (t, ga) => s.failAt ga t
    | none => f (s.pokeSegs gs bs)

/-- n bytes from a register's address lie in the scratchpad window. -/
def inSp (a : Word) (n : Nat) : Bool := decide (0xFF0000000000 ≤ a.toNat) && decide (a.toNat + n ≤ 0xFF0000100000)
/-- Words of little-endian bytes. -/
def wordsOf : Nat → List Byte → List Word
  | 0, _ => []
  | n + 1, bs => w64 (ofLe (bs.take 8)) :: wordsOf n (bs.drop 8)

end Sys2Proof.Machine
end

