-- ==== Sys2Proof/Machine/Atomic.lean ====
section
/-! DEFINITION. Atomics and locks (R222 to R225, R239, R240). -/

namespace Sys2Proof.Machine
open Sys2Proof

/-- The new value of an atomic (R223). -/
def atomNew (op : Nat) (old b c : Word) : Word :=
  match op with
  | 0 => old + b
  | 1 => if old.slt b then old else b
  | 2 => if old.slt b then b else old
  | 3 => old &&& b
  | 4 => old ||| b
  | 5 => old ^^^ b
  | 6 => b
  | 7 => if old = c then b else old
  | _ => w64 (addC fp64 old.toNat b.toNat).1

/-- The home reads and writes the doubleword indivisibly (R222): the old value, or an uncorrectable error. -/
def State.applyAtom (s : State) (ga va op : Nat) (b c : Word) : Except Trap Word × State :=
  match s.readAt ga 8 va with
  | (.error t, s) => (.error t, s)
  | (.ok bs, s) =>
    let old := w64 (ofLe bs)
    (.ok old, s.poke ga (leBytes 8 (atomNew op old b c).toNat))

/-- Address checks of an atomic or lock (R222). DESIGN CHOICE (log 61): an address in the host window that is not mapped takes TRANSLATION
before PERM. -/
def State.atomPhys (s : State) (a : Word) : Except (Trap × Bool) Nat :=
  if a.toNat % 8 ≠ 0 then .error (tr cMisalign a, false)
  else if 2 ^ 48 ≤ a.toNat then .error (tr cTranslation a, false)
  else
    match s.xlate a.toNat 8 .rw with
    | .error t => .error (t, true)
    | .ok pa => if isHostPa pa then .error (tr cPerm a, true) else .ok pa
/-- Go on with the physical address of an atomic or lock. -/
def withAtom (a : Word) (f : Nat → State → Res) (s : State) : Res :=
  match s.atomPhys a with
  | .error (t, true) => (s.xlated a.toNat 8).fail t
  | .error (t, false) => .trap t s
  | .ok pa => f pa (s.xlated a.toNat 8)

/-- The checks of atom and atom.ret at issue (R222, R223), in a handler HANDLER_FAULT first (DEDUCED, log 24), and the entry of the send queue that a request to
a home holds from then on (R214); in a handler atom is a held entry whatever its address. -/
def atomPrep (i : Instr) (ret : Bool) (ra : BitVec 4) : Prepare := fun e s =>
  if ret && s.st.hnd then .error (tr cHandlerFault i.word, s)
  else
    match s.atomPhys (e.r ra) with
    | .error (t, true) => .error (t, (s.xlated (e.r ra).toNat 8).logErr (s.xlateResp t) t)
    | .error (t, false) => .error (t, s)
    | .ok pa =>
      let s := s.xlated (e.r ra).toNat 8
      if isSpPa pa && !s.st.hnd then .ok (.addr pa, s) else withEntry (.addr pa) s
/-- What atom and atom.ret do once checked (R223): in place in the scratchpad, otherwise a request to the home. -/
def finAtom (ret : Bool) (rd ra rb op : BitVec 4) : Eff := fun e s =>
  match e.prep with
  | .addr pa =>
    let ga := s.globalOf s.core pa
    match s.applyAtom ga (e.r ra).toNat op.toNat (e.r rb) (e.r rd) with
    | (.error t, s) => s.failAt ga t
    | (.ok old, s) => .done (if ret then s.setG rd old else s)
  | .entry (.addr pa) =>
    let dst := if isSpPa pa then s.core else saddleOf (pkgOf s.core) pa
    let s := s.queueSend dst 0 e.tag (.atomReq pa (e.r ra).toNat op.toNat (e.r rb) (e.r rd) ret)
    if ret then .sent false s
    else .done (s.modMe fun k => { k with seqNo := k.seqNo + 1 })
  | _ => .wait false s

/-- Effect of atom (R223). -/
def effAtom (la rd ra rb op : BitVec 4) : Eff := prepared (atomPrep (.atom la rd ra rb op) false ra) (finAtom false rd ra rb op)
/-- atom (R223). -/
def execAtom (la rd ra rb op : BitVec 4) (s : State) : Out :=
  .next (longPrep (.atom la rd ra rb op) (atomPrep (.atom la rd ra rb op) false ra) (finAtom false rd ra rb op) s)
/-- Effect of atom.ret (R223). -/
def effAtomRet (la rd ra rb op : BitVec 4) : Eff := prepared (atomPrep (.atomRet la rd ra rb op) true ra) (finAtom true rd ra rb op)
/-- atom.ret (R223). -/
def execAtomRet (la rd ra rb op : BitVec 4) (s : State) : Out :=
  .next (longPrep (.atomRet la rd ra rb op) (atomPrep (.atomRet la rd ra rb op) true ra) (finAtom true rd ra rb op) s)

/-- Entry of a home's reply cache for a request (R224). -/
def cached (h : Home) (src seq : Nat) : Option RepEnt := h.cache.find? fun e => e.src == src && e.seq == seq
/-- Answer an atomic's requester from a reply-cache entry. -/
def State.answerAtom (s : State) (home : Nat) (lix : Option Nat) (e : RepEnt) : State :=
  s.post home e.src 1 e.ctx lix e.tag (.atomRep e.old e.ret e.code e.addr e.seq)

/-- A message's number lies behind the next that its destination expects: it is one re-sent, and delivered before. -/
def State.reSent (s : State) (f : Flight) : Bool :=
  !decide ((f.seq + 65536 - fget 0 (s.coreAt f.dst).rxSeq (f.src * 8 + f.net)) % 65536 < 32768)
/-- ATOMIC_APPLY (R223, R224): a request already answered is answered from the reply cache and not applied again; while the
cache is full a new request waits, and so does one behind what the node holds of its core (R306); one whose route is down meets LINK_DOWN
(R394). -/
def execAtomicApply (k : Nat) (s : State) : Out :=
  .next (match s.net[k]? with
    | none => s
    | some f =>
      match f.pay with
      | .atomReq pa va op b c ret =>
        let h := (s.coreAt f.dst).home
        if !f.hops.isEmpty || (s.coreAt f.dst).frozen || s.nodeWaits f then s
        else if s.unreachable f then (if s.reSent f then { s with net := dropAt s.net k } else s.bounced k)
        else
          match cached h f.src f.seq with
          | some e => { s with net := dropAt s.net k }.answerAtom f.dst f.lix e
          | none =>
            if !s.inOrder f then
              -- a re-sent request whose reply has been acknowledged; one ahead of its turn waits
              if s.reSent f then { s with net := dropAt s.net k } else s
            else if 256 ≤ h.cache.length then s
            else
              let s := s.take k f
              let r := s.applyAtom (s.globalOf f.src pa) va op b c
              let e : RepEnt := match r.1 with
                | .ok old => { src := f.src, seq := f.seq, ctx := f.ctx, tag := f.tag, old := old, ret := ret, code := 0, addr := va }
                | .error t => { src := f.src, seq := f.seq, ctx := f.ctx, tag := f.tag, old := 0, ret := ret, code := t.code,
                                addr := t.info.toNat }
              let s := match r.1 with
                | .ok _ => r.2
                | .error t => r.2.logAt f.dst t.code t.info.toNat (s.launchId f.lix) f.src
              let s := s.modCore f.dst fun k => { k with home := { k.home with cache := k.home.cache ++ [e] } }
              s.answerAtom f.dst f.lix e
      | _ => s)

/-- ATOMIC_REPLY (R223, R224): the reply completes atom.ret, or makes it trap; the failure of an atom is kept (R225); the
requester acknowledges every reply. -/
def execAtomicReply (k : Nat) (s : State) : Out :=
  .next (match s.arriving k with
    | none => s.bounced k
    | some f =>
      match f.pay with
      | .atomRep old ret code addr req =>
        let s := s.take k f
        let s := s.post f.dst f.src 4 f.ctx f.lix f.tag (.repAck req)
        match (s.coreAt f.dst).outst.find? fun o => o.flight.tag == f.tag with
        | none => s
        | some o =>
          -- the core knows by its own note which strand the request was of (R295, R132)
          let x := o.flight.ctx
          let s := s.modCore f.dst fun c => { c with outst := c.outst.filter fun o => o.flight.tag != f.tag }
          if ret then
            match (s.strandAt f.dst x).pend.find? fun p => p.tag == some f.tag with
            | none => s
            | some p =>
              if code ≠ 0 then s.failed f.dst x p.order (tr code (w64 addr))
              else
                let s := match p.instr with
                  | .atomRet _ rd _ _ _ => { s with core := f.dst, ctx := x }.setG rd old
                  | _ => s
                s.completed f.dst x p.order
          else if code ≠ 0 then s.keep f.dst x { kind := 0, order := f.tag, code := code, addr := addr }
          else s
      | _ => s)

/-- REPLY_ACK (R224): the home removes the entry acknowledged. -/
def execReplyAck (k : Nat) (s : State) : Out :=
  .next (match s.arriving k with
    | none => s.bounced k
    | some f =>
      match f.pay with
      | .repAck req =>
        (s.take k f).modCore f.dst fun c =>
          { c with home := { c.home with cache := c.home.cache.filter fun e => !(e.src == f.src && e.seq == req) } }
      | _ => s)

/-- REPLY_TIMEOUT (R224): the request is sent again under its number, at most three times; then REPLY_LOST. -/
def execReplyTimeout (core tag : Nat) (s : State) : Out :=
  .next (match (s.coreAt core).outst.find? fun o => o.flight.tag == tag with
    | none => s
    | some o =>
      if o.resends < 3 then
        let s := s.modCore core fun c => { c with outst := c.outst.map fun p =>
          if p.flight.tag = tag then { p with resends := p.resends + 1 } else p }
        { s with net := s.net ++ [o.flight] }
      else
        let s := s.modCore core fun c => { c with outst := c.outst.filter fun p => p.flight.tag != tag }
        match o.flight.pay with
        | .atomReq _ va _ _ _ ret =>
          let s := s.logAt core cReplyLost va (s.launchId o.flight.lix) core
          if ret then s.failTag core o.flight.ctx tag (tr cReplyLost (w64 va))
          else s.keep core o.flight.ctx { kind := 0, order := tag, code := cReplyLost, addr := va }
        | _ => s)

/-! ### Locks (R239, R240) -/
/-- Go on with the home state of a lock: of a scratchpad controller, or of a saddle. -/
def State.homeOf (s : State) (sp : Bool) (at' : Nat) : Home := if sp then (s.spireAt at').home else (s.coreAt at').home
def State.setHome (s : State) (sp : Bool) (at' : Nat) (h : Home) : State :=
  if sp then s.modSpire at' fun p => { p with home := h } else s.modCore at' fun c => { c with home := h }
/-- The home grants a lock with its next ticket: the lock doubleword, the counter. -/
def State.grant (s : State) (sp : Bool) (at' ga : Nat) : Word × State :=
  let h := s.homeOf sp at'
  let t : Word := h.ticket.setWidth 64
  (t, (s.setHome sp at' { h with ticket := h.ticket + 1 }).poke ga (leBytes 8 (0x8000000000000000 ||| t).toNat))
/-- The grant reaches a strand of the requesting core: the ticket is written and acq completes (R239). -/
def State.granted (s : State) (c x tag : Nat) (ticket : Word) : State :=
  match (s.strandAt c x).pend.find? fun p => p.tag == some tag with
  | none => s
  | some p =>
    let s := match p.instr with
      | .acq rd _ => { s with core := c, ctx := x }.setG rd ticket
      | _ => s
    s.completed c x p.order
/-- A release at a home (R240): the cause code, or 0, and the request granted, if any. -/
def State.releaseAt (s : State) (sp : Bool) (at' ga : Nat) (ticket : Word) : Nat × Option (LockReq × Word) × State :=
  let v := w64 (ofLe (s.bytes ga 8))
  let s := s.scrub ga 8
  if (s.badIn ga 8).isSome then (cUncorrectable, none, s)
  else if ticket.toNat < 65536 ∧ v = 0x8000000000000000 ||| ticket then
    let h := s.homeOf sp at'
    match h.lockq.find? fun q => q.pa == ga with
    | none => (0, none, s.poke ga (leBytes 8 0))
    | some q =>
      let s := s.setHome sp at' { h with lockq := h.lockq.erase q }
      let g := s.grant sp at' ga
      (0, some (q, g.1), g.2)
  else (cSyncState, none, s)

/-- Effect of acq (R239): at a scratchpad home in place, otherwise a request to the home. DEDUCED: in a handler HANDLER_FAULT comes before
the checks of the address (log 24). -/
def effAcq (rd ra : BitVec 4) : Eff := fun e => afterPend fun s =>
  if s.st.hnd then .trap (tr cHandlerFault (Instr.acq rd ra).word) s
  else
    withAtom (e.r ra) (fun pa s =>
      if isSpPa pa then
        let ga := s.globalOf s.core pa
        let p := s.mySpire
        match s.readAt ga 8 (e.r ra).toNat with
        | (.error t, s) => s.failAt ga t
        | (.ok bs, s) =>
          if ofLe bs = 0 then
            let g := s.grant true p ga
            .done (g.2.setG rd g.1)
          else if 64 ≤ (s.homeOf true p).lockq.length then .wait true s
          else
            let h := s.homeOf true p
            .sent true (s.setHome true p { h with lockq := h.lockq ++ [{ core := s.core, ctx := s.ctx, tag := e.tag, pa := ga }] })
      else withRoom (fun s => .sent true (s.queueSend (saddleOf (pkgOf s.core) pa) 0 e.tag (.lockReq pa (e.r ra).toNat))) s) s
/-- acq (R239). -/
def execAcq (rd ra : BitVec 4) (s : State) : Out := .next (longOp (.acq rd ra) (effAcq rd ra) s)

/-! ### Writes not yet performed (R228, R232, R240, R247, R261, R275, R320) -/
/-- Offset of block k of a deal, bytes of a block, and the destination core of block k of a deal of core c (R269). -/
def dealOff (a b : Word) (k : Nat) : Nat := bitsOf b 51 32 + k / (bitsOf a 29 20 + 1) * (64 * bitsOf b 31 16)
def dealB (b : Word) : Nat := 64 * (bitsOf b 15 0 + 1)
def dealDest (c : Nat) (patA : Word) (k : Nat) : Nat :=
  c / 4096 * 4096 + 2 * (bitsOf patA 39 30 + k % (bitsOf patA 29 20 + 1) * bitsOf patA 19 10)
/-- Blocks of a deal of which a line has not been performed. -/
def dealLeft (b : Word) (len line : Nat) : List Nat := (List.range (len / dealB b)).drop (64 * line / dealB b)
/-- What an engine operation of core c has still to write. -/
def State.engDst (s : State) (c : Nat) (o : EngOp) : List Seg :=
  match o.job with
  | .copy _ dst _ _ _ _ => dst
  | .drain _ _ els => els.map fun e => { va := e.va, ga := e.pa, n := e.n }
  | .landing _ dst _ _ => dst
  | .itland _ dst => dst
  | .deal _ a b len _ line => (dealLeft b len line).map fun k =>
      { va := 0xFF0000000000 + dealOff a b k, ga := spBase (s.spireOf (dealDest c a k)) + dealOff a b k, n := dealB b }
/-- A write to bytes that meet a condition, of the strand that core c knows as x and of an order that bef admits, has not been performed:
an atomic in the send queue, a posted store, an atomic or a host-window write in the network, an operation of the engine. -/
def State.writingOf (s : State) (c x : Nat) (bef : Nat → Bool) (hit : Seg → Bool) : Bool :=
  let atom (va pa : Nat) : Bool := hit { va := va, ga := s.globalOf c pa, n := 8 }
  ((s.coreAt c).sendq.any fun e => !e.held && e.ctx == x && bef e.tag && match e.pay with
    | .atomReq pa va _ _ _ _ => atom va pa
    | _ => false) ||
  (s.net.any fun f => f.src == c && f.ctx == x && bef f.tag && match f.pay with
    | .store pa n va _ => hit { va := va, ga := s.globalOf c pa, n := n }
    | .atomReq pa va _ _ _ _ => atom va pa
    | .hostWr ga va d _ _ _ _ => hit { va := va, ga := ga, n := d.length }
    | _ => false) ||
  (s.coreAt c).eng.any fun o => o.mine x && bef o.order && (s.engDst c o).any hit
/-- A write of the acting strand to bytes that meet a condition has been issued before operation n and is not performed, on its core or
on one it has left. -/
def State.writing (s : State) (n : Nat) (hit : Seg → Bool) : Bool :=
  s.writingOf s.core s.ctx (fun k => decide (k < n)) hit ||
    s.st.left.any fun e => s.writingOf e.1 (2000 + e.2) (fun _ => true) hit
/-- An instruction of the acting strand that its core accepted before operation n, and that writes memory of itself, is pending: one of
the local memory, the vector and the matrix unit that has not trapped. -/
def State.busyBefore (s : State) (n : Nat) : Bool :=
  s.st.pend.any fun p => decide (p.order < n) && decide (2 ≤ p.unit) && decide (p.unit ≤ 4) && p.trap.isNone
/-- Bytes meet a region that the acting strand's launch has bound to an object on its core (R238, R320). -/
def State.bound (s : State) (obj : Word) (g : Seg) : Bool :=
  s.me.binds.any fun b => b.obj == obj && b.lix == s.st.lix && decide (g.va < b.base + b.len) && decide (b.base < g.va + g.n)
/-- The release of an object waits (R228, R240, R321): a write of the strand to a region bound to it is not performed. -/
def State.releaseWaits (s : State) (n : Nat) (obj : Word) : Bool := s.writing n (s.bound obj)

/-- Effect of rel (R240). DEDUCED: in a handler HANDLER_FAULT comes before the checks of the address (log 24). -/
def effRel (ra rb : BitVec 4) : Eff := fun e => afterPend fun s =>
  if s.st.hnd then .trap (tr cHandlerFault (Instr.rel ra rb).word) s
  else
    withAtom (e.r ra) (fun pa => afterAcks fun s =>
      if s.releaseWaits e.tag (e.r ra) then .wait false s
      else if isSpPa pa then
        match s.releaseAt true s.mySpire (s.globalOf s.core pa) (e.r rb) with
        | (0, none, s) => .done s
        | (0, some (q, t), s') =>
          let r := s'.granted q.core q.ctx q.tag t
          .done { r with core := s.core, ctx := s.ctx }
        | (c, _, s) => if c = cUncorrectable then s.failAt (s.globalOf s.core pa) (tr c (e.r ra)) else .trap (tr c (e.r ra)) s
      else withRoom (fun s => .sent false
        (s.queueSend (saddleOf (pkgOf s.core) pa) 0 e.tag (.lockRel pa (e.r ra).toNat (e.r rb)))) s) s
/-- rel (R240). -/
def execRel (ra rb : BitVec 4) (s : State) : Out := .next (longOp (.rel ra rb) (effRel ra rb) s)

/-- LOCK_REQUEST (R239): the home grants a free lock, or queues the request; 64 are queued, and further ones wait in the
network. -/
def execLockRequest (k : Nat) (s : State) : Out :=
  .next (match s.arriving k with
    | none => s.bounced k
    | some f =>
      match f.pay with
      | .lockReq pa va =>
        let ga := s.globalOf f.src pa
        let h := s.homeOf false f.dst
        match s.readAt ga 8 va with
        | (.error t, s) =>
          ((s.take k f).logAt f.dst t.code t.info.toNat (s.launchId f.lix) f.src).post f.dst f.src 1 f.ctx f.lix f.tag
            (.lockGrant 0 t.code t.info.toNat)
        | (.ok bs, s) =>
          if ofLe bs = 0 then
            let g := (s.take k f).grant false f.dst ga
            g.2.post f.dst f.src 1 f.ctx f.lix f.tag (.lockGrant g.1 0 0)
          else if 64 ≤ h.lockq.length then s
          else (s.take k f).setHome false f.dst
            { h with lockq := h.lockq ++ [{ core := f.src, ctx := f.ctx, tag := f.tag, pa := ga }] }
      | _ => s)

/-- LOCK_RELEASE (R240): the home checks the ticket, grants the oldest queued request or frees the lock, and acknowledges. -/
def execLockRelease (k : Nat) (s : State) : Out :=
  .next (match s.arriving k with
    | none => s.bounced k
    | some f =>
      match f.pay with
      | .lockRel pa va ticket =>
        match (s.take k f).releaseAt false f.dst (s.globalOf f.src pa) ticket with
        | (c, q, s) =>
          let s := if c = cUncorrectable then s.logAt f.dst c va (s.launchId f.lix) f.src else s
          let s := match q with
            | some (q, t) => s.post f.dst q.core 1 q.ctx f.lix q.tag (.lockGrant t 0 0)
            | none => s
          s.post f.dst f.src 4 f.ctx f.lix f.tag (.lockRelAck c va)
      | _ => s)

/-- LOCK_GRANT (R239): the grant completes acq; an error of the lock doubleword makes it trap. -/
def execLockGrant (k : Nat) (s : State) : Out :=
  .next (match s.arriving k with
    | none => s.bounced k
    | some f =>
      match f.pay with
      | .lockGrant t code addr =>
        let s := s.take k f
        if code = 0 then s.granted f.dst f.ctx f.tag t
        else if (s.strandAt f.dst f.ctx).pend.any fun p => p.tag == some f.tag then
          s.failed f.dst f.ctx f.tag (tr code (w64 addr))
        else s
      | _ => s)

/-- LOCK_RELEASE_ACK (R240): the acknowledgement completes rel, or makes it trap with SYNC_STATE. -/
def execLockReleaseAck (k : Nat) (s : State) : Out :=
  .next (match s.arriving k with
    | none => s.bounced k
    | some f =>
      match f.pay with
      | .lockRelAck code va =>
        let s := s.take k f
        if (s.strandAt f.dst f.ctx).pend.any fun p => p.tag == some f.tag then
          if code = 0 then s.completed f.dst f.ctx f.tag else s.failed f.dst f.ctx f.tag (tr code (w64 va))
        else s
      | _ => s)

end Sys2Proof.Machine
end

