-- ==== Sys2Proof/Machine/Message.lean ====
section
/-! DEFINITION. Messages, receive queues, handlers, streams (R212 to R221, R248, R249). -/

namespace Sys2Proof.Machine
open Sys2Proof

/-- Registers rc to rc + n - 1 of an effect. -/
def Env.rs (e : Env) (rc : BitVec 4) : Nat → List Word
  | 0 => []
  | n + 1 => e.r rc :: e.rs (rc + 1) n

/-- The check of a handler address (R215), made at issue (R116). -/
def hndBad (h : Word) : Bool := h.toNat % 4 != 0 || decide (2 ^ 48 ≤ h.toNat)
/-- The checks of R215 on destination and handler address, made at issue: the trap. -/
def State.sendChk (s : State) (dest hnd : Word) : Option Trap :=
  if !s.destOk dest then some (tr cMsgDest dest) else if hndBad hnd then some (tr cMisalign hnd) else none
/-- send and rsend at issue: the checks, and the entry of the send queue (R214, R215). -/
def sendPrep (ra rb : BitVec 4) : Prepare := fun e s =>
  match s.sendChk (e.r ra) (e.r rb) with
  | some t => .error (t, s)
  | none => withEntry .checked s
/-- Place a message to a core in the entry of the send queue that the instruction holds (R214). -/
def sendTo (dest : Word) (pay : Pay) (s : State) : Res := .done (s.queueSend dest.toNat 0 0 pay)

/-- What send does once checked (R215). -/
def finSend (w ra rb rc : BitVec 4) : Eff := fun e s => sendTo (e.r ra) (.prog (e.r rb).toNat (e.rs rc w.toNat)) s
/-- Effect of send (R215). -/
def effSend (w ra rb rc : BitVec 4) : Eff := prepared (sendPrep ra rb) (finSend w ra rb rc)
/-- send (R215). -/
def execSend (la w ra rb rc : BitVec 4) (s : State) : Out :=
  .next (longPrep (.send la w ra rb rc) (sendPrep ra rb) (finSend w ra rb rc) s)

/-- The checks of sendl and its read of the payload, at issue (R215). -/
def sendlPrep (rd ra rb rc : BitVec 4) : Prepare := fun e s =>
  match s.sendChk (e.r ra) (e.r rb) with
  | some t => .error (t, s)
  | none =>
    let len := (e.r rd).toNat
    let a := e.r rc
    if len = 0 ∨ 256 < len ∨ len % 8 ≠ 0 then .error (tr cReservedField (e.r rd), s)
    else if a.toNat % 8 ≠ 0 then .error (tr cMisalign a, s)
    else if !inSp a len then .error (tr cTranslation a, s)
    else
      match s.readBytes a.toNat len with
      | .error x => .error x
      | .ok (bs, s) => withEntry (.shape bs) s
/-- What sendl does once checked (R215). -/
def finSendl (ra rb : BitVec 4) : Eff := fun e s =>
  match e.prep with
  | .entry (.shape bs) => sendTo (e.r ra) (.prog (e.r rb).toNat (wordsOf (bs.length / 8) bs)) s
  | _ => .wait false s
/-- Effect of sendl (R215). -/
def effSendl (rd ra rb rc : BitVec 4) : Eff := prepared (sendlPrep rd ra rb rc) (finSendl ra rb)
/-- sendl (R215). -/
def execSendl (la rd ra rb rc : BitVec 4) (s : State) : Out :=
  .next (longPrep (.sendl la rd ra rb rc) (sendlPrep rd ra rb rc) (finSendl ra rb) s)

/-- The checks of reply at issue (R216). -/
def replyPrep (i : Instr) (rb : BitVec 4) : Prepare := fun e s =>
  if !s.st.hnd then .error (tr cHandlerFault i.word, s)
  else if hndBad (e.r rb) then .error (tr cMisalign (e.r rb), s)
  else withEntry .checked s
/-- What reply does once checked (R216): to the source of the handler's message, on the reply network. DESIGN CHOICE (log 62): where the
source is a saddle, to which R213 addresses no program message, it goes there all the same, with no trap. -/
def finReply (w rb rc : BitVec 4) : Eff := fun e s =>
  .done (s.queueSend s.st.hsrc 1 0 (.prog (e.r rb).toNat (e.rs rc w.toNat)))
/-- Effect of reply (R216). -/
def effReply (la w rb rc : BitVec 4) : Eff := prepared (replyPrep (.reply la w rb rc) rb) (finReply w rb rc)
/-- reply (R216). -/
def execReply (la w rb rc : BitVec 4) (s : State) : Out :=
  .next (longPrep (.reply la w rb rc) (replyPrep (.reply la w rb rc) rb) (finReply w rb rc) s)

/-- What rsend does once checked (R217). -/
def finRsend (det : BitVec 1) (op : BitVec 2) (ra rb rc : BitVec 4) : Eff := fun e s =>
  let v := e.r (rc + 1)
  sendTo (e.r ra) (.red (e.r rb).toNat (e.r rc) op.toNat (det == 1) (if op = 2 then (v.setWidth 32).setWidth 64 else v) 1) s
/-- Effect of rsend (R217). -/
def effRsend (det : BitVec 1) (op : BitVec 2) (ra rb rc : BitVec 4) : Eff := prepared (sendPrep ra rb) (finRsend det op ra rb rc)
/-- rsend (R217). -/
def execRsend (la : BitVec 4) (det : BitVec 1) (op : BitVec 2) (ra rb rc : BitVec 4) (s : State) : Out :=
  .next (longPrep (.rsend la det op ra rb rc) (sendPrep ra rb) (finRsend det op ra rb rc) s)

/-- A handler's held entries leave (R219): an atomic on the scratchpad is applied now (R223), its failure is logged only. -/
def State.releaseHeld (s : State) : State :=
  let mine := s.me.sendq.filter fun e => e.held && e.ctx == s.ctx
  let s := mine.foldl (fun s e =>
    match e.pay with
    | .atomReq pa va op b c _ =>
      if isSpPa pa then
        let ga := s.globalOf s.core pa
        match s.applyAtom ga va op b c with
        | (.error t, s) => s.logErr (respOf ga) t
        | (.ok _, s) => s
      else s
    | _ => s) s
  let local? (e : SqEnt) : Bool := match e.pay with
    | .atomReq pa _ _ _ _ _ => isSpPa pa
    | _ => false
  s.modMe fun k => { k with sendq := (k.sendq.filter fun e => !(e.held && e.ctx == s.ctx && local? e)).map fun e =>
    if e.held && e.ctx == s.ctx then { e with held := false, ctx := 1000 } else e }

/-- The head message of a queue leaves it: its slot is free. -/
def Core.popMsg (k : Core) (q : Nat) : Core :=
  let r := k.queue q
  { k with rq := fset k.rq q { r with msgs := r.msgs.drop 1 } }

/-- Effect of hret (R219). -/
def effHret : Eff := fun _ => afterPend fun s =>
  if !s.st.hnd then .trap (tr cHandlerFault Instr.hret.word) s
  else afterAcks (fun s =>
    let q := s.st.hq
    .gone ((s.releaseHeld.modMe fun k => k.popMsg q).freeCtx s.core s.ctx)) s
/-- hret (R219). -/
def execHret (s : State) : Out := .next (longOp .hret effHret s)

/-- A handler of queue q runs on the core (R218). -/
def Core.handling (k : Core) (q : Nat) : Bool := k.ctxs.any fun e => e.2.hnd && e.2.hq == q

/-- Effect of mpoll (R221). -/
def effMpoll (rd ra q : BitVec 4) : Eff := fun e s =>
  let a := e.r ra
  if a.toNat % 16 ≠ 0 then .trap (tr cMisalign a) s
  else
    match s.me.handling q.toNat, (s.me.queue q.toNat).msgs with
    | false, m :: _ =>
      let bs := leBytes 8 m.hdr0.toNat ++ leBytes 8 m.hdr1.toNat ++ m.ws.flatMap fun w => leBytes 8 w.toNat
      if !inSp a bs.length then .trap (tr cTranslation a) s
      else writeVa a.toNat bs (fun s => .done ((s.modMe fun k => k.popMsg q.toNat).setG rd (w64 (8 * m.ws.length)))) s
    | _, _ => .done (s.setG rd 0xFFFFFFFFFFFFFFFF)
/-- mpoll (R221). -/
def execMpoll (la rd ra q : BitVec 4) (s : State) : Out := .next (longOp (.mpoll la rd ra q) (effMpoll rd ra q) s)

/-! ### Steps of the network -/
/-- SEND_QUEUE_ACCEPT (R214): the network accepts the oldest entry that is not held. -/
def execSendQueueAccept (core : Nat) (s : State) : Out :=
  .next (
    let k := s.coreAt core
    match k.sendq.findIdx? fun e => !e.held with
    | none => s
    | some i =>
      match k.sendq[i]? with
      | none => s
      | some e =>
        if k.frozen then s
        else
          let s := s.modCore core fun k => { k with sendq := dropAt k.sendq i }
          match e.pay with
          | .red .. =>
            { s with net := s.net ++ [{ src := core, dst := e.dst, net := e.net, seq := 0, ctx := e.ctx, lix := e.lix,
                                        tag := e.tag, pay := e.pay }] }
          | .atomReq .. =>
            let f : Flight := { src := core, dst := e.dst, net := e.net, seq := s.nextSeq core e.dst e.net, ctx := e.ctx,
                                lix := e.lix, tag := e.tag, pay := e.pay }
            (s.post core e.dst e.net e.ctx e.lix e.tag e.pay).modCore core fun k =>
              { k with outst := k.outst ++ [{ flight := f, order := e.tag }] }
          | _ => s.post core e.dst e.net e.ctx e.lix e.tag e.pay)

/-- The first doubleword of a message header (R213). -/
def msgHdr (seq words net : Nat) (lix : Option Nat) (red : Bool) (src : Nat) : Word :=
  w64 (seq * 2 ^ 48 + words * 2 ^ 40 + net * 2 ^ 37 +
    (match lix with | some l => l % 256 * 2 ^ 29 + 2 ^ 28 | none => 0) + (if red then 2 ^ 20 else 0) + src)
/-- Where the next slot of n lines begins (R213), when its lines are free. -/
def RQueue.slot (q : RQueue) (lines n : Nat) : Option Nat :=
  let at' := if q.next + n ≤ lines then q.next else 0
  if n ≤ lines ∧ (q.msgs.any fun m => decide (at' < m.line + m.n) && decide (m.line < at' + n)) = false then some at' else none
/-- Write a message whole into its slot (R213). -/
def State.deliverMsg (s : State) (c q at' n : Nat) (m : RMsg) : State :=
  let r := s.queueRegion c q
  let bs := leBytes 8 m.hdr0.toNat ++ leBytes 8 m.hdr1.toNat ++ m.ws.flatMap fun w => leBytes 8 w.toNat
  let a := spBase (s.spireOf c) + r.base + 64 * at'
  let s := (((s.power a).cleared a bs.length).poke a bs).modCore c fun k =>
    let rq := k.queue q
    { k with rq := fset k.rq q { next := at' + n, msgs := rq.msgs ++ [m] } }
  s.wakeCore c

/-- MESSAGE_DELIVERY (R212, R213): a program message is written into the next slot of its receive queue, in sequence order; it
waits while the slot's lines are not free. A core that has left service answers LINK_DOWN (R364). -/
def execMessageDelivery (k : Nat) (s : State) : Out :=
  .next (match s.net[k]? with
    | none => s
    | some f =>
      let c := s.coreAt f.dst
      let body := match f.pay with
        | .prog h ws => some (h, ws, false)
        | .red h key _ _ v n => some (h, [key, v, n], true)
        | _ => none
      match body with
      | none => s
      | some (h, ws, red) =>
        if !f.hops.isEmpty || c.frozen || (!red && !s.inOrder f) then s
        else
          let go (s : State) : State := if red then { s with net := dropAt s.net k } else s.take k f
          if s.unreachable f || s.badSaddle f.dst then (go s).logAt f.dst cLinkDown f.dst (s.launchId f.lix) f.src
          else
            let n := (16 + 8 * ws.length + 63) / 64
            match (c.queue f.net).slot ((s.queueRegion f.dst f.net).size / 64) n with
            | none => s
            | some at' =>
              (go s).deliverMsg f.dst f.net at' n
                { line := at', n := n, hdr0 := msgHdr (if red then 0 else f.seq) ws.length f.net f.lix red f.src,
                  hdr1 := w64 h, ws := ws, held := false, lix := f.lix })

/-- A handler begins in a context for the message at the head of queue q (R218). -/
def State.beginHandler (s : State) (core q ctx : Nat) (m : RMsg) : State :=
  let off := (s.queueRegion core q).base + 64 * m.line + 16
  let src := bitsOf m.hdr0 19 0
  s.setStrand core ctx { life := .ready, g := fset (fset [] 1 (w64 off)) 2 (w64 src), hnd := true,
                         pc := m.hdr1.setWidth 48, lix := m.lix, since := s.tick, hq := q, hsrc := src }
/-- HANDLER_START (R218): the head message of queue q starts its handler in context ctx; a cache message that an abort has returned
without a slot is served by its cache step alone (log 40). -/
def execHandlerStart (core q ctx : Nat) (s : State) : Out :=
  .next (
    let k := s.coreAt core
    match (k.queue q).msgs with
    | [] => s
    | m :: _ =>
      if m.held || m.n == 0 || m.hdr1 == 0 || k.handling q || (s.strandAt core ctx).life != .free || k.frozen || k.leader.isSome then s
      else s.beginHandler core q ctx m)

/-- The merged value of two reduction packets (R217). -/
def mergeVal (op : Nat) (a b : Word) : Word :=
  match op with
  | 0 => a + b
  | 1 => w64 (addC fp64 a.toNat b.toNat).1
  | _ => w64 (addC fp32 (a.toNat % 2 ^ 32) (b.toNat % 2 ^ 32)).1

/-- The strands whose packets a message carries (R217): core, context. -/
def Flight.senders (f : Flight) : List (Nat × Nat) := if f.merged.isEmpty then [(f.src, f.ctx)] else f.merged
/-- REDUCTION_PACKET_MERGE (R217, R393): packet k merges into packet j that waits in the same queue; packets of two packages do not
meet before one of them has crossed a Deleus link. -/
def execReductionPacketMerge (j k : Nat) (s : State) : Out :=
  .next (match s.net[j]?, s.net[k]? with
    | some a, some b =>
      match a.pay, b.pay with
      | .red h key op det v n, .red h' key' op' det' v' n' =>
        if j ≠ k ∧ a.dst = b.dst ∧ pkgOf a.src = pkgOf b.src ∧ h = h' ∧ key = key' ∧ op = op' ∧ a.lix = b.lix ∧ det = false ∧ det' = false then
          let m : Flight := { a with src := Nat.min a.src b.src, merged := a.senders ++ b.senders, pay := .red h key op false (mergeVal op v v') (n + n') }
          { s with net := dropAt (setAt s.net j m) k }
        else s
      | _, _ => s
    | _, _ => s)

/-! ### Streams (R248, R249) -/
/-- Effect of strm.open (R248). -/
def effStrmOpen (ra : BitVec 4) : Eff := fun e s =>
  let d := e.r ra
  if !s.destOk d then .trap (tr cMsgDest d) s
  else if 2 ≤ s.me.ports.length ∨ s.me.ports.contains d.toNat then .trap (tr cStreamState d) s
  else .done (s.modMe fun k => { k with ports := k.ports ++ [d.toNat] })
/-- strm.open (R248). -/
def execStrmOpen (la ra : BitVec 4) (s : State) : Out := .next (longOp (.strmOpen la ra) (effStrmOpen ra) s)
/-- Effect of strm.close (R249): the port closes behind the messages queued for it. -/
def effStrmClose (ra : BitVec 4) : Eff := fun e s =>
  let d := e.r ra
  if s.me.ports.contains d.toNat && decide (d.toNat < 2 ^ 20) then .done (s.modMe fun k => { k with ports := k.ports.erase d.toNat })
  else .trap (tr cStreamState d) s
/-- strm.close (R249). -/
def execStrmClose (la ra : BitVec 4) (s : State) : Out := .next (longOp (.strmClose la ra) (effStrmClose ra) s)

end Sys2Proof.Machine
end

