-- ==== Sys2Proof/Machine/Sync.lean ====
section
/-! DEFINITION. Barriers, semaphores, event counters, fence, the bind table (R226 to R238). -/

namespace Sys2Proof.Machine
open Sys2Proof

/-! ### Barriers (R226 to R231) -/
/-- Count the held arrivals that the current phase takes, in arrival order (R228): the barrier, and of the local ones counted the context,
the tag and the parity of the phase they joined. -/
def Bar.feed : List Arrival → Bar → Bar × List (Nat × Nat × Bool)
  | [], b => ({ b with heldArr := [] }, [])
  | a :: r, b =>
    if b.arrived = b.target then ({ b with heldArr := a :: r }, [])
    else
      let x := Bar.feed r { b with arrived := b.arrived + 1, flags := b.flags ||| a.flags }
      (x.1, (match a.who with
        | some w => [(w.1, w.2, b.phase)]
        | none => []) ++ x.2)
/-- Complete phases while arrived = target and xbytes = 0 (R226), with fuel for the held arrivals; whether one completed, and the local
arrivals counted. -/
def Bar.run : Nat → Bar → Bar × Bool × List (Nat × Nat × Bool)
  | 0, b => (b, false, [])
  | k + 1, b =>
    if b.target ≠ 0 ∧ b.arrived = b.target ∧ b.xbytes = 0 ∧ b.broken = false then
      let f := Bar.feed b.heldArr { b with phase := !b.phase, arrived := 0 }
      let r := Bar.run k f.1
      (r.1, true, f.2 ++ r.2.2)
    else (b, false, [])
/-- One arrival with its flags: held when arrived already equals target. -/
def Bar.arrive (b : Bar) (f : BitVec 5) : Bar :=
  if b.arrived = b.target then { b with heldArr := b.heldArr ++ [{ flags := f }] }
  else { b with arrived := b.arrived + 1, flags := b.flags ||| f }
/-- The local arrivals that a barrier holds, with its parity: what they receive when it breaks (R228). -/
def Bar.locals (b : Bar) : List (Nat × Nat × Bool) := b.heldArr.filterMap fun a => a.who.map fun w => (w.1, w.2, b.phase)
/-- Barrier n of core c. -/
def State.bar (s : State) (c n : Nat) : Bar := fget {} (s.coreAt c).bars n
/-- A strand whose wait is over is ready (R226, R230, R276). -/
def Strand.met (t : Strand) (now : Nat) : Strand :=
  { t with waitBar := none, waitEv := none, cond := true, life := .ready, since := if t.life = .ready then t.since else now }
/-- The strands of core c, parked ones included, of which p holds have what they wait for. -/
def State.meet (s : State) (c : Nat) (p : Strand → Bool) : State :=
  s.modCore c fun k => { k with
    ctxs := k.ctxs.map fun (e : Nat × Strand) => if p e.2 then (e.1, e.2.met s.tick) else e
    parked := k.parked.map fun e => if p e.strand then { e with strand := e.strand.met s.tick } else e }
/-- A local arrival that waited is over (R228): the instruction of context w.1 with tag w.2.1 receives its parity and completes. -/
def State.arrived (s : State) (c : Nat) (w : Nat × Nat × Bool) : State :=
  match (s.strandAt c w.1).pend.find? fun p => p.tag == some w.2.1 with
  | none => s
  | some p =>
    let u := match p.instr with
      | .barArr _ rd _ _ => { s with core := c, ctx := w.1 }.setG rd (b2w w.2.2)
      | _ => s
    { u.completed c w.1 p.order with core := s.core, ctx := s.ctx }
/-- Change a barrier, complete its phases, and wake the core when one completed or the barrier broke (R146); every strand that waits
on it when a phase completes is ready (R226), and the local arrivals that the next phase counts, or that find it broken, complete
(R228). -/
def State.barUpd (s : State) (c n : Nat) (f : Bar → Bar) : State :=
  let b := s.bar c n
  let a := f b
  let r := a.run (a.heldArr.length + 2)
  let s := s.modCore c fun k => { k with bars := fset k.bars n r.1 }
  if r.2.1 then r.2.2.foldl (fun s w => s.arrived c w) ((s.meet c fun t => t.waitBar == some n).wakeCore c)
  else if a.broken = true ∧ b.broken = false then
    a.locals.foldl (fun s w => s.arrived c w)
      ((s.modCore c fun k => { k with bars := fset k.bars n { a with heldArr := a.heldArr.filter fun h => h.who.isNone } }).wakeCore c)
  else s
/-- An arrival that never waits (R228, R234, R281): lost and logged at an uninitialised barrier, no effect at a broken one. -/
def State.arriveAt (s : State) (c n : Nat) (f : BitVec 5) (launch src : Nat) : State :=
  let b := s.bar c n
  if b.target = 0 then s.logAt c cBarrierState n launch src
  else if b.broken then s
  else s.barUpd c n fun b => b.arrive f

/-- The object word of a barrier (R237). -/
def barObj (c n : Nat) : Word := w64 (2 ^ 63 + c * 256 + n)

/-- The object of an engine operation. -/
def EngOp.obj (o : EngOp) : Obj :=
  match o.job with
  | .copy _ _ b _ _ _ => b
  | .deal _ _ _ _ b _ => b
  | _ => {}
/-- A copy or deal bound to barrier n of core c has not finished (R227): in an engine, or on its way to the host link. -/
def State.boundPending (s : State) (c n : Nat) : Bool :=
  (s.cores.any fun e => e.2.eng.any fun o =>
    o.obj.bk == 1 && o.obj.num == n &&
      match o.job with
      | .deal _ a b len _ line => (dealLeft b len line).any fun k => dealDest e.1 a k == c
      | _ => o.obj.core == c) ||
  s.net.any fun f => match f.pay with
    | .hostWr _ _ _ bk num core _ => bk == 1 && num == n && core == c
    | _ => false
/-- A strand of the core waits on barrier n. -/
def Core.waitsOn (k : Core) (n : Nat) : Bool :=
  (k.ctxs.any fun e => e.2.waitBar == some n) || k.parked.any fun p => p.strand.waitBar == some n

/-- Effect of bar.init (R227). -/
def effBarInit (ra : BitVec 4) (n : BitVec 8) : Eff := fun e s =>
  let b := s.bar s.core n.toNat
  let v := e.r ra
  if s.boundPending s.core n.toNat then .wait false s
  else if b.arrived ≠ 0 ∨ s.me.waitsOn n.toNat = true then .trap (tr cBarrierState (n.setWidth 64)) s
  else if v = 0 ∨ 0xFFFF < v.toNat then .trap (tr cReservedField v) s
  else .done (s.modMe fun k => { k with bars := fset k.bars n.toNat { target := v.setWidth 16 } })
/-- bar.init (R227). -/
def execBarInit (la ra : BitVec 4) (n : BitVec 8) (s : State) : Out :=
  .next (longOp (.barInit la ra n) (effBarInit ra n) s)

/-- A local arrival (R228); one that finds the phase full waits among the barrier's held arrivals until it is counted. -/
def arriveLocal (i : Instr) (rd : BitVec 4) (n tag : Nat) (s : State) : Res :=
  let b := s.bar s.core n
  if b.target = 0 then .trap (tr cBarrierState (w64 n)) s
  else if s.releaseWaits tag (barObj s.core n) then .wait false s
  else if b.broken then .done (s.setG rd (b2w b.phase))
  else if b.arrived = b.target then
    if s.st.hnd then .trap (tr cHandlerFault i.word) s
    else .sent false (s.modMe fun k => { k with
      bars := fset k.bars n { b with heldArr := b.heldArr ++ [{ flags := s.st.flags, who := some (s.ctx, tag) }] } })
  else
    let f := s.st.flags
    .done ((s.barUpd s.core n fun b => b.arrive f).setG rd (b2w b.phase))
/-- A remote arrival (R228): a message on the control network. -/
def arriveRemote (rd : BitVec 4) (n tag : Nat) (d : Word) (s : State) : Res :=
  if s.releaseWaits tag (barObj d.toNat n) then .wait false s
  else .done ((s.queueSend d.toNat 4 0 (.barArr n s.st.flags)).setG rd 0)
/-- A core to which a core may arrive remotely (R228): a stage or compute core of its valley. -/
def scopeOk (c : Nat) (d : Word) : Bool :=
  !isSaddle c && decide (d.toNat < 2 ^ 20) && d.toNat % 2 == 0 && !isSaddle d.toNat && valleyOf d.toNat == valleyOf c
/-- bar.arr at issue: a remote one is checked, and holds an entry of the send queue from then on (R214, R228). -/
def barArrPrep (ra : BitVec 4) : Prepare := fun e s =>
  if ra = 0 then .ok (.checked, s)
  else if !scopeOk s.core (e.r ra) then .error (tr cBarrierScope (e.r ra), s)
  else withEntry .checked s
/-- What bar.arr does (R228): it waits for the strand's earlier pending instructions, those of its own unit before it in order (R91). -/
def finBarArr (la rd ra : BitVec 4) (n : BitVec 8) : Eff := fun e s =>
  if s.st.pend.any fun p => decide (p.order < e.tag) && p.trap.isNone then .wait false s
  else afterAcks (fun s =>
    if ra = 0 then arriveLocal (.barArr la rd ra n) rd n.toNat e.tag s else arriveRemote rd n.toNat e.tag (e.r ra) s) s
/-- Effect of bar.arr (R228). -/
def effBarArr (la rd ra : BitVec 4) (n : BitVec 8) : Eff := prepared (barArrPrep ra) (finBarArr la rd ra n)
/-- bar.arr (R228). -/
def execBarArr (la rd ra : BitVec 4) (n : BitVec 8) (s : State) : Out :=
  .next (longPrep (.barArr la rd ra n) (barArrPrep ra) (finBarArr la rd ra n) s)

/-- Effect of bar.exp (R229). -/
def effBarExp (ra : BitVec 4) (n : BitVec 8) : Eff := fun e s =>
  let v := e.r ra
  if 2 ^ 31 ≤ v.toNat then .trap (tr cReservedField v) s
  else if (s.bar s.core n.toNat).target = 0 then .trap (tr cBarrierState (n.setWidth 64)) s
  else .done (s.barUpd s.core n.toNat fun b => { b with xbytes := b.xbytes + v.setWidth 32 })
/-- bar.exp (R229). -/
def execBarExp (la ra : BitVec 4) (n : BitVec 8) (s : State) : Out := .next (longOp (.barExp la ra n) (effBarExp ra n) s)

/-- Effect of bar.wait (R230): it is over when the phase on which it waited has completed (R226), whatever has followed. DEDUCED: in a
handler HANDLER_FAULT comes before its other own conditions, whose order the spec leaves open (log 24). -/
def effBarWait (ra : BitVec 4) (n : BitVec 8) : Eff := fun e => afterPend fun s =>
  let b := s.bar s.core n.toNat
  let v := e.r ra
  if s.st.cond then .done s
  else if s.st.hnd then .trap (tr cHandlerFault (Instr.barWait ra n).word) s
  else if 1 < v.toNat then .trap (tr cReservedField v) s
  else if b.target = 0 then .trap (tr cBarrierState (n.setWidth 64)) s
  else if b.broken then
    .trap { code := cBarrierBroken, info := w64 (b.xbytes.toNat * 2 ^ 32 + n.toNat), dfr := true } s
  else if b2w b.phase ≠ v then .done s
  else .wait true (s.modSt fun t => { t with waitBar := some n.toNat })
/-- bar.wait (R230). -/
def execBarWait (ra : BitVec 4) (n : BitVec 8) (s : State) : Out := .next (longOp (.barWait ra n) (effBarWait ra n) s)

/-- Effect of bar.test (R231). -/
def effBarTest (rd : BitVec 4) (n : BitVec 8) : Eff := fun _ s =>
  let b := s.bar s.core n.toNat
  .done (s.setG rd (w64 (b.xbytes.toNat * 2 ^ 32 + b.arrived.toNat * 65536 + b.broken.toNat * 2 + b.phase.toNat)))
/-- bar.test (R231). -/
def execBarTest (la rd : BitVec 4) (n : BitVec 8) (s : State) : Out := .next (longOp (.barTest la rd n) (effBarTest rd n) s)

/-- Effect of bar.flags (R231). -/
def effBarFlags (rd : BitVec 4) (n : BitVec 8) : Eff := fun _ s =>
  .done (s.setG rd ((s.bar s.core n.toNat).flags.setWidth 64))
/-- bar.flags (R231). -/
def execBarFlags (la rd : BitVec 4) (n : BitVec 8) (s : State) : Out := .next (longOp (.barFlags la rd n) (effBarFlags rd n) s)

/-- REMOTE_BARRIER_ARRIVAL (R228, R281). -/
def execRemoteBarrierArrival (k : Nat) (s : State) : Out :=
  .next (match s.arriving k with
    | none => s.bounced k
    | some f =>
      match f.pay with
      | .barArr n fl => (s.take k f).arriveAt f.dst n fl (s.launchId f.lix) f.src
      | _ => s)

/-! ### Semaphores (R232) -/
/-- Add to semaphore n of a spire, saturating; a wake event of the spire (R146). -/
def State.semAdd (s : State) (p n a : Nat) : State :=
  (s.modSpire p fun k => { k with hs := fsetD 0 k.hs n (BitVec.ofNat 16 (Nat.min ((fget 0 k.hs n).toNat + a) 0xFFFF)) }).wakeSpire p
/-- Effect of sem.post (R232): after the strand's earlier scratchpad writes. -/
def effSemPost (ra : BitVec 4) (n : BitVec 8) : Eff := fun e s =>
  let a := (e.r ra).toNat
  if 0xFFFF < a then .trap (tr cReservedField (e.r ra)) s
  else if a = 0 then .done s
  else if s.busyBefore e.tag || s.writing e.tag fun g => isSpVa g.va then .wait false s
  else .done (s.semAdd s.mySpire n.toNat a)
/-- sem.post (R232). -/
def execSemPost (la ra : BitVec 4) (n : BitVec 8) (s : State) : Out := .next (longOp (.semPost la ra n) (effSemPost ra n) s)

/-- A take of semaphore n waits before the first of (core, context, tag). -/
def takeBefore (core ctx tag n : Nat) : List SemWait → Bool
  | [] => false
  | w :: r => if w.core == core && w.ctx == ctx && w.tag == tag then false else w.n == n || takeBefore core ctx tag n r
/-- The first take of (core, context, tag) leaves the queue. -/
def dropTake (core ctx tag : Nat) : List SemWait → List SemWait
  | [] => []
  | w :: r => if w.core == core && w.ctx == ctx && w.tag == tag then r else w :: dropTake core ctx tag r
/-- sem.take at issue (R232): its checks, HANDLER_FAULT first (DEDUCED, log 24), and its place among the takes of the spire, which are served in
the order they issued. One that is issued again has its place already: the strand's takes at that pc are no more than those pending. -/
def semTakePrep (la ra : BitVec 4) (n : BitVec 8) : Prepare := fun e s =>
  let a := (e.r ra).toNat
  if s.st.hnd then .error (tr cHandlerFault (Instr.semTake la ra n).word, s)
  else if 0xFFFF < a then .error (tr cReservedField (e.r ra), s)
  else if a = 0 then .ok (.checked, s)
  else
    let me (w : SemWait) : Bool := w.core == s.core && w.ctx == s.ctx && w.tag == e.pc.toNat
    let mine := (s.st.pend.filter fun p => p.pc == e.pc && p.unit == 5).length
    if mine < (s.sp.semq.filter me).length then .ok (.checked, s)
    else .ok (.checked, s.modSp fun k => { k with semq := k.semq ++
      [{ core := s.core, ctx := s.ctx, tag := e.pc.toNat, n := n.toNat, amount := a }] })
/-- What sem.take does (R232): it waits for its turn and for the amount, and takes it. -/
def finSemTake (ra : BitVec 4) (n : BitVec 8) : Eff := fun e s =>
  let a := (e.r ra).toNat
  let v := (fget 0 s.sp.hs n.toNat).toNat
  if a = 0 then .done s
  else if takeBefore s.core s.ctx e.pc.toNat n.toNat s.sp.semq = false ∧ a ≤ v then
    .done (s.modSp fun k => { k with hs := fsetD 0 k.hs n.toNat (BitVec.ofNat 16 (v - a))
                                     semq := dropTake s.core s.ctx e.pc.toNat k.semq })
  else .wait true s
/-- Effect of sem.take (R232): in a handler HANDLER_FAULT comes first (DEDUCED, log 24). -/
def effSemTake (la ra : BitVec 4) (n : BitVec 8) : Eff := prepared (semTakePrep la ra n) (finSemTake ra n)
/-- sem.take (R232). -/
def execSemTake (la ra : BitVec 4) (n : BitVec 8) (s : State) : Out :=
  .next (longPrep (.semTake la ra n) (semTakePrep la ra n) (finSemTake ra n) s)

/-! ### Event counters (R233 to R235) -/
/-- Counter n of core c. -/
def State.ec (s : State) (c n : Nat) : Word := fget 0 (s.coreAt c).ecs n
/-- Insert by ascending threshold, behind equal ones (R235). -/
def insArm (a : Armed) : List Armed → List Armed
  | [] => [a]
  | b :: r => if a.thr.toNat < b.thr.toNat then a :: b :: r else b :: insArm a r
def sortArm (l : List Armed) : List Armed := l.foldl (fun r a => insArm a r) []
/-- Fire one operation (R234): a counter it adds to is left for later (R235). DESIGN CHOICE (log 62): the log entry of an arrival at an
uninitialised barrier names launch 0 and the core itself as its source. -/
def State.fire (s : State) (c : Nat) (a : Armed) : State :=
  let s := s.wakeCore c
  match a.kind with
  | 1 => s.semAdd (s.spireOf c) a.arg 1
  | 2 => s.arriveAt c a.arg 0 0 c
  | _ => s
/-- Counter n of core c has been updated (R276): the strands of the core that wait for its value, or for less, have what they wait
for. -/
def State.ecMeet (s : State) (c n : Nat) : State :=
  let p (t : Strand) : Bool := match t.waitEv with
    | some (m, thr) => m == n && decide (thr.toNat ≤ (s.ec c n).toNat)
    | none => false
  if ((s.coreAt c).ctxs.any fun e => p e.2) || (s.coreAt c).parked.any fun e => p e.strand then s.meet c p else s
/-- Apply an update of counter n from v to u, passing the thresholds t with v < t ≤ top, and then the updates its kind 3
firings make, each by the same rule; fuel bounds them by the armed operations. -/
def State.ecRun : Nat → Nat → List (Nat × Option Word) → State → State
  | 0, _, _, s => s
  | _, _, [], s => s
  | k + 1, c, (n, set) :: r, s =>
    let v := s.ec c n
    let u := set.getD (v + 1)
    let top := match set with
      | some u => u.toNat
      | none => v.toNat + 1
    let hit := sortArm ((s.coreAt c).armed.filter fun a => a.ec == n && decide (v.toNat < a.thr.toNat) && decide (a.thr.toNat ≤ top))
    let s := s.modCore c fun k => { k with ecs := fsetD 0 k.ecs n u, armed := k.armed.filter fun a => !hit.contains a }
    let s := s.ecMeet c n
    let s := hit.foldl (fun s a => s.fire c a) s
    State.ecRun k c (r ++ (hit.filter fun a => a.kind == 3).map fun a => (a.arg, none)) s
/-- Add d to a counter, exactly (R233). -/
def State.ecAdd (s : State) (c n : Nat) (d : Word) : State :=
  let v := s.ec c n
  let top := v.toNat + d.toNat
  let hit := sortArm ((s.coreAt c).armed.filter fun a => a.ec == n && decide (v.toNat < a.thr.toNat) && decide (a.thr.toNat ≤ top))
  let s := s.modCore c fun k => { k with ecs := fsetD 0 k.ecs n (v + d), armed := k.armed.filter fun a => !hit.contains a }
  let s := s.ecMeet c n
  let s := hit.foldl (fun s a => s.fire c a) s
  State.ecRun 40 c ((hit.filter fun a => a.kind == 3).map fun a => (a.arg, none)) s
/-- Write a counter (R233). -/
def State.ecPut (s : State) (c n : Nat) (u : Word) : State := State.ecRun 40 c [(n, some u)] s

/-- Effect of ec.set (R233). -/
def effEcSet (ra : BitVec 4) (n : BitVec 8) : Eff := fun e s => .done (s.ecPut s.core n.toNat (e.r ra))
/-- ec.set (R233). -/
def execEcSet (la ra : BitVec 4) (n : BitVec 8) (s : State) : Out := .next (longOp (.ecSet la ra n) (effEcSet ra n) s)
/-- Effect of ec.inc (R233). -/
def effEcInc (ra : BitVec 4) (n : BitVec 8) : Eff := fun e s => .done (s.ecAdd s.core n.toNat (e.r ra))
/-- ec.inc (R233). -/
def execEcInc (la ra : BitVec 4) (n : BitVec 8) (s : State) : Out := .next (longOp (.ecInc la ra n) (effEcInc ra n) s)
/-- Effect of ec.rd (R233). -/
def effEcRd (rd : BitVec 4) (n : BitVec 8) : Eff := fun _ s => .done (s.setG rd (s.ec s.core n.toNat))
/-- ec.rd (R233). -/
def execEcRd (la rd : BitVec 4) (n : BitVec 8) (s : State) : Out := .next (longOp (.ecRd la rd n) (effEcRd rd n) s)

/-- The operation word of ec.arm is legal on a core (R234). -/
def armOk (w : Word) (saddle : Bool) : Bool :=
  let kind := bitsOf w 1 0
  let arg := bitsOf w 15 8
  bitsOf w 63 16 == 0 && bitsOf w 7 2 == 0 &&
    (if kind = 0 then true else if kind = 1 then decide (arg < 16) && !saddle else if kind = 2 then true else decide (arg < 64))
/-- Effect of ec.arm (R234): an operation whose threshold is not above the counter fires at once. DESIGN CHOICE (log 61): with 16
operations armed it traps with EC_ARM_FULL, also where it would fire at once. -/
def effEcArm (rd ra : BitVec 4) (n : BitVec 8) : Eff := fun e s =>
  let w := e.r rd
  if !armOk w (isSaddle s.core) then .trap (tr cReservedField w) s
  else if 16 ≤ s.me.armed.length then .trap (tr cEcArmFull (n.setWidth 64)) s
  else
    let a : Armed := { ec := n.toNat, thr := e.r ra, kind := bitsOf w 1 0, arg := bitsOf w 15 8 }
    if (e.r ra).toNat ≤ (s.ec s.core n.toNat).toNat then
      let s := s.fire s.core a
      .done (if a.kind = 3 then State.ecRun 40 s.core [(a.arg, none)] s else s)
    else .done (s.modMe fun k => { k with armed := k.armed ++ [a] })
/-- ec.arm (R234). -/
def execEcArm (la rd ra : BitVec 4) (n : BitVec 8) (s : State) : Out := .next (longOp (.ecArm la rd ra n) (effEcArm rd ra n) s)

/-! ### Fence (R236) -/
/-- A host-window write of a copy counts for a fence: at scope system every one, else those of copies not bound to a barrier (R236,
R324). -/
def fenceHost (sys : Bool) (bk : Nat) : Bool := sys || bk != 1
/-- Messages of the strand that core c knows as x not yet whole at their destination: in the send queue, or in the network, merged
packets included. -/
def State.msgBusy (s : State) (c x : Nat) (sys : Bool) : Bool :=
  ((s.coreAt c).sendq.any fun e => !e.held && e.ctx == x) ||
    s.net.any fun f =>
      match f.pay with
      | .red .. => f.senders.contains (c, x)
      | .prog .. => f.src == c && f.ctx == x
      | .atomReq .. => f.src == c && f.ctx == x
      | .barArr .. => f.src == c && f.ctx == x
      | .hostWr _ _ _ bk _ _ _ => f.src == c && f.ctx == x && fenceHost sys bk
      | _ => false
/-- Engine work of that strand that the fence waits for: all but copies and deals bound to a barrier, and at scope system those too that
write the host window (R236, R324). -/
def State.fenceBusy (s : State) (c x : Nat) (sys : Bool) : Bool :=
  (s.coreAt c).eng.any fun o => o.mine x &&
    (o.obj.bk != 1 || (sys && (s.engDst c o).any fun g => isHostPa (g.ga % 2 ^ 52) && decide (g.ga < 2 ^ 60)))
/-- The scope of a fence (R236): n, or dflt.fscope for the basic form. -/
def fenceScope (s : State) (n : BitVec 8) : Nat := if n = 255 then bitsOf s.me.dflt 31 29 else n.toNat
/-- Effect of fence (R236): every access is performed at once with respect to every core, so of the scopes only system makes a
difference, at which the host link's writes are flushed (R324, log 18). It waits for what the strand has to do on every core it has
been on. -/
def effFence (n : BitVec 8) : Eff := fun _ => afterPend fun s =>
  let sys := decide (fenceScope s n = 5)
  if s.places.any fun e => s.unacked e.1 e.2 || s.msgBusy e.1 e.2 sys || s.fenceBusy e.1 e.2 sys then .wait false s
  else
    match s.report fun k => k != 3 with
    | some (t, s) => .trap t s
    | none => .done s
/-- fence (R236). -/
def execFence (n : BitVec 8) (s : State) : Out := .next (longOp (.fence n) (effFence n) s)

/-! ### The bind table (R237, R238) -/
/-- An object word is well formed (R237). -/
def objOk (w : Word) : Bool :=
  bitsOf w 62 48 == 0 && (if w.getLsbD 63 then bitsOf w 47 28 == 0 else bitsOf w 2 0 == 0)
/-- Effect of bind (R238). -/
def effBind (ra rb rc : BitVec 4) : Eff := fun e s =>
  let base := (e.r ra).toNat
  let len := (e.r rb).toNat
  if len = 0 then .trap (tr cReservedField (e.r rb)) s
  else if !objOk (e.r rc) then .trap (tr cReservedField (e.r rc)) s
  else if 32 ≤ s.me.binds.length then .trap (tr cBindFull (e.r ra)) s
  else if s.me.binds.any fun b => b.lix == s.st.lix && decide (base < b.base + b.len) && decide (b.base < base + len) then
    .trap (tr cSyncState (e.r ra)) s
  else .done (s.modMe fun k => { k with binds := k.binds ++ [{ base := base, len := len, obj := e.r rc, lix := s.st.lix }] })
/-- bind (R238). -/
def execBind (la ra rb rc : BitVec 4) (s : State) : Out := .next (longOp (.bind la ra rb rc) (effBind ra rb rc) s)
/-- Effect of unbind (R238). -/
def effUnbind (ra : BitVec 4) : Eff := fun e s =>
  let me (b : BindEnt) : Bool := b.lix == s.st.lix && b.base == (e.r ra).toNat
  if s.me.binds.any me then .done (s.modMe fun k => { k with binds := k.binds.filter fun b => !me b })
  else .trap (tr cSyncState (e.r ra)) s
/-- unbind (R238). -/
def execUnbind (la ra : BitVec 4) (s : State) : Out := .next (longOp (.unbind la ra) (effUnbind ra) s)

end Sys2Proof.Machine
end

