-- ==== Sys2Proof/Machine/Copy.lean ====
section
/-! DEFINITION. Tensor shape records, copies, the distributor, and what the engines perform (R199, R242 to R245, R268, R269,
R201, R262, R263, R308, R309, R324). -/

namespace Sys2Proof.Machine
open Sys2Proof

/-! ### Tensor shape records (R199) -/
/-- A parsed shape record. -/
structure Shape where
  base : Nat
  fmt  : Nat
  size : Nat → Nat
  stride : Nat → Int
  clip : Nat → Nat
  ok   : Bool

/-- Bytes of an element format; 0 for one below a byte or reserved. -/
def fmtBytes (c : Nat) : Nat :=
  match elemOf c with
  | some e => e.width / 8
  | none => 0
/-- Parse the 64 bytes of a record. -/
def parseShape (bs : List Byte) : Shape :=
  let d (o n : Nat) : Nat := ofLe ((bs.drop o).take n)
  let fmt := d 0x08 8 % 16
  let size (j : Nat) := d (0x10 + 8 * j) 4
  let stride (j : Nat) := sextI (d (0x14 + 8 * j) 4) 32
  let es : Int := Nat.max 1 (fmtBytes fmt)
  { base := d 0 6, fmt := fmt, size := size, stride := stride, clip := fun j => d (0x30 + 4 * j) 4,
    ok := d 6 2 == 0 && d 0x08 8 / 16 == 0 && (elemOf fmt).isSome &&
      (List.range 4).all fun j => decide (1 ≤ size j) && decide (stride j % es = 0) }
/-- Product of the four sizes. -/
def Shape.total (h : Shape) : Nat := h.size 0 * h.size 1 * h.size 2 * h.size 3
/-- Address of index i as R200 lays it out; none when it is clipped. -/
def Shape.addr (h : Shape) (i : Nat) : Option Int :=
  let i0 := i % h.size 0
  let i1 := i / h.size 0 % h.size 1
  let i2 := i / (h.size 0 * h.size 1) % h.size 2
  let i3 := i / (h.size 0 * h.size 1 * h.size 2)
  if i0 < h.clip 0 ∧ i1 < h.clip 1 ∧ i2 < h.clip 2 ∧ i3 < h.clip 3 then
    some (h.base + i0 * h.stride 0 + i1 * h.stride 1 + i2 * h.stride 2 + i3 * h.stride 3)
  else none
/-- Read the record at a register's address at issue and go on with its bytes (R199, R285). -/
def readShape (a : Word) (f : List Byte → State → Except (Trap × State) (Prep × State)) (s : State) :
    Except (Trap × State) (Prep × State) :=
  if a.toNat % 64 ≠ 0 then .error (tr cMisalign a, s)
  else if !inSp a 64 then .error (tr cTranslation a, s)
  else
    match s.readBytes a.toNat 64 with
    | .error (t, s) => .error (t, s)
    | .ok (bs, s) => f bs s
/-- Translate the elements of a shape that are not clipped, n of them from index i on, each of es bytes. -/
def State.elems (s : State) (h : Shape) (es : Nat) (a : Acc) (i : Nat) : Nat → Except Trap (List (Nat × Seg))
  | 0 => .ok []
  | n + 1 =>
    match h.addr i with
    | none => s.elems h es a (i + 1) n
    | some t =>
      if t % es ≠ 0 then .error (tr cMisalign (i64 t))
      else if t < 0 ∨ 2 ^ 48 ≤ t then .error (tr cTranslation (i64 t))
      else
        match s.xlate t.toNat es a with
        | .error e => .error e
        | .ok pa =>
          match s.elems h es a (i + 1) n with
          | .error e => .error e
          | .ok r => .ok ((i, { va := t.toNat, ga := s.globalOf s.core pa, n := es }) :: r)

/-- The walks of those translations, up to the first that fails (R302, R313). -/
def State.elemsWalked (s : State) (h : Shape) (es : Nat) (a : Acc) : State :=
  if s.soft.isEmpty then s
  else ((List.range h.total).foldl (fun (x : State × Bool) i =>
    match x.2, h.addr i with
    | true, some t =>
      if t % es ≠ 0 ∨ t < 0 ∨ 2 ^ 48 ≤ t then (x.1, false)
      else (x.1.xlated t.toNat es, match s.xlate t.toNat es a with
        | .ok _ => true
        | .error _ => false)
    | _, _ => x) (s, true)).1

/-! ### copy (R242 to R244) -/
/-- A segment's part of n bytes from offset o. -/
def Seg.part (g : Seg) (o n : Nat) : Seg := { va := g.va + o, ga := g.ga + o, n := n }
/-- The byte range [o, o + n) of a list of segments, as segments. -/
def cutSegs : List Seg → Nat → Nat → List Seg
  | [], _, _ => []
  | g :: r, o, n =>
    if n = 0 then []
    else if g.n ≤ o then cutSegs r (o - g.n) n
    else
      let m := Nat.min n (g.n - o)
      g.part o m :: cutSegs r 0 (n - m)
/-- The control word's object fields are legal (R242). -/
def ctlOk (w : Word) : Bool :=
  let bk := bitsOf w 9 8
  bitsOf w 63 52 == 0 && bitsOf w 31 13 == 0 && bk != 3 &&
    (if bk = 0 then bitsOf w 7 0 == 0 && !w.getLsbD 12 else true) && (w.getLsbD 12 || bitsOf w 51 32 == 0) &&
    (if bk = 2 then decide (bitsOf w 7 0 < 64) else true)
/-- The object of a control word (R242). -/
def ctlObj (w : Word) (me : Nat) : Obj :=
  { bk := bitsOf w 9 8, num := bitsOf w 7 0, core := if w.getLsbD 12 then bitsOf w 51 32 else me }
/-- The engine accepts an operation; a full queue makes the instruction wait as a yield (R308). -/
def accepted (e : Env) (job : EngJob) (s : State) : Res :=
  if Config.engineDepth ≤ s.me.eng.length then .wait true s
  else .done (s.modMe fun k => { k with
    eng := k.eng ++ [{ ctx := s.ctx, order := e.tag, lix := s.st.lix, job := job }], seqNo := k.seqNo + 1 })
/-- The checks of copy on its registers, and its read of the shape record, at issue (R242, R285). DESIGN CHOICE (log 61): a length of 0
completes only when the control word and the object's core pass their checks. -/
def copyPrep (rd ra rb rc : BitVec 4) : Prepare := fun e s =>
  let w := e.r rd
  let len := (e.r rc).toNat
  let o := ctlObj w s.core
  if 2 ^ 32 ≤ len then .error (tr cReservedField (e.r rc), s)
  else if !ctlOk w then .error (tr cReservedField w, s)
  else if w.getLsbD 12 && (o.core % 2 == 1 || isSaddle o.core || valleyOf o.core != valleyOf s.core) then
    .error (tr cBarrierScope (w64 o.core), s)
  else if len = 0 ∨ w.getLsbD 10 = false then .ok (.checked, s)
  else
    readShape (if w.getLsbD 11 then e.r ra else e.r rb) (fun bs s =>
      let h := parseShape bs
      if !h.ok || fmtBytes h.fmt == 0 || h.total * fmtBytes h.fmt != len then .error (tr cReservedField (e.r rc), s)
      else .ok (.shape bs, s)) s
/-- What copy does once checked (R242 to R244): both ranges are translated, and the engine accepts it. -/
def finCopy (rd ra rb rc : BitVec 4) : Eff := fun e s =>
  let w := e.r rd
  let len := (e.r rc).toNat
  let o := ctlObj w s.core
  match e.prep with
  | .shape bs =>
    let side := w.getLsbD 11
    let h := parseShape bs
    let es := fmtBytes h.fmt
    let a : Acc := if side then .rd else .wr
    match s.elems h es a 0 h.total with
    | .error t => (s.elemsWalked h es a).fail t
    | .ok el =>
      let s := (s.elemsWalked h es a).xlated (if side then e.r rb else e.r ra).toNat len
      match s.segsOf (if side then e.r rb else e.r ra).toNat len (if side then .wr else .rd) with
      | .error t => s.fail t
      | .ok flat =>
        let shaped := el.map (·.2)
        let cut := el.flatMap fun p => cutSegs flat (p.1 * es) es
        accepted e (.copy (.mem (if side then shaped else cut)) (if side then cut else shaped) o 0 false false) s
  | _ =>
    if len = 0 then .done s
    else
      let s := s.xlated (e.r ra).toNat len
      match s.segsOf (e.r ra).toNat len .rd with
      | .error t => s.fail t
      | .ok src =>
        let s := s.xlated (e.r rb).toNat len
        match s.segsOf (e.r rb).toNat len .wr with
        | .error t => s.fail t
        | .ok dst => accepted e (.copy (.mem src) dst o 0 true false) s
/-- Effect of copy (R242 to R244). -/
def effCopy (rd ra rb rc : BitVec 4) : Eff := prepared (copyPrep rd ra rb rc) (finCopy rd ra rb rc)
/-- copy (R242). -/
def execCopy (la rd ra rb rc : BitVec 4) (s : State) : Out :=
  .next (longPrep (.copy la rd ra rb rc) (copyPrep rd ra rb rc) (finCopy rd ra rb rc) s)

/-! ### Whose turn an engine is at (R308) -/
/-- The core number that stands at a place. -/
def State.standsAt (s : State) (q : Nat) : Nat :=
  match s.place.find? fun e => e.2 == q with
  | some e => e.1
  | none => q
/-- An engine operation can go on: the node does not hold it (R306). -/
def EngOp.free (o : EngOp) : Bool :=
  match o.job with
  | .copy _ _ _ _ _ node => !node
  | _ => true
/-- Party i of the engine of spire p has work: its stage core, its compute core, or a landing of no strand that stands behind no
operation accepted before it (R262). -/
def State.engHas (s : State) (p i : Nat) : Bool :=
  if i = 2 then
    match (s.spireAt p).orphans with
    | o :: _ => o.stage == 0 && o.comp == 0
    | [] => false
  else
    match (s.coreAt (s.standsAt (4 * p + 2 * i))).eng with
    | o :: _ => o.free
    | [] => false
/-- The party whose turn it is: the one that has it, or, when that has no work, the next that has. -/
def State.engParty (s : State) (p : Nat) : Nat :=
  let t := (s.spireAt p).engTurn
  (([t, (t + 1) % 3, (t + 2) % 3].find? (s.engHas p))).getD t
/-- Party of a core at its spire's engine; a saddle's engine has only the saddle. -/
def partyOf (c : Nat) : Nat := if isCompute c then 1 else 0
/-- It is a core's turn at its engine. -/
def State.engMay (s : State) (c : Nat) : Bool := s.engParty (s.spireOf c) == partyOf c
/-- A party has moved n bytes: after 4 KiB, or at the end of an operation, the turn passes on; landings of no strand that stood behind
the operation stand behind one fewer. -/
def State.engMoved (s : State) (p i n : Nat) (ended : Bool) : State :=
  s.modSpire p fun k =>
    let m := (if k.engTurn = i then k.engMoved else 0) + n
    let past := ended || decide (4096 ≤ m)
    { k with engTurn := if past then (i + 1) % 3 else i
             engMoved := if past then 0 else m
             orphans := if ended then k.orphans.map fun o =>
               { o with stage := if i = 0 then o.stage - 1 else o.stage, comp := if i = 1 then o.comp - 1 else o.comp } else k.orphans }

/-! ### What an engine performs, piece by piece (R318) -/
/-- Bytes of segments before the first that core c cannot read, with its cause, address and global address: LINK_DOWN when a
route is down, HOST_ABORT for a host doubleword marked bad (R356), else UNCORRECTABLE with the doubleword's address (R314). -/
def State.readable (s : State) (c : Nat) : List Seg → Nat × Option (Nat × Nat × Nat)
  | [] => (0, none)
  | g :: r =>
    if s.readDown c g.ga then (0, some (cLinkDown, g.va, g.ga))
    else
      match s.badIn g.ga g.n with
      | some d =>
        if isHostPa (g.ga % 2 ^ 52) && decide (g.ga < 2 ^ 60) then (d - g.ga, some (cHostAbort, g.va + (d - g.ga), g.ga))
        else (d - g.ga, some (cUncorrectable, g.va + d - g.ga, g.ga))
      | none =>
        let k := s.readable c r
        (g.n + k.1, k.2)
/-- Bytes of segments before the first that core c cannot write. -/
def State.writable (s : State) (c : Nat) : List Seg → Nat × Option (Nat × Nat × Nat)
  | [] => (0, none)
  | g :: r =>
    if s.gaDown c g.ga then (0, some (cLinkDown, g.va, g.ga))
    else
      match s.badPart g.ga g.n with
      | some d => (d - g.ga, some (cUncorrectable, g.va + d - g.ga, g.ga))
      | none =>
        let k := s.writable c r
        (g.n + k.1, k.2)
/-- Bytes of segments, whatever their errors. -/
def State.rawSegs (s : State) (gs : List Seg) : List Byte := gs.flatMap fun g => s.bytes g.ga g.n
/-- Total bytes of segments. -/
def segLen (gs : List Seg) : Nat := (gs.map (·.n)).foldl (· + ·) 0
/-- Segments after their first n bytes. -/
def restSegs (gs : List Seg) (n : Nat) : List Seg := cutSegs gs n (segLen gs - n)
/-- The first n bytes of a source, and what follows them. -/
def EngSrc.cut (n : Nat) : EngSrc → EngSrc
  | .mem gs => .mem (cutSegs gs 0 n)
  | .line bs gs => .line (bs.take n) (cutSegs gs 0 (n - bs.length))
  | .bytes bs bad => .bytes (bs.take n) bad
def EngSrc.rest (n : Nat) : EngSrc → EngSrc
  | .mem gs => .mem (restSegs gs n)
  | .line bs gs => if bs.length ≤ n then .mem (restSegs gs (n - bs.length)) else .line (bs.drop n) gs
  | .bytes bs bad => .bytes (bs.drop n) bad
/-- Segments of memory of a source. -/
def EngSrc.segs : EngSrc → List Seg
  | .mem gs => gs
  | .line _ gs => gs
  | .bytes .. => []
/-- Bytes of a source before the first that core c cannot read, with its error. -/
def State.srcReadable (s : State) (c : Nat) : EngSrc → Nat × Option (Nat × Nat × Nat)
  | .mem gs => s.readable c gs
  | .line bs gs => let r := s.readable c gs; (bs.length + r.1, r.2)
  | .bytes bs bad => (bs.length, bad)
/-- The bytes of a source, and the state after their reads (R289, R313). -/
def State.srcRead (s : State) : EngSrc → List Byte × State
  | .mem gs => (s.rawSegs gs, gs.foldl (fun s g => (s.power g.ga).scrub g.ga g.n) s)
  | .line bs gs => (bs ++ s.rawSegs gs, gs.foldl (fun s g => (s.power g.ga).scrub g.ga g.n) s)
  | .bytes bs _ => (bs, s)
/-- Bytes performed count down a barrier's xbytes one by one (R229); the phase completes at the byte that brings it to 0 (R226). -/
def State.countDown (s : State) (c n : Nat) : Nat → State
  | 0 => s
  | k + 1 => (if (s.bar c n).broken then s else s.barUpd c n fun b => { b with xbytes := b.xbytes - 1 }).countDown c n k
/-- Bytes delivered to an object (R229, R242, R245): a barrier counts them down, a counter counts the last. -/
def State.deliverObj (s : State) (o : Obj) (n : Nat) (last : Bool) : State :=
  match o.bk with
  | 1 => s.countDown o.core o.num n
  | 2 => if last then s.ecAdd o.core o.num 1 else s
  | _ => s
/-- A bound copy fails (R245): its barrier breaks, with the bytes delivered. -/
def State.breakBar (s : State) (c n bytes : Nat) : State :=
  s.barUpd c n fun b => { b with broken := true, xbytes := BitVec.ofNat 32 bytes }
/-- The head operation leaves a core's engine queue; it has still to do what is left. -/
def State.popEng (s : State) (c : Nat) : State := s.modCore c fun k => { k with eng := k.eng.drop 1 }
def State.headJob (s : State) (c : Nat) (job : EngJob) : State :=
  s.modCore c fun k => { k with eng := match k.eng with
    | o :: r => { o with job := job } :: r
    | [] => [] }
/-- The next piece of a copy: the bytes of its first destination up to the end of their aligned doubleword (R243, R318). -/
def pieceLen : List Seg → Nat
  | [] => 0
  | g :: _ => Nat.min g.n (8 - g.ga % 8)
/-- Bytes of segments that lie, one after the other, in line l of 64 bytes. -/
def lineRun (l : Nat) : List Seg → Nat
  | [] => 0
  | g :: r =>
    if g.ga / 64 ≠ l then 0
    else
      let m := Nat.min g.n (64 * (l + 1) - g.ga)
      if m < g.n then m else m + lineRun l r
/-- The next piece of a landing: what of its first destinations lies in one line (R298). -/
def lineLen : List Seg → Nat
  | [] => 0
  | g :: r => lineRun (g.ga / 64) (g :: r)
/-- The whole lines of saddles of which the next n bytes of a source are read (R298), with fuel. -/
def lineSegs : Nat → Nat → List Seg → List Seg
  | 0, _, _ => []
  | k + 1, n, gs =>
    match gs with
    | [] => []
    | g :: _ =>
      if n = 0 then []
      else
        let m := if (sadOf g.ga).isSome then lineLen gs else Nat.min g.n n
        cutSegs gs 0 m ++ lineSegs k (n - m) (restSegs gs m)
/-- Whether the next byte of a source that is not read yet lies at a saddle. -/
def EngSrc.atSaddle (src : EngSrc) : Bool :=
  match src.segs with
  | g :: _ => (sadOf g.ga).isSome
  | [] => false
/-- Bytes of a source that are read already. -/
def EngSrc.had : EngSrc → List Byte
  | .mem _ => []
  | .line bs _ => bs
  | .bytes bs _ => bs
/-- What is read of memory for the next n bytes of a source: whole lines where it lies at a saddle (R298). -/
def EngSrc.reads (n : Nat) (src : EngSrc) : List Seg :=
  if src.atSaddle then lineSegs (n + 1) (n - src.had.length) src.segs else (src.cut n).segs
/-- The next n bytes of a source with the lines they lie in at a saddle read, each as one access (R298), by core c; a line that cannot be
read whole is left to be read byte by byte. -/
def State.fill (s : State) (c n : Nat) (src : EngSrc) : EngSrc × State :=
  let gs := src.reads n
  if !src.atSaddle || gs.isEmpty || (s.readable c gs).2.isSome then (src, s)
  else (.line (src.had ++ s.rawSegs gs) (restSegs src.segs (segLen gs)), gs.foldl (fun s g => (s.power g.ga).scrub g.ga g.n) s)
/-- A global address belongs to the host. -/
def hostAt (ga : Nat) : Bool := isHostPa (ga % 2 ^ 52) && decide (ga < 2 ^ 60)
/-- Write one piece to memory, or post it toward the host, on the network of copy data (R324, R383). -/
def State.writePiece (s : State) (c : Nat) (o : EngOp) (b : Obj) (gs : List Seg) (bs : List Byte) (last : Bool) : State :=
  match gs with
  | [] => s
  | g :: r =>
    let bs' := bs.take g.n
    let fin' := last && r.isEmpty
    State.writePiece (if hostAt g.ga then
        { s with net := s.net ++ [{ src := c, dst := pkgOf c * 16384, net := 2, seq := 0, ctx := o.ctx, lix := o.lix, tag := o.order,
                                    pay := .hostWr g.ga g.va bs' b.bk b.num b.core fin' }] }
      else (((s.power g.ga).cleared g.ga g.n).poke g.ga bs').deliverObj b bs'.length fin') c o b r (bs.drop g.n) last
/-- A request of core c issued before operation n is on its way to saddle d: in the core's send queue, in the network, or held by a node
(R306, R318). -/
def State.ahead (s : State) (c n d : Nat) : Bool :=
  ((s.coreAt c).sendq.any fun e => !e.held && e.dst == d && e.net == 0 && decide (e.tag < n)) ||
  (s.net.any fun f => f.dst == d && f.net == 0 && ((f.src == c && decide (f.tag < n)) || match f.pay with
    | .tileReq _ also => also.any fun a => a.1 == c && decide (a.2.2.2 < n)
    | _ => false)) || s.heldTile c d n
/-- An operation of core c waits for an earlier request of the core to a saddle whose memory the piece meets (R318, R319): a posted store,
an atomic, a tile request. -/
def State.storeAhead (s : State) (c order : Nat) (gs : List Seg) : Bool :=
  gs.any fun g => match sadOf g.ga with
    | some d => s.ahead c order d
    | none => false
/-- The strands of the machine: in contexts, parked, and on their way to a saddle (R132). -/
def State.strandsAll (s : State) : List Strand :=
  (s.cores.flatMap fun e => e.2.ctxs.map (·.2) ++ e.2.parked.map (·.strand)) ++ s.net.filterMap fun f => match f.pay with
    | .migr t => some t
    | _ => none
/-- The cores, with the numbers of their own, that the strand which core c knows as x had left before it came there. -/
def State.leftBefore (s : State) (c x : Nat) : List (Nat × Nat) :=
  if x < 64 then (s.strandAt c x).left
  else if x < 2000 then []
  else
    match (s.coreAt c).parked.find? fun p => p.order + 2000 == x with
    | some p => p.strand.left
    | none =>
      match s.strandsAll.find? fun t => t.left.contains (c, x - 2000) with
      | some t => t.left.takeWhile (· != (c, x - 2000))
      | none => []
/-- A copy bound to a barrier is about to release into its phase (R245, R320): its strand's earlier writes to regions bound to the barrier
come first, whatever unit, queue or engine has them, of this core or of one that the strand had left before. -/
def State.objWaits (s : State) (c : Nat) (o : EngOp) (b : Obj) : Bool :=
  b.bk == 1 &&
    let bound (g : Seg) : Bool := (s.coreAt c).binds.any fun e =>
      e.obj == barObj b.core b.num && e.lix == o.lix && decide (g.va < e.base + e.len) && decide (e.base < g.va + g.n)
    s.writingOf c o.ctx (fun n => decide (n < o.order)) bound ||
      ((s.leftBefore c o.ctx).any fun e => s.writingOf e.1 (2000 + e.2) (fun _ => true) bound) ||
      ((s.coreAt c).binds.any fun e => e.obj == barObj b.core b.num && e.lix == o.lix) &&
        (s.coreAt c).ctxs.any fun e => e.1 == o.ctx && e.2.pend.any fun p =>
          decide (p.order < o.order) && decide (2 ≤ p.unit) && decide (p.unit ≤ 4) && p.trap.isNone
/-- What the performing of one piece came to: all of it, or the bytes before the first that cannot be delivered, and its error:
cause, virtual and global address. -/
inductive Piece where
  | whole (s : State) (n : Nat)
  | failed (s : State) (k : Nat) (bad : Nat × Nat × Nat)
/-- Perform the next piece, of n bytes, of an operation of core c (R243, R245, R262, R263). -/
def State.piece (s : State) (c : Nat) (o : EngOp) (src : EngSrc) (dst : List Seg) (b : Obj) (n : Nat) : Piece :=
  let tgt := cutSegs dst 0 n
  let r := s.srcReadable c (src.cut n)
  let w := s.writable c tgt
  let x := s.srcRead (src.cut n)
  if n ≤ Nat.min r.1 w.1 then .whole (x.2.writePiece c o b tgt x.1 (decide (segLen dst ≤ n))) n
  else
    let k := Nat.min r.1 w.1
    let k := if ((cutSegs tgt 0 k).any fun g => (s.badPart g.ga g.n).isSome) then 0 else k
    .failed (x.2.writePiece c o (if b.bk = 2 then {} else b) (cutSegs tgt 0 k) (x.1.take k) false) k
      ((if r.1 ≤ w.1 then r.2 else w.2).getD (0, 0, 0))
/-- An error that an engine of core c meets is logged by its responder (R243, R315). -/
def State.engLog (s : State) (c : Nat) (o : EngOp) (bad : Nat × Nat × Nat) : State :=
  s.logAt (respOf bad.2.2) bad.1 bad.2.1 (s.launchId o.lix) c

/-- COPY_PERFORM (R243, R245, R308): at its turn the engine performs the next piece of the copy at the head of a core's queue, in
ascending source order, reading whole lines at a saddle (R298); the copy stops at the first byte it cannot deliver. The last piece of a
copy bound to a barrier waits for the strand's earlier writes (R320). -/
def execCopyPerform (core : Nat) (s : State) : Out :=
  .next (match (s.coreAt core).eng with
    | o :: _ =>
      match o.job with
      | .copy src dst b moved plain false =>
        let p := s.spireOf core
        let n := pieceLen dst
        if !s.engMay core || s.storeAhead core o.order (src.reads n ++ cutSegs dst 0 n) ||
            (decide (segLen dst ≤ n) && s.objWaits core o b) then s
        else
          let x := s.fill core n src
          let src := x.1
          match x.2.piece core o src dst b n with
          | .whole s n =>
            if segLen dst ≤ n then (s.popEng core).engMoved p (partyOf core) n true
            else (s.headJob core (.copy (src.rest n) (restSegs dst n) b (moved + n) plain false)).engMoved p (partyOf core) n false
          | .failed s k bad =>
            let s := ((s.popEng core).engMoved p (partyOf core) k true).engLog core o bad
            if b.bk = 1 then s.breakBar b.core b.num (moved + k)
            else s.keep core o.ctx { kind := 1, order := o.order, code := bad.1, addr := bad.2.1 }
      | _ => s
    | [] => s)

/-- HOST_WINDOW_WRITE_POST (R324): tower 0 posts message k, a write to the host window, in the order of its engine. -/
def execHostWindowWritePost (k : Nat) (s : State) : Out :=
  .next (match s.net[k]? with
    | none => s
    | some f =>
      match f.pay with
      | .hostWr ga _ data bk num core last =>
        let earlier := (s.net.take k).any fun g => s.spireOf g.src == s.spireOf f.src && match g.pay with
          | .hostWr .. => true
          | _ => false
        if earlier then s
        else ({ s with net := dropAt s.net k }.poke ga data).deliverObj { bk := bk, num := num, core := core } data.length last
      | _ => s)

/-- Set the tags of the scratchpad lines that n bytes from ga meet (R74). -/
def State.setTag (s : State) (ga n fmt : Nat) : State :=
  if ga < 2 ^ 60 then s
  else s.modSpire ((ga - 2 ^ 60) / 2 ^ 20) fun p => { p with
    tags := (List.range ((ga % 64 + n + 63) / 64)).foldl
      (fun m i => fset m (ga % 2 ^ 20 / 64 + i) (BitVec.ofNat 4 fmt)) p.tags }
/-- One element of a drain (R200, R201): written, or added to what is there; an error leaves it unchanged and is logged. A line
written takes the element's format as its tag (R74). The engine reads what it adds to without a check of that tag (log 56). -/
def State.drainOne (s : State) (c : Nat) (lix : Option Nat) (add : Bool) (fmt : Nat) (el : DrainEl) : State × Option (Nat × Nat) :=
  let r : Except Trap (List Byte) × State :=
    if (if add then s.readDown c el.pa else s.gaDown c el.pa) then (.error (tr cLinkDown (w64 el.va)), s)
    else if add then s.readAt el.pa el.n el.va else (.ok [], s)
  match r with
  | (.error t, s) => (s.logAt (respOf el.pa) t.code t.info.toNat (s.launchId lix) c, some (t.code, t.info.toNat))
  | (.ok bs, s) =>
    let old := ofLe bs
    let v := if add then
        (match elemOf fmt with
         | some (.f f) => (addC f old el.v).1
         | _ => (old + el.v) % 2 ^ (8 * el.n))
      else el.v
    match s.writeAt el.pa el.va (leBytes el.n v) with
    | (.error t, s) => (s.logAt (respOf el.pa) t.code t.info.toNat (s.launchId lix) c, some (t.code, t.info.toNat))
    | (.ok _, s) => (s.setTag el.pa el.n fmt, none)
/-- The elements of a drain that are performed as one access: those that follow each other in one 64-byte line of a saddle (R298), elsewhere
one; and the rest. -/
def drainRun : List DrainEl → List DrainEl × List DrainEl
  | [] => ([], [])
  | el :: els =>
    let same (x : DrainEl) : Bool := (sadOf el.pa).isSome && x.pa / 64 == el.pa / 64
    (el :: els.takeWhile same, els.dropWhile same)
/-- One element of the drain of an operation; an error is kept for mwait (R202). -/
def State.drainEl (s : State) (c : Nat) (o : EngOp) (add : Bool) (fmt : Nat) (el : DrainEl) : State :=
  let r := s.drainOne c o.lix add fmt el
  match r.2 with
  | some (code, addr) => r.1.keep c o.ctx { kind := 3, order := o.order, code := code, addr := addr }
  | none => r.1
/-- DRAIN_PERFORM (R201, R202, R298): at its turn the engine performs the next element, or line of a saddle, in ascending index, of the
drain at the head of a core's queue; the first error is kept for mwait. -/
def execDrainPerform (core : Nat) (s : State) : Out :=
  .next (match (s.coreAt core).eng with
    | o :: _ =>
      match o.job with
      | .drain add fmt (el :: els) =>
        let p := s.spireOf core
        let r := drainRun (el :: els)
        if !s.engMay core || s.storeAhead core o.order [{ va := el.va, ga := el.pa, n := el.n }] then s
        else
          let s := r.1.foldl (fun s x => s.drainEl core o add fmt x) s
          (if r.2.isEmpty then s.popEng core else s.headJob core (.drain add fmt r.2)).engMoved p (partyOf core)
            (r.1.length * el.n) r.2.isEmpty
      | .drain _ _ [] => (s.popEng core).engMoved (s.spireOf core) (partyOf core) 0 true
      | _ => s
    | [] => s)

/-- The slot a landing leaves becomes free when its last byte has left (R261, R262). -/
def State.slotLeft (s : State) (p n : Nat) : State :=
  s.modSpire p fun k =>
    let t := fget {} k.slots n
    if t.state = .forwarding then { k with slots := fset k.slots n { t with state := .free, owner := none } } else k
/-- The next piece of a landing or an itland copy of core c's strand (R262, R263), job being what is left: what lies in one line, written
as one access (R298); a failure is kept. -/
def State.landStep (s : State) (c : Nat) (o : EngOp) (src : EngSrc) (dst : List Seg) (job : EngSrc → List Seg → EngJob)
    (fin : State → State) : State :=
  let p := s.spireOf c
  let n := lineLen dst
  if !s.engMay c || s.storeAhead c o.order ((src.cut n).segs ++ cutSegs dst 0 n) then s
  else
    match s.piece c o src dst {} n with
    | .whole s n =>
      if segLen dst ≤ n then fin ((s.popEng c).engMoved p (partyOf c) n true)
      else (s.headJob c (job (src.rest n) (restSegs dst n))).engMoved p (partyOf c) n false
    | .failed s k bad =>
      fin ((((s.popEng c).engMoved p (partyOf c) k true).engLog c o bad).keep c o.ctx
        { kind := 2, order := o.order, code := bad.1, addr := bad.2.1 })
/-- The next piece of the first landing of no strand of a spire (R262): an error of it is logged. -/
def State.orphanStep (s : State) (c p : Nat) : State :=
  match (s.spireAt p).orphans with
  | [] => s
  | x :: r =>
    match x.op.job with
    | .landing src dst q slot =>
      if s.engParty p ≠ 2 ∨ x.stage ≠ 0 ∨ x.comp ≠ 0 then s
      else
        let done (s : State) : State := (s.modSpire p fun k => { k with orphans := r }).slotLeft q slot
        match s.piece c x.op src dst {} (lineLen dst) with
        | .whole s n =>
          if segLen dst ≤ n then (done s).engMoved p 2 n true
          else (s.modSpire p fun k => { k with
            orphans := { x with op := { x.op with job := .landing (src.rest n) (restSegs dst n) q slot } } :: r }).engMoved p 2 n false
        | .failed s k bad => ((done s).engMoved p 2 k true).engLog c x.op bad
    | _ => s
/-- LANDING_PERFORM (R262): at its turn the engine performs the next piece of the landing at the head of a core's queue, or of one of
its spire that belongs to no strand. -/
def execLandingPerform (core : Nat) (s : State) : Out :=
  .next (
    let p := s.spireOf core
    let other : State := s.orphanStep core p
    match (s.coreAt core).eng with
    | o :: _ =>
      match o.job with
      | .landing src dst q n =>
        if s.engParty p = 2 then other
        else s.landStep core o src dst (fun a b => .landing a b q n) fun s => s.slotLeft q n
      | _ => other
    | [] => other)
/-- ITLAND_PERFORM (R263). -/
def execItlandPerform (core : Nat) (s : State) : Out :=
  .next (match (s.coreAt core).eng with
    | o :: _ =>
      match o.job with
      | .itland src dst =>
        s.landStep core o (.mem src) dst (fun a b => .itland a.segs b) id
      | _ => s
    | [] => s)

/-! ### The distributor (R268, R269, R309) -/
/-- Effect of bdpat (R268). DESIGN CHOICE: a doff that is not a multiple of 64 and a bm1 above 1,023, which R268 shuts out without naming
what happens, trap with RESERVED_FIELD as its reserved bits do (log 23). -/
def effBdpat (ra rb : BitVec 4) : Eff := fun e s =>
  let a := e.r ra
  let b := e.r rb
  if bitsOf a 63 40 ≠ 0 ∨ bitsOf a 9 0 ≠ 0 ∨ bitsOf a 19 10 = 0 ∨ 1023 < bitsOf a 39 30 + bitsOf a 29 20 * bitsOf a 19 10 then
    .trap (tr cReservedField a) s
  else if bitsOf b 63 52 ≠ 0 ∨ bitsOf b 51 32 % 64 ≠ 0 ∨ 1023 < bitsOf b 15 0 then .trap (tr cReservedField b) s
  else .done (s.modMe fun k => { k with patA := a, patB := b })
/-- bdpat (R268). -/
def execBdpat (la ra rb : BitVec 4) (s : State) : Out := .next (longOp (.bdpat la ra rb) (effBdpat ra rb) s)

/-- Effect of bdeal (R269): every check before acceptance. DESIGN CHOICE: the control word, which R269 checks outside its listing, is
checked before step and len, so it traps with len = 0 too (log 24). -/
def effBdeal (rd ra rb : BitVec 4) : Eff := fun e s =>
  let w := e.r rd
  let len := (e.r rb).toNat
  let a := s.me.patA
  let b := s.me.patB
  let src := (e.r ra).toNat
  if w.getLsbD 12 || w.getLsbD 11 || w.getLsbD 10 || !ctlOk w then .trap (tr cReservedField w) s
  else if bitsOf a 19 10 = 0 then .trap (tr cReservedField 0) s
  else if len = 0 then .done s
  else if len % dealB b ≠ 0 ∨ 2 ^ 24 < len then .trap (tr cReservedField (e.r rb)) s
  else if src % 64 ≠ 0 then .trap (tr cMisalign (e.r ra)) s
  else
    let s := s.xlated src len
    match s.segsOf src len .rd with
    | .error t => s.fail t
    | .ok gs =>
      match gs.find? fun g => !(s.isLocal s.core (g.ga % 2 ^ 52)) with
      | some g => s.fail (tr cTranslation (w64 g.va))
      | none =>
        match (List.range (len / dealB b)).find? fun k => decide (2 ^ 20 < dealOff a b k + dealB b) with
        | some k => .trap (tr cReservedField (w64 (dealOff a b k))) s
        | none => accepted e (.deal gs a b len { bk := bitsOf w 9 8, num := bitsOf w 7 0 } 0) s
/-- bdeal (R269). -/
def execBdeal (la rd ra rb : BitVec 4) (s : State) : Out := .next (longOp (.bdeal la rd ra rb) (effBdeal rd ra rb) s)

/-- What keeps line l of a deal, and the rest of its block, from being delivered (R269): a byte that cannot be read, or a destination
that cannot be reached. -/
def State.dealBad (s : State) (c : Nat) (gs : List Seg) (a b : Word) (l : Nat) : Option (Nat × Nat × Nat) :=
  let k := 64 * l / dealB b
  match (s.readable c (cutSegs gs (64 * l) ((k + 1) * dealB b - 64 * l))).2 with
  | some e => some e
  | none =>
    let d := dealDest c a k
    if s.linkDown c d || s.away d then some (cLinkDown, d, 2 ^ 60 + d / 4 * 2 ^ 20) else none
/-- Line l of a deal of core c (R269): 64 bytes into the scratchpad of its block's destination, with the object's effect. -/
def State.dealLine (s : State) (c : Nat) (gs : List Seg) (a b : Word) (o : Obj) (l : Nat) : State :=
  let k := 64 * l / dealB b
  let d := dealDest c a k
  let cut := cutSegs gs (64 * l) 64
  let at' := spBase (s.spireOf d) + dealOff a b k + 64 * l % dealB b
  let s := cut.foldl (fun s g => s.scrub g.ga g.n) s
  (((s.powerSpan at' 64).cleared at' 64).poke at' (s.rawSegs cut)).deliverObj { o with core := d } 64 (64 * (l + 1) % dealB b == 0)
/-- DEAL_PERFORM (R269, R308, R309): at its turn a saddle's engine performs the next 64-byte line of the deal at the head of its queue; a failed deal
breaks every destination barrier that still expects bytes of it. -/
def execDealPerform (core : Nat) (s : State) : Out :=
  .next (match (s.coreAt core).eng with
    | x :: _ =>
      match x.job with
      | .deal gs a b len o l =>
        if !s.engMay core then s
        else
        let p := s.spireOf core
        match s.dealBad core gs a b l with
        | none =>
          let s := s.dealLine core gs a b o l
          if len ≤ 64 * (l + 1) then (s.popEng core).engMoved p (partyOf core) 64 true
          else (s.headJob core (.deal gs a b len o (l + 1))).engMoved p (partyOf core) 64 false
        | some bad =>
          let s := ((s.popEng core).engMoved p (partyOf core) 0 true).engLog core x bad
          let dest (m : Nat) : Nat := dealDest core a (64 * m / dealB b)
          let s := if o.bk = 1 then
              ((dealLeft b len l).map (dealDest core a)).eraseDups.foldl (fun s d =>
                s.breakBar d o.num (64 * ((List.range l).filter fun m => dest m == d).length)) s
            else s
          s.keep core x.ctx { kind := 4, order := x.order, code := bad.1, addr := bad.2.1 }
      | _ => s
    | [] => s)

end Sys2Proof.Machine
end

