-- ==== Sys2Proof/Machine/Tile.lean ====
section
/-! DEFINITION. Itineraries, tile slots, the combining node (R252 to R267, R306, R307, R310 to R312). -/

namespace Sys2Proof.Machine
open Sys2Proof

/-! ### Slots -/
/-- Slot n of spire p. -/
def State.slotAt (s : State) (p n : Nat) : Slot := fget {} (s.spireAt p).slots n
def State.setSlot (s : State) (p n : Nat) (t : Slot) : State := s.modSpire p fun k => { k with slots := fset k.slots n t }
/-- A stop's core, or its stand-in, fails for a tile (R266): out of service, or its slot too small. -/
def State.stopFails (s : State) (c n bytes : Nat) : Bool :=
  (s.coreAt c).oos || s.away c || (let t := s.slotAt (s.spireOf c) n; t.size == 0 || decide (t.size < bytes))
/-- Bytes of a tile that its landing writes: the elements of its shape. -/
def Itin.packed (it : Itin) : Nat := segLen it.segs
/-- A launch has ended: every stop its tiles have not reached fails (R351). -/
def State.tileEnded (s : State) (l : Option Nat) : Bool := s.over l
/-- Where a tile goes from core src, from stop i on (R265, R266, R312): a stop or its stand-in that takes it, or the end; with
the missed mask. A stop whose route is down is treated as failing (log 19). Fuel bounds the stops. -/
def State.route (s : State) (src : Nat) (it : Itin) : Nat → Nat → BitVec 16 → Option (Nat × Nat × Bool) × BitVec 16
  | 0, _, m => (none, m)
  | k + 1, i, m =>
    match it.stops[i]? with
    | none => (none, m)
    | some p =>
      let fails (c : Nat) : Bool := s.stopFails c it.slot it.bytes || s.linkDown src c
      if s.tileEnded it.lix then s.route src it k (i + 1) (putBit m i true)
      else if !fails p.core.toNat then (some (p.core.toNat, i, false), m)
      else if p.pol = 2 ∧ fails p.alt.toNat = false then (some (p.alt.toNat, i, true), putBit m i true)
      else s.route src it k (i + 1) (putBit m i true)
/-- The source of a landing: the packed bytes of slot n of spire p, as the engine reads them, or for n = 16, a tile in no slot, the
bytes given. -/
def State.landSrc (s : State) (p n : Nat) (it : Itin) (data : List Byte) : EngSrc :=
  if n < 16 then
    let t := s.slotAt p n
    .mem [{ va := 0xFF0000000000 + t.base, ga := spBase p + t.base, n := it.packed }]
  else .bytes (data.take it.packed) none
/-- Send a tile onward from core src (R261, R265): a message to the next stop, or a landing, of the strand given or of no
strand (R262), or nothing; the answer says whether bytes leave. -/
def State.onward (s : State) (src p n : Nat) (it : Itin) (i : Nat) (m : BitVec 16) (data : List Byte)
    (owner : Option (Nat × Nat × Nat)) : Bool × State :=
  match s.route src it 17 i m with
  | (some (c, j, d), m) => (true, s.post src c 2 1000 it.lix 0 (.tile it j m d data))
  | (none, _) =>
    if it.land then
      let job : EngJob := .landing (s.landSrc p n it data) it.segs p n
      match owner with
      | some (c, x, order) =>
        (true, s.modCore c fun k => { k with eng := k.eng ++ [{ ctx := x, order := order, lix := it.lix, job := job }] })
      | none =>
        let ahead (i : Nat) : Nat := (s.coreAt (s.standsAt (4 * p + 2 * i))).eng.length
        (true, s.modSpire p fun k => { k with orphans := k.orphans ++
          [{ op := { ctx := 1000, order := 0, lix := it.lix, job := job }, stage := ahead 0, comp := ahead 1 }] })
    else (false, s)

/-! ### Requesting a tile (R252 to R257) -/
/-- Parse an itinerary record: its header and stops (R252, R253), when its reserved bits are 0. -/
def parseStop (w : Nat) : Stop :=
  { any := fld w 59 59 == 1, post := fld w 58 58 == 1, pol := BitVec.ofNat 2 (fld w 57 56),
    hold := BitVec.ofNat 16 (fld w 55 40), alt := BitVec.ofNat 20 (fld w 39 20), core := BitVec.ofNat 20 (fld w 19 0) }
/-- A core number names a stage or compute core of the domain (R254). -/
def State.spireCore (s : State) (c : Nat) : Bool := decide (c < 2 ^ 20) && c % 2 == 0 && !isSaddle c && s.inDomain (pkgOf c)
/-- The record rules of R252 and R253 and the window rule of R254. -/
def State.recordOk (s : State) (h0 h1 : Nat) (ws : List Nat) : Bool :=
  let base := fld h0 47 0
  let bytes := 64 * (fld h0 57 48 + 1)
  fld h0 63 58 == 0 && base % 64 == 0 && fld h1 31 6 == 0 && fld h1 4 4 == 0 &&
    (ws.all fun w => fld w 63 60 == 0 && fld w 57 56 != 3 && s.spireCore (fld w 19 0) && s.spireCore (fld w 39 20)) &&
    (decide (base + bytes ≤ 2 ^ 37) ||
      (decide (0x8000000000 ≤ base) && decide (base < 0x8000000000 + 128 * 0x4000000) &&
        decide ((base - 0x8000000000) % 0x4000000 + bytes ≤ 0x3000000)))
/-- The physical rule (R254): one valley store, or one channel. -/
def oneSaddle (gs : List Seg) : Option Nat :=
  match gs with
  | [] => none
  | g :: r =>
    let d := saddleOf (g.ga / 2 ^ 52) (g.ga % 2 ^ 52)
    let okPa (h : Seg) : Bool := decide (h.ga < 2 ^ 60) && !isHostPa (h.ga % 2 ^ 52) &&
      saddleOf (h.ga / 2 ^ 52) (h.ga % 2 ^ 52) == d && saddleOf (h.ga / 2 ^ 52) ((h.ga + h.n - 1) % 2 ^ 52) == d &&
      isStorePa (h.ga % 2 ^ 52) == isStorePa (g.ga % 2 ^ 52)
    if okPa g && r.all okPa then some d else none
/-- Cut segments at 64 KiB granules of physical memory (R297). -/
def granules (gs : List Seg) : List Seg :=
  gs.flatMap fun g =>
    let a := Nat.min g.n (65536 - g.ga % 65536)
    if a < g.n then [g.part 0 a, g.part a (g.n - a)] else [g]
/-- The checks of itreq and itreq.x at issue and what the request then carries (R254, R256, R257): shape none for no shape, basic for
the values of dflt. A shaped tile's range from base on is translated and held to the physical rule as well as its elements. -/
def itreqPrep (ra : BitVec 4) (shape : Option (BitVec 4)) (basic : Bool) (slot : BitVec 4) : Prepare := fun e s =>
  let rec' := e.r ra
  if rec'.toNat % 16 ≠ 0 then .error (tr cMisalign rec', s)
  else if !inSp rec' 16 then .error (tr cTranslation rec', s)
  else
    match s.readBytes rec'.toNat 16 with
    | .error x => .error x
    | .ok (hb, s) =>
      let h0 := ofLe (hb.take 8)
      let h1 := ofLe (hb.drop 8)
      let ns := fld h1 3 0 + 1
      if !inSp rec' (16 + 8 * ns) then .error (tr cTranslation rec', s)
      else
        match s.readBytes (rec'.toNat + 16) (8 * ns) with
        | .error x => .error x
        | .ok (sb, s) =>
          let ws := (wordsOf ns sb).map (·.toNat)
          if !s.recordOk h0 h1 ws then .error (tr cItinFormat rec', s)
          else
            let base := fld h0 47 0
            let bytes := 64 * (fld h0 57 48 + 1)
            let land := if basic then s.me.dflt.getLsbD 28 else fld h1 5 5 == 1
            -- a tile that is to land is written too (R302)
            let acc : Acc := if land then .rw else .rd
            let go (el : Option (List Seg)) (sh : List Byte) (s : State) : Except (Trap × State) (Prep × State) :=
              let s := s.xlated base bytes
              match s.segsOf base bytes acc with
              | .error t => .error (t, s.logErr (s.xlateResp t) t)
              | .ok gs =>
                match oneSaddle (granules (gs ++ el.getD [])) with
                | none => .error (tr cItinFormat rec', s)
                | some d =>
                  let fix (p : Stop) : Stop :=
                    if basic then { p with hold := s.me.dflt.extractLsb' 0 16, pol := s.me.dflt.extractLsb' 26 2 } else p
                  .ok (.tile d { base := base, bytes := bytes, tile := BitVec.ofNat 32 (fld h1 63 32),
                                 land := land, stops := (ws.map parseStop).map fix, slot := slot.toNat, segs := el.getD gs,
                                 lix := s.st.lix, shape := sh }, s)
            match shape with
            | none => go none [] s
            | some r =>
              if e.r r = 0 then go none [] s
              else
                let a := e.r r
                if a.toNat % 64 ≠ 0 ∨ inSp a 64 = false then .error (tr cItinFormat rec', s)
                else
                  match s.readBytes a.toNat 64 with
                  | .error x => .error x
                  | .ok (sh, s) =>
                    let h := parseShape sh
                    let es := fmtBytes h.fmt
                    let n := ((List.range h.total).filter fun i => (h.addr i).isSome).length
                    if !h.ok || es == 0 || h.base != base || (n * es + 63) / 64 * 64 != bytes then .error (tr cItinFormat rec', s)
                    else
                      let s := s.elemsWalked h es acc
                      match s.elems h es acc 0 h.total with
                      | .error t => .error (t, s.logErr (s.xlateResp t) t)
                      | .ok el => go (some (el.map (·.2))) sh s
/-- The request leaves for its saddle (R256). -/
def finItreq : Eff := fun e s =>
  match e.prep with
  | .tile d it => if s.queuedTo d then .wait false s else .sent false (s.post s.core d 0 s.ctx s.st.lix e.tag (.tileReq it []))
  | _ => .wait false s
/-- Effect of itreq (R256). -/
def effItreq (ra slot : BitVec 4) : Eff := prepared (itreqPrep ra none true slot) finItreq
/-- itreq (R256). -/
def execItreq (la ra slot : BitVec 4) (s : State) : Out := .next (longPrep (.itreq la ra slot) (itreqPrep ra none true slot) finItreq s)
/-- Effect of itreq.x (R257). -/
def effItreqX (ra rb slot : BitVec 4) : Eff := prepared (itreqPrep ra (some rb) false slot) finItreq
/-- itreq.x (R257). -/
def execItreqX (la ra rb slot : BitVec 4) (s : State) : Out :=
  .next (longPrep (.itreqX la ra rb slot) (itreqPrep ra (some rb) false slot) finItreq s)

/-! ### Holding, releasing, landing (R259 to R264) -/
/-- Core c may claim the tile of a slot (R259). -/
def State.mayClaim (s : State) (c : Nat) (t : Slot) : Bool :=
  match t.itin.stops[t.stop]? with
  | none => false
  | some p =>
    let at' := (if t.divert then p.alt else p.core).toNat
    at' == c || (p.any && s.spireOf at' == s.spireOf c)
/-- Effect of ithold (R260). -/
def effIthold (la rd ra slot : BitVec 4) : Eff := fun e s =>
  let i := Instr.ithold la rd ra slot
  let t := s.slotAt s.mySpire slot.toNat
  let id : BitVec 32 := (e.r ra).setWidth 32
  if s.st.hnd then .trap (tr cHandlerFault i.word) s
  else if t.size = 0 then .trap (tr cReservedField i.word) s
  else if t.tile ≠ id then .wait true s
  else
    match t.state with
    | .arrived =>
      if !s.mayClaim s.core t then .trap (tr cSlotState (slot.setWidth 64)) s
      else
        let hold := match t.itin.stops[t.stop]? with
          | some p => p.hold
          | none => 0
        .done ((s.setSlot s.mySpire slot.toNat { t with state := .held, timer := hold, armed := hold != 0, exp := false,
                                                        owner := some s.core }).setG rd (t.missed.setWidth 64))
    | .free => .trap (tr cHoldExpired (id.setWidth 64)) s
    | .forwarding => .trap (tr cHoldExpired (id.setWidth 64)) s
    | .held => .trap (tr cSlotState (slot.setWidth 64)) s
    | .filling => .wait true s
/-- ithold (R260). -/
def execIthold (la rd ra slot : BitVec 4) (s : State) : Out :=
  .next (longOp (.ithold la rd ra slot) (effIthold la rd ra slot) s)

/-- Bytes of slot t of spire p. -/
def slotHit (p : Nat) (t : Slot) (g : Seg) : Bool := decide (g.ga < spBase p + t.base + t.size) && decide (spBase p + t.base < g.ga + g.n)
/-- A scratchpad address lies in the slot. -/
def Slot.covers (t : Slot) (va : Nat) : Bool :=
  isSpVa va && decide (t.base ≤ va % 2 ^ 20) && decide (va % 2 ^ 20 < t.base + t.size)
/-- The pointer register of an instruction with the last-read mark (R185). -/
def lrPtr : Instr → Option (BitVec 4)
  | .mldb _ p lr _ => if lr = 1 then some p else none
  | .mmi _ _ p _ _ lr _ _ => if lr = 1 then some p else none
  | .mmt _ _ p _ _ lr _ _ => if lr = 1 then some p else none
  | _ => none
/-- An instruction with a last-read mark on slot n is pending on the core, of whatever strand, or awaits its replay there: the slot is
not freed (R185). One that has not begun reads through its pointer as it stands, or, when an instruction before it has still to advance
the pointer, through an address not known yet. A strand whose own trap handler releases the slot does not wait for its replay (log 51). -/
def State.lrBusy (s : State) (n order : Nat) : Bool :=
  let k := s.me
  let t := s.slotAt s.mySpire n
  let ps := k.ctxs.flatMap fun e => e.2.pend
  (ps.any fun p => p.order != order && p.trap.isNone && match lrPtr p.instr with
    | none => false
    | some r =>
      match p.ptrs with
      | q :: _ => t.covers q.2.addr
      | [] => t.covers (ptrOf k.ptr r).addr || ps.any fun q =>
          decide (q.order < p.order) && q.trap.isNone && (q.instr.regs k.fmt k.tshape).2.contains (16 + r.toNat)) ||
    (mstepAct k.mstep && mstepCtx k.mstep != s.ctx && k.lrSlot == some n)
/-- Release the tile that the acting core has claimed in slot n (R261, R185): held and claimed, the strand's earlier writes to the
slot performed, checked whole (R314), and sent on; y says whether a wait for the engine is a yield. DESIGN CHOICE (log 51): of two
pending last-read instructions on a slot, the final step of the first frees it, and the second then takes RESERVED_FIELD before its first step. -/
def releaseSlot (n order : Nat) (y last : Bool) (s : State) : Res :=
  let p := s.mySpire
  let t := s.slotAt p n
  if t.state ≠ .held ∨ t.owner ≠ some s.core then .trap (tr cSlotState (w64 n)) s
  else if s.busyBefore order || s.writing order (slotHit p t) || (!last && s.lrBusy n order) then .wait false s
  else if t.gone then
    .trap { code := cHoldExpired, info := w64 (t.tile.toNat + t.stop * 2 ^ 32), noRe := last }
      (s.setSlot p n { t with state := .free, owner := none, armed := false, timer := 0 })
  else
    let a := spBase p + t.base
    match s.badIn a t.size with
    | some d => s.failAt a (tr cUncorrectable (w64 (0xFF0000000000 + d - spBase p)))
    | none =>
      let ends := match s.route s.core t.itin 17 (t.stop + 1) t.missed with
        | (none, _) => t.itin.land
        | _ => false
      if ends && decide (Config.engineDepth ≤ s.me.eng.length) then .wait y s
      else
        let data := s.bytes a t.itin.bytes
        let s := s.scrub a t.size
        let lastStop := t.itin.stops.length ≤ t.stop + 1
        let r := s.onward s.core p n t.itin (t.stop + 1) t.missed data
          (if lastStop then some (s.core, s.ctx, order) else none)
        let s := r.2.modMe fun k => { k with seqNo := k.seqNo + 1 }
        .done (s.setSlot p n { t with state := if r.1 then .forwarding else .free, owner := none, armed := false, timer := 0 })
/-- Effect of itrel (R261). -/
def effItrel (la slot : BitVec 4) : Eff := fun e s =>
  if (s.slotAt s.mySpire slot.toNat).size = 0 then .trap (tr cReservedField (Instr.itrel la slot).word) s
  else releaseSlot slot.toNat e.tag true false s
/-- itrel (R261). -/
def execItrel (la slot : BitVec 4) (s : State) : Out := .next (longOp (.itrel la slot) (effItrel la slot) s)

/-- State code of itstat (R264). -/
def SlotSt.code : SlotSt → Nat
  | .free => 0
  | .filling => 1
  | .arrived => 2
  | .held => 3
  | .forwarding => 4
/-- Effect of itstat (R264). -/
def effItstat (la rd slot : BitVec 4) : Eff := fun _ s =>
  let t := s.slotAt s.mySpire slot.toNat
  if t.size = 0 then .trap (tr cReservedField (Instr.itstat la rd slot).word) s
  else .done (s.setG rd (w64 (t.missed.toNat * 2 ^ 48 + t.stop * 2 ^ 44 + (t.itin.stops.length - 1) % 16 * 2 ^ 40 +
    t.state.code * 2 ^ 37 + t.gone.toNat * 2 ^ 36 + t.exp.toNat * 2 ^ 35 + t.tile.toNat)))
/-- itstat (R264). -/
def execItstat (la rd slot : BitVec 4) (s : State) : Out := .next (longOp (.itstat la rd slot) (effItstat la rd slot) s)

/-- Translate a tile's runs of bytes again, to be written (R263). -/
def State.rewrite (s : State) : List Seg → Except Trap (List Seg)
  | [] => .ok []
  | g :: r =>
    match s.segsOf g.va g.n .wr with
    | .error t => .error t
    | .ok hs =>
      match s.rewrite r with
      | .error t => .error t
      | .ok ks => .ok (hs ++ ks)
/-- The checks of itland at issue, and the bytes it writes (R263): through the tile's shape when ra is g0, else the tile as it stands in
the slot, at G[ra]. -/
def itlandPrep (i : Instr) (ra slot : BitVec 4) : Prepare := fun e s =>
  let t := s.slotAt s.mySpire slot.toNat
  let dest := if ra = 0 then t.itin.base else (e.r ra).toNat
  let bad (t : Trap) : Except (Trap × State) (Prep × State) := .error (t, s.logErr (s.xlateResp t) t)
  if t.size = 0 then .error (tr cReservedField i.word, s)
  else if t.state ≠ .held ∨ t.owner ≠ some s.core then .error (tr cSlotState (slot.setWidth 64), s)
  else if dest % 64 ≠ 0 then .error (tr cMisalign (e.r ra), s)
  else if 2 ^ 48 ≤ dest ∨ isSpVa dest = true then bad (tr cTranslation (e.r ra))
  else if isHostVa dest then bad (tr cPerm (e.r ra))
  else
    let s := if ra = 0 then s.xlatedSegs t.itin.segs else s.xlated dest t.itin.bytes
    match (if ra = 0 then s.rewrite t.itin.segs else s.segsOf dest t.itin.bytes .wr) with
    | .error t => .error (t, s.logErr (s.xlateResp t) t)
    | .ok gs => .ok (.tile 0 { t.itin with segs := gs }, s)
/-- The engine accepts the copy that itland makes (R263): it reads the slot when its turn comes. -/
def finItland (slot : BitVec 4) : Eff := fun e s =>
  match e.prep with
  | .tile _ it =>
    let t := s.slotAt s.mySpire slot.toNat
    accepted e (.itland [{ va := 0xFF0000000000 + t.base, ga := spBase s.mySpire + t.base, n := segLen it.segs }] it.segs) s
  | _ => .wait false s
/-- Effect of itland (R263). -/
def effItland (la ra slot : BitVec 4) : Eff := prepared (itlandPrep (.itland la ra slot) ra slot) (finItland slot)
/-- itland (R263). -/
def execItland (la ra slot : BitVec 4) (s : State) : Out :=
  .next (longPrep (.itland la ra slot) (itlandPrep (.itland la ra slot) ra slot) (finItland slot) s)

/-! ### The saddle (R258) -/
/-- Answer every requester of a tile request. -/
def State.answerTile (s : State) (f : Flight) (also : List (Nat × Nat × Nat × Nat)) (code : Nat) (info : Word) : State :=
  let s := s.post f.dst f.src 1 f.ctx f.lix f.tag (.tileAns code info)
  also.foldl (fun s r => s.post f.dst r.1 1 r.2.2.1 f.lix r.2.2.2 (.tileAns code info)) s
/-- The first error of a tile's bytes (R258, R314): a route that is down, or the lowest uncorrectable doubleword. -/
def State.tileBad (s : State) (c : Nat) (gs : List Seg) : Option (Nat × Nat) :=
  match gs.find? fun g => s.readDown c g.ga with
  | some g => some (cLinkDown, g.va)
  | none => (lowest (gs.filterMap fun g => (s.badIn g.ga g.n).map fun d => (g.va + d - g.ga, true))).map fun va => (cUncorrectable, va)
/-- TILE_REQUEST (R258): the saddle refuses a reissue, or reads the tile once and sends it to its first stop. -/
def execTileRequest (k : Nat) (s : State) : Out :=
  .next (match s.arriving k with
    | none => s.bounced k
    | some f =>
      match f.pay with
      | .tileReq it also =>
        if !s.alsoInOrder f [f.src] also then s
        else
          let s := (s.take k f).takeAlso f also
          if (s.coreAt f.dst).filter.contains (it.lix, it.tile) then
            (s.logAt f.dst cTileReissue it.tile.toNat (s.launchId f.lix) f.src).answerTile f also cTileReissue (it.tile.setWidth 64)
          else
            match s.tileBad f.dst it.segs with
            | some (code, va) => (s.logAt f.dst code va (s.launchId f.lix) f.src).answerTile f also code (w64 va)
            | none =>
              let s := it.segs.foldl (fun s g => s.scrub g.ga g.n) s
              let raw := s.rawSegs it.segs
              let data := raw ++ List.replicate (it.bytes - raw.length) 0
              let s := s.modCore f.dst fun c => { c with filter := c.filter ++ [(it.lix, it.tile)] }
              let s := s.answerTile f also 0 0
              (s.onward f.dst (s.spireOf f.dst) 16 it 0 0 data none).2
      | _ => s)
/-- TILE_ANSWER (R256): the answer completes itreq, or makes it trap with what it carries. -/
def execTileAnswer (k : Nat) (s : State) : Out :=
  .next (match s.arriving k with
    | none => s.bounced k
    | some f =>
      match f.pay with
      | .tileAns code info =>
        let s := s.take k f
        if (s.strandAt f.dst f.ctx).pend.any fun p => p.tag == some f.tag then
          if code = 0 then s.completed f.dst f.ctx f.tag else s.failed f.dst f.ctx f.tag (tr code info)
        else s
      | _ => s)

/-! ### The life of a slot (R265) -/
/-- The slot is filling with a tile at a stop, itself or its stand-in. -/
def Slot.filledBy (t : Slot) (it : Itin) (i : Nat) (d : Bool) : Bool :=
  t.state == .filling && t.itin == it && t.stop == i && t.divert == d
/-- TILE_FILL_START (R265): the first byte of message k's tile reaches a free slot. One that fills its slot already goes on to fill it,
also when its launch has ended by then: it has reached that stop (R351). -/
def execTileFillStart (k : Nat) (s : State) : Out :=
  .next (match s.arriving k with
    | none =>
      -- a tile whose stop cannot be reached goes onward (R364)
      match s.net[k]? with
      | some f =>
        match f.pay with
        | .tile it i m d data =>
          if s.inOrder f && f.hops.isEmpty && s.unreachable f then
            let p := s.spireOf f.dst
            let t := s.slotAt p it.slot
            let s := if t.filledBy it i d then s.setSlot p it.slot { t with state := .free } else s
            ((s.take k f).onward f.src (s.spireOf f.src) 16 it i m data none).2
          else s
        | _ => s
      | none => s
    | some f =>
      match f.pay with
      | .tile it i m d _ =>
        let p := s.spireOf f.dst
        let t := s.slotAt p it.slot
        if t.filledBy it i d then s
        else if s.tileEnded it.lix then ((s.take k f).onward f.dst p 16 it i m (match f.pay with | .tile _ _ _ _ b => b | _ => []) none).2
        else if t.state = .free then
          s.setSlot p it.slot { t with state := .filling, tile := it.tile, missed := m, itin := it, stop := i, gone := false,
                                       divert := d, owner := none, armed := false, timer := 0 }
        else s
      | _ => s)
/-- TILE_ARRIVED (R265): the last byte is written; the timer is loaded, the post made, and awaiting strands wake. -/
def execTileArrived (k : Nat) (s : State) : Out :=
  .next (match s.arriving k with
    | none => s
    | some f =>
      match f.pay with
      | .tile it i _ d data =>
        let p := s.spireOf f.dst
        let t := s.slotAt p it.slot
        if t.filledBy it i d then
          match it.stops[i]? with
          | none => s
          | some st =>
            let a := spBase p + t.base
            let s := (((s.take k f).powerSpan a data.length).cleared a data.length).poke a data
            let s := s.setSlot p it.slot { t with state := .arrived, timer := st.hold, armed := st.hold != 0, exp := false }
            if st.post then s.semAdd p it.slot 1 else s.wakeSpire p
        else s
      | _ => s)
/-- HOLD_TIMER_EXPIRY (R265, R266, R312): the stop's policy applies; a stand-in's own expiry counts as pol skip. -/
def execHoldTimerExpiry (spire slot : Nat) (s : State) : Out :=
  .next (
    let t := s.slotAt spire slot
    match t.itin.stops[t.stop]? with
    | none => s
    | some st =>
      if t.armed = false ∨ (t.state ≠ .arrived ∧ t.state ≠ .held) then s
      else
        let t := { t with timer := 0, armed := false, exp := true }
        if st.pol = 0 ∧ t.divert = false then s.setSlot spire slot t
        else
          let m := putBit t.missed t.stop true
          let src := (if t.divert then st.alt else st.core).toNat
          let a := spBase spire + t.base
          let data := s.bytes a t.itin.bytes
          -- an uncorrectable word of the slot is logged, and the bytes go on as they stand (log 57)
          let s := match s.badIn a t.size with
            | some d => s.logAt src cUncorrectable (0xFF0000000000 + d - spBase spire) (s.launchId t.itin.lix) src
            | none => s.scrub a t.size
          let toAlt := st.pol = 2 ∧ t.divert = false ∧ s.stopFails st.alt.toNat t.itin.slot t.itin.bytes = false ∧
            s.linkDown src st.alt.toNat = false ∧ s.tileEnded t.itin.lix = false
          let r := if toAlt then
              (true, s.post src st.alt.toNat 2 1000 t.itin.lix 0 (.tile t.itin t.stop m true data))
            else s.onward src spire (if t.state = .held then 16 else slot) t.itin (t.stop + 1) m data none
          if t.state = .held then r.2.setSlot spire slot { t with missed := m, gone := true }
          else r.2.setSlot spire slot { t with missed := m, state := if r.1 then .forwarding else .free })
/-- SLOT_FORWARD_DONE (R265): the last byte has left; a landing frees its slot itself. -/
def execSlotForwardDone (spire slot : Nat) (s : State) : Out :=
  .next (
    let t := s.slotAt spire slot
    let lands (o : EngOp) : Bool := match o.job with
      | .landing _ _ p n => p == spire && n == slot
      | _ => false
    if t.state = .forwarding ∧ ((s.spireAt spire).orphans.any fun x => lands x.op) = false ∧ (s.cores.any fun e => e.2.eng.any lands) = false
    then s.setSlot spire slot { t with state := .free }
    else s)

/-! ### The combining node (R306, R307) -/
/-- A copy is mergeable: unshaped, not performed in part, from GDDR or a valley store to the scratchpad window. -/
def mergeable (o : EngOp) : Bool :=
  match o.job with
  | .copy (.mem src) dst _ 0 true false => (src.all fun g => (sadOf g.ga).isSome) && dst.all fun g => isSpVa g.va
  | _ => false
/-- Two copies are identical (R306). -/
def sameCopy (a b : EngOp) : Bool :=
  match a.job, b.job with
  | .copy src dst _ _ _ _, .copy src' dst' _ _ _ _ => src == src' && dst.map (fun g => (g.va, g.n)) == dst'.map (fun g => (g.va, g.n))
  | _, _ => false
/-- A copy as the node holds it, and as it leaves the node: with the bytes read for it when it was merged. -/
def EngOp.inNode (o : EngOp) : EngOp :=
  match o.job with
  | .copy src dst b m p _ => { o with job := .copy src dst b m p true }
  | _ => o
def EngOp.outNode (src : Option EngSrc) (o : EngOp) : EngOp :=
  match o.job with
  | .copy own dst b m _ true => { o with job := .copy (src.getD own) dst b m false false }
  | _ => o
/-- Change the operation at the head of a core's queue. -/
def Core.onHead (k : Core) (f : EngOp → EngOp) : Core :=
  match k.eng with
  | o :: r => { k with eng := f o :: r }
  | [] => k
/-- An entry of the node holds an earlier request of core c to one of the saddles given by p (R306). -/
def NodeEnt.ofCore (c : Nat) (p : Nat → Bool) : NodeEnt → Bool
  | .tiles fs => fs.any fun f => f.src == c && p f.dst
  | .copies cs => cs.any fun e => e.1 == c && match e.2.job with
    | .copy (.mem src) _ _ _ _ _ => src.any fun g => (sadOf g.ga).any p
    | _ => false
/-- Join an entry of the node with an identical request, or hold the request as a new entry. The request keeps its place behind the
earlier requests of its core to its saddle: it joins no entry that stands before one of those (R306). -/
def joinTile (f : Flight) (it : Itin) : List NodeEnt → List NodeEnt
  | [] => [.tiles [f]]
  | x :: r =>
    match x with
    | .tiles (g :: gs) =>
      match g.pay with
      | .tileReq it' _ =>
        if it' = it ∧ g.lix = f.lix ∧ (r.any fun e => e.ofCore f.src (· == f.dst)) = false then .tiles (g :: gs ++ [f]) :: r
        else x :: joinTile f it r
      | _ => x :: joinTile f it r
    | _ => x :: joinTile f it r
def joinCopy (c : Nat) (o : EngOp) : List NodeEnt → List NodeEnt
  | [] => [.copies [(c, o)]]
  | x :: r =>
    match x with
    | .copies ((d, p) :: cs) =>
      let at' (d : Nat) : Bool := match o.job with
        | .copy src _ _ _ _ _ => src.at' d
        | _ => false
      if sameCopy p o && !(r.any fun e => e.ofCore c at') then .copies ((d, p) :: cs ++ [(c, o)]) :: r
      else x :: joinCopy c o r
    | _ => x :: joinCopy c o r
/-- COMBINING_NODE_ARRIVAL (R306): message k, a tile request of the core, or else the copy at the head of the core's queue,
is held at the node of the valley in which the core stands, or joins an identical one. -/
def execCombiningNodeArrival (core k : Nat) (s : State) : Out :=
  .next (
    let copyCase : State :=
      match (s.coreAt core).eng with
      | o :: _ =>
        if mergeable o then
          (s.modCore core fun c => c.onHead EngOp.inNode).modValley (s.valleyAtPlace core) fun v => { v with node := joinCopy core o v.node }
        else s
      | [] => s
    match s.net[k]? with
    | some f =>
      match f.pay with
      | .tileReq it [] =>
        if f.src = core ∧ f.hops = [] ∧ s.nodeWaits f = false then
          { s with net := dropAt s.net k }.modValley (s.valleyAtPlace core) fun v => { v with node := joinTile f it v.node }
        else copyCase
      | _ => copyCase
    | none => copyCase)
/-- COMBINING_HOLD_EXPIRY (R306, R307): the node forwards one request for all that its oldest entry holds. A merged copy is read once,
for every core that waits for it (log 58), once the earlier requests of those cores to the saddle are performed (R318, R319). -/
def execCombiningHoldExpiry (valley : Nat) (s : State) : Out :=
  .next (match (s.valleyAt valley).node with
    | [] => s
    | e :: r =>
      let waits : Bool := match e with
        | .copies cs => cs.any fun p => match p.2.job with
          | .copy src _ _ _ _ _ => s.storeAhead p.1 p.2.order src.segs
          | _ => false
        | .tiles _ => false
      if waits then s
      else
      let s := s.modValley valley fun v => { v with node := r }
      match e with
      | .tiles (f :: fs) =>
        let also := fs.map fun g => (g.src, g.seq, g.ctx, g.tag)
        let m : Flight := match f.pay with
          | .tileReq it _ => { f with pay := .tileReq it also }
          | _ => f
        { s with net := s.net ++ [m] }
      | .copies [(c, _)] => s.modCore c fun k => k.onHead (EngOp.outNode none)
      | .copies ((c, o) :: cs) =>
        let gs := match o.job with
          | .copy (.mem gs) _ _ _ _ _ => gs
          | _ => []
        let bad := s.readable c gs
        let x := s.srcRead (.mem gs)
        let src : EngSrc := .bytes (x.1.take bad.1) bad.2
        ((c, o) :: cs).foldl (fun s p => s.modCore p.1 fun k => k.onHead (EngOp.outNode (some src))) x.2
      | _ => s)

/-- TAKE_OUT_OF_SERVICE (R266): every later stop at the core fails. -/
def execTakeOutOfService (core : Nat) (s : State) : Out := .next (s.modCore core fun k => { k with oos := true })

end Sys2Proof.Machine
end

