-- ==== Sys2Proof/Machine/Task.lean ====
section
/-! DEFINITION. Tasks and composed cores (R270 to R279, R333). -/

namespace Sys2Proof.Machine
open Sys2Proof

/-! ### Task records (R270) -/
/-- Reserved bits of a record's first doubleword. -/
def recReserved (w : Word) : Bool := bitsOf w 63 62 != 0 || bitsOf w 41 37 != 0 || bitsOf w 1 0 != 0
/-- The record in four registers, pushed by the acting strand: its launch is that strand's. What the strand has issued before, here and on
the cores it has left, is to be performed before a strand of the record issues (R335). -/
def mkRec (w a1 a2 a3 : Word) (prio : BitVec 2) (s : State) : TaskRec :=
  { succ := w.getLsbD 61, cmpt := w.getLsbD 60, prio := prio, banks := w.extractLsb' 50 8, lix := s.st.lix,
    entry := BitVec.ofNat 48 (bitsOf w 36 2 * 4), a1 := a1, a2 := a2, a3 := a3,
    mark := (s.core, s.ctx, s.me.seqNo) :: s.st.left.map fun e => (e.1, 2000 + e.2, e.2) }
/-- The first doubleword of a record (R270). -/
def TaskRec.word (r : TaskRec) : Word :=
  w64 (r.succ.toNat * 2 ^ 61 + r.cmpt.toNat * 2 ^ 60 + r.prio.toNat * 2 ^ 58 + r.banks.toNat * 2 ^ 50 +
    r.lix.getD 0 % 256 * 2 ^ 42 + r.entry.toNat)
/-- Live task strands of a launch on a core, parked ones included (R331). -/
def Core.liveOf (k : Core) (l : Nat) : Nat :=
  (k.ctxs.filter fun e => e.2.life != .free && !e.2.hnd && e.2.lix == some l).length +
    (k.parked.filter fun p => p.strand.lix == some l).length
/-- R331 allows another strand of launch l, to which the core is admitted. -/
def State.admits (s : State) (c l : Nat) : Bool :=
  let a := s.launchAt l
  a.st == .placed && a.cores.contains c && decide ((s.coreAt c).liveOf l < a.c)
/-- Some record other than the one at index i of core c's deque retains a bank of the mask (R274). -/
def State.retainedOther (s : State) (c i : Nat) (banks : BitVec 8) : Bool :=
  s.cores.any fun e => s.spireOf e.1 == s.spireOf c &&
    (e.2.deque.zipIdx.any fun r => !(e.1 == c && r.2 == i) && (r.1.ret &&& banks) != 0)
/-- Core c may start a record (R333): admission, the bound, its kind, and the banks. -/
def State.mayStart (s : State) (c i : Nat) (r : TaskRec) : Bool :=
  (match r.lix with
   | some l => s.admits c l
   | none => false) && (!r.cmpt || isCompute c) && (isSaddle c || !s.retainedOther c i r.banks)
/-- Push a record at the owner end of a core's deque (R271). -/
def Core.pushRec (k : Core) (r : TaskRec) : Core := { k with deque := r :: k.deque }
/-- A core that backs off from stealing returns to run when the record pushed last is one it may start (R337). -/
def State.unback (s : State) (c : Nat) : State :=
  match (s.coreAt c).steal, (s.coreAt c).deque with
  | .back, r :: _ => if s.mayStart c 0 r then s.modCore c fun k => { k with steal := .run } else s
  | _, _ => s
/-- Push a record on a core's deque (R271, R337). -/
def State.pushTo (s : State) (c : Nat) (r : TaskRec) : State := (s.modCore c fun k => k.pushRec r).unback c
/-- The priority a pushed record receives (R271): from dflt, or its own when x = 1. -/
def pushPrio (s : State) (w : Word) (x : BitVec 1) : BitVec 2 :=
  if x = 1 then w.extractLsb' 58 2 else s.me.dflt.extractLsb' 24 2

/-- Effect of spawn (R271). -/
def effSpawn (ra : BitVec 4) (x : BitVec 1) : Eff := fun e s =>
  let w := e.r ra
  if recReserved w || (w.getLsbD 60 && !isCompute s.core) then .trap (tr cReservedField w) s
  else if Config.dequeDepth ≤ s.me.deque.length then .trap (tr cDequeFull 128) s
  else .done (s.pushTo s.core (mkRec w (e.r (ra + 1)) (e.r (ra + 2)) (e.r (ra + 3)) (pushPrio s w x) s))
/-- spawn (R271). -/
def execSpawn (la ra : BitVec 4) (x : BitVec 1) (s : State) : Out := .next (longOp (.spawn la ra x) (effSpawn ra x) s)

/-- Effect of spawn.r (R272). -/
def effSpawnR (ra rb : BitVec 4) (x : BitVec 1) : Eff := fun e s =>
  let w := e.r ra
  let d := e.r rb
  let n := d.toNat
  if recReserved w then .trap (tr cReservedField w) s
  else if 2 ^ 20 ≤ n ∨ s.inDomain (pkgOf n) = false ∨ (if isSaddle n then s.badSaddle n else n % 2 == 1) = true then
    .trap (tr cMsgDest d) s
  else if w.getLsbD 60 && !isCompute n then .trap (tr cReservedField w) s
  else
    let p := plainOf s.core
    let q : List TaskRec := fget [] (s.plainAt p).shadows n
    if Config.shadowDepth ≤ q.length then .wait true s
    else .done (s.modPlain p fun k => { k with shadows := fset k.shadows n (q ++
      [mkRec w (e.r (ra + 1)) (e.r (ra + 2)) (e.r (ra + 3)) (pushPrio s w x) s]) })
/-- spawn.r (R272). -/
def execSpawnR (la ra rb : BitVec 4) (x : BitVec 1) (s : State) : Out :=
  .next (longOp (.spawnR la ra rb x) (effSpawnR ra rb x) s)

/-- PROXY_BATCH_FORWARD (R272): up to 8 records of a shadow move in order to the owner end of the true deque; the batch is
held while the deque is full. -/
def State.pushAll (c : Nat) : Nat → List TaskRec → State → List TaskRec × State
  | 0, q, s => (q, s)
  | _, [], s => ([], s)
  | n + 1, r :: q, s => if Config.dequeDepth ≤ (s.coreAt c).deque.length then (r :: q, s) else State.pushAll c n q (s.pushTo c r)
def execProxyBatchForward (plain target : Nat) (s : State) : Out :=
  .next (
    let q : List TaskRec := fget [] (s.plainAt plain).shadows target
    if q.isEmpty || (s.coreAt target).frozen then s
    else
      let r := State.pushAll target 8 q s
      r.2.modPlain plain fun k => { k with shadows := fset k.shadows target r.1 })

/-- Effect of yield (R273): the strand counts as the newest ready strand of its class. -/
def effYield : Eff := fun _ => afterPend fun s =>
  .done (s.modSt fun t => { t with since := s.tick, wd := 0, cls := t.prio.toNat })
/-- yield (R273). -/
def execYield (s : State) : Out := .next (longOp .yield effYield s)

/-! ### Banks (R274, R289) -/
/-- Banks that hold a carve-out (R291). -/
def Carve.banks (c : Carve) : Nat → Bool := fun b =>
  ([c.sreq, c.srep, c.creq, c.crep, c.hstk, c.spill] ++ c.slots).any fun r => r.meets (b * 0x20000) 0x20000
/-- Something still names bank b of spire p. -/
def State.bankNamed (s : State) (p b : Nat) : Bool :=
  (s.cores.any fun e => !isSaddle e.1 && s.spireOf e.1 == p &&
    ((e.2.ctxs.any fun x => x.2.life != .free && x.2.banks.getLsbD b) || (e.2.parked.any fun x => x.strand.banks.getLsbD b) ||
      e.2.deque.any fun r => r.banks.getLsbD b || r.ret.getLsbD b)) ||
  ((s.spireAt p).carved && (s.spireAt p).carve.banks b)
/-- Power a bank down: it loses its contents (R274). -/
def State.bankDown (s : State) (p b : Nat) : State :=
  let lo := spBase p + b * 0x20000
  let s := s.modSpire p fun k => { k with up := putBit k.up b false }
  { s with mem := s.mem.filter fun c => !(decide (lo ≤ c.1) && decide (c.1 < lo + 0x20000)),
           bad := s.bad.filter fun c => !(decide (lo ≤ c.1) && decide (c.1 < lo + 0x20000)),
           soft := s.soft.filter fun c => !(decide (lo ≤ c.1) && decide (c.1 < lo + 0x20000)) }
/-- Power down the banks given that nothing names. -/
def State.banksDown (s : State) (p : Nat) (banks : BitVec 8) : State :=
  (List.range 8).foldl (fun s b => if banks.getLsbD b && !s.bankNamed p b then s.bankDown p b else s) s

/-- The acting strand has ended by halt (R274, R238): banks, bind entries, context. -/
def State.endStrand (s : State) : State :=
  let t := s.st
  let c := s.core
  let s := (s.freeCtx c s.ctx).disownLeft t
  let s := if isSaddle c then s else s.banksDown (s.spireOf c) t.banks
  if ((s.coreAt c).ctxs.any fun e => e.2.lix == t.lix && e.2.life != .free) || (s.coreAt c).parked.any fun p => p.strand.lix == t.lix then s
  else s.modCore c fun k => { k with binds := k.binds.filter fun b => b.lix != t.lix }
/-- Effect of halt (R274): acknowledgements and kept failures first (R225); a composed core hands back (R279);
a core that backs off from stealing returns to run when the successor is one it may start (R337). -/
def effHalt (ra : BitVec 4) (rt : BitVec 1) : Eff := fun e => afterPend fun s =>
  if s.st.hnd then .trap (tr cHandlerFault (Instr.halt ra rt).word) s
  else
    let s := if s.st.cmp then (s.handBack s.core).modSt fun t => { t with cmp := false } else s
    afterAcks (fun s =>
      -- an aborted handler's trap strand releases its message (R353)
      let fin (s : State) : State := (s.unhold s.st).endStrand
      if ra = 0 then .gone (fin s)
      else
        let w := e.r ra
        if recReserved w || (w.getLsbD 60 && !isCompute s.core) then .trap (tr cReservedField w) s
        else if Config.dequeDepth ≤ s.me.deque.length then .trap (tr cDequeFull 128) s
        else
          let r := mkRec w (e.r (ra + 1)) (e.r (ra + 2)) (e.r (ra + 3)) (w.extractLsb' 58 2) s
          .gone ((fin (s.modMe fun k => k.pushRec (if rt = 1 then { r with succ := true, ret := s.st.banks } else r))).unback s.core)) s
/-- halt (R274). -/
def execHalt (ra : BitVec 4) (rt : BitVec 1) (s : State) : Out := .next (longOp (.halt ra rt) (effHalt ra rt) s)

/-- Effect of trig (R275): after every earlier write of the strand, engine writes included. -/
def effTrig (la : BitVec 4) : Eff := fun e s =>
  if s.st.hnd then .trap (tr cHandlerFault (Instr.trig la).word) s
  else if s.busyBefore e.tag || s.writing e.tag fun _ => true then .wait false s
  else .done (s.modSt fun t => { t with triggered := true })
/-- trig (R275). -/
def execTrig (la : BitVec 4) (s : State) : Out := .next (longOp (.trig la) (effTrig la) s)

/-- Effect of await.ev (R276): the condition is tested here and at every update of the counter. -/
def effAwaitEv (ra rb : BitVec 4) : Eff := fun e => afterPend fun s =>
  let n := e.r ra
  if s.st.hnd then .trap (tr cHandlerFault (Instr.awaitEv ra rb).word) s
  else if 63 < n.toNat then .trap (tr cReservedField n) s
  else if s.st.cond || decide ((e.r rb).toNat ≤ (s.ec s.core n.toNat).toNat) then .done s
  else .wait true (s.modSt fun t => { t with waitEv := some (n.toNat, e.r rb) })
/-- await.ev (R276). -/
def execAwaitEv (ra rb : BitVec 4) (s : State) : Out := .next (longOp (.awaitEv ra rb) (effAwaitEv ra rb) s)

/-! ### Composed cores (R277 to R279) -/
/-- A core holds a live strand, other than context x of core c. MODEL'S CHOICE (log 35): the strands in its contexts count; one parked in
the spill area (R341), which R331 counts as live and R274 names apart, does not make a member busy. -/
def State.liveOther (s : State) (m c x : Nat) : Bool :=
  (s.coreAt m).ctxs.any fun e => e.2.life != .free && !(m == c && e.1 == x)
/-- Member s of a composition is busy (R277). -/
def State.memberBusy (s : State) (m : Nat) : Bool :=
  let k := s.coreAt m
  mstepAct k.mstep ||
    (if m = s.core then s.liveOther m s.core s.ctx
     else s.liveOther m s.core s.ctx || k.leader.isSome || bitsOf k.tshape 35 32 != 0)
/-- Effect of cmp (R277). -/
def effCmp (ra : BitVec 4) : Eff := fun e => afterPend fun s =>
  let w := e.r ra
  let n := popCount 16 w.toNat
  let mine := s.core / 4 % 16
  if bitsOf w 63 16 ≠ 0 ∨ w.getLsbD mine = false ∨ (n ≠ 2 ∧ n ≠ 4 ∧ n ≠ 8 ∧ n ≠ 16) then .trap (tr cReservedField w) s
  else if s.st.cmp then .trap (tr cComposeState (Instr.cmp ra).word) s
  else
    let num (i : Nat) := s.core / 64 * 64 + i * 4 + 2
    let set := (List.range 16).filter fun i => w.getLsbD i
    let busy := set.filter fun i => s.memberBusy (num i)
    if busy.isEmpty then
      let others := (set.filter fun i => i != mine).map num
      let s := (s.core :: others).foldl (fun s' m => s'.modCore m fun k => { k with leader := some s.core }) s
      .done ((s.modMe fun k => { k with members := s.core :: others }).modSt fun t => { t with cmp := true })
    else .trap (tr cComposeBusy (w64 ((busy.map fun i => 2 ^ i).foldl (· + ·) 0))) s
/-- cmp (R277). -/
def execCmp (ra : BitVec 4) (s : State) : Out := .next (longOp (.cmp ra) (effCmp ra) s)
/-- Effect of dcmp (R279): no effect on a core that is not composed. -/
def effDcmp : Eff := fun _ => afterPend fun s =>
  .done (if s.st.cmp then (s.handBack s.core).modSt fun t => { t with cmp := false } else s)
/-- dcmp (R279). -/
def execDcmp (s : State) : Out := .next (longOp .dcmp effDcmp s)

end Sys2Proof.Machine
end

