-- ==== Sys2Proof/Machine/Lanes.lean ====
section
/-! DEFINITION. What the vector and matrix units share: element codes, rounding with flags and counters, conversions, scaled
sums, and 64-byte blocks through pointer registers (R22, R53 to R75, R147 to R151, R178). -/

namespace Sys2Proof.Machine
open Sys2Proof

/-! ### What a computation raises, counts and draws (R32, R57, R60) -/
/-- Flags, counts and generator state as an instruction or a step goes; it is committed with its results (R97, R183). -/
structure Raise where
  fl   : Flags := 0
  sub  : Nat := 0
  sat  : Nat := 0
  mrow : Nat := 0
  nan  : Nat := 0
  rng  : BitVec 32 := 0
  deriving DecidableEq, Repr

/-- What governs a computation: sw.rm, sw.sr, fmt.uns. -/
structure Ctl where
  rm  : Rm
  sr  : Bool
  uns : Bool
  deriving DecidableEq, Repr

def State.ctl (s : State) : Ctl := { rm := s.st.rm, sr := s.st.sr, uns := s.me.fmt.getLsbD 6 }
/-- Nothing raised yet. -/
def State.calm (s : State) : Raise := { rng := s.me.rngs.setWidth 32 }
/-- Add to a counter of R32, which stops at 0xFFFF_FFFF. -/
def cntAdd (w : Word) (n : Nat) : Word := w64 (Nat.min (w.toNat + n) 0xFFFFFFFF)
/-- Merge what was raised into sw.flags, the counters and rngs. -/
def State.commit (s : State) (r : Raise) : State :=
  (s.mergeFlags r.fl).modMe fun k => { k with
    mxsub := cntAdd k.mxsub r.sub
    mxsat := cntAdd k.mxsat r.sat
    mxmrow := cntAdd k.mxmrow r.mrow
    mxnan := cntAdd k.mxnan r.nan
    rngs := r.rng.setWidth 64 }

def Raise.flag (r : Raise) (f : Flags) : Raise := { r with fl := r.fl ||| f }
/-- A result and its flags. -/
def Raise.take (r : Raise) (x : Nat × Flags) : Nat × Raise := (x.1, r.flag x.2)
/-- Deliver a value in a format (R56, R60, R158): stochastically for BF16 under sw.sr. -/
def Raise.deliver (r : Raise) (c : Ctl) (f : FpFmt) (x : Fv) (sticky : Bool := false) : Nat × Raise :=
  if c.sr && f == bf16 then
    let r := { r with rng := rngStep r.rng }
    r.take (roundStoch r.rng x sticky)
  else r.take (f.round c.rm x sticky)
/-- Round in FP32 or another internal format to nearest even (R66). -/
def Raise.near (r : Raise) (f : FpFmt) (x : Fv × Flags) : Nat × Raise := (r.flag x.2).take (f.round rne x.1)

/-! ### Elements (R28, R52 to R55, R147) -/
/-- Element e of width w of an operand held as one number. -/
def elt (w x e : Nat) : Nat := x / 2 ^ (w * e) % 2 ^ w
/-- The integer value of a code; a reserved code reads 0 and is counted (R53, R54). -/
def Raise.int (r : Raise) (el : Elem) (uns : Bool) (code : Nat) : Int × Raise :=
  let v := intVal el uns code
  (v.1, if v.2 then { r with sub := r.sub + 1 } else r)
/-- An element read to be moved (R53, R159): its code, that of 0 where the code is reserved, which is counted. -/
def Raise.moved (r : Raise) (el : Elem) (uns : Bool) (code : Nat) : Nat × Raise :=
  match el with
  | .f _ => (code, r)
  | _ =>
    let v := r.int el uns code
    (codeI el.width v.1, v.2)
/-- The value of a code of any format. -/
def Raise.val (r : Raise) (el : Elem) (uns : Bool) (code : Nat) : Fv × Raise :=
  match el with
  | .f f => (f.value code, r)
  | _ =>
    let v := r.int el uns code
    (Fv.ofInt v.1, v.2)
/-- Convert a code from one format to another (R56, R58, R59, R163); d says whether a BF16 result counts as delivered under
stochastic mode. -/
def Raise.conv (r : Raise) (c : Ctl) (d : Bool) (src dst : Elem) (code : Nat) : Nat × Raise :=
  let c := if d then c else { c with sr := false }
  match src, dst with
  | .f sf, .f df => r.deliver c df (sf.value code)
  | .f sf, _ =>
    let x := Fv.fit c.rm (intLo dst c.uns) (intHi dst c.uns) (sf.value code)
    (codeI dst.width x.1, r.flag x.2)
  | _, .f df =>
    let v := r.int src c.uns code
    v.2.deliver c df (Fv.ofInt v.1)
  | _, _ =>
    let v := r.int src c.uns code
    (codeI dst.width (clampI (intLo dst c.uns) (intHi dst c.uns) v.1), v.2)
/-- The code 0x8 of signed INT4 is written as 0x9 (R159). -/
def fix4 (el : Elem) (uns : Bool) (code : Nat) : Nat :=
  match el with
  | .i 4 => if !uns && code == 8 then 9 else code
  | _ => code

/-! ### Scales and scaled sums (R50, R51, R62 to R64) -/
/-- Format of fmt.sfmt: a scale byte's value. -/
def scaleVal (sfmt c : Nat) : Fv :=
  match sfmt with
  | 0 => if c = 255 then .nan else .fin false 1 ((c : Int) - 127)
  | 1 => e5m2.value c
  | _ => e4m3.value c
/-- Scales of an operand from its registers, eight to a register; 1.0 when no register is named. -/
def scaleOf (sfmt : Nat) (regs : List Word) (b : Nat) : Fv :=
  match regs[b / 8]? with
  | some w => scaleVal sfmt (bitsOf w (8 * (b % 8) + 7) (8 * (b % 8)))
  | none => .fin false 1 0
/-- Exact products of lists of values, with their flags. -/
def products : List Fv → List Fv → List Fv × Flags
  | a :: as, b :: bs =>
    let p := a.mul b
    let r := products as bs
    (p.1 :: r.1, p.2 ||| r.2)
  | _, _ => ([], 0)
/-- The exact sum of products, and the flags on its way. -/
def dotFv (as bs : List Fv) : Fv × Flags :=
  let p := products as bs
  let s := sumFv rne p.1
  (s.1, p.2 ||| s.2)
/-- Blocks of R63 from b on: FP32 code of the running sum. -/
def blockSums (bl sfmt : Nat) (sa sb : Nat → Fv) : Nat → Nat → List Fv → List Fv → Option Nat → Raise → Nat × Raise
  | 0, _, _, _, acc, r => (acc.getD 0, r)
  | n + 1, b, as, bs, acc, r =>
    let d := dotFv (as.take bl) (bs.take bl)
    let s := d.1.add rne (.fin false 0 0)
    let r := r.flag d.2
    let v : Nat × Raise :=
      if (sa b).isNaN || (sb b).isNaN then (fp32.canonNaN, { (r.flag fNV) with nan := r.nan + 1 })
      else
        let p := s.1.mul (sa b)
        let q := p.1.mul (sb b)
        r.near fp32 (q.1, p.2 ||| q.2)
    let w : Nat × Raise := match acc with
      | none => v
      | some a => v.2.near fp32 ((fp32.value a).add rne (fp32.value v.1))
    blockSums bl sfmt sa sb n (b + 1) (as.drop bl) (bs.drop bl) (some w.1) w.2
/-- The scaled sum of R63, with the tensor scales of tsc: an FP32 code. -/
def scaledSum (bl sfmt nb : Nat) (sa sb : Nat → Fv) (tsc : Word) (as bs : List Fv) (r : Raise) : Nat × Raise :=
  let a := blockSums bl sfmt sa sb nb 0 as bs none r
  let x := a.2.near fp32 ((fp32.value a.1).mul (bf16.value (bitsOf tsc 31 16)))
  x.2.near fp32 ((fp32.value x.1).mul (bf16.value (bitsOf tsc 15 0)))

/-! ### Blocks -/
/-- A block's virtual and global address. -/
structure Blk where
  va : Nat
  ga : Nat
  deriving DecidableEq, Repr

/-- Translate and check a block (R19, R151): the trap, and whether it is an error response that is logged (R315). The own valley store
answers LINK_DOWN while its saddle's island is off (R420, log 20). -/
def State.blk (s : State) (a : Acc) (va : Nat) : Except (Trap × Bool) Blk :=
  match s.xlate va 64 a with
  | .error t => .error (t, true)
  | .ok pa =>
    if s.isLocal s.core pa && s.storeAway pa then .error (tr cLinkDown (w64 va), true)
    else if s.isLocal s.core pa then .ok { va := va, ga := s.globalOf s.core pa }
    else .error (tr cPinnedRemote (w64 (va + if s.st.hnd then 2 ^ 63 else 0)), false)
/-- Several blocks, in order. -/
def State.blks (s : State) (a : Acc) : List Nat → Except (Trap × Bool) (List Blk)
  | [] => .ok []
  | v :: r =>
    match s.blk a v with
    | .error e => .error e
    | .ok b =>
      match s.blks a r with
      | .error e => .error e
      | .ok bs => .ok (b :: bs)
/-- The walks of the translations of blocks (R313). -/
def State.walkedBlks (s : State) (vas : List Nat) : State := s.xlatedSegs (vas.map fun v => { va := v, ga := 0, n := 64 })
/-- A checked trap: an error response is logged, another is not. -/
def State.refuse (s : State) (e : Trap × Bool) : Res := if e.2 then s.fail e.1 else .trap e.1 s
/-- An earlier posted store of the core to a block's valley store has not been performed (R318). -/
def State.blkBusy (s : State) (b : Blk) : Bool :=
  decide (b.ga < 2 ^ 60) && (s.queuedTo (respOf b.ga) || s.flyingTo (respOf b.ga) s.me.seqNo)
/-- Tag of a scratchpad line (R74); an unlisted line holds 0x2. -/
def State.tagAt (s : State) (ga : Nat) : Nat :=
  (fget (2 : BitVec 4) (s.spireAt ((ga - 2 ^ 60) / 2 ^ 20)).tags (ga % 2 ^ 20 / 64)).toNat
/-- The tag check of R75 on a read in format x: none to read as it is, or the tag to convert from. -/
def State.tagCheck (s : State) (va ga x : Nat) : Except Trap (Option Nat) :=
  let f := s.me.fmt
  if !f.getLsbD 15 || decide (ga < 2 ^ 60) then .ok none
  else
    let t := s.tagAt ga
    if t = x then .ok none
    else if 12 < t ∨ fmtWidth t ≠ fmtWidth x ∨ f.getLsbD 14 = true then
      .error (tr cFmtMismatch (w64 (va / 64 * 64 + t * 2 ^ 48 + x * 2 ^ 52)))
    else .ok (some t)
/-- Elements of a block converted from format t to x where on says so (R75). -/
def convBlk (c : Ctl) (t x : Nat) (on : Nat → Bool) (v : Nat) : Nat → Nat → Raise → Nat × Raise
  | 0, _, r => (0, r)
  | n + 1, e, r =>
    let w := fmtWidth x
    let one : Nat × Raise := match elemOf t, elemOf x with
      | some te, some xe => if on e then r.conv c false te xe (elt w v e) else (elt w v e, r)
      | _, _ => (elt w v e, r)
    let rest := convBlk c t x on v n (e + 1) one.2
    (one.1 + 2 ^ w * rest.1, rest.2)
/-- What reading blocks gives: the operand as one number, or the trap; the address whose responder logs it, if any. -/
abbrev Got := Except (Trap × Option Nat) (Nat × Raise) × State
/-- Read blocks in order as elements of format fmt (none: raw bytes), n0 blocks of the operand being behind them. DESIGN CHOICE (log 29):
the tag of a line is checked once its bytes are read, so that a line with a wrong tag and an uncorrectable doubleword is UNCORRECTABLE. -/
def State.readBlks (s : State) (c : Ctl) (fmt : Option Nat) (on : Nat → Bool) : List Blk → Nat → Raise → Got
  | [], _, r => (.ok (0, r), s)
  | b :: bs, n0, r =>
    match s.readAt b.ga 64 b.va with
    | (.error t, s) => (.error (t, some b.ga), s)
    | (.ok bytes, s) =>
      let v := ofLe bytes
      let here : Except Trap (Nat × Raise) := match fmt with
        | none => .ok (v, r)
        | some x =>
          match s.tagCheck b.va b.ga x with
          | .error t => .error t
          | .ok none => .ok (v, r)
          | .ok (some t) =>
            let per := 512 / fmtWidth x
            .ok (convBlk c t x (fun e => on (n0 * per + e)) v per 0 r)
      match here with
      | .error t => (.error (t, none), s)
      | .ok (v, r) =>
        match s.readBlks c fmt on bs (n0 + 1) r with
        | (.error e, s) => (.error e, s)
        | (.ok (u, r), s) => (.ok (v + 2 ^ 512 * u, r), s)
/-- A mask bit range of a doubleword is full. -/
def fullDw (mask d : Nat) : Bool := elt 64 mask d == 2 ^ 64 - 1
/-- Write the bits of mask of one block (R151): refused when an uncorrectable doubleword would not be overwritten whole. -/
def State.putBlk (s : State) (b : Blk) (fmt mask v : Nat) : Except Trap State :=
  if mask = 0 then .ok s
  else
    let s := s.power b.ga
    let inBlk (d : Nat) : Bool := decide (b.ga ≤ d) && decide (d < b.ga + 64)
    match lowest (s.bad.filter fun e => inBlk e.1 && !fullDw mask ((e.1 - b.ga) / 8)) with
    | some d => .error (tr cUncorrectable (w64 (b.va + d - b.ga)))
    | none =>
      let old := ofLe (s.bytes b.ga 64)
      let new := old - (old &&& mask) + (v &&& mask)
      let s := { s with bad := s.bad.filter fun e => !inBlk e.1,
                        soft := s.soft.filter fun e => !(inBlk e.1 && fullDw mask ((e.1 - b.ga) / 8)) }
      .ok ((s.poke b.ga (leBytes 64 new)).setTag b.ga 64 fmt)
/-- Write blocks in ascending order; those before a refused one stay written (R151). -/
def State.putBlks (s : State) (fmt : Nat) : List Blk → Nat → Nat → State × Option (Trap × Nat)
  | [], _, _ => (s, none)
  | b :: bs, mask, v =>
    match s.putBlk b fmt (mask % 2 ^ 512) (v % 2 ^ 512) with
    | .error t => (s, some (t, b.ga))
    | .ok s => s.putBlks fmt bs (mask / 2 ^ 512) (v / 2 ^ 512)
/-- Elements by index as one number, and their mask. -/
def packEls (w : Nat) : List (Nat × Nat) → Nat × Nat
  | [] => (0, 0)
  | (e, c) :: r =>
    let p := packEls w r
    (p.1 + (2 ^ w - 1) * 2 ^ (w * e), p.2 + c % 2 ^ w * 2 ^ (w * e))

end Sys2Proof.Machine
end

