-- ==== Sys2Proof/Machine/Vector.lean ====
section
/-! DEFINITION. Vector instructions (R147 to R173). -/

namespace Sys2Proof.Machine
open Sys2Proof

/-! ### Issue checks (R150, R164, R167) -/
/-- A check an instruction makes at its issue (R88 order 6): its trap is taken there, whatever its lookahead. -/
def longChk (i : Instr) (chk : State → Option Trap) (eff : Eff) (s : State) : State :=
  if s.gate && !(waitsAll i && !s.st.pend.isEmpty) && (s.decodeTrap i).isNone then
    match chk s with
    | some t => (s.modSt fun u => { u with pin := u.pin || i.pins }).raise t
    | none => longOp i eff s
  else longOp i eff s

/-- Classes of R150. -/
def isF (c : Nat) : Bool := decide (c ≤ 6)
def isI (c : Nat) : Bool := c == 7 || c == 8 || c == 10 || c == 11 || c == 12
def isFI (c : Nat) : Bool := isF c || isI c
def isW8 (c : Nat) : Bool := isFI c && decide (8 ≤ fmtWidth c)
/-- Formats of the scaled forms (R154). -/
def isScl (c : Nat) : Bool := decide (4 ≤ c) && decide (c ≤ 8)
/-- Format code of fmt.acc (R27). -/
def accCode (fmt : Word) : Nat :=
  match bitsOf fmt 11 10 with
  | 0 => 1
  | 1 => 0
  | 2 => 11
  | _ => 12
/-- A format an instruction does not accept traps with the word and fmt (R150). -/
def fmtChk (i : Instr) (ok : Word → Bool) (s : State) : Option Trap :=
  if ok s.me.fmt then none else some (tr cReservedField (i.word + w64 (bitsOf s.me.fmt 31 0 * 2 ^ 32)))
def elemChk (ok : Nat → Bool) (fmt : Word) : Bool := ok (bitsOf fmt 3 0)
/-- A reduction into va (R150). -/
def redChk (fmt : Word) : Bool := isFI (bitsOf fmt 3 0) && (isF (bitsOf fmt 3 0) == isF (accCode fmt))
/-- The scaled forms need an FP32 or FP64 va (R164, R167). -/
def sclChk (fmt : Word) : Bool := isScl (bitsOf fmt 3 0) && isF (accCode fmt)

/-! ### Running one instruction (R148, R149, R151) -/
/-- Bit e of predicate k. -/
def State.qbit (s : State) (k e : Nat) : Bool := (fget (0 : BitVec 128) s.me.q k).getLsbD e
/-- pm enables element e (R149). -/
def State.on (s : State) (pm : BitVec 4) (e : Nat) : Bool := if pm.toNat < 8 then true else s.qbit (pm.toNat - 8) e
/-- A source operand: pointer, blocks, format (none: raw), whether pm disables its elements, and whether they are unsigned where that is
not for fmt.uns to say (R160, R165, R171). -/
structure Src where
  k   : BitVec 4
  n   : Nat
  fmt : Option Nat
  dis : Bool := true
  uns : Option Bool := none

/-- Addresses of the sources in order, and the pointers after them. -/
def planSrcs (ps : List (Nat × Ptr)) : List Src → List (List Nat) × List (Nat × Ptr)
  | [] => ([], ps)
  | a :: r =>
    let x := (ptrOf ps a.k).run a.n
    let rest := planSrcs (fset ps a.k.toNat x.2) r
    (x.1 :: rest.1, rest.2)
/-- Blocks of every source, checked in order. -/
def State.srcBlks (s : State) : List (List Nat) → Except (Trap × Bool) (List (List Blk))
  | [] => .ok []
  | a :: r =>
    match s.blks .rd a with
    | .error e => .error e
    | .ok b =>
      match s.srcBlks r with
      | .error e => .error e
      | .ok bs => .ok (b :: bs)
/-- Read every source in order. -/
def State.readSrcs (s : State) (on : Nat → Bool) : List (Src × List Blk) → Raise →
    Except (Trap × Option Nat) (List Nat × Raise) × State
  | [], r => (.ok ([], r), s)
  | (a, bs) :: rest, r =>
    match s.readBlks { s.ctl with uns := a.uns.getD s.ctl.uns } a.fmt (fun e => !a.dis || on e) bs 0 r with
    | (.error e, s) => (.error e, s)
    | (.ok (x, r), s) =>
      match s.readSrcs on rest r with
      | (.error e, s) => (.error e, s)
      | (.ok (xs, r), s) => (.ok (x :: xs, r), s)
/-- Check every address, read every source block, and go on with the operands, the destination blocks, the pointers as they
are after the instruction, and what the conversions of R75 raised. peek: the destination block is also read, in a format. -/
def withBlocks (on : Nat → Bool) (srcs : List Src) (peek : Option Nat) (d : BitVec 4) (nd : Nat)
    (f : List Nat → List Blk → List (Nat × Ptr) → Raise → State → Res) (s : State) : Res :=
  let p := planSrcs s.me.ptr srcs
  let dst := (ptrOf p.2 d).run nd
  let ps := if nd = 0 then p.2 else fset p.2 d.toNat dst.2
  match s.srcBlks p.1 with
  | .error e => (s.walkedBlks p.1.flatten).refuse e
  | .ok bs =>
    match s.blks (if peek.isSome then .rw else .wr) dst.1 with
    | .error e => (s.walkedBlks (p.1.flatten ++ dst.1)).refuse e
    | .ok ds =>
      let s := s.walkedBlks (p.1.flatten ++ dst.1)
      if bs.flatten.any s.blkBusy || ds.any s.blkBusy then .wait false s
      else
        let ops := match peek with
          | some m => srcs.zip bs ++ [({ k := d, n := nd, fmt := some m }, ds)]
          | none => srcs.zip bs
        match s.readSrcs on ops s.calm with
        | (.error (t, some ga), s) => s.failAt ga t
        | (.error (t, none), s) => .trap t s
        | (.ok (xs, r), s) => f xs ds ps r s
/-- Pointers and what was raised are committed when the results are written (R97, R151). -/
def vecDone (ps : List (Nat × Ptr)) (r : Raise) (s : State) : Res := .done ((s.modMe fun k => { k with ptr := ps }).commit r)
/-- Write elements of a format through the destination blocks. -/
def vecPut (fmt : Nat) (ds : List Blk) (ps : List (Nat × Ptr)) (els : List (Nat × Nat)) (r : Raise) (s : State) : Res :=
  let fix (c : Nat) : Nat := match elemOf fmt with
    | some el => fix4 el s.ctl.uns c
    | none => c
  let p := packEls (fmtWidth fmt) (els.map fun e => (e.1, fix (e.2 % 2 ^ fmtWidth fmt)))
  match s.putBlks fmt ds p.1 p.2 with
  | (s, some (t, ga)) => s.failAt ga t
  | (s, none) => vecDone ps r s
/-- Results of the enabled elements, in ascending order. -/
def mapEls (on : Nat → Bool) (f : Nat → Raise → Nat × Raise) : Nat → Nat → Raise → List (Nat × Nat) × Raise
  | 0, _, r => ([], r)
  | n + 1, e, r =>
    if on e then
      let x := f e r
      let rest := mapEls on f n (e + 1) x.2
      ((e, x.1) :: rest.1, rest.2)
    else mapEls on f n (e + 1) r

/-- An elementwise instruction on blocks of fmt.elem: f gives an element's code from its operands'. -/
def elementsOf (vd : BitVec 4) (srcs : List Src) (peek : Bool) (on : Nat → Bool) (dis : Bool)
    (f : Nat → List Nat → Raise → Nat × Raise) (s : State) : Res :=
  let x := bitsOf s.me.fmt 3 0
  let w := fmtWidth x
  withBlocks on srcs (if peek then some x else none) vd 1
    (fun xs ds ps r s =>
      let m := mapEls (fun e => !dis || on e) (fun e => f e (xs.map fun v => elt w v e)) (512 / w) 0 r
      vecPut x ds ps m.1 m.2 s) s
/-- An elementwise instruction whose sources are all read as fmt says. -/
def elementwise (vd : BitVec 4) (srcs : List (BitVec 4)) (peek : Bool) (on : Nat → Bool) (dis : Bool)
    (f : Nat → List Nat → Raise → Nat × Raise) (s : State) : Res :=
  elementsOf vd (srcs.map fun k => { k := k, n := 1, fmt := some (bitsOf s.me.fmt 3 0), dis := dis }) peek on dis f s

/-! ### Pointer set-up (R155 to R157) -/
/-- Effect of ptrset (R155). -/
def effPtrset (vd vs1 vs2 : BitVec 4) : Eff := fun e s =>
  let b := e.r vs1
  let v := e.r vs2
  if bitsOf b 63 48 ≠ 0 then .trap (tr cReservedField b) s
  else if b.toNat % 64 ≠ 0 ∨ bitsOf v 31 0 % 64 ≠ 0 then .trap (tr cMisalign b) s
  else if cnt (v.extractLsb' 32 16) ≤ bitsOf v 63 48 then .trap (tr cReservedField v) s
  else
    let p : Ptr := { base := b.extractLsb' 0 48, s1 := v.extractLsb' 0 32, c1 := v.extractLsb' 32 16, i1 := v.extractLsb' 48 16,
                     s2 := 0, c2 := 1, i2 := 0 }
    .done (s.modMe fun k => { k with ptr := fset k.ptr vd.toNat p })
/-- ptrset (R155). -/
def execPtrset (la vd vs1 vs2 : BitVec 4) (s : State) : Out := .next (longOp (.ptrset la vd vs1 vs2) (effPtrset vd vs1 vs2) s)

/-- Effect of ptrdim (R156): the info of its MISALIGN, which R156 does not give, is G[vs1] (log 23). -/
def effPtrdim (vd vs1 : BitVec 4) : Eff := fun e s =>
  let v := e.r vs1
  if bitsOf v 31 0 % 64 ≠ 0 then .trap (tr cMisalign v) s
  else if cnt (v.extractLsb' 32 16) ≤ bitsOf v 63 48 then .trap (tr cReservedField v) s
  else
    let p : Ptr := { ptrOf s.me.ptr vd with s2 := v.extractLsb' 0 32, c2 := v.extractLsb' 32 16, i2 := v.extractLsb' 48 16 }
    .done (s.modMe fun k => { k with ptr := fset k.ptr vd.toNat p })
/-- ptrdim (R156). -/
def execPtrdim (la vd vs1 : BitVec 4) (s : State) : Out := .next (longOp (.ptrdim la vd vs1) (effPtrdim vd vs1) s)

/-- The value that ptrget's sel selects (R157). -/
def Ptr.sel (p : Ptr) (sel : Nat) : Word :=
  match sel with
  | 0 => w64 p.addr
  | 1 => p.base.setWidth 64
  | 2 => p.i1 ++ p.c1 ++ p.s1
  | _ => p.i2 ++ p.c2 ++ p.s2
/-- Effect of ptrget (R157). -/
def effPtrget (vd vs1 vs2 : BitVec 4) : Eff := fun _ s => .done (s.setG vd ((ptrOf s.me.ptr vs1).sel vs2.toNat))
/-- ptrget (R157). -/
def execPtrget (la vd vs1 vs2 : BitVec 4) (s : State) : Out := .next (longOp (.ptrget la vd vs1 vs2) (effPtrget vd vs1 vs2) s)

/-! ### Elementwise arithmetic (R158 to R160) -/
/-- An arithmetic function on element codes: ff on F elements, fi on I elements, saturated (R158, R159). -/
def arith (ff : Rm → List Fv → Fv × Flags) (fi : List Int → Int) (c : Ctl) (el : Elem) (xs : List Nat) (r : Raise) : Nat × Raise :=
  match el with
  | .f f =>
    let x := ff c.rm (xs.map f.value)
    (r.flag x.2).deliver c f x.1
  | _ =>
    let v := xs.foldl (fun (a : List Int × Raise) x =>
      let y := a.2.int el c.uns x
      (a.1 ++ [y.1], y.2)) ([], r)
    (codeI el.width (clampI (intLo el c.uns) (intHi el c.uns) (fi v.1)), v.2)
/-- The element format in force. -/
def State.elem (s : State) : Elem := (elemOf (bitsOf s.me.fmt 3 0)).getD (.i 8)
/-- An elementwise arithmetic instruction. -/
def arithEff (vd : BitVec 4) (srcs : List (BitVec 4)) (peek : Bool) (pm : BitVec 4) (ff : Rm → List Fv → Fv × Flags)
    (fi : List Int → Int) : Eff := fun _ s =>
  elementwise vd srcs peek (s.on pm) true (fun _ => arith ff fi s.ctl s.elem) s
def f0 (xs : List Fv) : Fv := xs.getD 0 .nan
def f1 (xs : List Fv) : Fv := xs.getD 1 .nan
def f2 (xs : List Fv) : Fv := xs.getD 2 .nan
def i0 (xs : List Int) : Int := xs.getD 0 0
def i1 (xs : List Int) : Int := xs.getD 1 0
def i2 (xs : List Int) : Int := xs.getD 2 0

/-- Effect of vadd (R158). -/
def effVadd (vd vs1 vs2 pm : BitVec 4) : Eff :=
  arithEff vd [vs1, vs2] false pm (fun m x => (f0 x).add m (f1 x)) (fun x => i0 x + i1 x)
/-- vadd (R158). -/
def execVadd (la vd vs1 vs2 pm : BitVec 4) (s : State) : Out :=
  .next (longChk (.vadd la vd vs1 vs2 pm) (fmtChk (.vadd la vd vs1 vs2 pm) (elemChk isFI)) (effVadd vd vs1 vs2 pm) s)

/-- Effect of vsub (R158). -/
def effVsub (vd vs1 vs2 pm : BitVec 4) : Eff :=
  arithEff vd [vs1, vs2] false pm (fun m x => (f0 x).add m (f1 x).neg) (fun x => i0 x - i1 x)
/-- vsub (R158). -/
def execVsub (la vd vs1 vs2 pm : BitVec 4) (s : State) : Out :=
  .next (longChk (.vsub la vd vs1 vs2 pm) (fmtChk (.vsub la vd vs1 vs2 pm) (elemChk isFI)) (effVsub vd vs1 vs2 pm) s)

/-- Effect of vmul (R158). -/
def effVmul (vd vs1 vs2 pm : BitVec 4) : Eff :=
  arithEff vd [vs1, vs2] false pm (fun _ x => (f0 x).mul (f1 x)) (fun x => i0 x * i1 x)
/-- vmul (R158). -/
def execVmul (la vd vs1 vs2 pm : BitVec 4) (s : State) : Out :=
  .next (longChk (.vmul la vd vs1 vs2 pm) (fmtChk (.vmul la vd vs1 vs2 pm) (elemChk isFI)) (effVmul vd vs1 vs2 pm) s)

/-- vmin and vmax of R158: a choice of F elements is no rounding, so it neither raises nor draws (R60). -/
def minmaxEff (isMax : Bool) (vd vs1 vs2 pm : BitVec 4) : Eff := fun _ s =>
  let c := s.ctl
  let el := s.elem
  elementwise vd [vs1, vs2] false (s.on pm) true (fun _ xs r =>
    match el with
    | .f f => ((f.round rne (Fv.minmax isMax (f.value (xs.getD 0 0)) (f.value (xs.getD 1 0)))).1, r)
    | _ => arith (fun _ _ => (.nan, 0)) (fun v => if isMax then max (i0 v) (i1 v) else min (i0 v) (i1 v)) c el xs r) s
/-- Effect of vmin (R158). -/
def effVmin (vd vs1 vs2 pm : BitVec 4) : Eff := minmaxEff false vd vs1 vs2 pm
/-- vmin (R158). -/
def execVmin (la vd vs1 vs2 pm : BitVec 4) (s : State) : Out :=
  .next (longChk (.vmin la vd vs1 vs2 pm) (fmtChk (.vmin la vd vs1 vs2 pm) (elemChk isFI)) (effVmin vd vs1 vs2 pm) s)
/-- Effect of vmax (R158). -/
def effVmax (vd vs1 vs2 pm : BitVec 4) : Eff := minmaxEff true vd vs1 vs2 pm
/-- vmax (R158). -/
def execVmax (la vd vs1 vs2 pm : BitVec 4) (s : State) : Out :=
  .next (longChk (.vmax la vd vs1 vs2 pm) (fmtChk (.vmax la vd vs1 vs2 pm) (elemChk isFI)) (effVmax vd vs1 vs2 pm) s)

/-- vabs and vneg of R158: of F elements only the sign bit changes. -/
def signEff (ff : Nat → Nat → Nat) (fi : Int → Int) (vd vs1 pm : BitVec 4) : Eff := fun _ s =>
  let c := s.ctl
  let el := s.elem
  elementwise vd [vs1] false (s.on pm) true (fun _ xs r =>
    match el with
    | .f f => (ff (f.width - 1) (xs.getD 0 0), r)
    | _ => arith (fun _ _ => (.nan, 0)) (fun v => fi (i0 v)) c el xs r) s
/-- Effect of vabs (R158). -/
def effVabs (vd vs1 pm : BitVec 4) : Eff := signEff (fun w x => x % 2 ^ w) (fun v => (v.natAbs : Int)) vd vs1 pm
/-- vabs (R158). -/
def execVabs (la vd vs1 pm : BitVec 4) (s : State) : Out :=
  .next (longChk (.vabs la vd vs1 pm) (fmtChk (.vabs la vd vs1 pm) (elemChk isFI)) (effVabs vd vs1 pm) s)
/-- Effect of vneg (R158). -/
def effVneg (vd vs1 pm : BitVec 4) : Eff := signEff (fun w x => x ^^^ 2 ^ w) (fun v => -v) vd vs1 pm
/-- vneg (R158). -/
def execVneg (la vd vs1 pm : BitVec 4) (s : State) : Out :=
  .next (longChk (.vneg la vd vs1 pm) (fmtChk (.vneg la vd vs1 pm) (elemChk isFI)) (effVneg vd vs1 pm) s)

/-- Bitwise functions on codes (R160), a reserved one among them as it is, uncounted (log 59). -/
def bitEff (f : Nat → Nat → Nat) (vd vs1 vs2 pm : BitVec 4) : Eff := fun _ s =>
  elementwise vd [vs1, vs2] false (s.on pm) true (fun _ xs r => (f (xs.getD 0 0) (xs.getD 1 0), r)) s
/-- Effect of vand (R160). -/
def effVand (vd vs1 vs2 pm : BitVec 4) : Eff := bitEff (fun a b => a &&& b) vd vs1 vs2 pm
/-- vand (R160). -/
def execVand (la vd vs1 vs2 pm : BitVec 4) (s : State) : Out :=
  .next (longChk (.vand la vd vs1 vs2 pm) (fmtChk (.vand la vd vs1 vs2 pm) (elemChk isFI)) (effVand vd vs1 vs2 pm) s)
/-- Effect of vor (R160). -/
def effVor (vd vs1 vs2 pm : BitVec 4) : Eff := bitEff (fun a b => a ||| b) vd vs1 vs2 pm
/-- vor (R160). -/
def execVor (la vd vs1 vs2 pm : BitVec 4) (s : State) : Out :=
  .next (longChk (.vor la vd vs1 vs2 pm) (fmtChk (.vor la vd vs1 vs2 pm) (elemChk isFI)) (effVor vd vs1 vs2 pm) s)
/-- Effect of vxor (R160). -/
def effVxor (vd vs1 vs2 pm : BitVec 4) : Eff := bitEff (fun a b => a ^^^ b) vd vs1 vs2 pm
/-- vxor (R160). -/
def execVxor (la vd vs1 vs2 pm : BitVec 4) (s : State) : Out :=
  .next (longChk (.vxor la vd vs1 vs2 pm) (fmtChk (.vxor la vd vs1 vs2 pm) (elemChk isFI)) (effVxor vd vs1 vs2 pm) s)

/-- Shifts of R160: the shifted element is read as a value, the amount unsigned, also where the tagged mode converts it (R75). -/
def shiftEff (left : Bool) (vd vs1 vs2 pm : BitVec 4) : Eff := fun _ s =>
  let c := s.ctl
  let el := s.elem
  let w := el.width
  let x := bitsOf s.me.fmt 3 0
  elementsOf vd [{ k := vs1, n := 1, fmt := some x }, { k := vs2, n := 1, fmt := some x, uns := some true }] false (s.on pm) true
    (fun _ xs r =>
    let n := Nat.min (xs.getD 1 0) w
    let a := r.int el c.uns (xs.getD 0 0)
    (codeI w (if left then (if n = w then 0 else a.1 * 2 ^ n) else a.1 / 2 ^ n), a.2)) s
/-- Effect of vshl (R160). -/
def effVshl (vd vs1 vs2 pm : BitVec 4) : Eff := shiftEff true vd vs1 vs2 pm
/-- vshl (R160). -/
def execVshl (la vd vs1 vs2 pm : BitVec 4) (s : State) : Out :=
  .next (longChk (.vshl la vd vs1 vs2 pm) (fmtChk (.vshl la vd vs1 vs2 pm) (elemChk isI)) (effVshl vd vs1 vs2 pm) s)
/-- Effect of vshr (R160). -/
def effVshr (vd vs1 vs2 pm : BitVec 4) : Eff := shiftEff false vd vs1 vs2 pm
/-- vshr (R160). -/
def execVshr (la vd vs1 vs2 pm : BitVec 4) (s : State) : Out :=
  .next (longChk (.vshr la vd vs1 vs2 pm) (fmtChk (.vshr la vd vs1 vs2 pm) (elemChk isI)) (effVshr vd vs1 vs2 pm) s)

/-- Effect of vfma (R158): vd is read before it is written. -/
def effVfma (vd vs1 vs2 pm : BitVec 4) : Eff :=
  arithEff vd [vs1, vs2] true pm (fun m x => Fv.fma m (f0 x) (f1 x) (f2 x)) (fun x => i0 x * i1 x + i2 x)
/-- vfma (R158). -/
def execVfma (la vd vs1 vs2 pm : BitVec 4) (s : State) : Out :=
  .next (longChk (.vfma la vd vs1 vs2 pm) (fmtChk (.vfma la vd vs1 vs2 pm) (elemChk isFI)) (effVfma vd vs1 vs2 pm) s)

/-- Effect of vsel (R161): the predicate selects, and every element is written; only the element selected is read as R53 says (log
59). DEDUCED (log 59): in tagged mode every element of both sources is converted, its flags raised and its counts taken (R75): the
predicate of vsel selects and disables nothing (R161, R149). -/
def effVsel (vd vs1 vs2 pm : BitVec 4) : Eff := fun _ s =>
  let on := s.on pm
  let c := s.ctl
  let el := s.elem
  elementwise vd [vs1, vs2] false on false (fun e xs r => r.moved el c.uns (if on e then xs.getD 0 0 else xs.getD 1 0)) s
/-- vsel (R161). -/
def execVsel (la vd vs1 vs2 pm : BitVec 4) (s : State) : Out :=
  .next (longChk (.vsel la vd vs1 vs2 pm) (fmtChk (.vsel la vd vs1 vs2 pm) (elemChk isFI)) (effVsel vd vs1 vs2 pm) s)

/-- Comparison of two element codes (R161): negative, zero, positive, or none with a NaN. -/
def cmpEl (c : Ctl) (el : Elem) (a b : Nat) (r : Raise) : Option Int × Raise :=
  match el with
  | .f f =>
    let x := f.value a
    let y := f.value b
    (if x.isNaN || y.isNaN then none else some (x.cmp y), r)
  | _ =>
    let x := r.int el c.uns a
    let y := x.2.int el c.uns b
    (some (x.1 - y.1), y.2)
/-- A compare into a predicate (R161). -/
def cmpEff (f : Option Int → Bool) (vd vs1 vs2 pm : BitVec 4) : Eff := fun _ s =>
  let c := s.ctl
  let el := s.elem
  let x := bitsOf s.me.fmt 3 0
  let w := fmtWidth x
  let on := s.on pm
  withBlocks on [{ k := vs1, n := 1, fmt := some x }, { k := vs2, n := 1, fmt := some x }] none 0 0 (fun xs _ ps r s =>
    let m := mapEls on (fun e r =>
      let v := cmpEl c el (elt w (xs.getD 0 0) e) (elt w (xs.getD 1 0) e) r
      ((f v.1).toNat, v.2)) (512 / w) 0 r
    let q : BitVec 128 := BitVec.ofNat 128 (packEls 1 m.1).2
    vecDone ps m.2 (s.modMe fun k => { k with q := fset k.q vd.toNat q })) s
/-- Effect of vcmp.eq (R161). -/
def effVcmpEq (vd vs1 vs2 pm : BitVec 4) : Eff := cmpEff (fun v => v == some 0) vd vs1 vs2 pm
/-- vcmp.eq (R161). -/
def execVcmpEq (la vd vs1 vs2 pm : BitVec 4) (s : State) : Out :=
  .next (longChk (.vcmpEq la vd vs1 vs2 pm) (fmtChk (.vcmpEq la vd vs1 vs2 pm) (elemChk isFI)) (effVcmpEq vd vs1 vs2 pm) s)
/-- Effect of vcmp.ne (R161). -/
def effVcmpNe (vd vs1 vs2 pm : BitVec 4) : Eff := cmpEff (fun v => v != some 0) vd vs1 vs2 pm
/-- vcmp.ne (R161). -/
def execVcmpNe (la vd vs1 vs2 pm : BitVec 4) (s : State) : Out :=
  .next (longChk (.vcmpNe la vd vs1 vs2 pm) (fmtChk (.vcmpNe la vd vs1 vs2 pm) (elemChk isFI)) (effVcmpNe vd vs1 vs2 pm) s)
/-- Effect of vcmp.lt (R161). -/
def effVcmpLt (vd vs1 vs2 pm : BitVec 4) : Eff := cmpEff (fun v => v.any fun n => decide (n < 0)) vd vs1 vs2 pm
/-- vcmp.lt (R161). -/
def execVcmpLt (la vd vs1 vs2 pm : BitVec 4) (s : State) : Out :=
  .next (longChk (.vcmpLt la vd vs1 vs2 pm) (fmtChk (.vcmpLt la vd vs1 vs2 pm) (elemChk isFI)) (effVcmpLt vd vs1 vs2 pm) s)
/-- Effect of vcmp.le (R161). -/
def effVcmpLe (vd vs1 vs2 pm : BitVec 4) : Eff := cmpEff (fun v => v.any fun n => decide (n ≤ 0)) vd vs1 vs2 pm
/-- vcmp.le (R161). -/
def execVcmpLe (la vd vs1 vs2 pm : BitVec 4) (s : State) : Out :=
  .next (longChk (.vcmpLe la vd vs1 vs2 pm) (fmtChk (.vcmpLe la vd vs1 vs2 pm) (elemChk isFI)) (effVcmpLe vd vs1 vs2 pm) s)

/-- The block of indices that vperm will read through vs2 (R162), when its address can be read. -/
def State.permIndex (s : State) (vs1 vs2 : BitVec 4) : Nat :=
  match s.srcBlks (planSrcs s.me.ptr [{ k := vs1, n := 1, fmt := none }, { k := vs2, n := 1, fmt := none }]).1 with
  | .ok [_, [b]] => ofLe (s.bytes b.ga 64)
  | _ => 0
/-- Effect of vperm (R162). Of the source, the elements that some enabled destination element selects are converted and raise flags
(R75, R149, log 59). -/
def effVperm (vd vs1 vs2 pm : BitVec 4) : Eff := fun _ s =>
  let x := bitsOf s.me.fmt 3 0
  let w := fmtWidth x
  let on := s.on pm
  let ix := s.permIndex vs1 vs2
  let used (i : Nat) : Bool := (List.range (512 / w)).any fun e => on e && elt 8 ix e == i
  withBlocks used [{ k := vs1, n := 1, fmt := some x }, { k := vs2, n := 1, fmt := none }] none vd 1
    (fun xs ds ps r s =>
      let m := mapEls on (fun e r =>
        let i := elt 8 (xs.getD 1 0) e
        (if i < 512 / w then elt w (xs.getD 0 0) i else 0, r)) (512 / w) 0 r
      vecPut x ds ps m.1 m.2 s) s
/-- vperm (R162). -/
def execVperm (la vd vs1 vs2 pm : BitVec 4) (s : State) : Out :=
  .next (longChk (.vperm la vd vs1 vs2 pm) (fmtChk (.vperm la vd vs1 vs2 pm) (elemChk isW8)) (effVperm vd vs1 vs2 pm) s)

/-- Effect of vbcast (R162). -/
def effVbcast (vd vs1 pm : BitVec 4) : Eff := fun e s =>
  elementwise vd [] false (s.on pm) true (fun _ _ r => ((e.r vs1).toNat, r)) s
/-- vbcast (R162). -/
def execVbcast (la vd vs1 pm : BitVec 4) (s : State) : Out :=
  .next (longChk (.vbcast la vd vs1 pm) (fmtChk (.vbcast la vd vs1 pm) (elemChk isFI)) (effVbcast vd vs1 pm) s)

/-! ### Conversions and packing (R163 to R165) -/
/-- One element of vcvt (R163): the same format copies each code, a reserved one among them uncounted (log 59), but a NaN becomes
canonical. -/
def cvtEl (c : Ctl) (src dst : Elem) (code : Nat) (r : Raise) : Nat × Raise :=
  if src = dst ∧ ¬ (c.sr = true ∧ dst = .f bf16) then
    match dst with
    | .f f => (if (f.value code).isNaN then f.canonNaN else code, r)
    | _ => (code, r)
  else r.conv c true src dst code
/-- Effect of vcvt (R163). -/
def effVcvt (vd vs1 vs2 pm : BitVec 4) : Eff := fun _ s =>
  let x := bitsOf s.me.fmt 3 0
  let y := vs2.toNat
  let n := 512 / Nat.min (fmtWidth x) (fmtWidth y)
  let on := s.on pm
  let c := s.ctl
  let src := (elemOf y).getD (.i 8)
  let dst := s.elem
  withBlocks on [{ k := vs1, n := n * fmtWidth y / 512, fmt := some y }] none vd (n * fmtWidth x / 512)
    (fun xs ds ps r s =>
      let m := mapEls on (fun e => cvtEl c src dst (elt (fmtWidth y) (xs.getD 0 0) e)) n 0 r
      vecPut x ds ps m.1 m.2 s) s
/-- vcvt (R163). -/
def execVcvt (la vd vs1 vs2 pm : BitVec 4) (s : State) : Out :=
  .next (longChk (.vcvt la vd vs1 vs2 pm) (fmtChk (.vcvt la vd vs1 vs2 pm) (elemChk isFI)) (effVcvt vd vs1 vs2 pm) s)

/-- One element of vcvt.s (R164), its scale not NaN. -/
def scaledEl (c : Ctl) (quant : Bool) (src dst : Elem) (sc : Fv) (code : Nat) (r : Raise) : Nat × Raise :=
  let v := r.val src c.uns code
  if quant then
    let q := v.1.div sc
    let r := v.2.flag q.2
    match dst with
    | .f f => r.deliver c f q.1.1 q.1.2
    | _ =>
      let x := Fv.fit c.rm (intLo dst c.uns) (intHi dst c.uns) q.1.1 q.1.2
      (codeI dst.width x.1, r.flag x.2)
  else
    let p := v.1.mul sc
    match dst with
    | .f f => (v.2.flag p.2).deliver c f p.1
    | _ => (0, v.2)
/-- What a NaN scale gives (R164). -/
def nanCode (dst : Elem) : Nat :=
  match dst with
  | .f f => f.canonNaN
  | _ => 0
/-- Effect of vcvt.s (R164). An element of a NaN-scaled block is not read: a reserved code there is not counted (log 59). -/
def effVcvtS (vd vs1 : BitVec 4) (quant : BitVec 1) (sreg : BitVec 3) (pm : BitVec 4) : Eff := fun e s =>
  let x := bitsOf s.me.fmt 3 0
  let a := accCode s.me.fmt
  let n := 512 / fmtWidth x
  let bl := blkLen s.me.fmt
  let sf := bitsOf s.me.fmt 9 8
  let g : BitVec 4 := 8 + sreg.setWidth 4
  let regs := [e.r g, e.r (g + 1)]
  let nw := n * fmtWidth a / 512
  let q := quant == 1
  let on := s.on pm
  let c := s.ctl
  let y := if q then a else x
  let z := if q then x else a
  let src := (elemOf y).getD (.i 8)
  let dst := (elemOf z).getD (.i 8)
  withBlocks on [{ k := vs1, n := if q then nw else 1, fmt := some y }] none vd (if q then 1 else nw)
    (fun xs ds ps r s =>
      let m := mapEls on (fun e r =>
        let sc := scaleOf sf regs (e / bl)
        if sc.isNaN then (nanCode dst, r.flag fNV)
        else scaledEl c q src dst sc (elt (fmtWidth y) (xs.getD 0 0) e) r) n 0 r
      let nans := (List.range (n / bl)).filter fun b => (scaleOf sf regs b).isNaN && m.1.any fun e => e.1 / bl == b
      vecPut z ds ps m.1 { m.2 with nan := m.2.nan + nans.length } s) s
/-- Checks of vcvt.s at issue (R150, R164). -/
def chkVcvtS (i : Instr) (sreg : BitVec 3) (s : State) : Option Trap :=
  match fmtChk i sclChk s with
  | some t => some t
  | none => if 8 < vecNb s.me.fmt ∧ sreg = 7 then some (tr cReservedField i.word) else none
/-- vcvt.s (R164). -/
def execVcvtS (la vd vs1 : BitVec 4) (quant : BitVec 1) (sreg : BitVec 3) (pm : BitVec 4) (s : State) : Out :=
  .next (longChk (.vcvtS la vd vs1 quant sreg pm) (chkVcvtS (.vcvtS la vd vs1 quant sreg pm) sreg)
    (effVcvtS vd vs1 quant sreg pm) s)

/-- vpack and vunpack need INT4 or ternary in fmt.elem (R154). -/
def isPack (c : Nat) : Bool := c == 8 || c == 9
/-- Effect of vpack (R165). -/
def effVpack (vd vs1 : BitVec 4) : Eff := fun _ s =>
  let x := bitsOf s.me.fmt 3 0
  let n := 512 / fmtWidth x
  let el := s.elem
  let uns := s.ctl.uns && x == 8
  withBlocks (fun _ => true) [{ k := vs1, n := n / 64, fmt := some 7, uns := some uns }] none vd 1 (fun xs ds ps r s =>
    let m := mapEls (fun _ => true) (fun e r =>
      (codeI el.width (clampI (intLo el uns) (intHi el uns) (intVal (.i 8) uns (elt 8 (xs.getD 0 0) e)).1), r)) n 0 r
    vecPut x ds ps m.1 m.2 s) s
/-- vpack (R165). -/
def execVpack (la vd vs1 : BitVec 4) (s : State) : Out :=
  .next (longChk (.vpack la vd vs1) (fmtChk (.vpack la vd vs1) (elemChk isPack)) (effVpack vd vs1) s)
/-- Effect of vunpack (R165). -/
def effVunpack (vd vs1 : BitVec 4) : Eff := fun _ s =>
  let x := bitsOf s.me.fmt 3 0
  let w := fmtWidth x
  let n := 512 / w
  let el := s.elem
  let uns := s.ctl.uns && x == 8
  withBlocks (fun _ => true) [{ k := vs1, n := 1, fmt := some x }] none vd (n / 64) (fun xs ds ps r s =>
    let m := mapEls (fun _ => true) (fun e r =>
      let v := r.int el uns (elt w (xs.getD 0 0) e)
      (codeI 8 v.1, v.2)) n 0 r
    vecPut 7 ds ps m.1 m.2 s) s
/-- vunpack (R165). -/
def execVunpack (la vd vs1 : BitVec 4) (s : State) : Out :=
  .next (longChk (.vunpack la vd vs1) (fmtChk (.vunpack la vd vs1) (elemChk isPack)) (effVunpack vd vs1) s)

/-! ### Reductions and va (R166 to R169) -/
/-- A lane of va as a code of the va format. -/
def Core.lane (k : Core) (l : Nat) : Nat := (fget 0 k.va l).toNat % 2 ^ fmtWidth (accCode k.fmt)
def Core.setLane (k : Core) (l v : Nat) : Core := { k with va := fset k.va l (w64 v) }
/-- Add an exact integer sum to a lane: INT32 saturates and counts, INT64 wraps (R67, R166). -/
def laneAdd (uns : Bool) (w cur : Nat) (d : Int) (r : Raise) : Nat × Raise :=
  let v := (intVal (.i w) uns cur).1 + d
  if w = 64 then (codeI 64 v, r)
  else
    let c := clampI (intLo (.i w) uns) (intHi (.i w) uns) v
    (codeI w c, if c = v then r else { r with sat := r.sat + 1 })
/-- Terms of lane l in a list of enabled elements. -/
def laneTerms {α : Type} (l : Nat) (ts : List (Nat × α)) : List α := (ts.filter fun t => t.1 % 32 == l).map (·.2)
/-- F lanes of vdot and vsum (R166): ts are the exact terms. -/
def sumLaneF (f : FpFmt) (cur : Nat) (ts : List Fv) (r : Raise) : Nat × Raise :=
  let s := sumFv rne ts
  let v := (f.value cur).add rne s.1
  r.near f (v.1, s.2 ||| v.2)
/-- F lanes of vred (R166). -/
def redLaneF (isMax : Bool) (f : FpFmt) (cur : Nat) (ts : List Fv) (r : Raise) : Nat × Raise :=
  r.near f (ts.foldl (fun a b => Fv.minmax isMax a b) (f.value cur), 0)
/-- I lanes of vred (R166): the result is fitted to the lane (R59). -/
def redLaneI (isMax uns : Bool) (w cur : Nat) (ts : List Int) : Nat :=
  let v := ts.foldl (fun a b => if isMax then max a b else min a b) (intVal (.i w) uns cur).1
  codeI w (clampI (intLo (.i w) uns) (intHi (.i w) uns) v)
/-- Update every lane of va that has a term, in ascending order. -/
def lanesUpd {α : Type} (ts : List (Nat × α)) (f : Nat → List α → Raise → Nat × Raise) (k : Core) (r : Raise) : Core × Raise :=
  (List.range 32).foldl (fun (a : Core × Raise) l =>
    let t := laneTerms l ts
    if t.isEmpty then a
    else
      let v := f (k.lane l) t a.2
      (a.1.setLane l v.1, v.2)) (k, r)
/-- Values of the enabled elements of an F operand, and of an I operand with its reserved codes counted. -/
def valsF (f : FpFmt) (w x : Nat) (on : Nat → Bool) : List (Nat × Fv) :=
  ((List.range (512 / w)).filter on).map fun e => (e, f.value (elt w x e))
def valsI (el : Elem) (uns : Bool) (w x : Nat) (on : Nat → Bool) (r : Raise) : List (Nat × Int) × Raise :=
  ((List.range (512 / w)).filter on).foldl (fun (a : List (Nat × Int) × Raise) e =>
    let v := a.2.int el uns (elt w x e)
    (a.1 ++ [(e, v.1)], v.2)) ([], r)
/-- A reduction into va: ff and fi give a lane from its terms. -/
def reduceEff (srcs : List (BitVec 4)) (pm : BitVec 4)
    (ff : FpFmt → Nat → List Fv → Raise → Nat × Raise) (fi : Nat → Nat → List Int → Raise → Nat × Raise) : Eff := fun _ s =>
  let x := bitsOf s.me.fmt 3 0
  let w := fmtWidth x
  let on := s.on pm
  let c := s.ctl
  let el := s.elem
  let aw := fmtWidth (accCode s.me.fmt)
  withBlocks on (srcs.map fun k => { k := k, n := 1, fmt := some x }) none 0 0 (fun xs _ ps r s =>
    match el with
    | .f f =>
      let a := valsF f w (xs.getD 0 0) on
      let t : List (Nat × Fv) × Flags :=
        if srcs.length = 1 then (a, 0)
        else
          let p := products (a.map (·.2)) ((valsF f w (xs.getD 1 0) on).map (·.2))
          ((a.map (·.1)).zip p.1, p.2)
      let acc := if aw = 64 then fp64 else fp32
      let u := lanesUpd t.1 (ff acc) s.me (r.flag t.2)
      vecDone ps u.2 (s.setCore s.core u.1)
    | _ =>
      let a := valsI el c.uns w (xs.getD 0 0) on r
      let t : List (Nat × Int) × Raise :=
        if srcs.length = 1 then a
        else
          let b := valsI el c.uns w (xs.getD 1 0) on a.2
          ((a.1.zip b.1).map (fun p => (p.1.1, p.1.2 * p.2.2)), b.2)
      let u := lanesUpd t.1 (fi aw) s.me t.2
      vecDone ps u.2 (s.setCore s.core u.1)) s
def sumI (uns : Bool) (w cur : Nat) (ts : List Int) (r : Raise) : Nat × Raise := laneAdd uns w cur (ts.foldl (· + ·) 0) r
/-- Effect of vdot (R166). -/
def effVdot (vs1 vs2 pm : BitVec 4) : Eff := fun e s => reduceEff [vs1, vs2] pm sumLaneF (sumI s.ctl.uns) e s
/-- vdot (R166). -/
def execVdot (la vs1 vs2 pm : BitVec 4) (s : State) : Out :=
  .next (longChk (.vdot la vs1 vs2 pm) (fmtChk (.vdot la vs1 vs2 pm) redChk) (effVdot vs1 vs2 pm) s)
/-- Effect of vsum (R166). -/
def effVsum (vs1 pm : BitVec 4) : Eff := fun e s => reduceEff [vs1] pm sumLaneF (sumI s.ctl.uns) e s
/-- vsum (R166). -/
def execVsum (la vs1 pm : BitVec 4) (s : State) : Out :=
  .next (longChk (.vsum la vs1 pm) (fmtChk (.vsum la vs1 pm) redChk) (effVsum vs1 pm) s)
/-- Effect of vred.max (R166). -/
def effVredMax (vs1 pm : BitVec 4) : Eff := fun e s =>
  reduceEff [vs1] pm (redLaneF true) (fun w cur ts r => (redLaneI true s.ctl.uns w cur ts, r)) e s
/-- vred.max (R166). -/
def execVredMax (la vs1 pm : BitVec 4) (s : State) : Out :=
  .next (longChk (.vredMax la vs1 pm) (fmtChk (.vredMax la vs1 pm) redChk) (effVredMax vs1 pm) s)
/-- Effect of vred.min (R166). -/
def effVredMin (vs1 pm : BitVec 4) : Eff := fun e s =>
  reduceEff [vs1] pm (redLaneF false) (fun w cur ts r => (redLaneI false s.ctl.uns w cur ts, r)) e s
/-- vred.min (R166). -/
def execVredMin (la vs1 pm : BitVec 4) (s : State) : Out :=
  .next (longChk (.vredMin la vs1 pm) (fmtChk (.vredMin la vs1 pm) redChk) (effVredMin vs1 pm) s)

/-- Values of all elements of an operand of a scaled sum, a disabled one reading as zero (R167). -/
def valsS (el : Elem) (uns : Bool) (w x : Nat) (on : Nat → Bool) (r : Raise) : List Fv × Raise :=
  (List.range (512 / w)).foldl (fun (a : List Fv × Raise) e =>
    if on e then
      let v := a.2.val el uns (elt w x e)
      (a.1 ++ [v.1], v.2)
    else (a.1 ++ [.fin false 0 0], a.2)) ([], r)
/-- Effect of vdot.s (R167). -/
def effVdotS (vd vs1 vs2 pm : BitVec 4) : Eff := fun e s =>
  let fmt := s.me.fmt
  let x := bitsOf fmt 3 0
  let w := fmtWidth x
  let on := s.on pm
  let c := s.ctl
  let el := s.elem
  let nb := vecNb fmt
  let ra := if vd = 0 then [] else if nb ≤ 8 then [e.r vd] else [e.r vd, e.r (vd + 1)]
  let rb := if vd = 0 then [] else if nb ≤ 8 then [e.r (vd + 1)] else [e.r (vd + 2), e.r (vd + 3)]
  withBlocks on [{ k := vs1, n := 1, fmt := some x }, { k := vs2, n := 1, fmt := some x }] none 0 0 (fun xs _ ps r s =>
    let a := valsS el c.uns w (xs.getD 0 0) on r
    let b := valsS el c.uns w (xs.getD 1 0) on a.2
    let sf := bitsOf fmt 9 8
    let t := scaledSum (blkLen fmt) sf nb (scaleOf sf ra) (scaleOf sf rb) s.me.tsc a.1 b.1 b.2
    let acc := if fmtWidth (accCode fmt) = 64 then fp64 else fp32
    let v := t.2.near acc ((acc.value (s.me.lane 0)).add rne (fp32.value t.1))
    vecDone ps v.2 (s.modMe fun k => k.setLane 0 v.1)) s
/-- Checks of vdot.s at issue (R150, R167): a register past g15, which R105 counts among the field values of R87, is found here, after
the format (log 59). -/
def chkVdotS (i : Instr) (vd : BitVec 4) (s : State) : Option Trap :=
  match fmtChk i sclChk s with
  | some t => some t
  | none =>
    if vd ≠ 0 ∧ 16 < vd.toNat + (if vecNb s.me.fmt ≤ 8 then 2 else 4) then some (tr cReservedField i.word) else none
/-- vdot.s (R167). -/
def execVdotS (la vd vs1 vs2 pm : BitVec 4) (s : State) : Out :=
  .next (longChk (.vdotS la vd vs1 vs2 pm) (chkVdotS (.vdotS la vd vs1 vs2 pm) vd) (effVdotS vd vs1 vs2 pm) s)

/-- Effect of vacc.clr (R168). -/
def effVaccClr (vs1 : BitVec 4) : Eff := fun e s =>
  let v := (e.r vs1).toNat % 2 ^ fmtWidth (accCode s.me.fmt)
  .done (s.modMe fun k => (List.range 32).foldl (fun k l => k.setLane l v) k)
/-- vacc.clr (R168). -/
def execVaccClr (la vs1 : BitVec 4) (s : State) : Out := .next (longOp (.vaccClr la vs1) (effVaccClr vs1) s)
/-- Effect of vacc.st (R168). -/
def effVaccSt (vd pm : BitVec 4) : Eff := fun _ s =>
  let a := accCode s.me.fmt
  let on := s.on pm
  withBlocks on [] none vd (32 * fmtWidth a / 512) (fun _ ds ps r s =>
    let k := s.me
    let p := packEls (fmtWidth a) (((List.range 32).filter on).map fun l => (l, k.lane l))
    match s.putBlks a ds p.1 p.2 with
    | (s, some (t, ga)) => s.failAt ga t
    | (s, none) => vecDone ps r s) s
/-- vacc.st (R168). -/
def execVaccSt (la vd pm : BitVec 4) (s : State) : Out := .next (longOp (.vaccSt la vd pm) (effVaccSt vd pm) s)
/-- The value vacc.rd reads (R169): a code of the va format. -/
def State.vaccVal (s : State) (lane mode : Nat) (r : Raise) : Nat × Raise :=
  let k := s.me
  let a := accCode k.fmt
  let uns := s.ctl.uns
  let rest := (List.range 31).map fun l => k.lane (l + 1)
  if mode = 0 then (k.lane lane, r)
  else
    match elemOf a with
    | some (.f f) =>
      if mode = 1 then rest.foldl (fun (x : Nat × Raise) v => x.2.near f ((f.value x.1).add rne (f.value v))) (k.lane 0, r)
      else redLaneF (mode == 2) f (k.lane 0) (rest.map f.value) r
    | _ =>
      let w := fmtWidth a
      let val (v : Nat) : Int := (intVal (.i w) uns v).1
      if mode = 1 then rest.foldl (fun (x : Nat × Raise) v => laneAdd uns w x.1 (val v) x.2) (k.lane 0, r)
      else (redLaneI (mode == 2) uns w (k.lane 0) (rest.map val), r)
/-- Effect of vacc.rd (R169): an INT32 value is sign-extended. -/
def effVaccRd (vd vs1 vs2 : BitVec 4) : Eff := fun e s =>
  let v := s.vaccVal (bitsOf (e.r vs1) 4 0) vs2.toNat s.calm
  let x := if accCode s.me.fmt = 11 then i64 (sextI v.1 32) else w64 v.1
  .done ((s.setG vd x).commit v.2)
/-- vacc.rd (R169). -/
def execVaccRd (la vd vs1 vs2 : BitVec 4) (s : State) : Out := .next (longOp (.vaccRd la vd vs1 vs2) (effVaccRd vd vs1 vs2) s)

/-! ### Defined approximations (R170) -/
/-- One element: FP32 and FP64 as they are, BF16 and FP16 through FP32 (R73). -/
def approxEl (g : FpFmt → Nat → Nat × Flags) (c : Ctl) (el : Elem) (x : Nat) (r : Raise) : Nat × Raise :=
  match el with
  | .f f =>
    if f = fp64 ∨ f = fp32 then r.take (g f x)
    else
      let v := r.take (g fp32 (fp32.round rne (f.value x)).1)
      v.2.deliver c f (fp32.value v.1)
  | _ => (x, r)
/-- A defined approximation of each element. -/
def approxEff (g : FpFmt → Nat → Nat × Flags) (vd vs1 pm : BitVec 4) : Eff := fun _ s =>
  elementwise vd [vs1] false (s.on pm) true (fun _ xs => approxEl g s.ctl s.elem (xs.getD 0 0)) s
/-- Effect of vexp2 (R69, R170). -/
def effVexp2 (vd vs1 pm : BitVec 4) : Eff := approxEff (fun _ x => (exp2a x, 0)) vd vs1 pm
/-- vexp2 (R170). -/
def execVexp2 (la vd vs1 pm : BitVec 4) (s : State) : Out :=
  .next (longChk (.vexp2 la vd vs1 pm) (fmtChk (.vexp2 la vd vs1 pm) (elemChk fun c => decide (1 ≤ c) && decide (c ≤ 3)))
    (effVexp2 vd vs1 pm) s)
/-- Effect of vrcp (R70, R170). -/
def effVrcp (vd vs1 pm : BitVec 4) : Eff := approxEff rcpFp vd vs1 pm
/-- vrcp (R170). -/
def execVrcp (la vd vs1 pm : BitVec 4) (s : State) : Out :=
  .next (longChk (.vrcp la vd vs1 pm) (fmtChk (.vrcp la vd vs1 pm) (elemChk fun c => decide (c ≤ 3))) (effVrcp vd vs1 pm) s)
/-- Effect of vrsqrt (R71, R170). -/
def effVrsqrt (vd vs1 pm : BitVec 4) : Eff := approxEff rsqrtFp vd vs1 pm
/-- vrsqrt (R170). -/
def execVrsqrt (la vd vs1 pm : BitVec 4) (s : State) : Out :=
  .next (longChk (.vrsqrt la vd vs1 pm) (fmtChk (.vrsqrt la vd vs1 pm) (elemChk fun c => decide (c ≤ 3))) (effVrsqrt vd vs1 pm) s)

/-! ### Gather, scatter, compress, signature filter (R171 to R173) -/
/-- Translate and check the scratchpad addresses of enabled elements (R171): element, virtual and global address. -/
def State.spElems (s : State) (a : Acc) (n : Nat) : List (Nat × Nat) → Except Trap (List (Nat × Blk))
  | [] => .ok []
  | (e, t) :: r =>
    if !inSp (w64 t) n || decide (2 ^ 48 ≤ t) then .error (tr cTranslation (w64 t))
    else
      match s.xlate t n a with
      | .error x => .error x
      | .ok pa =>
        match s.spElems a n r with
        | .error x => .error x
        | .ok bs => .ok ((e, { va := t, ga := s.globalOf s.core pa }) :: bs)
/-- The walks of the translations of elements of n bytes (R313). -/
def State.walkedEls (s : State) (n : Nat) (as : List (Nat × Nat)) : State := s.xlatedSegs (as.map fun a => { va := a.2, ga := 0, n := n })
/-- Read gathered elements of a format (R75, R171). -/
def State.gather (s : State) (c : Ctl) (x n : Nat) : List (Nat × Blk) → Raise →
    Except (Trap × Option Nat) (List (Nat × Nat) × Raise) × State
  | [], r => (.ok ([], r), s)
  | (e, b) :: rest, r =>
    match s.readAt b.ga n b.va with
    | (.error t, s) => (.error (t, some b.ga), s)
    | (.ok bs, s) =>
      match s.tagCheck b.va b.ga x with
      | .error t => (.error (t, none), s)
      | .ok t =>
        let v : Nat × Raise := match t with
          | none => (ofLe bs, r)
          | some t => convBlk c t x (fun _ => true) (ofLe bs) 1 0 r
        match s.gather c x n rest v.2 with
        | (.error e, s) => (.error e, s)
        | (.ok (vs, r), s) => (.ok ((e, v.1) :: vs, r), s)
/-- Addresses of the enabled elements: base + index × width (R171). -/
def gatherAddrs (base n idx : Nat) (on : Nat → Bool) (cnt : Nat) : List (Nat × Nat) :=
  ((List.range cnt).filter on).map fun e => (e, base + elt 32 idx e * n)
/-- Effect of vgath (R171). DESIGN CHOICE (log 61): G[base] is checked before any block's address, and the elements in ascending e, so
that an earlier element's PERM comes before a later one's TRANSLATION. -/
def effVgath (vd vs1 vs2 pm : BitVec 4) : Eff := fun e s =>
  let x := bitsOf s.me.fmt 3 0
  let n := fmtWidth x / 8
  let cnt := 64 / n
  let on := s.on pm
  let c := s.ctl
  if (e.r vs1).toNat % n ≠ 0 then .trap (tr cMisalign (e.r vs1)) s
  else
    withBlocks on [{ k := vs2, n := (cnt + 15) / 16, fmt := some 11, uns := some true }] none vd 1 (fun xs ds ps r s =>
      let as := gatherAddrs (e.r vs1).toNat n (xs.getD 0 0) on cnt
      match s.spElems .rd n as with
      | .error t => (s.walkedEls n as).fail t
      | .ok bs =>
        match (s.walkedEls n as).gather c x n bs r with
        | (.error (t, some ga), s) => s.failAt ga t
        | (.error (t, none), s) => .trap t s
        | (.ok (els, r), s) => vecPut x ds ps els r s) s
/-- vgath (R171). -/
def execVgath (la vd vs1 vs2 pm : BitVec 4) (s : State) : Out :=
  .next (longChk (.vgath la vd vs1 vs2 pm) (fmtChk (.vgath la vd vs1 vs2 pm) (elemChk isW8)) (effVgath vd vs1 vs2 pm) s)
/-- Write scattered values of n bytes in order, each line taking a tag (R74, R171). Each value is a write of its own: several that
together cover a bad doubleword do not clear it (R151, R314, log 59). -/
def State.scatter (s : State) (fmt n : Nat) : List (Blk × Nat) → State × Option (Trap × Nat)
  | [] => (s, none)
  | (b, v) :: r =>
    match s.writeAt b.ga b.va (leBytes n v) with
    | (.error t, s) => (s, some (t, b.ga))
    | (.ok _, s) => (s.setTag b.ga n fmt).scatter fmt n r
/-- Effect of vscat (R171), with its checks in the order of vgath's (log 61). -/
def effVscat (vd vs1 vs2 pm : BitVec 4) : Eff := fun e s =>
  let x := bitsOf s.me.fmt 3 0
  let w := fmtWidth x
  let n := w / 8
  let cnt := 64 / n
  let on := s.on pm
  if (e.r vd).toNat % n ≠ 0 then .trap (tr cMisalign (e.r vd)) s
  else
    withBlocks on [{ k := vs1, n := 1, fmt := some x }, { k := vs2, n := (cnt + 15) / 16, fmt := some 11, uns := some true }] none 0 0
      (fun xs _ ps r s =>
        let as := gatherAddrs (e.r vd).toNat n (xs.getD 1 0) on cnt
        match s.spElems .wr n as with
        | .error t => (s.walkedEls n as).fail t
        | .ok bs =>
          match (s.walkedEls n as).scatter x n (bs.map fun b => (b.2, elt w (xs.getD 0 0) b.1)) with
          | (s, some (t, ga)) => s.failAt ga t
          | (s, none) => vecDone ps r s) s
/-- vscat (R171). -/
def execVscat (la vd vs1 vs2 pm : BitVec 4) (s : State) : Out :=
  .next (longChk (.vscat la vd vs1 vs2 pm) (fmtChk (.vscat la vd vs1 vs2 pm) (elemChk isW8)) (effVscat vd vs1 vs2 pm) s)

/-- Effect of vcprs (R172): the enabled elements are read as R53 says. -/
def effVcprs (vd vs1 vs2 pm : BitVec 4) : Eff := fun _ s =>
  let x := bitsOf s.me.fmt 3 0
  let w := fmtWidth x
  let on := s.on pm
  let c := s.ctl
  let el := s.elem
  withBlocks on [{ k := vs1, n := 1, fmt := some x }] none vd 1 (fun xs ds ps r s =>
    let m := mapEls on (fun e r => r.moved el c.uns (elt w (xs.getD 0 0) e)) (512 / w) 0 r
    let vals := m.1.map (·.2)
    let els := (List.range (512 / w)).map fun e => (e, vals.getD e 0)
    (vecPut x ds ps els m.2 s).bind fun s => .done (s.setG vs2 (w64 vals.length))) s
/-- vcprs (R172). -/
def execVcprs (la vd vs1 vs2 pm : BitVec 4) (s : State) : Out :=
  .next (longChk (.vcprs la vd vs1 vs2 pm) (fmtChk (.vcprs la vd vs1 vs2 pm) (elemChk isFI)) (effVcprs vd vs1 vs2 pm) s)

/-- Effect of vhamf (R173). -/
def effVhamf (vd vs1 vs2 pm : BitVec 4) : Eff := fun e s =>
  let on := s.on pm
  let q := e.r vs2
  let par := e.r (vs2 + 1)
  let rad := Nat.min (bitsOf par 6 0) 64
  let n0 := bitsOf par 63 32
  let l := (e.r vd).toNat
  withBlocks on [{ k := vs1, n := 1, fmt := none }] none 0 0 (fun xs _ ps r s =>
    let hits := (List.range 8).filter fun j => on j && decide (popCount 64 (elt 64 (xs.getD 0 0) j ^^^ q.toNat) ≤ rad)
    if !hits.isEmpty && l % 4 != 0 then .trap (tr cMisalign (e.r vd)) s
    else
      let as := (List.range hits.length).map fun i => (i, l + 4 * i)
      match s.spElems .wr 4 as with
      | .error t => (s.walkedEls 4 as).fail t
      | .ok bs =>
        match (s.walkedEls 4 as).scatter 11 4 ((bs.map (·.2)).zip (hits.map fun j => (n0 + j) % 2 ^ 32)) with
        | (s, some (t, ga)) => s.failAt ga t
        | (s, none) =>
          let s := s.setG vd (w64 (l + 4 * hits.length))
          vecDone ps r (s.setG (vs2 + 1) (w64 (bitsOf par 31 0 + (n0 + 8) % 2 ^ 32 * 2 ^ 32)))) s
/-- vhamf (R173). -/
def execVhamf (la vd vs1 vs2 pm : BitVec 4) (s : State) : Out := .next (longOp (.vhamf la vd vs1 vs2 pm) (effVhamf vd vs1 vs2 pm) s)

end Sys2Proof.Machine
end

