-- ==== Sys2Proof/Machine/Matrix.lean ====
section
/-! DEFINITION. Matrix instructions: macro-operations step by step (R175 to R209), cooperative products (R190 to R192). -/

namespace Sys2Proof.Machine
open Sys2Proof

/-! ### tshape (R30, R175) -/
def tCf (t : Word) : Nat := bitsOf t 31 30
def tBf (t : Word) : Nat := bitsOf t 29 26
def tAf (t : Word) : Nat := bitsOf t 25 22
def tM (t : Word) : Nat := bitsOf t 21 15 + 1
def tN (t : Word) : Nat := bitsOf t 14 8 + 1
def tK (t : Word) : Nat := bitsOf t 7 0 + 1
/-- Format groups of the dome (R175). -/
def domeGroup (c : Nat) : Nat :=
  match c with
  | 1 => 1
  | 2 => 2
  | 3 => 2
  | 4 => 3
  | 5 => 3
  | 6 => 4
  | _ => 0
/-- The combination is one of the dome's, or one of the macros' (R175). -/
def isDome (t : Word) : Bool :=
  if tCf t = 1 then tAf t == 0 && tBf t == 0 && decide (tN t ≤ 64) && decide (tK t ≤ 128)
  else tCf t == 0 && domeGroup (tAf t) != 0 && domeGroup (tAf t) == domeGroup (tBf t) && (tAf t != 1 || decide (tK t ≤ 128))
def isMacro (t : Word) : Bool :=
  (tCf t == 0 || tCf t == 2) && (tAf t == 7 || tAf t == 8) && (tBf t == 7 || tBf t == 9) && decide (tK t ≤ 128)
/-- Accumulator format code, its float format, words of an element (R30, R23). -/
def accFmt (t : Word) : Nat :=
  match tCf t with
  | 0 => 1
  | 1 => 0
  | _ => 11
def accF (t : Word) : FpFmt := if tCf t = 1 then fp64 else fp32
def accW (t : Word) : Nat := if tCf t = 1 then 2 else 1
/-- Rows of row group g of m rows; row groups of n. -/
def grp (g m : Nat) : List Nat := (List.range 16).filterMap fun i => if 16 * g + i < m then some (16 * g + i) else none
def groups (n : Nat) : Nat := (n + 15) / 16
/-- Blocks of a row of n elements of a format (R178). -/
def rowBlks (n fmt : Nat) : Nat := (n * fmtWidth fmt + 511) / 512

/-! ### Accumulators, buffers, macros (R23, R179) -/
def Core.accGet (k : Core) (cw m r n : Nat) : Nat :=
  let b := m * 16384 + r * 128 + n * cw
  (fget (0 : BitVec 32) k.acc b).toNat + (if cw = 2 then 2 ^ 32 * (fget (0 : BitVec 32) k.acc (b + 1)).toNat else 0)
def Core.accPut (k : Core) (cw m r n v : Nat) : Core :=
  let b := m * 16384 + r * 128 + n * cw
  let a := fset k.acc b (BitVec.ofNat 32 v)
  { k with acc := if cw = 2 then fset a (b + 1) (BitVec.ofNat 32 (v / 2 ^ 32)) else a }
/-- Running row maximum and denominator, FP32 codes. -/
def Core.maxOf (k : Core) (m r : Nat) : Nat := (fget (0xFF800000 : BitVec 32) k.amax (m * 128 + r)).toNat
def Core.denOf (k : Core) (m r : Nat) : Nat := (fget (0 : BitVec 32) k.aden (m * 128 + r)).toNat
def Core.setMax (k : Core) (m r v : Nat) : Core := { k with amax := fset k.amax (m * 128 + r) (BitVec.ofNat 32 v) }
def Core.setDen (k : Core) (m r v : Nat) : Core := { k with aden := fset k.aden (m * 128 + r) (BitVec.ofNat 32 v) }
/-- Bytes of a row of fb in a format of width w (log 6). -/
def fbRow (w : Nat) : Nat := if w = 64 then 512 else 16 * w
/-- Element (row, col) of a B buffer. -/
def Core.fbGet (k : Core) (b w row col : Nat) : Nat :=
  let a := b * 65536 + row * fbRow w + col * w / 8
  let byte (i : Nat) : Byte := fget 0 k.fb (a + i)
  if w < 8 then (byte 0).toNat / 2 ^ (col * w % 8) % 2 ^ w else ofLe ((List.range (w / 8)).map byte)
/-- Write a row of a B buffer: its elements packed in v. -/
def Core.fbPut (k : Core) (b w row v : Nat) : Core :=
  let a := b * 65536 + row * fbRow w
  { k with fb := (List.range (fbRow w)).foldl (fun m i => fset m (a + i) (BitVec.ofNat 8 (v / 2 ^ (8 * i)))) k.fb }
/-- A cell of a macro; writing a row of cells. -/
def Core.cmGet (k : Core) (c row col : Nat) : Nat := (fget (0 : Byte) k.cm (c * 16384 + row * 128 + col)).toNat
def Core.cmPut (k : Core) (c row : Nat) (cells : Nat → Nat) : Core :=
  { k with cm := (List.range 128).foldl (fun m i => fset m (c * 16384 + row * 128 + i) (BitVec.ofNat 8 (cells i))) k.cm }
def Core.isTern (k : Core) (c : Nat) : Bool := fget false k.cmTern c
/-- tshape.inuse bit of an accumulator (R176). -/
def Core.use (k : Core) (m : Nat) (b : Bool) : Core := { k with tshape := putBit k.tshape (32 + m) b }
/-- mk restored to its reset values, its bit of tshape.inuse cleared (R23, R195). -/
def Core.zeroAcc (k : Core) (m : Nat) : Core :=
  { k.use m false with
    acc := k.acc.filter fun e => e.1 / 16384 != m
    amax := k.amax.filter fun e => e.1 / 128 != m
    aden := k.aden.filter fun e => e.1 / 128 != m }
/-- Update the elements (r, n) of an accumulator: f gives a code from the one held. -/
def gridUpd (cw m : Nat) (rs ns : List Nat) (f : Nat → Nat → Nat → Raise → Nat × Raise) (k : Core) (r : Raise) : Core × Raise :=
  rs.foldl (fun a i => ns.foldl (fun (a : Core × Raise) n =>
    let v := f i n (a.1.accGet cw m i n) a.2
    (a.1.accPut cw m i n v.1, v.2)) a) (k, r)

/-! ### Macro-operations (R182 to R186) -/
/-- What a step answers: it commits (and holds rows for the next), stalls, traps, traps before the first step, or commits and
then traps (R186). -/
inductive StepOut where
  | ok (rows : List Nat) (s : State)
  | stall (s : State)
  | trap (t : Trap) (s : State)
  | early (t : Trap) (s : State)
  | fin (t : Trap) (s : State)

/-- A macro-operation: accumulator of mstep, steps, pointer and the blocks that the steps before one go through it, what it
does before its first step, its step, the accumulator it writes, its last-read mark. -/
structure MatOp where
  acc   : Nat := 0
  n     : Nat := 1
  ptr   : Option (BitVec 4 × (Nat → Nat)) := none
  start : Nat → State → StepOut := fun _ s => .ok [] s
  step  : Nat → List Nat → State → StepOut
  use   : Option Nat := none
  lr    : Bool := false

/-- The slot of the acting core's spire that a scratchpad address lies in, when the core holds its tile (R185). -/
def State.heldSlot (s : State) (va : Nat) : Option Nat :=
  if !isSpVa va then none
  else
    let o := va - 0xFF0000000000
    (s.sp.slots.find? fun e => decide (e.2.base ≤ o) && decide (o < e.2.base + e.2.size) && e.2.state == .held &&
      e.2.owner == some s.core).map (·.1)
/-- The final step of a last-read instruction (R186): body is the step, whose commit the release belongs to. -/
def lastRead (order : Nat) (slot : Option Nat) (body : State → StepOut) (s : State) : StepOut :=
  match body s, slot with
  | .ok rows u, some n =>
    match releaseSlot n order false true u with
    | .done u => .ok rows u
    | .trap t u =>
      if t.noRe then .fin t u
      else
        match releaseSlot n order false true s with
        | .trap t v => .trap t v
        | _ => .trap t s
    | _ => .stall s
  | o, _ => o
/-- mstep of a trap at step j (R184). -/
def mstepWord (ctx acc j : Nat) : Word := w64 (2 ^ 31 + ctx % 8 * 2 ^ 18 + acc * 2 ^ 16 + j % 65536)
/-- Change a pending instruction of the acting strand. -/
def State.modPend (s : State) (order : Nat) (f : Pend → Pend) : State :=
  s.modSt fun t => { t with pend := t.pend.map fun p => if p.order = order then f p else p }
/-- Clear mstep when the acting strand owns it. -/
def State.clearMstep (s : State) : State :=
  s.modMe fun k => if mstepAct k.mstep && mstepCtx k.mstep == s.ctx then { k with mstep := 0 } else k
/-- Begin a pending macro-operation of the acting strand (R176, R184): its accumulator is in use, its pointer is kept, and a
replay resumes at mstep.step, past the blocks of the steps before it, and draws on from the generator state that the interrupted step
had (R61). -/
def State.beginMat (s : State) (p : Pend) (op : MatOp) : StepOut :=
  let own := mstepAct s.me.mstep && mstepCtx s.me.mstep == s.ctx
  let j := if own then Nat.min (bitsOf s.me.mstep 15 0) (op.n - 1) else 0
  match op.start j s with
  | .ok rows s =>
    let s := match op.use with
      | some m => s.modMe fun k => k.use m true
      | none => s
    let ptrs := match op.ptr with
      | some (k, _) => [(k.toNat, ptrOf s.me.ptr k)]
      | none => []
    let s := match op.ptr with
      | some (k, f) => s.modMe fun c => { c with ptr := fset c.ptr k.toNat ((ptrOf c.ptr k).run (f j)).2 }
      | none => s
    .ok rows (s.modPend p.order fun q => { q with started := true, ptrs := ptrs, step := j, rows := rows,
                                                  rngs := if own then s.me.mrngs.getD q.rngs else q.rngs })
  | o => o
/-- The state of an answer, and the answer with another. -/
def StepOut.state : StepOut → State
  | .ok _ s => s
  | .stall s => s
  | .trap _ s => s
  | .early _ s => s
  | .fin _ s => s
def StepOut.withState (f : State → State) : StepOut → StepOut
  | .ok rows s => .ok rows (f s)
  | .stall s => .stall (f s)
  | .trap t s => .trap t (f s)
  | .early t s => .early t (f s)
  | .fin t s => .fin t (f s)
/-- A step of a pending macro-operation, and the generator state that its next step draws from: it goes on from rngs as it stood at
issue (R93, R177), and rngs itself advances once for each draw (R60, R183), whatever other instructions have drawn meanwhile. -/
def State.stepUnder (s : State) (p : Pend) (f : State → StepOut) : StepOut × Word :=
  if p.rngs = s.me.rngs then
    let o := f s
    (o, o.state.me.rngs)
  else
    let own := f (s.modMe fun k => { k with rngs := p.rngs })
    (own.withState fun u => u.modMe fun k => { k with rngs := (f s).state.me.rngs }, own.state.me.rngs)
/-- Run one step of a pending macro-operation of the acting strand; true when it may go on to the next. -/
def State.stepMat (s : State) (p : Pend) (op : MatOp) : State × Bool :=
  let slot := if op.lr then p.ptrs.head?.bind fun e => s.heldSlot e.2.addr else none
  let last := decide (op.n ≤ p.step + 1)
  let o := s.stepUnder p fun s => if last then lastRead p.order slot (op.step p.step p.rows) s else op.step p.step p.rows s
  match o.1 with
  | .ok rows s =>
    if last then (s.clearMstep.completed s.core s.ctx p.order, false)
    else (s.modPend p.order fun q => { q with step := p.step + 1, rows := rows, rngs := o.2 }, true)
  | .stall s => (s, false)
  | .trap t s =>
    ((s.modMe fun k => { k with mstep := mstepWord s.ctx op.acc p.step
                                lrSlot := slot, mrngs := some p.rngs
                                ptr := p.ptrs.foldl (fun m e => fset m e.1 e.2) k.ptr }).failed s.core s.ctx p.order t, false)
  | .early t s => (s.failed s.core s.ctx p.order t, false)
  | .fin t s => (s.clearMstep.failed s.core s.ctx p.order t, false)
/-- The acting strand's pending instruction of an order. -/
def State.pendAt (s : State) (order : Nat) : Option Pend := s.st.pend.find? fun p => p.order == order
/-- Run a pending macro-operation of the acting strand for at most n steps. -/
def State.runMat (s : State) (order : Nat) (op : MatOp) : Nat → State
  | 0 => s
  | n + 1 =>
    match s.pendAt order with
    | none => s
    | some p =>
      if p.trap.isSome then s
      else
        let b : StepOut := if p.started then .ok p.rows s else s.beginMat p op
        match b with
        | .ok _ s =>
          match s.pendAt order with
          | none => s
          | some p =>
            let r := s.stepMat p op
            if r.2 then r.1.runMat order op n else r.1
        | .stall s => s
        | .trap t s => s.failed s.core s.ctx order t
        | .early t s => s.failed s.core s.ctx order t
        | .fin t s => s.failed s.core s.ctx order t
/-- The matrix unit is held for another strand's interrupted macro-operation (R184). -/
def State.mstepOther (s : State) : Bool := mstepAct s.me.mstep && mstepCtx s.me.mstep != s.ctx
/-- Other strands' matrix instructions are ahead of the acting strand's: not while it owns an interrupted one, whose replay goes
before them (R184). -/
def State.matBusy (s : State) : Bool := s.unitBusy 4 && !(mstepAct s.me.mstep && mstepCtx s.me.mstep == s.ctx)
/-- A trap handler that owns mstep may not issue a matrix instruction (R355); a re-execution after a move of the core may (R358). -/
def mstepChk (i : Instr) (chk : State → Option Trap) (s : State) : Option Trap :=
  if mstepAct s.me.mstep && mstepCtx s.me.mstep == s.ctx && s.st.tAct && s.st.replay.isNone then some (tr cMstepPending i.word) else chk s
/-- A matrix instruction that reads a record at issue (R91, R184, R207, R285): the sequencer accepts it, from when on the accumulator it
writes is in use (R176), and with no window runs its steps; with one, or in a slow step, it stays pending (log 2). -/
def matPrep (i : Instr) (chk : State → Option Trap) (prep : Prepare) (op : Env → State → MatOp) (s : State) : State :=
  if !s.gate then s.stall false
  else
    match s.decodeTrap i with
    | some t => s.raise t
    | none =>
      let s := s.modSt fun u => { u with pin := true }
      match mstepChk i chk s with
      | some t => s.raise t
      | none =>
        let la := if s.st.replay.isSome then 0 else i.la
        let behind := s.st.pend.any fun p => p.unit == 4
        if !behind && s.mstepOther && la == 0 then s.stall false
        else
          let e : Env := { g := s.st.g, tag := s.me.seqNo, pc := s.st.pc }
          match prep e s with
          | .error (t, s) => s.raise t
          | .ok (p, s) =>
            let e := { e with prep := p }
            let s := match s.mstepOther, (op e s).use with
              | false, some m => s.modMe fun k => k.use m true
              | _, _ => s
            if behind then s.accept i la false false false p
            else
              let t := s.accept i la true false false p
              if s.split || decide (0 < la) || s.matBusy || s.mstepOther then t else t.runMat e.tag (op e t) (op e t).n
/-- A matrix instruction that reads no record. -/
def matLong (i : Instr) (chk : State → Option Trap) (op : Env → State → MatOp) : State → State := matPrep i chk noPrep op

/-- A check of tshape or of a field with it (R177). -/
def tshChk (i : Instr) (ok : Word → Bool) (s : State) : Option Trap :=
  if ok s.me.tshape then none else some (tr cReservedField (i.word + w64 (bitsOf s.me.tshape 31 0 * 2 ^ 32)))
/-- Two checks in order. -/
def chk2 (a b : State → Option Trap) (s : State) : Option Trap :=
  match a s with
  | some t => some t
  | none => b s
/-- The last-read mark's check (R185): the first address that the pointer will read lies in a slot that the core holds. -/
def lrTest (p : BitVec 4) (s : State) : Option Trap :=
  let a := (ptrOf s.me.ptr p).addr
  if (s.heldSlot a).isSome then none else some (tr cReservedField (w64 a))
/-- The check at issue, when no earlier pending instruction of the core has still to advance the pointer; else lrStart makes it. It
comes after the checks of tshape and of the macro's mode (log 51). -/
def lrChk (lr : BitVec 1) (p : BitVec 4) (s : State) : Option Trap :=
  if lr = 0 ∨ (s.me.ctxs.any fun x => x.2.pend.any fun q => (q.instr.regs s.me.fmt s.me.tshape).2.contains (16 + p.toNat)) then none
  else lrTest p s
/-- The check before the first step. -/
def lrStart (lr : BitVec 1) (p : BitVec 4) (_ : Nat) (s : State) : StepOut :=
  match (if lr = 0 then none else lrTest p s) with
  | some t => .early t s
  | none => .ok [] s
/-- A refused block at a step. -/
def stepRefuse (e : Trap × Bool) (s : State) : StepOut := .trap e.1 (if e.2 then s.logErr (s.xlateResp e.1) e.1 else s)
/-- Read operand rows of els elements, bpr blocks each, of a format (R178): one number per row; what lies past the elements is
ignored. -/
def State.readGroups (s : State) (bpr fmt els : Nat) : Nat → List Blk → Raise → Except (Trap × Option Nat) (List Nat × Raise) × State
  | 0, _, r => (.ok ([], r), s)
  | n + 1, bs, r =>
    match s.readBlks s.ctl (some fmt) (fun e => decide (e < els)) (bs.take bpr) 0 r with
    | (.error e, s) => (.error e, s)
    | (.ok (v, r), s) =>
      match s.readGroups bpr fmt els n (bs.drop bpr) r with
      | (.error e, s) => (.error e, s)
      | (.ok (vs, r), s) => (.ok (v :: vs, r), s)
/-- Read rows through a pointer and go on with them; the pointer has advanced (R22). -/
def withRows (p : BitVec 4) (n bpr fmt els : Nat) (f : List Nat → Raise → State → StepOut) (s : State) : StepOut :=
  let x := (ptrOf s.me.ptr p).run (n * bpr)
  match s.blks .rd x.1 with
  | .error e => stepRefuse e (s.walkedBlks x.1)
  | .ok bs =>
    let s := s.walkedBlks x.1
    if bs.any s.blkBusy then .stall s
    else
      match s.readGroups bpr fmt els n bs s.calm with
      | (.error (t, some ga), s) => .trap t (s.logErr (respOf ga) t)
      | (.error (t, none), s) => .trap t s
      | (.ok (vs, r), s) => f vs r (s.modMe fun k => { k with ptr := fset k.ptr p.toNat x.2 })
/-- Write rows of whole blocks through a pointer (R178). -/
def putRows (p : BitVec 4) (bpr fmt : Nat) (rows : List Nat) (r : Raise) (s : State) : StepOut :=
  let n := rows.length * bpr
  let x := (ptrOf s.me.ptr p).run n
  match s.blks .wr x.1 with
  | .error e => stepRefuse e (s.walkedBlks x.1)
  | .ok bs =>
    let s := s.walkedBlks x.1
    if bs.any s.blkBusy then .stall s
    else
      let v := rows.foldr (fun a b => a % 2 ^ (512 * bpr) + 2 ^ (512 * bpr) * b) 0
      match s.putBlks fmt bs (2 ^ (512 * n) - 1) v with
      | (s, some (t, ga)) => .trap t (s.logErr (respOf ga) t)
      | (s, none) => .ok [] ((s.modMe fun k => { k with ptr := fset k.ptr p.toNat x.2 }).commit r)
/-- A step's results: the core and what was raised, committed as one update (R183). -/
def stepDone (rows : List Nat) (k : Core × Raise) (s : State) : StepOut := .ok rows ((s.setCore s.core k.1).commit k.2)

/-! ### Configuration (R175, R176, R195, R202, R206) -/
/-- The check of a tcfg value (R175). -/
def tcfgChk (ga : BitVec 4) (s : State) : Option Trap :=
  let v := s.g ga
  if bitsOf v 63 32 ≠ 0 ∨ (isDome v || isMacro v) = false then some (tr cReservedField v) else none
/-- tcfg and tcfg.d wait, at issue, for every earlier matrix instruction of the core (R97, R176). -/
def tcfgWaits (body : State → Res) (s : State) : Res := if s.matBusy || s.mstepOther then .wait false s else body s
/-- Effect of tcfg (R176). -/
def effTcfg (ga : BitVec 4) : Eff := fun e => tcfgWaits fun s =>
  let u := bitsOf s.me.tshape 35 32
  if u ≠ 0 then .trap (tr cTcfgInUse (w64 u)) s
  else .done (s.modMe fun k => { k with tshape := w64 (bitsOf (e.r ga) 31 0) })
/-- tcfg (R176). -/
def execTcfg (ga : BitVec 4) (s : State) : Out :=
  .next (longChk (.tcfg ga) (mstepChk (.tcfg ga) (tcfgChk ga)) (effTcfg ga) s)
/-- Effect of tcfg.d (R176). -/
def effTcfgD (ga : BitVec 4) : Eff := fun e => tcfgWaits fun s =>
  .done (s.modMe fun k => { (List.range 4).foldl (fun k m => k.zeroAcc m) k with tshape := w64 (bitsOf (e.r ga) 31 0) })
/-- tcfg.d (R176). -/
def execTcfgD (ga : BitVec 4) (s : State) : Out :=
  .next (longChk (.tcfgD ga) (mstepChk (.tcfgD ga) (tcfgChk ga)) (effTcfgD ga) s)
/-- A drain of context x waits in an engine queue. -/
def EngOp.isDrain (x : Nat) (o : EngOp) : Bool :=
  o.mine x && match o.job with
    | .drain _ _ _ => true
    | _ => false
/-- Effect of mwait (R202): it also waits for the drains that its strand left on cores it has moved from. -/
def effMwait : Eff := fun _ s =>
  if s.mstepOther || s.places.any (fun e => (s.coreAt e.1).eng.any (EngOp.isDrain e.2)) then .wait false s
  else
    match s.report fun k => k == 3 with
    | some (t, s) => .trap t s
    | none => .done s
/-- mwait (R202). -/
def execMwait (s : State) : Out := .next (longChk .mwait (mstepChk .mwait fun _ => none) effMwait s)

/-- Operation of mzero (R195). -/
def opMzero (m : BitVec 2) : Env → State → MatOp := fun _ _ =>
  { acc := m.toNat, step := fun _ _ s => .ok [] (s.modMe fun k => k.zeroAcc m.toNat) }
/-- mzero (R195). -/
def execMzero (la : BitVec 4) (m : BitVec 2) (s : State) : Out := .next (matLong (.mzero la m) (fun _ => none) (opMzero m) s)

/-- The word of mexc (R206). -/
def Core.mexc (k : Core) : Word :=
  let c (w : Word) : Nat := Nat.min w.toNat 0xFFFF
  w64 (c k.mxsat * 2 ^ 48 + c k.mxsub * 2 ^ 32 + c k.mxmrow * 2 ^ 16 + c k.mxnan)
/-- Operation of mexc (R206). -/
def opMexc (ga : BitVec 4) (clr : BitVec 1) : Env → State → MatOp := fun _ _ =>
  { step := fun _ _ s =>
      let s := s.setG ga s.me.mexc
      .ok [] (if clr = 1 then s.modMe fun k => { k with mxsat := 0, mxsub := 0, mxmrow := 0, mxnan := 0 } else s) }
/-- mexc (R206). -/
def execMexc (la ga : BitVec 4) (clr : BitVec 1) (s : State) : Out :=
  .next (matLong (.mexc la ga clr) (fun _ => none) (opMexc ga clr) s)

/-- Operation of mmov (R195). -/
def opMmov (m src : BitVec 2) : Env → State → MatOp := fun _ _ =>
  { acc := m.toNat, use := some m.toNat, step := fun _ _ s =>
      let d := m.toNat
      let a := src.toNat
      if d = a then .ok [] s
      else .ok [] (s.modMe fun k => { k with
        acc := (k.acc.filter fun e => e.1 / 16384 == a).foldr (fun e x => fset x (e.1 % 16384 + d * 16384) e.2)
          (k.acc.filter fun e => e.1 / 16384 != d)
        amax := (k.amax.filter fun e => e.1 / 128 == a).foldr (fun e x => fset x (e.1 % 128 + d * 128) e.2)
          (k.amax.filter fun e => e.1 / 128 != d)
        aden := (k.aden.filter fun e => e.1 / 128 == a).foldr (fun e x => fset x (e.1 % 128 + d * 128) e.2)
          (k.aden.filter fun e => e.1 / 128 != d) }) }
/-- mmov (R195). -/
def execMmov (la : BitVec 4) (m src : BitVec 2) (s : State) : Out := .next (matLong (.mmov la m src) (fun _ => none) (opMmov m src) s)

/-! ### Scaling and row vectors (R197, R198) -/
/-- Operation of mscale (R198). -/
def opMscale (m : BitVec 2) (p ga : BitVec 4) (row : BitVec 1) : Env → State → MatOp := fun e s =>
  let t := s.me.tshape
  let f := accF t
  let upd (j : Nat) (fac : Nat → Fv) (k : Core) (r : Raise) : Core × Raise :=
    gridUpd (accW t) m.toNat (grp j (tM t)) (List.range (tN t)) (fun i _ c r => r.near f ((f.value c).mul (fac i))) k r
  { acc := m.toNat, n := groups (tM t), use := some m.toNat
    ptr := if row = 1 then some (p, fun j => j) else none
    step := fun j _ s =>
      if row = 1 then withRows p 1 1 1 (grp j (tM t)).length (fun vs r s =>
        stepDone [] (upd j (fun i => fp32.value (elt 32 (vs.getD 0 0) (i - 16 * j))) s.me r) s) s
      else stepDone [] (upd j (fun _ => f.value ((e.r ga).toNat % 2 ^ f.width)) s.me s.calm) s }
/-- mscale (R198). -/
def execMscale (la : BitVec 4) (m : BitVec 2) (p ga : BitVec 4) (row : BitVec 1) (s : State) : Out :=
  .next (matLong (.mscale la m p ga row) (tshChk (.mscale la m p ga row) fun t => tCf t != 2) (opMscale m p ga row) s)

/-- Operation of mrow.rd (R197). -/
def opMrowRd (m : BitVec 2) (p : BitVec 4) (den : BitVec 1) : Env → State → MatOp := fun _ s =>
  let t := s.me.tshape
  { acc := m.toNat, n := groups (tM t), ptr := some (p, fun j => j)
    step := fun j _ s =>
      let k := s.me
      let v := packEls 32 ((grp j (tM t)).map fun i => (i - 16 * j, if den = 1 then k.denOf m.toNat i else k.maxOf m.toNat i))
      putRows p 1 1 [v.2] s.calm s }
/-- mrow.rd (R197). -/
def execMrowRd (la : BitVec 4) (m : BitVec 2) (p : BitVec 4) (den : BitVec 1) (s : State) : Out :=
  .next (matLong (.mrowRd la m p den) (fun _ => none) (opMrowRd m p den) s)
/-- Operation of mrow.wr (R197): it raises only what a conversion of the tagged mode raises (R75). -/
def opMrowWr (m : BitVec 2) (p : BitVec 4) (den : BitVec 1) : Env → State → MatOp := fun _ s =>
  let t := s.me.tshape
  { acc := m.toNat, n := groups (tM t), ptr := some (p, fun j => j), use := some m.toNat
    step := fun j _ s => withRows p 1 1 1 (grp j (tM t)).length (fun vs r s =>
      let k := (grp j (tM t)).foldl (fun (k : Core) i =>
        let v := elt 32 (vs.getD 0 0) (i - 16 * j)
        if den = 1 then k.setDen m.toNat i v else k.setMax m.toNat i v) s.me
      stepDone [] (k, r) s) s }
/-- mrow.wr (R197). -/
def execMrowWr (la : BitVec 4) (m : BitVec 2) (p : BitVec 4) (den : BitVec 1) (s : State) : Out :=
  .next (matLong (.mrowWr la m p den) (fun _ => none) (opMrowWr m p den) s)

/-! ### Products (R188, R189, R193, R194) -/
/-- One chunk of R188 into an accumulator code: as and bs are the values of its products. -/
def domeChunk (f64 neg : Bool) (acc : Nat) (as bs : List Fv) (r : Raise) : Nat × Raise :=
  let as := if neg then as.map Fv.neg else as
  if f64 then
    (as.zip bs).foldl (fun (x : Nat × Raise) p => x.2.near fp64 (Fv.fma rne p.1 p.2 (fp64.value x.1))) (acc, r)
  else
    let c := r.near fp32 (dotFv as bs)
    c.2.near fp32 ((fp32.value acc).add rne (fp32.value c.1))
/-- Indices of K chunk c. -/
def chunkIx (c k : Nat) : List Nat := grp c k
/-- Scale registers of an effect (R62). -/
def Env.scales (e : Env) (g : BitVec 4) (nb : Nat) : List Word :=
  if g = 0 then [] else if nb ≤ 8 then [e.r g] else [e.r g, e.r (g + 1)]
/-- Number of scale blocks of a matrix instruction (R62). -/
def matNb (fmt t : Word) : Nat := ceilDiv (tK t) (blkLen fmt)
/-- Scale registers are legal (R62). -/
def scaleChk (ga gb : BitVec 4) (fmt t : Word) : Bool :=
  decide (matNb fmt t ≤ 16) && (decide (matNb fmt t ≤ 8) || (ga != 15 && gb != 15))
/-- What a dome product needs beyond A: fields and state at issue. -/
structure Dome where
  t    : Word
  fmt  : Word
  tsc  : Word
  m    : Nat
  fb   : Nat
  neg  : Bool
  nacc : Bool
  scl  : Bool
  sa   : List Word
  sb   : List Word
/-- K chunks of a step sequence: one when scaled (R182). -/
def Dome.nk (d : Dome) : Nat := if d.scl then 1 else groups (tK d.t)
/-- Elements of k in step chunk c. -/
def Dome.ks (d : Dome) (c : Nat) : List Nat := if d.scl then List.range (tK d.t) else chunkIx c (tK d.t)
/-- Step (g, c) of R188 or R189: a i x is the code of element x of the chunk in row i of the group. -/
def Dome.step (d : Dome) (g c : Nat) (a : Nat → Nat → Nat) (k : Core) (r : Raise) : Core × Raise :=
  let fa := (elemOf (tAf d.t)).getD (.f bf16)
  let fb := (elemOf (tBf d.t)).getD (.f bf16)
  let val (el : Elem) (x : Nat) : Fv := match el with
    | .f f => f.value x
    | _ => .fin false 0 0
  let ks := d.ks c
  gridUpd (accW d.t) d.m (grp g (tM d.t)) (List.range (tN d.t)) (fun i n old r =>
    let acc := if c = 0 ∧ d.nacc then 0 else old
    let as := (List.range ks.length).map fun x => val fa (a (i - 16 * g) x)
    let bs := ks.map fun x => val fb (k.fbGet d.fb (fmtWidth (tBf d.t)) x n)
    if d.scl then
      let as := if d.neg then as.map Fv.neg else as
      let v := scaledSum (blkLen d.fmt) (bitsOf d.fmt 9 8) (matNb d.fmt d.t) (scaleOf (bitsOf d.fmt 9 8) d.sa)
        (scaleOf (bitsOf d.fmt 9 8) d.sb) d.tsc as bs r
      v.2.near fp32 ((fp32.value acc).add rne (fp32.value v.1))
    else domeChunk (tAf d.t == 0) d.neg acc as bs r) k r
/-- The fields of a dome product. -/
def domeOf (m : BitVec 2) (ga gb : BitVec 4) (neg nacc fb scl : BitVec 1) (e : Env) (s : State) : Dome :=
  let nb := matNb s.me.fmt s.me.tshape
  { t := s.me.tshape, fmt := s.me.fmt, tsc := s.me.tsc, m := m.toNat, fb := fb.toNat, neg := neg == 1, nacc := nacc == 1,
    scl := scl == 1, sa := e.scales ga nb, sb := e.scales gb nb }
/-- Checks of a dome product at issue (R177, R189). -/
def domeChk (i : Instr) (ga gb : BitVec 4) (scl : BitVec 1) (s : State) : Option Trap :=
  tshChk i (fun t => isDome t && (scl == 0 ||
    (decide (4 ≤ tAf t) && decide (tAf t ≤ 6) && decide (4 ≤ tBf t) && decide (tBf t ≤ 6) && scaleChk ga gb s.me.fmt t))) s
/-- A step of a product whose A is read through a pointer: rows are read at the first step of their group (R182). Where a step that
resumes amid a group (R358) holds none, they are read again, and what their conversion raises, which the first step has committed, is not
counted again (R32). after runs on the core and the step's A elements. -/
def domeStep (d : Dome) (p : BitVec 4) (j : Nat) (rows : List Nat) (after : Nat → List Nat → State → State) (s : State) : StepOut :=
  let g := j / d.nk
  let c := j % d.nk
  let w := fmtWidth (tAf d.t)
  let go (rows : List Nat) (r : Raise) (s : State) : StepOut :=
    let a (i x : Nat) : Nat := elt w (rows.getD i 0) ((d.ks c).getD x 0)
    let s := after c rows s
    stepDone rows (d.step g c a s.me r) s
  if c = 0 ∨ rows.isEmpty then
    withRows p (grp g (tM d.t)).length (rowBlks (tK d.t) (tAf d.t)) (tAf d.t) (tK d.t)
      (fun rows r s => go rows (if c = 0 then r else s.calm) s) s
  else go rows s.calm s
/-- Operation of mma (R188, R189). -/
def opMma (m : BitVec 2) (p ga gb : BitVec 4) (neg nacc fb scl : BitVec 1) : Env → State → MatOp := fun e s =>
  let d := domeOf m ga gb neg nacc fb scl e s
  { acc := m.toNat, n := groups (tM d.t) * d.nk, use := some m.toNat
    ptr := some (p, fun j => 16 * (j / d.nk) * rowBlks (tK d.t) (tAf d.t))
    step := fun j rows s => domeStep d p j rows (fun _ _ s => s) s }
/-- mma (R188). -/
def execMma (la : BitVec 4) (m : BitVec 2) (p ga gb : BitVec 4) (neg nacc fb scl : BitVec 1) (s : State) : Out :=
  .next (matLong (.mma la m p ga gb neg nacc fb scl) (domeChk (.mma la m p ga gb neg nacc fb scl) ga gb scl)
    (opMma m p ga gb neg nacc fb scl) s)

/-! ### Cooperative products (R190 to R192) -/
/-- The rectangle of a descriptor. -/
def coX0 (w : Word) : Nat := bitsOf w 4 0
def coY0 (w : Word) : Nat := bitsOf w 8 5
def coW (w : Word) : Nat := bitsOf w 11 9 + 1
def coH (w : Word) : Nat := bitsOf w 15 12 + 1
/-- Spire coordinates of a core number, and the compute core at coordinates of its plain (R190). -/
def coX (c : Nat) : Nat := c / 64 % 64 % 8 * 4 + c / 4 % 4
def coY (c : Nat) : Nat := c / 64 % 64 / 8 * 4 + c / 4 % 16 / 4
def coCore (c x y : Nat) : Nat := c / 4096 * 4096 + (y / 4 * 8 + x / 4) * 64 + (y % 4 * 4 + x % 4) * 4 + 2
/-- The descriptor is legal for a core (R190). -/
def coOk (w : Word) (c : Nat) : Bool :=
  bitsOf w 63 16 == 0 && decide (coX0 w + coW w ≤ 32) && decide (coY0 w + coH w ≤ 16) && decide (coX0 w ≤ coX c) &&
    decide (coX c < coX0 w + coW w) && decide (coY0 w ≤ coY c) && decide (coY c < coY0 w + coH w)
/-- Members to the right of the first of a core's row, and the first. -/
def coRow (w : Word) (c : Nat) : List Nat := (List.range (coW w - 1)).map fun j => coCore c (coX0 w + 1 + j) (coY c)
def coHead (w : Word) (c : Nat) : Nat := coCore c (coX0 w) (coY c)
/-- Row messages of a sender under way to a member. -/
def State.rowsTo (s : State) (src dst : Nat) : Nat :=
  (s.net.filter fun f => f.src == src && f.dst == dst && (match f.pay with
    | .rows .. => true
    | _ => false)).length
/-- A member's row buffer, two steps deep, leaves no room for another step (R191). -/
def State.rowsFull (s : State) (src dst : Nat) : Bool := decide (2 ≤ (s.coreAt dst).rowBuf.length + s.rowsTo src dst)
/-- A elements of a step, by row. -/
def stepRows (d : Dome) (c : Nat) (rows : List Nat) : List (List Nat) :=
  rows.map fun v => (d.ks c).map fun x => elt (fmtWidth (tAf d.t)) v x
/-- The number of the product of a descriptor that a core has last begun to send, or to receive or discard (log 31). -/
def Core.coOrd (k : Core) (desc : Word) : Nat := fget 0 k.coCnt desc.toNat
/-- Number n for a descriptor. -/
def Core.setOrd (k : Core) (desc : Word) (n : Nat) : Core := { k with coCnt := fset k.coCnt desc.toNat n }
/-- Rows are of a product that is still to begin. -/
def Core.coNew (k : Core) (b : CoRows) : Bool := decide (k.coOrd b.desc < b.ord)
/-- Rows are of the product of a descriptor that the core is in. -/
def Core.coOwn (k : Core) (desc : Word) (b : CoRows) : Bool := b.desc == desc && b.ord == k.coOrd desc
/-- Rows of a product that come before those of step j leave the buffer: steps past, and what a step that is replayed has left. -/
def coDrop (own : CoRows → Bool) (j : Nat) : List CoRows → List CoRows
  | [] => []
  | b :: r => if !own b then b :: coDrop own j r else if b.step = j then b :: r else coDrop own j r
/-- What the row buffer holds from step j of the acting strand's product on, and of products to come: what products past and steps past
have left leaves it. -/
def Core.coLive (k : Core) (desc : Word) (j : Nat) : List CoRows :=
  coDrop (k.coOwn desc) j (k.rowBuf.filter fun b => k.coNew b || (decide (0 < j) && k.coOwn desc b))
/-- Rows of the product of a descriptor that a member is in, or its request for them, are on their way (R192). -/
def State.coOwed (s : State) (c : Nat) (desc : Word) : Bool :=
  let n := (s.coreAt c).coOrd desc
  s.net.any fun f => match f.pay with
    | .rows d o _ _ _ _ => f.dst == c && d == desc && o == n
    | .rowReq d o _ => f.src == c && d == desc && o == n
    | _ => false
/-- The rows that a member at step j takes: of the oldest product of its leader that it has not begun, or of the one it is in; rows of
another descriptor only when none of its own are there or on their way. -/
def State.coPick (s : State) (desc : Word) (j : Nat) (live : List CoRows) : Option CoRows :=
  if j = 0 then live.head?
  else
    match live.find? (s.me.coOwn desc) with
    | some b => some b
    | none => if s.coOwed s.core desc then none else live.find? fun b => b.desc != desc
/-- A member that receives its rows (R191): it waits for the rows of step j; rows of later steps and of its next product wait. Rows of
another descriptor, K or af trap, and the rest of their stream is discarded. DEDUCED (log 31): a mismatch at step 0 is a cause taken
before the first step (R209), which writes no mstep; one at a later step is taken at that step (R184). -/
def coReceive (d : Dome) (desc : Word) (j : Nat) (i : Instr) (s : State) : StepOut :=
  let live := s.me.coLive desc j
  let s := s.modMe fun c => { c with rowBuf := live }
  match s.coPick desc j live with
  | none => .stall s
  | some b =>
    let rest := live.erase b
    let s := s.modMe fun c => c.setOrd b.desc b.ord
    if b.desc ≠ desc ∨ b.k ≠ tK d.t ∨ b.af ≠ tAf d.t then
      let t := tr cReservedField (i.word + w64 (bitsOf d.t 31 0 * 2 ^ 32))
      let s := s.modMe fun c => { c with rowBuf := rest.filter fun a => !(a.desc == b.desc && a.ord == b.ord) }
      if j = 0 then .early t s else .trap t s
    else
      let a (i x : Nat) : Nat := (b.rows.getD i []).getD x 0
      let s := s.modMe fun c => { c with rowBuf := rest }
      stepDone [] (d.step (j / d.nk) (j % d.nk) a s.me s.calm) s
/-- Operation of mma.co (R190 to R192). -/
def opMmaCo (la : BitVec 4) (m : BitVec 2) (p ga gb : BitVec 4) (neg nacc fb scl : BitVec 1) : Env → State → MatOp := fun e s =>
  let d := domeOf m ga gb neg nacc fb scl e s
  let desc := e.r 13
  let i := Instr.mmaCo la m p ga gb neg nacc fb scl
  let first := coX s.core == coX0 desc
  { acc := m.toNat, n := groups (tM d.t) * d.nk, use := some m.toNat
    ptr := if first then some (p, fun j => 16 * (j / d.nk) * rowBlks (tK d.t) (tAf d.t)) else none
    start := fun j s =>
      -- a member that resumes at a later step asks its leader for the rows from there on (R192)
      if first || j == 0 then .ok [] s
      else .ok [] (s.post s.core (coHead desc s.core) 2 s.ctx s.st.lix 0 (.rowReq desc (s.me.coOrd desc) j))
    step := fun j rows s =>
      if !first then coReceive d desc j i s
      else if (coRow desc s.core).any fun c => s.rowsFull s.core c then .stall s
      else
        let ptr := ptrOf s.me.ptr p
        domeStep d p j rows (fun c rows s =>
          -- the product has its number from its first step on, and the addresses of its A are kept (R192)
          let s := if j = 0 then s.modMe fun k => { k.setOrd desc (k.coOrd desc + 1) with
              coops := { desc := desc, ord := k.coOrd desc + 1, ptr := ptr, tsh := d.t, fmt := d.fmt, scl := d.scl,
                         lix := s.st.lix, sys := s.st.sys, ctx := s.ctx } :: k.coops }
            else s
          (coRow desc s.core).foldl (fun s m => s.post s.core m 2 s.ctx s.st.lix 0
            (.rows desc (s.me.coOrd desc) (tK d.t) (tAf d.t) j (stepRows d c rows))) s) s }
/-- mma.co (R190): tshape is checked before the descriptor (log 51). -/
def execMmaCo (la : BitVec 4) (m : BitVec 2) (p ga gb : BitVec 4) (neg nacc fb scl : BitVec 1) (s : State) : Out :=
  .next (matLong (.mmaCo la m p ga gb neg nacc fb scl)
    (chk2 (domeChk (.mmaCo la m p ga gb neg nacc fb scl) ga gb scl)
      (fun s => if coOk (s.g 13) s.core then none else some (tr cReservedField (s.g 13))))
    (opMmaCo la m p ga gb neg nacc fb scl) s)
/-- The step that a core's running mma.co of a descriptor is at. -/
def Core.coStep (k : Core) (desc : Word) : Option Nat :=
  (k.ctxs.flatMap (·.2.pend)).findSome? fun p => match p.instr with
    | .mmaCo _ _ _ _ _ _ _ _ _ => if p.started && p.trap.isNone && gread p.g 13 == desc then some p.step else none
    | _ => none
/-- Rows of a product that the member has begun are of use: it runs, past its first step, or awaits a replay. -/
def Core.coWanted (k : Core) (b : CoRows) : Bool :=
  k.coNew b || (k.coOrd b.desc == b.ord && (mstepAct k.mstep || (k.coStep b.desc).any fun j => decide (0 < j)))
/-- The member waits for these rows: they are of its product and step, and its buffer holds none such (log 31). -/
def Core.coNext (k : Core) (b : CoRows) : Bool :=
  k.coOrd b.desc == b.ord && k.coStep b.desc == some b.step &&
    !(k.rowBuf.any fun a => a.desc == b.desc && a.ord == b.ord && a.step == b.step)
/-- COOPERATIVE_ROW_ARRIVAL (R191): message k's rows enter the member's row buffer, when it has room or they are the ones that a
replay waits for; rows of a stream that the member has discarded or finished are discarded. -/
def execCooperativeRowArrival (k : Nat) (s : State) : Out :=
  .next (match s.arriving k with
    | some f =>
      match f.pay with
      | .rows desc ord kk af st data =>
        let c := s.coreAt f.dst
        let b : CoRows := { desc := desc, ord := ord, k := kk, af := af, step := st, rows := data }
        if !c.coWanted b then s.take k f
        else if decide (2 ≤ c.rowBuf.length) && !c.coNext b then s
        else (s.take k f).modCore f.dst fun c => { c with rowBuf := c.rowBuf ++ [b] }
      | _ => s
    | none => s.bounced k)
/-- Serve rows of steps j on, n of them, from the scratchpad addresses of the sender's pointer (R192). -/
def State.serveRows (s : State) (c dst : Nat) (co : Coop) (d : Dome) : Nat → Nat → State
  | 0, _ => s
  | n + 1, j =>
    let bpr := rowBlks (tK co.tsh) (tAf co.tsh)
    let g := j / d.nk
    let cnt := (grp g (tM co.tsh)).length
    let addrs := ((co.ptr.run (16 * g * bpr)).2.run (cnt * bpr)).1
    let bs : List (Option Blk) := addrs.map fun va =>
      match s.physOf c co.lix co.sys va 64 .rd with
      | .ok pa => some { va := va, ga := s.globalOf c pa }
      | .error _ => none
    let s := addrs.foldl (fun s va => s.walkedAll c co.lix va 64) s
    if bs.any Option.isNone then s
    else
      match State.readGroups { s with core := c, ctx := co.ctx } bpr (tAf co.tsh) (tK co.tsh) cnt (bs.filterMap id) {} with
      | (.error _, _) => s
      | (.ok (rows, _), u) =>
        let s := { u with core := s.core, ctx := s.ctx }
        (s.post c dst 2 1000 co.lix 0 (.rows co.desc co.ord (tK co.tsh) (tAf co.tsh) j (stepRows d (j % d.nk) rows))).serveRows c dst co d
          n (j + 1)
/-- ROW_REPLAY_REQUEST (R192): member (i, 0) takes message k and serves the rows of the steps named, of its own product of the number
the member names. -/
def execRowReplayRequest (k : Nat) (s : State) : Out :=
  .next (match s.arriving k with
    | some f =>
      match f.pay with
      | .rowReq desc ord st =>
        match (s.coreAt f.dst).coops.find? fun co => co.desc == desc && co.ord == ord with
        | none => s.take k f
        | some co =>
          let s := s.take k f
          let d : Dome := { t := co.tsh, fmt := co.fmt, tsc := 0, m := 0, fb := 0, neg := false, nacc := false,
                            scl := co.scl, sa := [], sb := [] }
          s.serveRows f.dst f.src co d (groups (tM co.tsh) * d.nk - st) st
      | _ => s
    | none => s.bounced k)

/-! ### Macros and signatures (R193, R194) -/
/-- Reserved cells that a macro instruction reads (R193). -/
def Core.subCells (k : Core) (c kk n : Nat) : Nat :=
  ((List.range kk).map fun i => ((List.range n).filter fun j => k.cmGet c i j % 4 == 2).length).foldl (· + ·) 0
/-- An mldb into macro c is pending on the core. -/
def Core.loadsMacro (k : Core) (c : Nat) : Bool := k.ctxs.any fun x => x.2.pend.any fun q => q.trap.isNone && match q.instr with
  | .mldb _ _ _ dst => dst.toNat == c + 4
  | _ => false
/-- The macro's mode is the one the instruction needs; while an earlier mldb into the macro is pending, it is not known (R91, R193). -/
def modeOk (tern : Bool) (cm : Nat) (s : State) : Bool := s.me.loadsMacro cm || s.me.isTern cm == tern
/-- Before the first step of mmi and mmt: the test of the mode that waited for an mldb, then that of the last-read mark. -/
def macroStart (i : Instr) (tern : Bool) (cm : BitVec 2) (lr : BitVec 1) (p : BitVec 4) (j : Nat) (s : State) : StepOut :=
  match tshChk i (fun _ => s.me.isTern cm.toNat == tern) s with
  | some t => .early t s
  | none => lrStart lr p j s
/-- Operation of mmi and mmt (R193). -/
def macroOp (i : Instr) (tern : Bool) (m : BitVec 2) (p ga gb : BitVec 4) (lr nacc : BitVec 1) (cm : BitVec 2) : Env → State → MatOp :=
  fun e s =>
  let t := s.me.tshape
  let fmt := s.me.fmt
  let uns := fmt.getLsbD 6
  let el : Elem := if tAf t = 8 then .i 4 else .i 8
  let cel : Elem := if tern then .tern else .i 8
  let nb := matNb fmt t
  let sf := bitsOf fmt 9 8
  let bpr := rowBlks (tK t) (tAf t)
  { acc := m.toNat, n := groups (tM t), use := some m.toNat, ptr := some (p, fun j => 16 * j * bpr), lr := lr == 1, start := macroStart i tern cm lr p
    step := fun j _ s => withRows p (grp j (tM t)).length bpr (tAf t) (tK t) (fun vs r s =>
      let k := s.me
      let as := vs.foldl (fun (a : List (List Int) × Raise) v =>
        let x := (List.range (tK t)).foldl (fun (b : List Int × Raise) i =>
          let y := b.2.int el uns (elt (fmtWidth (tAf t)) v i)
          (b.1 ++ [y.1], y.2)) ([], a.2)
        (a.1 ++ [x.1], x.2)) ([], r)
      let r := if tern && j == 0 then { as.2 with sub := as.2.sub + k.subCells cm.toNat (tK t) (tN t) } else as.2
      let cell (i n : Nat) : Int := (intVal cel (uns && !tern) (k.cmGet cm.toNat i n)).1
      stepDone [] (gridUpd 1 m.toNat (grp j (tM t)) (List.range (tN t)) (fun i n old r =>
        let a := as.1.getD (i - 16 * j) []
        let b := (List.range (tK t)).map fun x => cell x n
        let acc := if nacc = 1 then 0 else old
        if tCf t = 2 then laneAdd uns 32 acc ((a.zip b).foldl (fun q x => q + x.1 * x.2) 0) r
        else
          let v := scaledSum (blkLen fmt) sf nb (scaleOf sf (e.scales ga nb)) (scaleOf sf (e.scales gb nb)) s.me.tsc
            (a.map Fv.ofInt) (b.map Fv.ofInt) r
          v.2.near fp32 ((fp32.value acc).add rne (fp32.value v.1))) k r) s) s }
/-- Checks of mmi and mmt at issue (R180, R193); the mode is tested again before the first step. -/
def macroChk (i : Instr) (tern : Bool) (ga gb : BitVec 4) (cm : BitVec 2) (s : State) : Option Trap :=
  tshChk i (fun t => isMacro t && modeOk tern cm.toNat s &&
    (if tCf t = 2 then ga == 0 && gb == 0 else scaleChk ga gb s.me.fmt t)) s
/-- Operation of mmi (R193). -/
def opMmi (la : BitVec 4) (m : BitVec 2) (p ga gb : BitVec 4) (lr nacc : BitVec 1) (cm : BitVec 2) : Env → State → MatOp :=
  macroOp (.mmi la m p ga gb lr nacc cm) false m p ga gb lr nacc cm
/-- mmi (R193). -/
def execMmi (la : BitVec 4) (m : BitVec 2) (p ga gb : BitVec 4) (lr nacc : BitVec 1) (cm : BitVec 2) (s : State) : Out :=
  .next (matLong (.mmi la m p ga gb lr nacc cm) (chk2 (macroChk (.mmi la m p ga gb lr nacc cm) false ga gb cm) (lrChk lr p))
    (opMmi la m p ga gb lr nacc cm) s)
/-- Operation of mmt (R193). -/
def opMmt (la : BitVec 4) (m : BitVec 2) (p ga gb : BitVec 4) (lr nacc : BitVec 1) (cm : BitVec 2) : Env → State → MatOp :=
  macroOp (.mmt la m p ga gb lr nacc cm) true m p ga gb lr nacc cm
/-- mmt (R193). -/
def execMmt (la : BitVec 4) (m : BitVec 2) (p ga gb : BitVec 4) (lr nacc : BitVec 1) (cm : BitVec 2) (s : State) : Out :=
  .next (matLong (.mmt la m p ga gb lr nacc cm) (chk2 (macroChk (.mmt la m p ga gb lr nacc cm) true ga gb cm) (lrChk lr p))
    (opMmt la m p ga gb lr nacc cm) s)

/-- Operation of msig (R194). -/
def opMsig (m : BitVec 2) (p : BitVec 4) (fb : BitVec 1) : Env → State → MatOp := fun _ s =>
  let t := s.me.tshape
  let bpr := rowBlks (tK t) (tAf t)
  let val (c x : Nat) : Fv := match elemOf c with
    | some (.f f) => f.value x
    | _ => .fin false 0 0
  { acc := m.toNat, n := groups (tM t), use := some m.toNat, ptr := some (p, fun j => 16 * j * bpr)
    step := fun j _ s => withRows p (grp j (tM t)).length bpr (tAf t) (tK t) (fun vs r s =>
      let k := s.me
      let w := fmtWidth (tBf t)
      let row (i : Nat) (r : Raise) : Nat × Raise :=
        (List.range 64).foldl (fun (x : Nat × Raise) n =>
          let d := (List.range (groups (tK t))).foldl (fun (y : Nat × Raise) c =>
            let ks := chunkIx c (tK t)
            domeChunk false false y.1 (ks.map fun q => val (tAf t) (elt (fmtWidth (tAf t)) (vs.getD i 0) q))
              (ks.map fun q => val (tBf t) (k.fbGet fb.toNat w q n)) y.2) (0, x.2)
          (x.1 + (if 2 ^ 31 ≤ d.1 then 2 ^ n else 0), d.2)) (0, r)
      stepDone [] ((grp j (tM t)).foldl (fun (a : Core × Raise) i =>
        let v := row (i - 16 * j) a.2
        ((List.range 126).foldl (fun c n => c.accPut 1 m.toNat i (n + 2) 0)
          ((a.1.accPut 1 m.toNat i 0 (v.1 % 2 ^ 32)).accPut 1 m.toNat i 1 (v.1 / 2 ^ 32)), v.2)) (k, r)) s) s }
/-- msig (R194). -/
def execMsig (la : BitVec 4) (m : BitVec 2) (p : BitVec 4) (fb : BitVec 1) (s : State) : Out :=
  .next (matLong (.msig la m p fb) (tshChk (.msig la m p fb) fun t => isDome t && tCf t == 0 && tN t == 64) (opMsig m p fb) s)

/-! ### Loading B, reading and writing accumulators (R187, R196) -/
/-- Operation of mldb (R187). DEDUCED (log 30): each step that commits sets the macro's mode, so an mldb that traps at a later step has
changed it. -/
def opMldb (p : BitVec 4) (lr : BitVec 1) (dst : BitVec 3) : Env → State → MatOp := fun _ s =>
  let t := s.me.tshape
  let w := fmtWidth (tBf t)
  let bpr := rowBlks (tN t) (tBf t)
  { n := groups (tK t), ptr := some (p, fun j => 16 * j * bpr), lr := lr == 1, start := lrStart lr p
    step := fun j _ s => withRows p (grp j (tK t)).length bpr (tBf t) (tN t) (fun vs r s =>
      let put (a : Core × Raise) (i : Nat) : Core × Raise :=
        let v := vs.getD (i - 16 * j) 0 % 2 ^ (w * tN t)
        if dst.toNat < 2 then (a.1.fbPut dst.toNat w i v, a.2)
        else
          let bad := if tBf t = 9 then (List.range (tN t)).filter fun n => elt 2 v n == 2 else []
          (a.1.cmPut (dst.toNat - 4) i (fun n => if bad.contains n then 0 else elt w v n),
            { a.2 with sub := a.2.sub + bad.length })
      let x := (grp j (tK t)).foldl put (s.me, r)
      let k := if dst.toNat < 2 then x.1 else { x.1 with cmTern := fset x.1.cmTern (dst.toNat - 4) (tBf t == 9) }
      stepDone [] (k, x.2) s) s }
/-- Formats that mldb accepts for a target (R187). -/
def mldbChk (dst : BitVec 3) (t : Word) : Bool := if dst.toNat < 2 then decide (tBf t ≤ 6) else tBf t == 7 || tBf t == 9
/-- mldb (R187). -/
def execMldb (la p : BitVec 4) (lr : BitVec 1) (dst : BitVec 3) (s : State) : Out :=
  .next (matLong (.mldb la p lr dst) (chk2 (tshChk (.mldb la p lr dst) (mldbChk dst)) (lrChk lr p)) (opMldb p lr dst) s)

/-- Formats that leave or enter an accumulator (R196). -/
def moveOk (t : Word) (fmt : Nat) : Bool :=
  if tCf t = 2 then fmt == 11 || fmt == 10 || fmt == 7 || decide (fmt ≤ 3)
  else decide (fmt ≤ 5) || fmt == 11 || fmt == 10 || fmt == 7
/-- An accumulator element as a code of fmt (R196, R200). -/
def Core.accOut (k : Core) (t : Word) (c : Ctl) (m fmt i n : Nat) (r : Raise) : Nat × Raise :=
  match elemOf (accFmt t), elemOf fmt with
  | some a, some b => r.conv c true a b (k.accGet (accW t) m i n)
  | _, _ => (0, r)
/-- Operation of mrd (R196). -/
def opMrd (m : BitVec 2) (p fmt : BitVec 4) : Env → State → MatOp := fun _ s =>
  let t := s.me.tshape
  let f := fmt.toNat
  let bpr := rowBlks (tN t) f
  { acc := m.toNat, n := groups (tM t), ptr := some (p, fun j => 16 * j * bpr)
    step := fun j _ s =>
      let k := s.me
      let c := s.ctl
      let x := (grp j (tM t)).foldl (fun (a : List Nat × Raise) i =>
        let row := mapEls (fun _ => true) (fun n r => k.accOut t c m.toNat f i n r) (tN t) 0 a.2
        (a.1 ++ [(packEls (fmtWidth f) row.1).2], row.2)) ([], s.calm)
      putRows p bpr f x.1 x.2 s }
/-- mrd (R196). -/
def execMrd (la : BitVec 4) (m : BitVec 2) (p fmt : BitVec 4) (s : State) : Out :=
  .next (matLong (.mrd la m p fmt) (tshChk (.mrd la m p fmt) fun t => moveOk t fmt.toNat) (opMrd m p fmt) s)
/-- Operation of mwr (R196). -/
def opMwr (m : BitVec 2) (p fmt : BitVec 4) : Env → State → MatOp := fun _ s =>
  let t := s.me.tshape
  let f := fmt.toNat
  let bpr := rowBlks (tN t) f
  { acc := m.toNat, n := groups (tM t), ptr := some (p, fun j => 16 * j * bpr), use := some m.toNat
    step := fun j _ s => withRows p (grp j (tM t)).length bpr f (tN t) (fun vs r s =>
      let c := s.ctl
      stepDone [] (gridUpd (accW t) m.toNat (grp j (tM t)) (List.range (tN t)) (fun i n _ r =>
        match elemOf f, elemOf (accFmt t) with
        | some a, some b => r.conv c true a b (elt (fmtWidth f) (vs.getD (i - 16 * j) 0) n)
        | _, _ => (0, r)) s.me r) s) s }
/-- mwr (R196). -/
def execMwr (la : BitVec 4) (m : BitVec 2) (p fmt : BitVec 4) (s : State) : Out :=
  .next (matLong (.mwr la m p fmt) (tshChk (.mwr la m p fmt) fun t => moveOk t fmt.toNat) (opMwr m p fmt) s)

/-! ### Drains (R199 to R201) -/
/-- An element's checked destination as one number: 0 when clipped. -/
def encDst (g : Option Seg) : Nat :=
  match g with
  | none => 0
  | some g => g.va * 2 ^ 72 + g.ga + 1
/-- Translate every destination that is not clipped (R200). -/
def State.drainDsts (s : State) (h : Shape) (es : Nat) (a : Acc) (i : Nat) : Nat → Except (Trap × Bool) (List Nat)
  | 0 => .ok []
  | n + 1 =>
    match h.addr i with
    | none =>
      match s.drainDsts h es a (i + 1) n with
      | .error e => .error e
      | .ok r => .ok (0 :: r)
    | some t =>
      if t % es ≠ 0 then .error (tr cMisalign (i64 t), false)
      else if t < 0 ∨ 2 ^ 48 ≤ t then .error (tr cTranslation (i64 t), true)
      else
        match s.xlate t.toNat es a with
        | .error e => .error (e, true)
        | .ok pa =>
          if isHostPa pa then .error (tr cPerm (i64 t), true)
          else
            match s.drainDsts h es a (i + 1) n with
            | .error e => .error e
            | .ok r => .ok (encDst (some { va := t.toNat, ga := s.globalOf s.core pa, n := es }) :: r)
/-- What a drain reads and checks at issue (R200, R209, R285): its record. -/
def drainPrep (i : Instr) (add : Bool) (ga : BitVec 4) : Prepare := fun e s =>
  let t := s.me.tshape
  readShape (e.r ga) (fun bs s =>
    let h := parseShape bs
    if !h.ok || fmtBytes h.fmt == 0 || h.total != tM t * tN t || (if add then h.fmt != accFmt t else !moveOk t h.fmt) then
      .error (tr cReservedField (i.word + w64 (bitsOf t 31 0 * 2 ^ 32)), s)
    else .ok (.shape bs, s)) s
/-- A drain's destinations are translated and checked before its first step (R200). -/
def drainStart (add : Bool) (bs : List Byte) (s : State) : StepOut :=
  let t := s.me.tshape
  let h := parseShape bs
  let s := s.elemsWalked h (fmtBytes h.fmt) (if add then .rw else .wr)
  match s.drainDsts h (fmtBytes h.fmt) (if add then .rw else .wr) 0 (tM t * tN t) with
  | .error (x, true) => .early x (s.logErr (s.xlateResp x) x)
  | .error (x, false) => .early x s
  | .ok ds => .ok (h.fmt :: ds) s
/-- What a drain does before its first step: one that resumes after a move of its core reads its record again (R285, R358). -/
def drainBegin (i : Instr) (add : Bool) (ga : BitVec 4) (e : Env) (s : State) : StepOut :=
  match e.prep with
  | .shape bs => drainStart add bs s
  | _ =>
    match drainPrep i add ga e s with
    | .error (t, s) => .early t s
    | .ok (.shape bs, s) => drainStart add bs s
    | .ok (_, s) => .stall s
/-- Operation of a drain (R200, R201): each step hands its rows to the copy engine, as one entry of the core's queue (R308). -/
def drainOp (i : Instr) (add : Bool) (m : BitVec 2) (ga : BitVec 4) (clr : BitVec 1) : Env → State → MatOp := fun e s =>
  let t := s.me.tshape
  let n := groups (tM t)
  { acc := m.toNat, n := n, start := fun _ s => drainBegin i add ga e s
    step := fun j rows s =>
      let fmt := rows.headD 0
      let ds := rows.drop 1
      let k := s.me
      let c := s.ctl
      if Config.engineDepth ≤ k.eng.length then .stall s
      else
        let x := (grp j (tM t)).foldl (fun (a : List DrainEl × Raise) r =>
          (List.range (tN t)).foldl (fun (a : List DrainEl × Raise) n =>
            let d := ds.getD (r * tN t + n) 0
            if d = 0 then a
            else
              let v : Nat × Raise := if add then (k.accGet (accW t) m.toNat r n, a.2) else k.accOut t c m.toNat fmt r n a.2
              (a.1 ++ [{ pa := d % 2 ^ 72 - 1, va := d / 2 ^ 72, n := fmtBytes fmt, v := v.1 }], v.2)) a) ([], s.calm)
        let s := if x.1.isEmpty then s
          else s.modMe fun k => { k with eng := k.eng ++
            [{ ctx := s.ctx, order := e.tag, lix := s.st.lix, job := .drain add fmt x.1 }] }
        let s := if clr = 1 ∧ j + 1 = n then s.modMe fun k => k.zeroAcc m.toNat else s
        .ok rows (s.commit x.2) }
/-- Operation of mdrain (R200). -/
def opMdrain (la : BitVec 4) (m : BitVec 2) (ga : BitVec 4) (clr : BitVec 1) : Env → State → MatOp :=
  drainOp (.mdrain la m ga clr) false m ga clr
/-- mdrain (R200). -/
def execMdrain (la : BitVec 4) (m : BitVec 2) (ga : BitVec 4) (clr : BitVec 1) (s : State) : Out :=
  .next (matPrep (.mdrain la m ga clr) (fun _ => none) (drainPrep (.mdrain la m ga clr) false ga)
    (opMdrain la m ga clr) s)
/-- Operation of mdrain.add (R200). -/
def opMdrainAdd (la : BitVec 4) (m : BitVec 2) (ga : BitVec 4) (clr : BitVec 1) : Env → State → MatOp :=
  drainOp (.mdrainAdd la m ga clr) true m ga clr
/-- mdrain.add (R200). -/
def execMdrainAdd (la : BitVec 4) (m : BitVec 2) (ga : BitVec 4) (clr : BitVec 1) (s : State) : Out :=
  .next (matPrep (.mdrainAdd la m ga clr) (fun _ => none) (drainPrep (.mdrainAdd la m ga clr) true ga)
    (opMdrainAdd la m ga clr) s)

/-! ### Streaming softmax (R203 to R205) -/
/-- FP32 helpers, every rounding to nearest even. -/
def Raise.mul32 (r : Raise) (a b : Nat) : Nat × Raise := r.near fp32 ((fp32.value a).mul (fp32.value b))
def Raise.add32 (r : Raise) (a b : Nat) : Nat × Raise := r.near fp32 ((fp32.value a).add rne (fp32.value b))
def Raise.sub32 (r : Raise) (a b : Nat) : Nat × Raise := r.near fp32 ((fp32.value a).add rne (fp32.value b).neg)
/-- Maximum with NaN propagating. -/
def max32 (a b : Nat) : Nat := (fp32.round rne (Fv.minmax true (fp32.value a) (fp32.value b))).1
def ninf32 : Nat := 0xFF800000
/-- The factor that rescales state with maximum m to maximum mn. -/
def rescale (m mn : Nat) (r : Raise) : Nat × Raise :=
  if mn = ninf32 then (0x3F800000, r)
  else
    let d := r.sub32 m mn
    (exp2a d.1, d.2)
/-- One row of msmx (R203): x holds the scores of the live columns with their column numbers. -/
def softRow (kk n o : Nat) (i : Nat) (live : Nat → Bool) (score : Nat → Nat) (sc : Nat) (vrow : Nat → Nat → Nat) (a : Core × Raise) :
    Core × Raise :=
  let k := a.1
  let m := k.maxOf o i
  let xs := ((List.range kk).filter live).foldl (fun (b : (List (Nat × Nat) × Nat) × Raise) c =>
    let x := b.2.mul32 (score c) sc
    ((b.1.1 ++ [(c, x.1)], max32 b.1.2 x.1), x.2)) (([], m), a.2)
  let mn := xs.1.2
  let al := rescale m mn xs.2
  let ps := xs.1.1.foldl (fun (b : List (Nat × Nat) × Raise) x =>
    if mn = ninf32 then (b.1 ++ [(x.1, 0)], b.2)
    else
      let d := b.2.sub32 x.2 mn
      let q := d.2.near bf16 (fp32.value (exp2a d.1), 0)
      (b.1 ++ [(x.1, q.1)], q.2)) ([], al.2)
  let p (c : Nat) : Nat := fget 0 ps.1 c
  let t0 := ps.2.mul32 (k.denOf o i) al.1
  let t := (List.range kk).foldl (fun (b : Nat × Raise) c =>
    b.2.near fp32 ((fp32.value b.1).add rne (bf16.value (p c)))) t0
  let k := (k.setDen o i t.1).setMax o i mn
  gridUpd 1 o [i] (List.range n) (fun _ col old r =>
    let y := r.mul32 old al.1
    (List.range (groups kk)).foldl (fun (b : Nat × Raise) c =>
      let cs := (chunkIx c kk).filter live
      let s := b.2.near fp32 (dotFv (cs.map fun q => bf16.value (p q)) (cs.map fun q => bf16.value (vrow q col)))
      s.2.near fp32 ((fp32.value b.1).add rne (fp32.value s.1))) y) k t.2
/-- The mask of msmx is read at issue (R93, R94). -/
def msmxPrep (p : BitVec 4) : Prepare := fun _ s => .ok (.bits [fget 0 s.me.q p.toNat], s)
/-- A bit of a mask read at issue. -/
def Prep.bit (p : Prep) (c : Nat) : Bool :=
  match p with
  | .bits (q :: _) => q.getLsbD c
  | _ => false
/-- Operation of msmx (R203). -/
def opMsmx (m : BitVec 2) (ga : BitVec 4) (src : BitVec 2) (fb mk : BitVec 1) : Env → State → MatOp := fun e s =>
  let t := s.me.tshape
  { acc := m.toNat, n := groups (tM t), use := some m.toNat
    step := fun j _ s =>
      let k := s.me
      stepDone [] ((grp j (tM t)).foldl (fun a i =>
        softRow (tK t) (tN t) m.toNat i (fun c => mk == 0 || e.prep.bit c) (fun c => k.accGet 1 src.toNat i c)
          (bitsOf (e.r ga) 31 0) (fun q col => k.fbGet fb.toNat 16 q col) a) (k, s.calm)) s }
/-- msmx (R203). -/
def execMsmx (la : BitVec 4) (m : BitVec 2) (p ga : BitVec 4) (src : BitVec 2) (fb mk : BitVec 1) (s : State) : Out :=
  .next (matPrep (.msmx la m p ga src fb mk)
    (tshChk (.msmx la m p ga src fb mk) fun t => tAf t == 2 && tBf t == 2 && tCf t == 0 && decide (tK t ≤ 128) && src != m)
    (msmxPrep p) (opMsmx m ga src fb mk) s)

/-- Operation of mmrg (R204). -/
def opMmrg (m other : BitVec 2) : Env → State → MatOp := fun _ s =>
  let t := s.me.tshape
  { acc := m.toNat, n := groups (tM t), use := some m.toNat
    step := fun j _ s =>
      let e := s.me
      stepDone [] ((grp j (tM t)).foldl (fun (a : Core × Raise) i =>
        let m1 := e.maxOf m.toNat i
        let m2 := e.maxOf other.toNat i
        let mn := max32 m1 m2
        let a1 := rescale m1 mn a.2
        let a2 := rescale m2 mn a1.2
        let x := a2.2.mul32 (e.denOf m.toNat i) a1.1
        let y := x.2.mul32 (e.denOf other.toNat i) a2.1
        let d := y.2.add32 x.1 y.1
        gridUpd 1 m.toNat [i] (List.range (tN t)) (fun _ n old r =>
          let u := r.mul32 old a1.1
          let v := u.2.mul32 (e.accGet 1 other.toNat i n) a2.1
          v.2.add32 u.1 v.1) ((a.1.setDen m.toNat i d.1).setMax m.toNat i mn) d.2) (s.me, s.calm)) s }
/-- mmrg (R204). -/
def execMmrg (la : BitVec 4) (m other : BitVec 2) (s : State) : Out :=
  .next (matLong (.mmrg la m other) (tshChk (.mmrg la m other) fun t => tCf t == 0) (opMmrg m other) s)

/-- Operation of mfin (R205). -/
def opMfin (m : BitVec 2) : Env → State → MatOp := fun _ s =>
  let t := s.me.tshape
  { acc := m.toNat, n := groups (tM t), use := some m.toNat
    step := fun j _ s =>
      stepDone [] ((grp j (tM t)).foldl (fun (a : Core × Raise) i =>
        let masked := s.me.maxOf m.toNat i == ninf32
        let den := fp32.value (s.me.denOf m.toNat i)
        gridUpd 1 m.toNat [i] (List.range (tN t)) (fun _ _ old r =>
          if masked then (0, r)
          else
            let q := (fp32.value old).div den
            (r.flag q.2).take (fp32.round rne q.1.1 q.1.2)) a.1 (if masked then { a.2 with mrow := a.2.mrow + 1 } else a.2))
        (s.me, s.calm)) s }
/-- mfin (R205). -/
def execMfin (la : BitVec 4) (m : BitVec 2) (s : State) : Out :=
  .next (matLong (.mfin la m) (tshChk (.mfin la m) fun t => tCf t == 0) (opMfin m) s)

end Sys2Proof.Machine
end

