-- ==== Sys2Proof/Machine/Coll.lean ====
section
/-! DEFINITION. The collective engine of the towers (R246, R247, R397 to R405), Deleus and UCIe links (R394, R395). -/

namespace Sys2Proof.Machine
open Sys2Proof

/-! ### Registering (R246, R398 to R400) -/
/-- The peers of an entry (R399), in the order of k. -/
def peersOf (np ps pn p0 : Nat) : List Nat := (List.range pn).map fun k => (p0 + k * ps) % np
/-- No element stands twice in a list. -/
def noDup : List Nat → Bool
  | [] => true
  | a :: r => !r.contains a && noDup r
def TileEnt.peers (e : TileEnt) (np : Nat) : List Nat := peersOf np e.ps e.pn e.p0
/-- The contributors and the recipients of an entry (R401). -/
def TileEnt.contributors (e : TileEnt) (np : Nat) : List Nat := if e.op = 0 then [e.p0 % np] else e.peers np
def TileEnt.recipients (e : TileEnt) (np : Nat) : List Nat :=
  if e.op = 0 then (if e.pn = 1 then [e.p0 % np] else (e.peers np).drop 1) else e.peers np

/-- A range lies in the device-memory or valley-store window (R400). -/
def collWindow (va n : Nat) : Bool :=
  decide (va + n ≤ 2 ^ 37) ||
    (decide (0x8000000000 ≤ va) && decide (va < 0x8000000000 + 128 * 0x4000000) && decide ((va - 0x8000000000) % 0x4000000 + n ≤ 0x3000000))
/-- Translate a buffer for the acting strand; none for a refusal with code 0x03. -/
def State.collBuf (s : State) (va n : Nat) (a : Acc) : Option (List Seg) :=
  if !collWindow va n then none
  else
    match s.segsOf va n a with
    | .ok gs => some gs
    | .error _ => none

/-- A parsed descriptor (R398). -/
structure CollDesc where
  tab : Nat
  np : Nat
  rank : Nat
  nt : Nat
  group : Nat
  ec : Nat
  ecore : Nat
  chk : Nat
  ok : Bool
  deriving DecidableEq, Repr
/-- Parse the descriptor; ok: every reserved field is 0 and every field in range. -/
def parseColl (bs : List Byte) : CollDesc :=
  let d (k : Nat) : Nat := ofLe ((bs.drop (8 * k)).take 8)
  let np := fld (d 1) 47 32
  { tab := fld (d 0) 47 0, np := np, rank := fld (d 1) 31 16, nt := fld (d 1) 15 0, group := fld (d 2) 31 0,
    ec := fld (d 3) 27 20, ecore := fld (d 3) 19 0, chk := fld (d 4) 2 0,
    ok := fld (d 0) 63 48 == 0 && fld (d 0) 47 0 % 64 == 0 && fld (d 1) 63 48 == 0 && decide (1 ≤ np) && decide (np ≤ 1024) &&
      decide (fld (d 1) 31 16 < np) && decide (1 ≤ fld (d 1) 15 0) && decide (fld (d 1) 15 0 ≤ 4096) && fld (d 2) 63 32 == 0 &&
      fld (d 3) 63 28 == 0 && decide (fld (d 3) 27 20 < 64) && fld (d 4) 63 3 == 0 && decide (fld (d 4) 2 0 ≤ 4) &&
      d 5 == 0 && d 6 == 0 && d 7 == 0 }
/-- The operator, size and peers of a tile-table entry (R399). -/
def entOf (bs : List Byte) : TileEnt :=
  let w (k : Nat) : Nat := ofLe ((bs.drop (8 * k)).take 8)
  { src := [], dst := [], op := fld (w 2) 63 56, bytes := 64 * (fld (w 2) 17 0 + 1), ps := fld (w 3) 47 32, pn := fld (w 3) 31 16,
    p0 := fld (w 3) 15 0 }
/-- The buffers that a tile-table entry has a peer translate (R399, R400): address, bytes, access. -/
def CollDesc.bufs (d : CollDesc) (bs : List Byte) : List (Nat × Nat × Acc) :=
  let e := entOf bs
  let src := fld (ofLe (bs.take 8)) 47 0
  let dst := fld (ofLe ((bs.drop 8).take 8)) 47 0
  if !(peersOf d.np e.ps (Nat.min e.pn (d.np + 1)) e.p0).contains d.rank then []
  else (if (e.contributors d.np).contains d.rank || src != 0 then [(src, e.bytes, Acc.rd)] else []) ++
    if (e.recipients d.np).contains d.rank || dst != 0 then [(dst, e.bytes, Acc.wr)] else []
/-- Parse one entry of the tile table (R399) for a rank: nothing when the rank is no peer of it, else the entry, or a refusal. -/
def State.parseTile (s : State) (d : CollDesc) (prio : Bool) (bs : List Byte) : Except Nat (Option TileEnt) :=
  let w (k : Nat) : Nat := ofLe ((bs.drop (8 * k)).take 8)
  let e := entOf bs
  let src := fld (w 0) 47 0
  let dst := fld (w 1) 47 0
  let peers := peersOf d.np e.ps (Nat.min e.pn (d.np + 1)) e.p0
  if !peers.contains d.rank then .ok none
  else if fld (w 0) 63 48 ≠ 0 ∨ fld (w 1) 63 48 ≠ 0 ∨ fld (w 2) 55 18 ≠ 0 ∨ fld (w 3) 63 48 ≠ 0 ∨ d.np < e.pn ∨ d.np ≤ e.p0 ∨ 6 < e.op ∨
      noDup peers = false ∨ src % 64 ≠ 0 ∨ dst % 64 ≠ 0 ∨ (prio = true ∧ 65536 < e.bytes) then .error 0x02
  else
    let gives := (e.contributors d.np).contains d.rank
    let takes := (e.recipients d.np).contains d.rank
    match (if gives || src != 0 then s.collBuf src e.bytes .rd else some []),
          (if takes || dst != 0 then s.collBuf dst e.bytes .wr else some []) with
    | some a, some b => .ok (some { e with src := if gives then a else [], dst := if takes then b else [] })
    | _, _ => .error 0x03
/-- Parse the tile table, n entries from entry t on: the entries of which the rank is a peer, or a refusal and its entry. -/
def State.parseTiles (s : State) (d : CollDesc) (prio : Bool) (t : Nat) : Nat → List Byte → Except (Nat × Nat) (List (Nat × TileEnt))
  | 0, _ => .ok []
  | n + 1, bs =>
    match s.parseTile d prio (bs.take 32) with
    | .error c => .error (c, t)
    | .ok e =>
      match s.parseTiles d prio (t + 1) n (bs.drop 32) with
      | .error x => .error x
      | .ok r =>
        .ok (match e with
          | some e => (t, e) :: r
          | none => r)

/-- What coll.cfg translates of the buffers of the first n entries of a table, up to the first that fails: the walks correct what they
meet (R302, R313), and the failure is logged (R314, R315). -/
def State.tilesTried (s : State) (d : CollDesc) (n : Nat) (tb : List Byte) : State :=
  (((List.range n).flatMap fun i => d.bufs ((tb.drop (32 * i)).take 32)).foldl (fun (x : State × Bool) b =>
    if x.2 || !collWindow b.1 b.2.1 then (x.1, true)
    else
      let u := x.1.xlated b.1 b.2.1
      match s.segsOf b.1 b.2.1 b.2.2 with
      | .error t => (u.logErr (s.xlateResp t) t, true)
      | .ok _ => (u, false)) (s, false)).1

/-- COLL_STATE with its info (R400). -/
def collState (code handle tile : Nat) : Trap := tr cCollState (w64 (tile * 2 ^ 32 + handle % 65536 * 65536 + code))
/-- The tower that serves a core (R397). -/
def towerOf (c : Nat) : Nat := pkgOf c * 2 + c / 4096 % 2
/-- The handles a tower has free (R397). -/
def State.freeHandles (s : State) (t : Nat) : List Nat :=
  (List.range 256).filter fun h => !(s.colls.any fun c => c.tower == t && c.handle == h)
/-- A number of 20 bits names a core of the domain (R37). -/
def State.coreNum (s : State) (c : Nat) : Bool :=
  s.inDomain (pkgOf c) && (if isSaddle c then !s.badSaddle c else c % 2 == 0)
/-- The launch a collective step names: 16384, which is above every index of every domain, stands for strands of no launch. -/
def lixOf (n : Nat) : Option Nat := if n < 16384 then some n else none
/-- Key of a tile's count of firings. -/
def runKey (lix group tile : Nat) : Nat := lix * 2 ^ 44 + group % 2 ^ 32 * 2 ^ 12 + tile % 4096
/-- The registered participants of a group. -/
def State.collOf (s : State) (lix group : Nat) : List Coll := s.colls.filter fun c => c.lix == lixOf lix && c.group == group
/-- Participants of a tile: all np registered, every peer's flag set (R401). -/
def State.fires (s : State) (lix group tile : Nat) : Option (TileEnt × List Coll) :=
  let ps := s.collOf lix group
  match ps.find? fun c => c.ents.any fun e => e.1 == tile with
  | none => none
  | some c =>
    match c.ents.find? fun e => e.1 == tile with
    | none => none
    | some (_, e) =>
      let at' (q : Nat) : List Coll := ps.filter fun c => c.rank == q
      if ps.length = c.np ∧ ((e.peers c.np).all fun q => (at' q).any fun c => c.ready.contains tile) then
        some (e, (e.peers c.np).flatMap at')
      else none
/-- Package of rank 0 of a collective: its tower 0 is the home tower (R397). -/
def collHome (ps : List Coll) : Nat := ((ps.find? fun c => c.rank == 0).map fun c => c.tower / 2).getD 0
/-- The number of a launch in the engine's lists: 16384 for none. -/
def lixNo (l : Option Nat) : Nat := l.getD 16384
/-- Tiles that have fired since they were last noted join the firing order (R401, R404). -/
def State.noteFired (s : State) (l : Option Nat) (group : Nat) : State :=
  ((s.collOf (lixNo l) group).flatMap fun c => c.ents.map (·.1)).foldl (fun s i =>
    if (s.fires (lixNo l) group i).isSome && !s.fired.contains (lixNo l, group, i) then { s with fired := s.fired ++ [(lixNo l, group, i)] }
    else s) s
/-- A high-priority tile that has fired at a package's tower 0. -/
def State.highAt (s : State) (home : Nat) (f : Nat × Nat × Nat) : Bool :=
  match s.fires f.1 f.2.1 f.2.2 with
  | none => false
  | some (_, peers) => (peers.any (·.prio)) && collHome (s.collOf f.1 f.2.1) == home
/-- The tower may run a fired tile (R404): the first of its high-priority tiles, or any tile while it has none. -/
def State.mayRun (s : State) (lix group tile : Nat) : Bool :=
  match s.fired.find? (s.highAt (collHome (s.collOf lix group))) with
  | none => true
  | some f => f == (lix, group, tile)
/-- A tile of a launch is in flight (R397). -/
def State.tileFlying (s : State) (l : Option Nat) : Bool :=
  s.colls.any fun c => c.lix == l && c.ents.any fun e => (s.fires (lixNo l) c.group e.1).isSome
/-- The route of the control network from the acting core to its tower is down (R394, R397). -/
def State.ownTowerDown (s : State) : Bool :=
  !s.links.isEmpty && s.toTowerDown (pkgOf s.core) (s.posOf s.core) (pkgOf s.core) (towerOf s.core % 2)
/-- A core of the acting strand's launch (R398); of no launch, any core of the domain. -/
def State.launchCore (s : State) (c : Nat) : Bool :=
  match s.st.lix with
  | none => s.coreNum c
  | some l => (s.launchAt l).cores.contains c
/-- What coll.cfg reads at issue (R400): the descriptor, and the tile table where the descriptor names one that can be translated; a
translation that fails is logged. A table entry that cannot be read is an error response, answered by its saddle (R315). -/
def collPrep (ra rb : BitVec 4) : Prepare := fun e s =>
  let a := e.r ra
  let o := e.r rb
  if bitsOf o 63 2 ≠ 0 then .error (tr cReservedField o, s)
  else if !inSp a 64 then .error (tr cTranslation a, s)
  else
    match s.readBytes a.toNat 64 with
    | .error (t, s) => .error (t, s)
    | .ok (bs, s) =>
      let d := parseColl bs
      if !d.ok || decide (2 ^ 37 < d.tab + 32 * d.nt) then .ok (.shape bs, s)
      else
        let s := s.xlated d.tab (32 * d.nt)
        match s.segsOf d.tab (32 * d.nt) .rd with
        | .error t => .ok (.shape bs, s.logErr (s.xlateResp t) t)
        | .ok gs =>
          match gs.find? fun g => s.readDown s.core g.ga with
          | some g =>
            let t := tr cLinkDown (w64 g.va)
            .error (t, s.logErr s.core t)
          | none =>
            match s.readSegs gs with
            | (.error (t, ga), s) => .error (t, s.logErr (respOf ga) t)
            | (.ok tb, s) => .ok (.shape (bs ++ tb), s)
/-- The tower's part of coll.cfg: its checks and the handle it returns, one of its free ones (log 14); LINK_DOWN with the
descriptor's address where the tower is not reached (log 19). -/
def finCollCfg (rd ra rb : BitVec 4) : Eff := fun e s =>
  match e.prep with
  | .shape bs =>
    let d := parseColl (bs.take 64)
    let t := towerOf s.core
    let free := s.freeHandles t
    let prio := (e.r rb).getLsbD 0
    if s.ownTowerDown then s.fail (tr cLinkDown (e.r ra))
    else if free.isEmpty then .trap (collState 0x01 0 0) s
    else if !d.ok || !s.launchCore d.ecore then .trap (collState 0x02 0 0) s
    else if bs.length < 64 + 32 * d.nt then .trap (collState 0x03 0 0) s
    else
      match s.parseTiles d prio 0 d.nt (bs.drop 64) with
      | .error (c, i) => .trap (collState c 0 i) (s.tilesTried d (if c = 0x03 then i + 1 else i) (bs.drop 64))
      | .ok tiles =>
        let s := if s.soft.isEmpty then s else s.tilesTried d d.nt (bs.drop 64)
        if s.colls.any fun c => c.lix == s.st.lix && c.group == d.group &&
            (c.np != d.np || c.nt != d.nt || c.chk != d.chk || c.rank == d.rank) then
          .trap (collState 0x04 0 0) s
        else
          let h := free.getD ((Config.freeWord s.free).toNat % free.length) 0
          let c : Coll := { tower := t, handle := h, lix := s.st.lix, group := d.group, rank := d.rank, np := d.np, nt := d.nt,
                            chk := d.chk, ec := d.ec, ecore := d.ecore, prio := prio, det := (e.r rb).getLsbD 1, ents := tiles,
                            ready := [] }
          .done (({ s with free := s.free + 1, colls := s.colls ++ [c] }.noteFired s.st.lix d.group).setG rd (w64 h))
  | _ => .wait false s
/-- Effect of coll.cfg (R246, R400). -/
def effCollCfg (rd ra rb : BitVec 4) : Eff := prepared (collPrep ra rb) (finCollCfg rd ra rb)
/-- coll.cfg (R246). -/
def execCollCfg (la rd ra rb : BitVec 4) (s : State) : Out :=
  .next (longPrep (.collCfg la rd ra rb) (collPrep ra rb) (finCollCfg rd ra rb) s)

/-- Bytes meet the source buffer of a participant's tile (R247). -/
def Coll.reads (c : Coll) (tile : Nat) (g : Seg) : Bool :=
  c.ents.any fun e => e.1 == tile && e.2.src.any fun h => decide (g.ga < h.ga + h.n) && decide (h.ga < g.ga + g.n)
/-- Effect of coll.rdy (R247, R400): it waits for the strand's earlier writes to the tile's source buffer, and sets the tile's ready
flag; LINK_DOWN with the handle where the tower is not reached (log 19). -/
def effCollRdy (ra rb : BitVec 4) : Eff := fun e s =>
  let h := (e.r ra).toNat
  let i := (e.r rb).toNat
  let t := towerOf s.core
  if s.ownTowerDown then s.fail (tr cLinkDown (e.r ra))
  else
  match s.colls.find? fun c => c.tower == t && c.handle == h with
  | none => .trap (collState 0x05 h i) s
  | some c =>
    if c.nt ≤ i then .trap (collState 0x06 h i) s
    else if !(c.ents.any fun p => p.1 == i) then .trap (collState 0x07 h i) s
    else if c.ready.contains i then .trap (collState 0x08 h i) s
    else if s.busyBefore e.tag || s.writing e.tag (c.reads i) then .wait false s
    else
      let colls := s.colls.map fun (x : Coll) => if x.tower == t && x.handle == h then { x with ready := x.ready ++ [i] } else x
      .done (State.noteFired { s with colls := colls } c.lix c.group)
/-- coll.rdy (R247). -/
def execCollRdy (la ra rb : BitVec 4) (s : State) : Out := .next (longOp (.collRdy la ra rb) (effCollRdy ra rb) s)

/-! ### Running a tile (R401 to R405) -/
/-- Element bytes of an operator, and its combination (R399). -/
def opBytes (op : Nat) : Nat := if op = 1 ∨ op = 2 then 8 else if op = 4 then 2 else if op = 0 then 1 else 4
def combine (op a b : Nat) : Nat :=
  match op with
  | 1 => (a + b) % 2 ^ 64
  | 2 => (addC fp64 a b).1
  | 3 => (addC fp32 a b).1
  | 4 => (addC bf16 a b).1
  | 5 => (fp32.round rne (Fv.minmax true (fp32.value a) (fp32.value b))).1
  | 6 => (fp32.round rne (Fv.minmax false (fp32.value a) (fp32.value b))).1
  | _ => a
/-- Combine two chunks element by element. -/
def combineChunk (op : Nat) : Nat → List Byte → List Byte → List Byte
  | 0, _, _ => []
  | n + 1, a, b =>
    let w := opBytes op
    leBytes w (combine op (ofLe (a.take w)) (ofLe (b.take w))) ++ combineChunk op n (a.drop w) (b.drop w)
def combineAll (op : Nat) (a b : List Byte) : List Byte := combineChunk op (a.length / opBytes op) a b
/-- Fold a list of contributions from the left. -/
def foldChunks (op : Nat) : List (List Byte) → List Byte
  | [] => []
  | a :: r => r.foldl (combineAll op) a
/-- Combine contributions under some binary tree (R403): each number of the order names two of the values left, i and j, which
their combination replaces; what is left at the end is combined from the left. -/
def treeChunks (op : Nat) : List Nat → List (List Byte) → List Byte
  | [], vs => foldChunks op vs
  | k :: r, vs =>
    let i := k / 1024 % vs.length
    let j := k % 1024 % vs.length
    if vs.length < 2 ∨ i = j then treeChunks op r vs
    else treeChunks op r (dropAt (setAt vs i (combineAll op (vs.getD i []) (vs.getD j []))) j)

/-- A participant's entry of a tile. -/
def Coll.ent (c : Coll) (tile : Nat) : Option TileEnt := (c.ents.find? fun e => e.1 == tile).map (·.2)
/-- The peers' entries agree (R399, R405). -/
def agree (e : TileEnt) (tile : Nat) (ps : List Coll) : Bool :=
  ps.all fun c => match c.ent tile with
    | some f => f.op == e.op && f.bytes == e.bytes && f.ps == e.ps && f.pn == e.pn && f.p0 == e.p0
    | none => false
/-- The home tower, tower 0 of a package (R397), cannot write a segment: the route from it to the segment's saddle is down (R394), or the
saddle's island is off (R420). -/
def State.homeDown (s : State) (home : Nat) (g : Seg) : Bool :=
  let pkg := g.ga / 2 ^ 52
  let d := saddleOf pkg (g.ga % 2 ^ 52)
  s.islandOff d || (!s.links.isEmpty && s.towerToDown home 0 pkg (s.posOf d))
/-- The home tower cannot read a segment: its request does not reach the saddle, or the bytes do not come back. -/
def State.homeReadDown (s : State) (home : Nat) (g : Seg) : Bool :=
  let pkg := g.ga / 2 ^ 52
  s.homeDown home g || (!s.links.isEmpty && s.toTowerDown pkg (s.posOf (saddleOf pkg (g.ga % 2 ^ 52))) home 0)
/-- A failure of a tile: code, address, and the memory that answered with an error response, if one did (R315, R405). -/
abbrev CollErr := Nat × Nat × Option Nat
/-- A staged chunk is that of a participant's tile, run and chunk. -/
def Contrib.of (c : Coll) (tile run k : Nat) (x : Contrib) : Bool :=
  x.lix == c.lix && x.group == c.group && x.tile == tile && x.rank == c.rank && x.run == run && x.chunk == k
/-- The bytes the engine has read of a participant's chunk (R402). -/
def State.staged (s : State) (c : Coll) (tile run k : Nat) : List Byte := ((s.contribs.find? (Contrib.of c tile run k)).map (·.data)).getD []
/-- The chunk of a participant, n more lines of it at most: what the engine has read of it, and what the next lines of its src hold
now (R401). -/
def State.chunkOf (s : State) (home : Nat) (c : Coll) (tile run k size n : Nat) : Except CollErr (List Byte) × State :=
  match c.ent tile with
  | none => (.ok [], s)
  | some e =>
    let had := s.staged c tile run k
    let gs := cutSegs e.src (k * size + had.length) (Nat.min (64 * n) (Nat.min size (e.bytes - k * size) - had.length))
    match gs.find? (s.homeReadDown home) with
    | some g => (.error (cLinkDown, g.va, none), s)
    | none =>
      match s.readSegs gs with
      | (.error (t, ga), s) => (.error (t.code, t.info.toNat, some (respOf ga)), s)
      | (.ok bs, s) => (.ok (had ++ bs), s)
/-- The chunks of participants, in their order. -/
def State.chunksOf (s : State) (home tile run k size : Nat) : List Coll → Except CollErr (List (List Byte)) × State
  | [] => (.ok [], s)
  | c :: r =>
    match s.chunkOf home c tile run k size (size / 64) with
    | (.error x, s) => (.error x, s)
    | (.ok a, s) =>
      match s.chunksOf home tile run k size r with
      | (.error x, s) => (.error x, s)
      | (.ok as, s) => (.ok (a :: as), s)
/-- Write a chunk to the recipients, up to the first error response. -/
def State.giveChunk (s : State) (home tile k size : Nat) (data : List Byte) : List Coll → Option CollErr × State
  | [] => (none, s)
  | c :: r =>
    match c.ent tile with
    | none => s.giveChunk home tile k size data r
    | some e =>
      let gs := cutSegs e.dst (k * size) data.length
      match gs.find? (s.homeDown home), s.badSegs gs with
      | some g, _ => (some (cLinkDown, g.va, none), s)
      | none, some (t, ga) => (some (t.code, t.info.toNat, some (respOf ga)), s)
      | none, none => (s.pokeSegs gs data).giveChunk home tile k size data r
/-- Ascending rank. -/
def insRank (c : Coll) : List Coll → List Coll
  | [] => [c]
  | d :: r => if c.rank < d.rank then c :: d :: r else d :: insRank c r
/-- Run chunks k, k + 1, ... of a tile, n of them (R401, R403): the first error, if any. -/
def State.runChunks (s : State) (home tile run size : Nat) (e : TileEnt) (det : Bool) (order : List Nat) (gives takes : List Coll)
    (k : Nat) : Nat → Option CollErr × State
  | 0 => (none, s)
  | n + 1 =>
    match s.chunksOf home tile run k size gives with
    | (.error x, s) => (some x, s)
    | (.ok vs, s) =>
      let data := if det then foldChunks e.op vs else treeChunks e.op order vs
      match s.giveChunk home tile k size data takes with
      | (some x, s) => (some x, s)
      | (none, s) => s.runChunks home tile run size e det order gives takes (k + 1) n
/-- COLL_TILE_FIRE (R401, R403 to R405): a tile whose peers are all ready runs chunk by chunk; then the ready flags clear and
every peer's counter rises, by 1, or by 2^32 when the tile failed. The order says how an engine without det combines. A bulk tile
lets the high-priority tiles of its tower that have fired pass, and those run in firing order (R404). -/
def execCollTileFire (lix group tile : Nat) (order : List Nat) (s : State) : Out :=
  .next (match s.fires lix group tile with
    | none => s
    | some (e, peers) =>
      if !s.mayRun lix group tile then s
      else
      let all := s.collOf lix group
      let np := all.length
      let home := collHome all
      let size := 4096 * 2 ^ ((peers.head?.map (·.chk)).getD 0)
      let det := peers.any (·.det)
      let pick (qs : List Nat) : List Coll := (peers.filter fun c => qs.contains c.rank).foldl (fun l c => insRank c l) []
      let run := fget 0 s.runs (runKey lix group tile)
      let r := if agree e tile peers then
          s.runChunks home tile run size e det order (pick (e.contributors np)) (pick (e.recipients np)) 0 ((e.bytes + size - 1) / size)
        else (some (cCollState, tile, none), s)
      let s := { r.2 with
        colls := r.2.colls.map fun c => if c.lix == lixOf lix && c.group == group then { c with ready := c.ready.filter (· != tile) } else c
        runs := fset r.2.runs (runKey lix group tile) (run + 1)
        fired := r.2.fired.filter (· != (lix, group, tile))
        contribs := r.2.contribs.filter fun x => !(x.lix == lixOf lix && x.group == group && x.tile == tile) }
      let s := match r.1 with
        | some (code, info, resp) =>
          -- the controller's log (R405), and that of the memory that answered (R315)
          let s := s.henudLog code info (s.launchId (lixOf lix)) (home * 16384)
          match resp with
          | some r => s.logAt r code info (s.launchId (lixOf lix)) (home * 16384)
          | none => s
        | none => s
      peers.foldl (fun s c => s.ecAdd c.ecore c.ec (if r.1.isSome then 0x100000000 else 1)) s)

/-- COLL_CONTRIBUTION (R401, R402): the engine reads the next 64-byte line of a contribution chunk of a tile in flight, as its src
holds it now; the lines of a chunk are read at moments of their own. A chunk read whole has its bit set: what comes of it again, also
what a link delivers twice (R395), is discarded, and so is a chunk of another run. -/
def execCollContribution (lix group tile rank run chunk : Nat) (s : State) : Out :=
  .next (match s.fires lix group tile with
    | none => s
    | some (e, peers) =>
      let all := s.collOf lix group
      match peers.find? fun c => c.rank == rank && (e.contributors all.length).contains rank with
      | none => s
      | some c =>
        let size := 4096 * 2 ^ c.chk
        let seen := decide (Nat.min size (e.bytes - chunk * size) ≤ (s.staged c tile run chunk).length)
        if seen || run != fget 0 s.runs (runKey lix group tile) || decide (e.bytes ≤ chunk * size) || !agree e tile peers then s
        else
          match s.chunkOf (collHome all) c tile run chunk size 1 with
          | (.error _, s) => s
          | (.ok bs, s) => { s with contribs := (s.contribs.filter fun x => !Contrib.of c tile run chunk x) ++
              [{ lix := lixOf lix, group := group, tile := tile, rank := rank, run := run, chunk := chunk, data := bs }] })

/-! ### Links (R394, R395) -/
def State.modLink (s : State) (k : Nat) (f : Link → Link) : State := { s with links := fset s.links k (f (fget {} s.links k)) }
/-- DELEUS_FLIT_RECEIVE (R395): a flit whose CRC fails stays unacknowledged; a flit of the next sequence number is accepted and
acknowledged; one already accepted is dropped. -/
def execDeleusFlitReceive (link sq : Nat) (good : Bool) (s : State) : Out :=
  .next (
    let l : Link := fget {} s.links link
    if 2 ≤ l.failed then s
    else if !good then
      if l.replay.contains sq || decide (2048 ≤ l.replay.length) then s else s.modLink link fun l => { l with replay := l.replay ++ [sq] }
    else
      s.modLink link fun l => { l with
        expect := if sq = l.expect.toNat then l.expect + 1 else l.expect
        replay := if sq = l.expect.toNat ∨ (l.expect - BitVec.ofNat 16 sq).toNat < 32768 then l.replay.filter (· != sq) else l.replay })
/-- LINK_LEVEL_RETRY (R395): the sender sends a flit again from its replay buffer; until it is acknowledged it stays there. -/
def execLinkLevelRetry (link sq : Nat) (s : State) : Out :=
  .next (
    let l : Link := fget {} s.links link
    if decide (2 ≤ l.failed) || l.replay.contains sq || decide (2048 ≤ l.replay.length) ||
        decide (2048 < (l.expect - BitVec.ofNat 16 sq).toNat) then s
    else s.modLink link fun l => { l with replay := l.replay ++ [sq] })
/-- LANE_FAILURE (R394, R395, R421): a lane of a link fails; while its spares last it is replaced, and the replacement enters
the spare map. -/
def execLaneFailure (link : Nat) (s : State) : Out :=
  .next (
    let n := (fget ({} : Link) s.links link).failed + 1
    let spared := if link < 1024 then decide (n ≤ 1) else decide (n ≤ 2)
    let s := s.modLink link fun l => { l with failed := n }
    if spared then { s with henud := { s.henud with spareMap := s.henud.spareMap ++
      [((if link < 1024 then 5 else 4) * 2 ^ 56 + link, n)] } } else s)

end Sys2Proof.Machine
end

