-- ==== Sys2Proof/Machine/Pending.lean ====
section
/-! DEFINITION. Completing what a unit keeps pending (R91, R96, R98, R184). -/

namespace Sys2Proof.Machine
open Sys2Proof

/-- The effect of a long-latency instruction, by instruction; none for one that completes at issue and for a macro-operation. -/
def effOf : Instr → Option Eff
  | .mul _ rd ra rb => some (effMul rd ra rb)
  | .mulh _ rd ra rb => some (effMulh rd ra rb)
  | .mulhu _ rd ra rb => some (effMulhu rd ra rb)
  | .mulhsu _ rd ra rb => some (effMulhsu rd ra rb)
  | .div _ rd ra rb => some (effDiv rd ra rb)
  | .divu _ rd ra rb => some (effDivu rd ra rb)
  | .rem _ rd ra rb => some (effRem rd ra rb)
  | .remu _ rd ra rb => some (effRemu rd ra rb)
  | .madd _ rd ra rb rc => some (effMadd rd ra rb rc)
  | .fadd _ rd ra rb fs => some (effFadd rd ra rb fs)
  | .fsub _ rd ra rb fs => some (effFsub rd ra rb fs)
  | .fmul _ rd ra rb fs => some (effFmul rd ra rb fs)
  | .fdiv _ rd ra rb fs => some (effFdiv rd ra rb fs)
  | .fsqrt _ rd ra fs => some (effFsqrt rd ra fs)
  | .fmin _ rd ra rb fs => some (effFmin rd ra rb fs)
  | .fmax _ rd ra rb fs => some (effFmax rd ra rb fs)
  | .fma _ rd ra rb rc fs => some (effFma rd ra rb rc fs)
  | .feq _ rd ra rb fs => some (effFeq rd ra rb fs)
  | .flt _ rd ra rb fs => some (effFlt rd ra rb fs)
  | .fle _ rd ra rb fs => some (effFle rd ra rb fs)
  | .fcvti _ rd ra u width fs => some (effFcvti rd ra u width fs)
  | .fcvtf _ rd ra u width fs => some (effFcvtf rd ra u width fs)
  | .fcvt _ rd ra src fs => some (effFcvt rd ra src fs)
  | .fsgnj _ rd ra rb sj fs => some (effFsgnj rd ra rb sj fs)
  | .fclass _ rd ra fs => some (effFclass rd ra fs)
  | .ldb _ rd ra off => some (effLdb rd ra off)
  | .ldbu _ rd ra off => some (effLdbu rd ra off)
  | .ldh _ rd ra off => some (effLdh rd ra off)
  | .ldhu _ rd ra off => some (effLdhu rd ra off)
  | .ldw _ rd ra off => some (effLdw rd ra off)
  | .ldwu _ rd ra off => some (effLdwu rd ra off)
  | .ldd _ rd ra off => some (effLdd rd ra off)
  | .stb _ rd ra off => some (effStb rd ra off)
  | .sth _ rd ra off => some (effSth rd ra off)
  | .stw _ rd ra off => some (effStw rd ra off)
  | .std _ rd ra off => some (effStd rd ra off)
  | .ptrset _ vd vs1 vs2 => some (effPtrset vd vs1 vs2)
  | .ptrdim _ vd vs1 => some (effPtrdim vd vs1)
  | .ptrget _ vd vs1 vs2 => some (effPtrget vd vs1 vs2)
  | .vadd _ vd vs1 vs2 pm => some (effVadd vd vs1 vs2 pm)
  | .vsub _ vd vs1 vs2 pm => some (effVsub vd vs1 vs2 pm)
  | .vmul _ vd vs1 vs2 pm => some (effVmul vd vs1 vs2 pm)
  | .vmin _ vd vs1 vs2 pm => some (effVmin vd vs1 vs2 pm)
  | .vmax _ vd vs1 vs2 pm => some (effVmax vd vs1 vs2 pm)
  | .vabs _ vd vs1 pm => some (effVabs vd vs1 pm)
  | .vneg _ vd vs1 pm => some (effVneg vd vs1 pm)
  | .vand _ vd vs1 vs2 pm => some (effVand vd vs1 vs2 pm)
  | .vor _ vd vs1 vs2 pm => some (effVor vd vs1 vs2 pm)
  | .vxor _ vd vs1 vs2 pm => some (effVxor vd vs1 vs2 pm)
  | .vshl _ vd vs1 vs2 pm => some (effVshl vd vs1 vs2 pm)
  | .vshr _ vd vs1 vs2 pm => some (effVshr vd vs1 vs2 pm)
  | .vfma _ vd vs1 vs2 pm => some (effVfma vd vs1 vs2 pm)
  | .vsel _ vd vs1 vs2 pm => some (effVsel vd vs1 vs2 pm)
  | .vcmpEq _ vd vs1 vs2 pm => some (effVcmpEq vd vs1 vs2 pm)
  | .vcmpNe _ vd vs1 vs2 pm => some (effVcmpNe vd vs1 vs2 pm)
  | .vcmpLt _ vd vs1 vs2 pm => some (effVcmpLt vd vs1 vs2 pm)
  | .vcmpLe _ vd vs1 vs2 pm => some (effVcmpLe vd vs1 vs2 pm)
  | .vperm _ vd vs1 vs2 pm => some (effVperm vd vs1 vs2 pm)
  | .vbcast _ vd vs1 pm => some (effVbcast vd vs1 pm)
  | .vcvt _ vd vs1 vs2 pm => some (effVcvt vd vs1 vs2 pm)
  | .vcvtS _ vd vs1 quant sreg pm => some (effVcvtS vd vs1 quant sreg pm)
  | .vpack _ vd vs1 => some (effVpack vd vs1)
  | .vunpack _ vd vs1 => some (effVunpack vd vs1)
  | .vdot _ vs1 vs2 pm => some (effVdot vs1 vs2 pm)
  | .vdotS _ vd vs1 vs2 pm => some (effVdotS vd vs1 vs2 pm)
  | .vsum _ vs1 pm => some (effVsum vs1 pm)
  | .vredMax _ vs1 pm => some (effVredMax vs1 pm)
  | .vredMin _ vs1 pm => some (effVredMin vs1 pm)
  | .vaccClr _ vs1 => some (effVaccClr vs1)
  | .vaccSt _ vd pm => some (effVaccSt vd pm)
  | .vaccRd _ vd vs1 vs2 => some (effVaccRd vd vs1 vs2)
  | .vexp2 _ vd vs1 pm => some (effVexp2 vd vs1 pm)
  | .vrcp _ vd vs1 pm => some (effVrcp vd vs1 pm)
  | .vrsqrt _ vd vs1 pm => some (effVrsqrt vd vs1 pm)
  | .vgath _ vd vs1 vs2 pm => some (effVgath vd vs1 vs2 pm)
  | .vscat _ vd vs1 vs2 pm => some (effVscat vd vs1 vs2 pm)
  | .vcprs _ vd vs1 vs2 pm => some (effVcprs vd vs1 vs2 pm)
  | .vhamf _ vd vs1 vs2 pm => some (effVhamf vd vs1 vs2 pm)
  | .tcfg ga => some (effTcfg ga)
  | .tcfgD ga => some (effTcfgD ga)
  | .mwait => some (effMwait)
  | .send _ w ra rb rc => some (effSend w ra rb rc)
  | .sendl _ rd ra rb rc => some (effSendl rd ra rb rc)
  | .reply la w rb rc => some (effReply la w rb rc)
  | .hret => some (effHret)
  | .mpoll _ rd ra q => some (effMpoll rd ra q)
  | .rsend _ det op ra rb rc => some (effRsend det op ra rb rc)
  | .barInit _ ra n => some (effBarInit ra n)
  | .barArr la rd ra n => some (effBarArr la rd ra n)
  | .barExp _ ra n => some (effBarExp ra n)
  | .barWait ra n => some (effBarWait ra n)
  | .barTest _ rd n => some (effBarTest rd n)
  | .barFlags _ rd n => some (effBarFlags rd n)
  | .ecSet _ ra n => some (effEcSet ra n)
  | .ecInc _ ra n => some (effEcInc ra n)
  | .ecArm _ rd ra n => some (effEcArm rd ra n)
  | .ecRd _ rd n => some (effEcRd rd n)
  | .semPost _ ra n => some (effSemPost ra n)
  | .semTake la ra n => some (effSemTake la ra n)
  | .fence n => some (effFence n)
  | .atom la rd ra rb op => some (effAtom la rd ra rb op)
  | .atomRet la rd ra rb op => some (effAtomRet la rd ra rb op)
  | .acq rd ra => some (effAcq rd ra)
  | .rel ra rb => some (effRel ra rb)
  | .bind _ ra rb rc => some (effBind ra rb rc)
  | .unbind _ ra => some (effUnbind ra)
  | .copy _ rd ra rb rc => some (effCopy rd ra rb rc)
  | .collCfg _ rd ra rb => some (effCollCfg rd ra rb)
  | .collRdy _ ra rb => some (effCollRdy ra rb)
  | .strmOpen _ ra => some (effStrmOpen ra)
  | .strmClose _ ra => some (effStrmClose ra)
  | .itreq _ ra slot => some (effItreq ra slot)
  | .itreqX _ ra rb slot => some (effItreqX ra rb slot)
  | .ithold la rd ra slot => some (effIthold la rd ra slot)
  | .itrel la slot => some (effItrel la slot)
  | .itstat la rd slot => some (effItstat la rd slot)
  | .itland la ra slot => some (effItland la ra slot)
  | .bdeal _ rd ra rb => some (effBdeal rd ra rb)
  | .bdpat _ ra rb => some (effBdpat ra rb)
  | .spawn _ ra x => some (effSpawn ra x)
  | .spawnR _ ra rb x => some (effSpawnR ra rb x)
  | .yield => some (effYield)
  | .halt ra rt => some (effHalt ra rt)
  | .trig la => some (effTrig la)
  | .awaitEv ra rb => some (effAwaitEv ra rb)
  | .cmp ra => some (effCmp ra)
  | .dcmp => some (effDcmp)
  | _ => none

/-- The operation of a macro-operation (R182). -/
def matOf : Instr → Option (Env → State → MatOp)
  | .mzero _ m => some (opMzero m)
  | .mexc _ ga clr => some (opMexc ga clr)
  | .mscale _ m p ga row => some (opMscale m p ga row)
  | .mma _ m p ga gb neg nacc fb scl => some (opMma m p ga gb neg nacc fb scl)
  | .mmaCo la m p ga gb neg nacc fb scl => some (opMmaCo la m p ga gb neg nacc fb scl)
  | .mmi la m p ga gb lr nacc cm => some (opMmi la m p ga gb lr nacc cm)
  | .mmt la m p ga gb lr nacc cm => some (opMmt la m p ga gb lr nacc cm)
  | .msig _ m p fb => some (opMsig m p fb)
  | .mldb _ p lr dst => some (opMldb p lr dst)
  | .mrd _ m p fmt => some (opMrd m p fmt)
  | .mwr _ m p fmt => some (opMwr m p fmt)
  | .mdrain la m ga clr => some (opMdrain la m ga clr)
  | .mdrainAdd la m ga clr => some (opMdrainAdd la m ga clr)
  | .mmov _ m src => some (opMmov m src)
  | .mrowRd _ m p den => some (opMrowRd m p den)
  | .mrowWr _ m p den => some (opMrowWr m p den)
  | .msmx _ m _ ga src fb mk => some (opMsmx m ga src fb mk)
  | .mmrg _ m other => some (opMmrg m other)
  | .mfin _ m => some (opMfin m)
  | _ => none

/-- Instructions a unit has accepted, of which none waits for an answer or has trapped, with their contexts, oldest first (R91). -/
def pendInsert (e : Nat × Pend) : List (Nat × Pend) → List (Nat × Pend)
  | [] => [e]
  | d :: r => if e.2.order < d.2.order then e :: d :: r else d :: pendInsert e r
def Core.pendOf (k : Core) (unit : Nat) : List (Nat × Pend) :=
  (k.ctxs.flatMap fun e => (e.2.pend.filter fun p => p.unit == unit && p.trap.isNone && p.tag.isNone).map fun p =>
    (e.1, p)).foldl (fun l e => pendInsert e l) []

/-- The state of a result. -/
def Res.state : Res → State
  | .done s => s
  | .wait _ s => s
  | .trap _ s => s
  | .sent _ s => s
  | .gone s => s
/-- An effect under the control registers as they stood when the pending instruction issued (R34, R93). It draws from rngs as it stood
then, and rngs itself advances once for each draw (R60), whatever other instructions have drawn meanwhile. -/
def State.atIssue (s : State) (p : Pend) (f : State → Res) : Res :=
  let run (r : Word) : Res := f (s.modMe fun k => { k with dflt := p.dflt, sqcfg := p.sqcfg, rngs := r })
  let back (u : State) : State := u.modCore s.core fun k => { k with
    dflt := s.me.dflt, sqcfg := s.me.sqcfg
    rngs := if p.rngs = s.me.rngs then k.rngs else ((run s.me.rngs).state.coreAt s.core).rngs }
  match run p.rngs with
  | .done u => .done (back u)
  | .wait y u => .wait y (back u)
  | .trap t u => .trap t (back u)
  | .sent y u => .sent y (back u)
  | .gone u => .gone (back u)
/-- A pending instruction of context x has begun and cannot complete yet; y: with no window that wait is a yield (R273, R339), and a
strand of an ended launch stops there (R351). -/
def State.held (s : State) (x order : Nat) (y : Bool) : State :=
  let w := y && s.me.ctxs.any fun e => e.1 == x && e.2.pend.any fun q => q.order == order && (q.instr.la == 0 || q.re)
  if w && (s.strandAt s.core x).ended then s.completed s.core x order
  else
  s.modStrand s.core x fun t =>
    { t with life := if w then .waiting else t.life
             since := if w then s.tick else t.since
             wd := if w then 0 else t.wd
             cls := if w then t.prio.toNat else t.cls
             pend := t.pend.map fun q => if q.order = order then { q with started := true, yields := w } else q }
/-- Run a pending instruction of context x of the acting core for at most n steps; none when it cannot go on. -/
def State.runPend (s : State) (x : Nat) (p : Pend) (n : Nat) : Option State :=
  let s := { s with ctx := x }
  let e : Env := { g := p.g, tag := p.order, pc := p.pc, prep := p.prep }
  match matOf p.instr with
  | some op => if s.mstepOther then none else some (s.runMat p.order (op e s) (Nat.min n (op e s).n))
  | none =>
    match effOf p.instr with
    | none => none
    | some f =>
      match s.atIssue p (f e) with
      | .done s => some (s.completed s.core x p.order)
      | .wait y s => if p.started then none else some (s.held x p.order y)
      | .trap t s => some (s.failed s.core x p.order t)
      | .sent y s => some ((s.held x p.order y).modPend p.order fun q => { q with tag := some p.order })
      | .gone s => some s
/-- The first of a unit's pending instructions that can go on; one that waits behind another of its strand cannot (R96). -/
def State.firstPend (s : State) (n : Nat) : List (Nat × Pend) → Option State
  | [] => none
  | e :: r =>
    match (if e.2.com then s.runPend e.1 e.2 n else none) with
    | some s => some s
    | none => s.firstPend n r
/-- The pending instructions of a unit whose turn it is (R91): the oldest; on the message unit every one that has begun and waits for
its condition, and the oldest that has not; on the matrix unit, while mstep is active, only its owner's (R184). -/
def Core.turn (k : Core) (unit : Nat) : List (Nat × Pend) :=
  let ps := k.pendOf unit
  if unit = 5 then ps.filter (·.2.started) ++ (ps.filter fun e => !e.2.started).take 1
  else if unit = 4 ∧ mstepAct k.mstep then (ps.filter fun e => e.1 == mstepCtx k.mstep).take 1
  else ps.take 1
/-- A unit executes what it has accepted, in acceptance order (R91); the sequencer of a frozen core commits no step (R358). -/
def State.runUnit (s : State) (core unit n : Nat) : State :=
  let u := { s with core := core }
  if unit = 4 ∧ u.me.frozen = true then s
  else
  match u.firstPend n (u.me.turn unit) with
  | some t => { t with core := s.core, ctx := s.ctx }
  | none => s

/-- LONG_LATENCY_COMPLETE (R91, R96, R98): a unit of a core completes the pending instruction whose turn it is, or raises its
trap. -/
def execLongLatencyComplete (core unit : Nat) (s : State) : Out := .next (s.runUnit core unit 65536)

/-- MACRO_STEP_COMMIT (R182 to R184): the matrix sequencer of a core commits one step of the macro-operation whose turn it
is. -/
def execMacroStepCommit (core : Nat) (s : State) : Out := .next (s.runUnit core 4 1)

end Sys2Proof.Machine
end

