-- ==== Sys2Proof/Machine/Sched.lean ====
section
/-! DEFINITION. Fetching, starting tasks, stealing, ranking, parking, the watchdog (R76, R294, R295, R333 to R342, R349). -/

namespace Sys2Proof.Machine
open Sys2Proof

/-! ### Fetch (R76, R129, R302) -/
/-- The valley whose instruction cache a core's fetches go through, by the core's place; a channel saddle has none (R345, log 13). -/
def State.icOf (s : State) (c : Nat) : Option Nat := if isChannel c then none else some (if isSaddle c then valleyOf c else s.placeOf c % 2 ^ 20 / 64)
/-- The line of the acting strand's launch that its valley's cache holds for a global address (R345). -/
def State.icLine (s : State) (ga : Nat) : Option ICLine :=
  (s.icOf s.core).bind fun v => (s.valleyAt v).icache.find? fun l => l.lix == s.st.lix && l.ga == ga / 64 * 64
/-- The word at the acting strand's pc, or the trap of the fetch: from the valley's instruction cache, or from memory (R345). -/
def State.fetch (s : State) : Except Trap Nat :=
  let pc := s.st.pc.toNat
  match s.xlate pc 4 .fx with
  | .error t => .error t
  | .ok pa =>
    let ga := s.globalOf s.core pa
    if isHostPa pa then .error (tr cPerm (w64 pc))
    else
      match s.icLine ga with
      | some l => .ok (ofLe ((l.data.drop (ga % 64)).take 4))
      | none =>
        if s.readDown s.core ga then .error (tr cLinkDown (w64 pc))
        else
          match s.badIn ga 4 with
          | some d => .error (tr cUncorrectable (w64 (pc + d - ga)))
          | none => .ok (ofLe (s.bytes ga 4))
/-- The instruction at the acting strand's pc, or the trap of the fetch or of decoding, in the order of R88. -/
def State.nextInstr (s : State) : Except Trap Instr :=
  match s.fetch with
  | .error t => .error t
  | .ok n =>
    match decodeNat n with
    | .ok i => .ok i
    | .error (.reservedField cls priv) =>
      match clsTrap cls s.core with
      | some c => .error (tr c (w64 n))
      | none => if priv && !s.st.sys then .error (tr cPriv (w64 n)) else .error (tr cReservedField (w64 n))
    | .error _ => .error (tr cIllegalOp (w64 n))

/-- The responder of a fetch that failed: the memory of the word, or as of any failed translation (R315). -/
def State.fetchResp (s : State) (t : Trap) : Nat :=
  match s.xlate s.st.pc.toNat 4 .fx with
  | .ok pa => if t.code = cUncorrectable then respOf (s.globalOf s.core pa) else s.core
  | .error t => s.xlateResp t
/-- A line enters a valley's instruction cache: the newest stands first, and the oldest leaves a full one (log 13). -/
def State.icPut (s : State) (v ga : Nat) : State :=
  s.modValley v fun k => { k with icache := ({ lix := s.st.lix, ga := ga, data := s.bytes ga 64 } :: k.icache).take Config.icacheLines }
/-- The walk of the acting strand's fetch corrects the single-bit errors it meets (R313), and a fetch from the scratchpad powers its bank
up (R289). -/
def State.fetchWalked (s : State) : State :=
  let u := s.walked s.core s.st.lix s.st.pc.toNat
  match s.xlate s.st.pc.toNat 4 .fx with
  | .error _ => u
  | .ok pa => u.power (s.globalOf s.core pa)
/-- The state after a fetch: what a miss reads of device memory enters the valley's instruction cache, as a whole line where the line
can be read (R345), and the single-bit errors that the walk and the read meet are corrected (R313). -/
def State.fetched (s : State) : State :=
  match s.xlate s.st.pc.toNat 4 .fx with
  | .error _ => s.fetchWalked
  | .ok pa =>
    let s := s.fetchWalked
    let ga := s.globalOf s.core pa
    if (s.icLine ga).isSome then s
    else
      match s.icOf s.core with
      | some v =>
        if pa < 2 ^ 37 ∧ (s.badIn (ga / 64 * 64) 64).isNone = true then (s.icPut v (ga / 64 * 64)).scrub (ga / 64 * 64) 64 else s.scrub ga 4
      | none => s.scrub ga 4
/-- The acting strand takes the trap of its fetch, which is logged (R315), or of decoding. -/
def State.trapNext (s : State) (t : Trap) : State :=
  match s.fetch with
  | .error _ => (s.fetchWalked.logErr (s.fetchResp t) t).raise t
  | .ok _ => s.fetched.raise t

/-! ### Ranks and waiting strands (R339, R340) -/
/-- Rank of a strand (R340): handlers, then effective class, then the time it became ready or yielded. -/
def Strand.rank (t : Strand) : Nat := if t.hnd then t.since else (1 + t.cls) * 2 ^ 64 + t.since
/-- Insert a context by rank. -/
def insRanked (e : Nat × Strand) : List (Nat × Strand) → List (Nat × Strand)
  | [] => [e]
  | d :: r => if e.2.rank < d.2.rank then e :: d :: r else d :: insRanked e r
/-- The ready strands of a core, the leading strand first (R340). -/
def Core.ranked (k : Core) : List (Nat × Strand) :=
  (k.ctxs.filter fun e => e.2.life == .ready).foldl (fun l e => insRanked e l) []
/-- The condition that strand x of core c waits for holds: its next instruction would not wait, or traps (R339). -/
def State.condHolds (s : State) (c x : Nat) : Bool :=
  let s := { s with core := c, ctx := x }
  s.gate &&
    match s.nextInstr with
    | .error _ => true
    | .ok i =>
      match effOf i with
      | none => true
      | some f =>
        match f { g := s.st.g, tag := s.me.seqNo, pc := s.st.pc } s with
        | .wait _ _ => false
        | _ => true
/-- Contexts of a core (R2). -/
def ctxCount (c : Nat) : Nat := if isSaddle c then Config.saddleContexts else Config.coreContexts
/-- A parked strand of the core is ready to be restored: its condition holds, or has held (R339, R341). -/
def State.parkedReady (s : State) (c : Nat) (p : Parked) : Bool :=
  let x := ctxCount c
  p.strand.life == .ready || (!p.strand.awaiting && (s.setStrand c x { p.strand with life := .waiting }).condHolds c x)
/-- Note, of each parked strand of core c, when its condition came to hold (R341). -/
def State.promoteParked (s : State) (c : Nat) : State :=
  if (s.coreAt c).parked.isEmpty then s
  else s.modCore c fun k => { k with parked := k.parked.map fun p =>
    if p.strand.life != .ready && s.parkedReady c p then p.wake s.tick else p }
/-- Waiting strands of core c whose condition holds become ready (R339). -/
def State.promote (s : State) (c : Nat) : State :=
  (((s.coreAt c).ctxs.filter fun e => e.2.life == .waiting && !e.2.awaiting && s.condHolds c e.1).foldl
    (fun s e => s.modStrand c e.1 fun t => { t with life := .ready, since := s.tick }) s).promoteParked c
/-- Every core notes whose condition has come to hold, at the moment that it does (R339 to R341). -/
def State.noted (s : State) : State := s.cores.foldl (fun s e => s.promote e.1) s

/-! ### Starting a task (R333) -/
/-- A handler of the core waits for a context (R218): the head message of a queue could start one. -/
def Core.handlerWaits (k : Core) : Bool :=
  [0, 1].any fun q =>
    match (k.queue q).msgs with
    | m :: _ => !m.held && m.hdr1 != 0 && !k.handling q
    | [] => false
/-- Index of the record to start: of the lowest class, the nearest to the owner end. -/
def State.pickRec (s : State) (c : Nat) : Option Nat :=
  let ok := (s.coreAt c).deque.zipIdx.filter fun r => s.mayStart c r.2 r.1
  let best := ok.foldl (fun m r => Nat.min m r.1.prio.toNat) 4
  (ok.find? fun r => r.1.prio.toNat == best).map (·.2)
/-- Nothing of higher precedence holds up a task start on core c (R333, R341, R358). -/
def State.startable (s : State) (c : Nat) : Bool :=
  let k := s.coreAt c
  !k.handlerWaits && k.leader.isNone && !k.frozen && !k.lost && !(k.parked.any (s.parkedReady c))
/-- Start a record in a context (R18); its first instruction waits for the writes before its push (R335); what is retained for it and not in its footprint is released (R274). -/
def State.startRec (s : State) (c x : Nat) (r : TaskRec) : State :=
  let s := s.setStrand c x { life := .ready, g := fsetD 0 (fsetD 0 (fsetD 0 [] 1 r.a1) 2 r.a2) 3 r.a3, prio := r.prio, pc := r.entry,
                             lix := r.lix, banks := r.banks, cls := r.prio.toNat, since := s.tick, after := r.mark }
  if isSaddle c then s else s.banksDown (s.spireOf c) r.ret
/-- TASK_START (R333): core starts the record of its deque that R333 chooses, in a free context. -/
def execTaskStart (core ctx : Nat) (s : State) : Out :=
  .next (
    if (s.strandAt core ctx).life != .free || !s.startable core then s
    else
      match s.pickRec core with
      | none => s
      | some i =>
        match (s.coreAt core).deque[i]? with
        | none => s
        | some r => (s.modCore core fun k => { k with deque := dropAt k.deque i }).startRec core ctx r)

/-! ### Stealing (R337, R338) -/
/-- A core holds a record to give: its summary bit (clear while composed, R343). -/
def Core.gives (k : Core) : Bool := k.leader.isNone && k.deque.any fun r => !r.succ
/-- A core has a free context. -/
def State.hasFree (s : State) (c : Nat) : Bool := (s.freeCtxOf c).isSome
/-- A core is idle (R337). -/
def State.idle (s : State) (c : Nat) : Bool := s.hasFree c && s.startable c && (s.pickRec c).isNone
/-- The first of the n numbers after i, with wrap, for which p holds. -/
def nextSet (p : Nat → Bool) (n i : Nat) : Option Nat := ((List.range n).map fun k => (i + 1 + k) % n).find? p
/-- Core k of valley v (R37): bits [5:1] of its number. -/
def coreOfValley (v k : Nat) : Nat := v * 64 + k * 2
/-- The victim of a thief (R337), and whether its own valley's or ring's summary named it. -/
def State.victim (s : State) (c : Nat) : Option (Nat × Bool) :=
  if isSaddle c then
    let num (i : Nat) := c / 4096 * 4096 + 2048 + i * 32
    (nextSet (fun i => num i != c && (s.coreAt (num i)).gives) 49 (sadIx c)).map fun i => (num i, true)
  else
    let v := c / 64
    let own (k : Nat) : Bool := coreOfValley v k != c && (s.coreAt (coreOfValley v k)).gives
    match nextSet own 32 (c / 2 % 32) with
    | some k => some (coreOfValley v k, true)
    | none =>
      let base := v / 64 * 64
      let any (w : Nat) : Bool := base + w != v && (List.range 32).any fun k => (s.coreAt (coreOfValley (base + w) k)).gives
      (nextSet any 32 (v % 64)).bind fun w =>
        ((List.range 32).find? fun k => (s.coreAt (coreOfValley (base + w) k)).gives).map fun k => (coreOfValley (base + w) k, false)
/-- Launches a steal request names (R338): up to four, the lowest indices first. -/
def State.stealLixs (s : State) (c : Nat) : List Nat := ((s.launches.filter fun e => s.admits c e.1).map (·.1)).take 4
/-- From state selv (R337): a request to the victim, or the timer. -/
def State.select (s : State) (c : Nat) : State :=
  match s.victim c with
  | none => s.modCore c fun k => { k with steal := .back }
  | some (d, near) =>
    let s := s.modCore c fun k => { k with steal := if near then .askv else .askp }
    { s with net := s.net ++ [{ src := c, dst := d, net := 5, seq := 0, ctx := 1000, lix := none, tag := 0,
                                pay := .steal (isCompute c) (s.stealLixs c) }] }
/-- STEAL_IDLE_DETECT (R337): a core that has been idle for 16 cycles reads the summaries and sends a request. -/
def execStealIdleDetect (core : Nat) (s : State) : Out :=
  .next (if (s.coreAt core).steal = .run ∧ s.idle core = true then (s.modCore core fun k => { k with refusals := 0 }).select core else s)
/-- STEAL_BACKOFF_EXPIRY (R337): the timer expires, and the thief reads the summaries again. -/
def execStealBackoffExpiry (core : Nat) (s : State) : Out :=
  .next (if (s.coreAt core).steal = .back then s.select core else s)
/-- The first record from the thief end that a request may take (R338): the reversed deque's index counts from that end. -/
def stealIx (compute : Bool) (lixs : List Nat) (q : List TaskRec) : Option Nat :=
  (q.reverse.findIdx? fun r => !r.succ && (!r.cmpt || compute) && (match r.lix with | some l => lixs.contains l | none => false)).map
    fun i => q.length - 1 - i
/-- STEAL_REQUEST (R334, R338, R358): the victim of message k sends a record, or refuses. -/
def execStealRequest (k : Nat) (s : State) : Out :=
  .next (match s.net[k]? with
    | none => s
    | some f =>
      match f.pay with
      | .steal compute lixs =>
        let c := s.coreAt f.dst
        let answer (p : Pay) (s : State) : State :=
          { s with net := dropAt s.net k ++ [{ src := f.dst, dst := f.src, net := 5, seq := 0, ctx := 1000, lix := none, tag := 0, pay := p }] }
        match (if c.frozen || c.leader.isSome || c.lost then none else stealIx compute lixs c.deque) with
        | none => answer .stealRef s
        | some i =>
          match c.deque[i]? with
          | none => answer .stealRef s
          | some r => answer (.stealRec r) (s.modCore f.dst fun k => { k with deque := dropAt k.deque i })
      | _ => s)
/-- The launch of a record has ended, or is gone (R351). -/
def State.recEnded (s : State) (r : TaskRec) : Bool :=
  match r.lix with
  | some l => (s.launchAt l).st != .placed
  | none => false
/-- STEAL_RECORD_ARRIVAL (R337): the record of message k starts if a context is free, the one named or the first, or enters the thief's own deque; a record
of an ended launch is discarded (R351). -/
def execStealRecordArrival (k ctx : Nat) (s : State) : Out :=
  .next (match s.net[k]? with
    | none => s
    | some f =>
      match f.pay with
      | .stealRec r =>
        let c := f.dst
        let u := { s with net := dropAt s.net k }.modCore c fun k => { k with steal := .run, refusals := 0 }
        let push (u : State) : State := if Config.dequeDepth ≤ (s.coreAt c).deque.length then s else u.pushTo c r
        if s.recEnded r || (s.coreAt c).lost then u
        else
          let x := if decide (ctx < ctxCount c) && (s.strandAt c ctx).life == .free then some ctx else s.freeCtxOf c
          match x with
          | some x => if u.startable c && u.mayStart c 1000 r then u.startRec c x r else push u
          | none => push u
      | _ => s)
/-- STEAL_REFUSAL_ARRIVAL (R337): the thief of message k tries again, or backs off at the fourth refusal. -/
def execStealRefusalArrival (k : Nat) (s : State) : Out :=
  .next (match s.net[k]? with
    | none => s
    | some f =>
      match f.pay with
      | .stealRef =>
        let n := (s.coreAt f.dst).refusals + 1
        let s := { s with net := dropAt s.net k }.modCore f.dst fun k => { k with refusals := n }
        if n < 4 then s.select f.dst else s.modCore f.dst fun k => { k with steal := .back }
      | _ => s)

/-! ### Aging and the watchdog (R340, R342) -/
/-- PRIORITY_AGING (R340): a task strand that has stayed ready for 65,536 cycles without issuing falls by one class. -/
def execPriorityAging (core ctx : Nat) (s : State) : Out :=
  .next (
    let t := s.strandAt core ctx
    if t.life = .ready ∧ t.hnd = false then s.modStrand core ctx fun t => { t with cls := t.cls - 1 } else s)
/-- WATCHDOG (R342): the leading strand's count rises by a number of cycles; at 2^wdog.lim the strand takes WATCHDOG at the
instruction it would issue next. -/
def execWatchdog (core cycles : Nat) (s : State) : Out :=
  .next (match (s.coreAt core).ranked with
    | [] => s
    | (x, t) :: _ =>
      let lim := bitsOf (s.coreAt core).wdog 4 0
      let n := t.wd + cycles
      let s := s.modStrand core x fun t => { t with wd := n }
      if n < 2 ^ lim ∨ t.found.isSome = true ∨ t.ended = true then s
      else
        let r := ({ s with core := core, ctx := x }).raise (tr cWatchdog (w64 lim))
        { r with core := s.core, ctx := s.ctx })

/-! ### Parking (R294, R295, R341) -/
/-- The pending instruction is the one its strand waits at, and it has not taken effect (R341). -/
def Pend.awaits (p : Pend) : Bool := p.yields && p.tag.isNone && p.trap.isNone
/-- A strand may be parked (R341): it waits, nothing of it is pending but the instruction it waits at, no trap handler of it is active. -/
def Strand.parkable (t : Strand) : Bool :=
  t.life == .waiting && !t.hnd && decide (t.pend.length ≤ 1) && t.pend.all Pend.awaits && t.found.isNone && !t.tAct && !t.ended
/-- The pc of the instruction that a strand waits at. -/
def Strand.waitPc (t : Strand) : BitVec 48 :=
  match t.pend with
  | p :: _ => p.pc
  | [] => if t.awaiting then t.pc - 4 else t.pc
/-- A strand as it is parked: the instruction it waits at is to issue again (R341). -/
def Strand.atWait (t : Strand) : Strand := if t.pend.isEmpty then t else { t with pend := [], pc := t.waitPc }
/-- The waiting strand that has waited longest among the parkable. -/
def Core.parkPick (k : Core) : Option (Nat × Strand) :=
  (k.ctxs.filter fun e => e.2.parkable).foldl (fun b e => match b with
    | none => some e
    | some a => if e.2.since < a.2.since then some e else some a) none
/-- The carve-out whose overflow region takes the images of a strand of core c at spire p (R290, R294): the spire's; a saddle, which has
none, takes that of the strand's launch. -/
def State.imageCarve (s : State) (p c : Nat) (t : Strand) : Carve :=
  if isSaddle c then (match t.lix with | some l => (s.launchAt l).carve | none => {}) else (s.spireAt p).carve
/-- The lowest free image (R294) for a strand of core c at spire p: in the spill area of that spire, else in the overflow region of the
strand's launch; its global and its virtual address, and whether it lies in the spill area. An image that no route reaches is not free
(log 19). -/
def State.freeImageAt (s : State) (p c : Nat) (t : Strand) : Option (Nat × Nat × Bool) :=
  let v := s.imageCarve p c t
  let used (ga : Nat) : Bool := s.cores.any fun e => e.2.parked.any fun p => p.image == ga
  let spill := if isSaddle c then [] else (List.range (v.spill.size / 128)).map fun i => v.spill.base + 128 * i
  match spill.find? fun o => !used (spBase p + o) with
  | some o => some (spBase p + o, 0xFF0000000000 + o, true)
  | none =>
    (List.range (v.ovSize / 128)).findSome? fun i =>
      match s.physOf c t.lix t.sys (v.ovBase + 128 * i) 128 .wr with
      | .ok pa =>
        let ga := s.globalOf c pa
        if used ga || s.gaDown c ga then none else some (ga, v.ovBase + 128 * i, false)
      | .error _ => none
/-- What the search for an image tries in the overflow region, up to the one chosen: its walks correct what they meet (R302, R313), and a
page that does not translate or that no route reaches is logged (R314, R315). -/
def State.imageTried (s : State) (p c : Nat) (t : Strand) (img : Option (Nat × Nat × Bool)) : State :=
  let v := s.imageCarve p c t
  let n := match img with
    | none => v.ovSize / 128
    | some (_, _, true) => 0
    | some (_, va, false) => (va - v.ovBase) / 128 + 1
  let u := if s.soft.isEmpty then s else (List.range n).foldl (fun s i => s.walkedAll c t.lix (v.ovBase + 128 * i) 128) s
  if n = 0 then u
  else (List.range ((v.ovBase % 65536 + 128 * n + 65535) / 65536)).foldl (fun u k =>
    let va := Nat.max v.ovBase (v.ovBase / 65536 * 65536 + 65536 * k)
    match s.physOf c t.lix t.sys va 128 .wr with
    | .error e => u.xlateLog c t.lix va e
    | .ok pa => if s.gaDown c (s.globalOf c pa) then u.logAt c cLinkDown va (s.launchId t.lix) c else u) u
/-- The lowest free image at the core's own spire. -/
def State.freeImage (s : State) (c : Nat) (t : Strand) : Option (Nat × Nat × Bool) := s.freeImageAt (s.spireOf c) c t
/-- The 128 bytes of a context image (R16). -/
def Strand.image (t : Strand) : List Byte :=
  leBytes 8 t.sw.toNat ++ (List.range 15).flatMap fun i => leBytes 8 (fget 0 t.g (i + 1)).toNat
/-- STRAND_PARK (R341, R294, R295): while a handler waits for a context, the core parks the strand that has waited longest, or,
with no image free, that strand takes SPILL_OVERFLOW at its wait. -/
def execStrandPark (core : Nat) (s : State) : Out :=
  .next (
    let k := s.coreAt core
    if !k.handlerWaits || s.hasFree core || k.frozen then s
    else
      match k.parkPick with
      | none => s
      | some (x, t) =>
        let img := s.freeImage core t
        let v := s.imageCarve (s.spireOf core) core t
        let s := s.imageTried (s.spireOf core) core t img
        match img with
        | none =>
          let pc := t.waitPc
          -- a re-executed instruction keeps the W and the continuation of its trap (R98, log 25)
          let wc := match t.replay with
            | some (some wc) => wc
            | _ => (0, pc + 4)
          (s.modStrand core x fun u => { u with pend := [] }).enterTrap core x (tr cSpillOverflow (w64 v.ovBase)) pc wc.1 wc.2
        | some (ga, va, spill) =>
          let t := t.atWait
          let n := k.seqNo
          let s := (((s.power ga).cleared ga 128).poke ga t.image).rekey core x (2000 + n)
          s.modCore core fun k => { k with ctxs := fdel x k.ctxs, seqNo := n + 1,
                                           parked := k.parked ++ [{ image := ga, va := va, inSpill := spill, order := n, strand := t }] })
/-- The strand of an image (R16, R294). -/
def Strand.ofImage (t : Strand) (bs : List Byte) : Strand :=
  let w (i : Nat) : Word := w64 (ofLe ((bs.drop (8 * i)).take 8))
  let t := t.setSwHigh ((w 0).extractLsb' 48 16)
  { t with pc := (w 0).setWidth 48, g := (List.range 15).foldl (fun g i => fsetD 0 g (i + 1) (w (i + 1))) [] }
/-- The parked strand to restore (R341): the one whose condition came to hold first. -/
def State.restorePick (s : State) (c : Nat) : Option Parked :=
  ((s.promoteParked c).coreAt c).parked.foldl (fun b p =>
    if p.strand.life == .ready then
      match b with
      | none => some p
      | some q => if p.strand.since < q.strand.since then some p else some q
    else b) none
/-- STRAND_RESTORE (R341, R294, R295): the parked strand whose condition came to hold first is restored into a free context,
before any record starts; an image that cannot be read back is lost, which ends its launch (R356). -/
def execStrandRestore (core ctx : Nat) (s : State) : Out :=
  .next (
    let k := s.coreAt core
    if (s.strandAt core ctx).life != .free || k.handlerWaits || k.frozen || k.leader.isSome then s
    else
      match s.restorePick core with
      | none => s
      | some p =>
        let s := (s.promoteParked core).modCore core fun k => { k with parked := k.parked.filter fun q => !(q.order == p.order) }
        match (if s.readDown core p.image then (.error (tr cLinkDown (w64 p.va)), s) else s.readAt p.image 128 p.va) with
        | (.error t, s) =>
          let s := s.logAt (if t.code = cLinkDown then core else respOf p.image) t.code t.info.toNat (s.launchId p.strand.lix) core
          let s := s.modSpire (s.spireOf core) fun k => { k with semq := k.semq.filter fun w => !(w.core == core && w.ctx == 2000 + p.order) }
          let s := (s.henudLog cContextLost p.va (s.launchId p.strand.lix) core).rekey core (2000 + p.order) 1000
          let s := s.disownLeft p.strand
          match p.strand.lix with
          | some l => s.endLaunch l (cContextLost, w64 p.va, p.strand.pc.toNat, 2)
          | none => s
        | (.ok bs, s) =>
          (s.setStrand core ctx { (p.strand.ofImage bs).untrapped with life := .ready, since := s.tick }).rekey core (2000 + p.order) ctx)

/-- TRAP_ENTRY (R348, R349): a trap that waits for the strand's committed instructions is delivered once they are done. -/
def execTrapEntry (core ctx : Nat) (s : State) : Out := .next (s.settle core ctx)

end Sys2Proof.Machine
end

