-- ==== Sys2Proof/Machine/Launch.lean ====
section
/-! DEFINITION. Host queues, completion records, launch records, placement and the end of a launch (R290, R291, R305, R325 to
R332, R351, R409 to R416). -/

namespace Sys2Proof.Machine
open Sys2Proof

/-! ### Host queues (R410 to R415) -/
def State.queueAt (s : State) (q : Nat) : HQueue := fget {} s.queues q
def State.modQueue (s : State) (q : Nat) (f : HQueue → HQueue) : State := { s with queues := fset s.queues q (f (s.queueAt q)) }
/-- The package whose host link a queue belongs to (R2, R408, log 21). -/
def queuePkg (q : Nat) : Nat := q / 1024
/-- Global address of a physical address of a package's host: what the host window reaches lies there (R296), and the rest of the 64-bit
addresses beyond all other memory (log 21). -/
def hostGa (pkg a : Nat) : Nat := if a < 2 ^ 51 then pkg * 2 ^ 52 + 2 ^ 51 + a else 2 ^ 70 * (1 + pkg) + a
/-- Entries of a ring. -/
def HQueue.size (h : HQueue) : Nat := 2 ^ (h.lsz.toNat + 4)
/-- The 32 bytes of a completion record (R414). -/
def CRec.bytes (r : CRec) (cseq : BitVec 32) : List Byte :=
  leBytes 8 (cseq.toNat * 2 ^ 32 + r.eseq % 2 ^ 32) ++
    leBytes 8 (r.kind % 256 * 2 ^ 56 + r.status % 256 * 2 ^ 48 + r.reason % 256 * 2 ^ 40 + r.code % 256 * 2 ^ 32 + r.launch % 2 ^ 32) ++
    leBytes 8 r.info.toNat ++ leBytes 8 (r.pc % 2 ^ 48)
/-- An MSI-X message of a vector: 2048 * package + its number (R408). -/
def State.msixSend (s : State) (v : Nat) : State := { s with msix := fset s.msix v (fget 0 s.msix v + 1) }
/-- Write the records of queue q that wait, n of them at most, while the completion ring has room (R414); each raises
the queue's MSI-X vector (R408). -/
def State.drainRecs (s : State) (q : Nat) : Nat → State
  | 0 => s
  | n + 1 =>
    let h := s.queueAt q
    match h.recs with
    | [] => s
    | r :: rest =>
      if (h.cprod - h.chead).toNat = h.size then s
      else
        let c := h.cprod + 1
        let s := s.poke (hostGa (queuePkg q) (h.cbase.toNat * 4096 + c.toNat % h.size * 32)) (r.bytes c)
        let s := s.msixSend (queuePkg q * 2048 + q % 1024)
        (s.modQueue q fun h => { h with recs := rest, cprod := c, taken := h.taken.filter fun t => !(t.seq.toNat == r.eseq) }).drainRecs q n
/-- A taken entry has completed: its record waits in tower 0, and is written when there is room (R414). -/
def State.record (s : State) (q : Nat) (r : CRec) : State :=
  (s.modQueue q fun h => { h with
    recs := h.recs ++ [r]
    taken := h.taken.map fun t => if t.seq.toNat = r.eseq then { t with busy := true, done := true } else t }).drainRecs q 257

/-- An accepted tail: not below cons.seq + 1, nor more than one ring beyond it (R411). -/
def HQueue.tailOk (h : HQueue) (v : BitVec 32) : Bool :=
  let d := (v - (h.cons + 1)).toNat
  decide (d ≤ h.size)
/-- A tail value takes effect (R411): a bad one sets err. -/
def HQueue.setTail (h : HQueue) (v : BitVec 32) : HQueue := if h.tailOk v then { h with tail := v } else { h with err := true }
/-- An enabled queue has an untaken entry: by its live tail when active, else by its shadow (R415). -/
def HQueue.untaken (h : HQueue) : Bool :=
  h.en && (if h.act then h.tail != h.cons else h.shTail.getD h.tail != h.cons)
/-- Change a queue; one that begins to wait for a place waits from now on (R415). -/
def State.hostMod (s : State) (q : Nat) (f : HQueue → HQueue) : State :=
  s.modQueue q fun h =>
    let u := f h
    if !u.act && u.untaken && !h.untaken then { u with since := s.tick } else u
/-- QUEUE_TAIL_WRITE (R411, R415): it lands in the shadow while the queue is inactive. -/
def execQueueTailWrite (q : Nat) (v : BitVec 32) (s : State) : Out :=
  .next (if !s.henud.booted then s else s.hostMod q fun h => if h.act then h.setTail v else { h with shTail := some v })
/-- pend (R410, R412): the taken entries without a written record, and the lowest of their numbers, which were taken in ascending
order. -/
def HQueue.pendCnt (h : HQueue) : Nat := h.taken.length
def HQueue.pendSeq (h : HQueue) : BitVec 32 :=
  match h.taken with
  | t :: _ => t.seq
  | [] => h.cons + 1
/-- A write of ctl (R410). -/
def HQueue.setCtl (h : HQueue) (v : BitVec 64) : HQueue := { h with cls := v.extractLsb' 1 2, en := v.getLsbD 0 }
/-- QUEUE_CTL_WRITE (R410, R416). -/
def execQueueCtlWrite (q : Nat) (v : BitVec 64) (s : State) : Out :=
  .next (if !s.henud.booted then s else s.hostMod q fun h => h.setCtl v)
/-- QUEUE_ERR_CLEAR (R410, R411): taking resumes at cons.seq + 1. -/
def execQueueErrClear (q : Nat) (s : State) : Out :=
  .next (if !s.henud.booted then s else s.modQueue q fun h => { h with err := false })
/-- A chead value takes effect: the records that wait go on. -/
def State.setHead (s : State) (q : Nat) (v : BitVec 32) : State := (s.modQueue q fun h => { h with chead := v }).drainRecs q 257
/-- COMPLETION_HEAD_WRITE (R414, R415). -/
def execCompletionHeadWrite (q : Nat) (v : BitVec 32) (s : State) : Out :=
  .next (if !s.henud.booted then s
    else if (s.queueAt q).act then s.setHead q v
    else s.modQueue q fun h => { h with shChead := some v })
/-- What a host read of a queue register returns (R10, R408, R410, R415): while the queue is inactive the values saved at its
switch-out, with stale; a write-only register and every reserved bit reads zero. None: no register lies there, and the read completes
with Unsupported Request. -/
def HQueue.read (h : HQueue) (off : Nat) : Option Word :=
  let stale : Nat := if h.act then 0 else 2 ^ 63
  match off with
  | 0x00 => some (w64 (h.base.toNat * 4096 + h.lsz.toNat))
  | 0x08 => some (w64 (h.cbase.toNat * 4096))
  | 0x10 => some (w64 (h.cls.toNat * 2 + h.en.toNat))
  | 0x18 => some 0
  | 0x20 => some (w64 (stale + h.act.toNat * 2 ^ 62 + h.err.toNat * 2 ^ 61 + (if h.act then h.cons else h.savedCons).toNat))
  | 0x28 => some (w64 (stale + (if h.act then h.cprod else h.savedCprod).toNat))
  | 0x30 => some 0
  | 0x38 => some (w64 (stale + (if h.act then h.pendCnt else h.savedCnt) * 2 ^ 32 + (if h.act then h.pendSeq else h.savedSeq).toNat))
  | _ => none
/-- A host read of n bytes at an offset of a package's BAR 0 (R408): a queue register; none where it completes with Unsupported
Request, or is not answered over a link that is held in reset (R417). The mailbox lies below 0x10000 (State.mailboxRead, R419). -/
def State.queueRead (s : State) (pkg off n : Nat) : Option Word :=
  if s.henud.booted = true ∧ n = 8 ∧ 0x10000 ≤ off ∧ off < 0x20000 then (s.queueAt (pkg * 1024 + (off - 0x10000) / 64)).read (off % 64) else none
/-- Queues of those that wait for a place which come before queue q (R415): a lower class, or an equal one and a longer wait. -/
def State.waitsBefore (s : State) (q : Nat) : Bool :=
  let h := s.queueAt q
  s.queues.any fun e => e.1 != q && queuePkg e.1 == queuePkg q && !e.2.act && e.2.untaken &&
    (decide (e.2.cls.toNat < h.cls.toNat) || (e.2.cls == h.cls && decide (e.2.since < h.since)))
/-- QUEUE_SWITCH_IN (R415): at most 64 queues of a package are active; the shadow writes take effect, and cprod is live again. -/
def execQueueSwitchIn (q : Nat) (s : State) : Out :=
  .next (
    let h := s.queueAt q
    if h.act || !h.untaken || decide (64 ≤ (s.queues.filter fun e => queuePkg e.1 == queuePkg q && e.2.act).length) || s.waitsBefore q then s
    else
      let s := s.modQueue q fun h =>
        let h := { h with act := true, stale := false, shTail := none, shChead := none }
        match (s.queueAt q).shTail with
        | some v => h.setTail v
        | none => h
      match h.shChead with
      | some v => s.setHead q v
      | none => s)
/-- QUEUE_SWITCH_OUT (R415): an active queue with no untaken entry gives up its place while another waits. -/
def execQueueSwitchOut (q : Nat) (s : State) : Out :=
  .next (
    let h := s.queueAt q
    if h.act && h.tail == h.cons && (s.queues.any fun e => e.1 != q && queuePkg e.1 == queuePkg q && !e.2.act && e.2.untaken) then
      s.modQueue q fun h => { h with act := false, stale := true, savedCons := h.cons, savedCprod := h.cprod, savedCnt := h.pendCnt,
                                     savedSeq := h.pendSeq, since := s.tick }
    else s)
/-- The eight doublewords of a host entry. -/
def State.entryAt (s : State) (pkg : Nat) (h : HQueue) (seq : BitVec 32) : List Word :=
  wordsOf 8 (s.bytes (hostGa pkg (h.base.toNat * 4096 + seq.toNat % h.size * 64)) 64)
/-- A queue entry has a reserved bit set, or a reserved kind (R413). -/
def entryBad (ws : List Word) : Bool :=
  let w (i : Nat) : Word := ws.getD i 0
  let kind := bitsOf (w 0) 7 0
  bitsOf (w 0) 31 8 != 0 ||
    match kind with
    | 1 => bitsOf (w 1) 63 52 != 0 || bitsOf (w 2) 63 52 != 0 || bitsOf (w 3) 63 48 != 0 ||
        [4, 5, 6, 7].any fun i => bitsOf (w i) 61 32 != 0
    | 2 => bitsOf (w 1) 63 32 != 0 || bitsOf (w 2) 63 52 != 0 || bitsOf (w 2) 15 0 != 0 || bitsOf (w 3) 63 48 != 0 ||
        [4, 5, 6, 7].any fun i => w i != 0
    | 3 => bitsOf (w 1) 63 20 != 0 || [2, 3, 4, 5, 6, 7].any fun i => w i != 0
    | _ => true
/-- QUEUE_ENTRY_TAKE (R411 to R413): an active queue takes its next entry, or stops with err; a bad entry is answered at once. -/
def execQueueEntryTake (q : Nat) (s : State) : Out :=
  .next (
    let h := s.queueAt q
    if !h.act || !h.en || h.err || decide (256 ≤ h.taken.length) || h.tail == h.cons then s
    else
      let seq := h.cons + 1
      let ws := s.entryAt (queuePkg q) h seq
      let kind := bitsOf (ws.getD 0 0) 7 0
      if bitsOf (ws.getD 0 0) 63 32 ≠ seq.toNat then s.modQueue q fun h => { h with err := true }
      else
        let s := s.modQueue q fun h => { h with cons := seq, taken := h.taken ++ [{ seq := seq, kind := kind, ws := ws }] }
        if entryBad ws then s.record q { eseq := seq.toNat, kind := kind, status := 1 } else s)
/-- The next taken entry of a kind whose work has not begun. -/
def HQueue.next? (h : HQueue) (kind : Nat) : Option Taken := h.taken.find? fun t => t.kind == kind && !t.busy
def State.begin (s : State) (q : Nat) (t : Taken) : State :=
  s.modQueue q fun h => { h with taken := h.taken.map fun u => if u.seq = t.seq then { u with busy := true } else u }

/-! ### Launch records (R325 to R328) -/
/-- The core number under which the launch front of plain 0 of a package reads memory and logs its errors (R328, log 21). -/
def frontOf (pkg : Nat) : Nat := pkg * 16384
/-- An error response to a front (R314, R315). -/
def State.frontErr (s : State) (pkg ga id : Nat) (t : Trap) : State := s.logAt (respOf ga) t.code t.info.toNat id (frontOf pkg)
/-- The memory of a global address does not answer: its saddle's island is off (R420). -/
def State.gaOff (s : State) (ga : Nat) : Bool := (sadOf ga).any s.islandOff
/-- Parts of a launch's virtual memory (address, bytes) as segments, or the failure's cause and address. -/
def State.frontSegs (s : State) (c lix : Nat) : List (Nat × Nat) → Except (Nat × Nat) (List Seg)
  | [] => .ok []
  | (va, n) :: r =>
    match s.physOf c (some lix) true va n .rd with
    | .error e => .error (e, va)
    | .ok pa =>
      if isSpPa pa || isHostPa pa then .error (cTranslation, va)
      else
        match s.frontSegs c lix r with
        | .error e => .error e
        | .ok gs => .ok ({ va := va, ga := s.globalOf c pa, n := n } :: gs)
/-- A walk of the front for a launch has failed with a cause at an address, which is logged (R314, R315). -/
def State.walkErr (s : State) (pkg lix : Nat) (e : Nat × Nat) : State := s.xlateLog (frontOf pkg) (some lix) e.2 e.1
/-- n bytes, 64 KiB at most, of a launch's virtual memory as its front reads them (R327): none when one cannot be read, which is
logged (R315). -/
def State.frontRead (s : State) (pkg lix va n : Nat) : Option (List Byte) × State :=
  let c := frontOf pkg
  let id := s.launchId (some lix)
  let m := Nat.min n (65536 - va % 65536)
  match s.frontSegs c lix ((va, m) :: if m < n then [(va + m, n - m)] else []) with
  | .error e => (none, (s.walkedAll c (some lix) va n).walkErr pkg lix e)
  | .ok gs =>
    let s := s.walkedAll c (some lix) va n
    match gs.find? fun g => s.gaOff g.ga with
    | some g => (none, s.logAt c cLinkDown g.va id c)
    | none =>
    match s.readSegs gs with
    | (.error (t, ga), s) => (none, s.frontErr pkg ga id t)
    | (.ok bs, s) => (some bs, s)
/-- A region doubleword (R290), and whether its reserved bits are 0. -/
def regionOf (w : Nat) : Region × Bool := ({ base := fld w 19 0, size := fld w 51 32 }, fld w 63 52 == 0 && fld w 31 20 == 0)
/-- A slot word (R290). -/
def slotRegion (w : Nat) : Region × Bool := ({ base := fld w 13 0 * 64, size := fld w 24 14 * 64 }, fld w 31 25 == 0)
/-- Parse a carve-out descriptor (R290). -/
def parseCarve (bs : List Byte) : Carve × Bool :=
  let d (o n : Nat) : Nat := ofLe ((bs.drop o).take n)
  let r (k : Nat) : Region × Bool := regionOf (d (8 * k) 8)
  let ts := (List.range 16).map fun k => slotRegion (d (0x40 + 4 * k) 4)
  ({ sreq := (r 0).1, srep := (r 1).1, creq := (r 2).1, crep := (r 3).1, hstk := (r 4).1, spill := (r 5).1,
     ovBase := fld (d 0x30 8) 47 0, ovSize := fld (d 0x38 8) 31 0, slots := ts.map (·.1) },
   ([0, 1, 2, 3, 4, 5].all fun k => (r k).2) && (ts.all (·.2)) && fld (d 0x30 8) 63 48 == 0 && fld (d 0x38 8) 63 32 == 0)
/-- No two regions of a list overlap. -/
def disjoint : List Region → Bool
  | [] => true
  | r :: rest => (rest.all fun q => r.size == 0 || !q.meets r.base r.size) && disjoint rest
/-- The rules of R291 but that of translation. -/
def Carve.ok (c : Carve) : Bool :=
  let qs := [c.sreq, c.srep, c.creq, c.crep]
  let all := qs ++ [c.hstk, c.spill] ++ c.slots
  (all.all fun r => r.base % 64 == 0 && r.size % 64 == 0 && decide (r.base + r.size ≤ 2 ^ 20)) &&
    c.spill.base % 128 == 0 && c.spill.size % 128 == 0 && c.ovBase % 128 == 0 && c.ovSize % 128 == 0 && disjoint all &&
    (qs.all fun r => decide (1024 ≤ r.size) && decide (r.size ≤ 65536)) && c.hstk.size % 256 == 0 && decide (c.hstk.size ≤ 262144) &&
    decide (c.spill.size ≤ 262144) && (c.slots.all fun r => decide (r.size ≤ 65536)) &&
    decide ((c.slots.map (·.size)).foldl (· + ·) 0 ≤ 524288) && (c.ovSize == 0 || decide (c.ovBase + c.ovSize ≤ 2 ^ 37))
/-- The overflow region translates, with read and write permission (R291): the first page that does not, and why. -/
def State.overflowBad (s : State) (pkg lix : Nat) (c : Carve) : Option (Nat × Nat) :=
  if c.ovSize = 0 then none
  else
    (List.range ((c.ovBase % 65536 + c.ovSize + 65535) / 65536)).findSome? fun i =>
      let va := Nat.max c.ovBase (c.ovBase / 65536 * 65536 + i * 65536)
      match s.physOf (frontOf pkg) (some lix) true va 1 .rw with
      | .ok _ => none
      | .error e => some (e, va)
/-- The test of the overflow region: its walks correct what they meet, up to the page that fails, whose failure is logged (R313, R315). -/
def State.overflowOk (s : State) (pkg lix : Nat) (c : Carve) : Bool × State :=
  let r := s.overflowBad pkg lix c
  let n := match r with
    | none => c.ovSize
    | some (_, va) => va + 1 - c.ovBase
  let s := if c.ovSize = 0 then s else s.walkedAll (frontOf pkg) (some lix) c.ovBase n
  match r with
  | none => (true, s)
  | some e => (false, s.walkErr pkg lix e)
/-- Packages of the domain of a package (R396). -/
def State.domainPkgs (s : State) (pkg : Nat) : List Nat :=
  (List.range 64).filter fun p => p == pkg || s.henud.routes.any fun r => r.1 == pkg && r.2.1 == p
/-- Parse a launch record (R325), with its reserved bits and ranges (R327). -/
def State.parseLaunch (s : State) (pkg : Nat) (ws : List Word) : Launch × Bool :=
  let w (i : Nat) : Word := ws.getD i 0
  let a := w 0
  let b := w 1
  ({ id := (w 2).setWidth 32, pkg := pkg, prio := a.extractLsb' 48 2, entry := a.extractLsb' 0 48, foot := bitsOf b 35 21,
     c := bitsOf b 2 0 + 1, sg := bitsOf b 3 3 + 1, vg := bitsOf b 7 4 + 1, pg := bitsOf b 12 8 + 1, dg := bitsOf b 20 13 + 1,
     a1 := w 3, a2 := w 4, a3 := w 5 },
   bitsOf a 63 50 == 0 && bitsOf b 63 36 == 0 && bitsOf (w 2) 63 32 == 0 && w 6 == 0 && w 7 == 0 && bitsOf a 1 0 == 0 &&
     decide (bitsOf a 47 0 < 2 ^ 37) && decide (bitsOf b 35 21 ≤ 16384) && decide (bitsOf b 20 13 + 1 ≤ 4 * (s.domainPkgs pkg).length))
/-- Launches that are not done. A done launch keeps its index's entry until another launch is given the index, so that a handler
of its message still translates through its table (R218, log 43). -/
def State.live (s : State) : List (Nat × Launch) := s.launches.filter fun e => e.2.st != .done
/-- The launches of the domain of a package that are not done (R327, R328, R396). -/
def State.liveIn (s : State) (pkg : Nat) : List (Nat × Launch) := s.live.filter fun e => (s.domainPkgs pkg).contains e.2.pkg
/-- The launch of a domain with an id that is waiting or running: its index and itself. -/
def State.launchOf (s : State) (pkg id : Nat) : Option (Nat × Launch) := (s.liveIn pkg).find? fun e => e.2.id.toNat == id
/-- A free launch front index of the domain of a package (R328): the lowest. The model numbers the indexes of all domains together:
256 times the lowest package of the domain, and the index (log 21). -/
def State.freeLix (s : State) (pkg : Nat) : Option Nat :=
  ((List.range 256).map fun i => (s.domainPkgs pkg).headD pkg * 256 + i).find? fun i => !(s.live.any fun e => e.1 == i)
/-- The predecessors an entry names (R326, R413): their ids, and whether with early trigger. -/
def predsOf (ws : List Word) : List (Nat × Bool) :=
  ([4, 5, 6, 7].filter fun i => (ws.getD i 0).getLsbD 63).map fun i => (bitsOf (ws.getD i 0) 31 0, (ws.getD i 0).getLsbD 62)
/-- The launches that predecessors name: one whose id names none that is waiting or running counts as done (R327). -/
def State.predsIn (s : State) (pkg : Nat) (ps : List (Nat × Bool)) : List (Nat × Bool) :=
  ps.filterMap fun p => (s.launchOf pkg p.1).map fun e => (e.1, p.2)
/-- The carve-out a launch entry names (R290, R291, R327): the default, one that is read and keeps the rules, or none. -/
def State.readCarve (s : State) (pkg lix carve : Nat) : Option Carve × State :=
  if carve = 0 then (some {}, s)
  else if 2 ^ 37 < carve + 128 then (none, s)
  else
    match s.frontRead pkg lix carve 128 with
    | (none, s) => (none, s)
    | (some bs, s) =>
      let d := parseCarve bs
      if d.2 && d.1.ok then
        let r := s.overflowOk pkg lix d.1
        (if r.1 then some d.1 else none, r.2)
      else (none, s)
/-- What a launch entry gives (R327): the launch, or the status of its refusal and its id, checked in the order of the table of R327.
What the front reads is corrected and logged as every read is. -/
def State.submit (s : State) (q lix : Nat) (t : Taken) : Except (Nat × Nat) Launch × State :=
  let pkg := queuePkg q
  let at' := bitsOf (t.ws.getD 1 0) 51 0
  let root := bitsOf (t.ws.getD 2 0) 51 0
  let carve := bitsOf (t.ws.getD 3 0) 47 0
  if at' % 64 ≠ 0 ∨ 2 ^ 37 < at' + 64 then (.error (0x01, 0), s)
  else if s.gaOff (pkg * 2 ^ 52 + at') then (.error (0x01, 0), s.logAt (frontOf pkg) cLinkDown at' 0 (frontOf pkg))
  else
    match s.readAt (pkg * 2 ^ 52 + at') 64 at' with
    | (.error e, s) => (.error (0x01, 0), s.frontErr pkg (pkg * 2 ^ 52 + at') 0 e)
    | (.ok bs, s) =>
      let p := s.parseLaunch pkg (wordsOf 8 bs)
      let l := { p.1 with root := root, preds := s.predsIn pkg (predsOf t.ws), queue := q, eseq := t.seq.toNat }
      let id := l.id.toNat
      if !p.2 then (.error (0x01, id), s)
      else
        let had := s.launches
        match (s.modLaunch lix fun _ => l).readCarve pkg lix carve with
        | (none, s) => (.error (0x02, id), { s with launches := had })
        | (some c, s) =>
          let s := { s with launches := had }
          if (s.launchOf pkg id).isSome then (.error (0x03, id), s)
          else if root % 4096 ≠ 0 ∨ 2 ^ 37 < root + 4096 then (.error (0x04, id), s)
          else (.ok { l with carve := c }, s)
/-- The translations and the instruction lines of launch l leave every cache (R303, R305, R332, R345), of its translations those that
meet a range. -/
def State.dropCached (s : State) (l : Nat) (hit : TlbEnt → Bool) (line : ICLine → Bool) : State :=
  let out (t : List TlbEnt) : List TlbEnt := t.filter fun t => !(t.lix == l && hit t)
  { s with cores := s.cores.map fun (e : Nat × Core) => (e.1, { e.2 with tlb := out e.2.tlb })
           valleys := s.valleys.map fun (e : Nat × Valley) =>
             (e.1, { e.2 with tlb := out e.2.tlb, icache := e.2.icache.filter fun i => !(i.lix == some l || line i) })
           plains := s.plains.map fun (e : Nat × Plain) => (e.1, { e.2 with tlb := out e.2.tlb }) }
/-- QUEUE_LAUNCH (R326 to R328, R413): the home front checks the launch and gives it an index, or refuses it; with no index free
it waits in its queue. -/
def execQueueLaunch (q : Nat) (s : State) : Out :=
  .next (match (s.queueAt q).next? 1, s.freeLix (queuePkg q) with
    | some t, some lix =>
      let s := s.dropCached lix (fun _ => true) fun _ => false
      match s.submit q lix t with
      | (.error (st, id), s) => s.record q { eseq := t.seq.toNat, kind := 1, status := st, launch := id }
      | (.ok l, s) => (s.modLaunch lix fun _ => l).begin q t
    | _, _ => s)

/-! ### Placement (R329 to R332) -/
/-- A launch's strands and records are gone from a core: nothing of it is live there (R332). -/
def Core.without (k : Core) (l : Nat) : Bool :=
  !(k.ctxs.any fun e => e.2.life != .free && e.2.lix == some l) && !(k.parked.any fun p => p.strand.lix == some l) &&
    !(k.deque.any fun r => r.lix == some l)
/-- A record of launch l waits in a deque, a shadow or a steal transfer. -/
def State.recWaits (s : State) (l : Nat) : Bool :=
  (s.cores.any fun e => e.2.deque.any fun r => r.lix == some l) ||
    (s.plains.any fun p => p.2.shadows.any fun d => d.2.any fun r => r.lix == some l) ||
    s.net.any fun f => match f.pay with
      | .stealRec r => r.lix == some l
      | _ => false
/-- The ranges of addresses an engine operation holds. -/
def EngOp.segs (o : EngOp) : List Seg :=
  match o.job with
  | .copy src dst .. => src.segs ++ dst
  | .drain _ _ els => els.map fun e => { va := e.va, ga := e.pa, n := e.n }
  | .landing src dst .. => src.segs ++ dst
  | .itland src dst => src ++ dst
  | .deal src .. => src
/-- Engine operations of the machine. -/
def State.engOps (s : State) : List EngOp :=
  (s.cores.flatMap fun e => e.2.eng) ++ s.spires.flatMap fun e => e.2.orphans.map (·.op)
/-- A write of launch l has not been performed (R332). -/
def State.writesOut (s : State) (l : Nat) : Bool :=
  (s.engOps.any fun o => o.lix == some l) ||
    (s.net.any fun f => f.lix == some l && match f.pay with
      | .store .. => true
      | .atomReq .. => true
      | .hostWr .. => true
      | .tile .. => true
      | .tileReq .. => true
      | .migr _ => true
      | _ => false) ||
    s.cores.any fun e => e.2.sendq.any fun q => q.lix == some l && match q.pay with
      | .atomReq .. => true
      | _ => false
/-- A message of launch l waits in a receive queue for its handler (R351). -/
def State.msgWaits (s : State) (l : Nat) : Bool :=
  s.cores.any fun e => [0, 1].any fun q => (e.2.queue q).msgs.any fun m => m.lix == some l && m.hdr1 != 0
/-- A launch is triggered (R332): no record waits, every live strand has executed trig, and the engine has performed what it
accepted for strands that have halted. -/
def State.triggeredL (s : State) (l : Nat) : Bool :=
  !s.recWaits l &&
    (s.cores.all fun e => (e.2.ctxs.all fun x => x.2.life == .free || x.2.lix != some l || x.2.triggered) &&
      e.2.parked.all fun p => p.strand.lix != some l || p.strand.triggered) &&
    !(s.engOps.any fun o => o.lix == some l && o.mine 1000) &&
    !(s.net.any fun f => match f.pay with
      | .migr t => t.lix == some l && !t.triggered
      | .store .. => f.lix == some l && f.ctx == 1000
      | .atomReq .. => f.lix == some l && f.ctx == 1000
      | .hostWr .. => f.lix == some l && f.ctx == 1000
      | _ => false) &&
    !(s.cores.any fun e => e.2.sendq.any fun q => q.lix == some l && q.ctx == 1000 && match q.pay with
      | .atomReq .. => true
      | _ => false)
/-- A predecessor satisfies its condition: done, or triggered (R326, R327, R332); the strands of one that has ended count as halted
(R350). -/
def State.predOk (s : State) (p : Nat × Bool) : Bool :=
  let a := s.launchAt p.1
  a.st == .done || (p.2 && (a.st == .placed || a.st == .ended) && s.triggeredL p.1)
/-- Cores of a spire's group (R329), the spire by its index core number / 4. -/
def Launch.coresOf (a : Launch) (g : Nat) : List Nat := if a.sg = 2 then [4 * g, 4 * g + 2] else [4 * g + 2]
/-- A spire qualifies for a launch (R329); a core that has left service, or whose deque has no room, does not (log 22). -/
def State.qualifies (s : State) (lix : Nat) (a : Launch) (g : Nat) : Bool :=
  let others := s.live.filter fun e => e.1 != lix && (e.2.cores.contains (4 * g) || e.2.cores.contains (4 * g + 2))
  decide (others.length ≤ 3) && (others.all fun e => e.2.carve == a.carve) && (s.coreAt (4 * g + 2)).leader.isNone &&
    (a.coresOf g).all fun c =>
      let k := s.coreAt c
      !k.oos && !s.away c && !k.frozen && decide (k.deque.length + a.c ≤ Config.dequeDepth)
/-- The spires that stand in valley v of plain p, by their numbers in ascending order: one that has moved counts where it stands (R360,
R363, log 22). -/
def State.spiresIn (s : State) (p v : Nat) : List Nat :=
  let base := p * 1024 + v * 16
  let own := (List.range 16).map (base + ·)
  if s.place.isEmpty then own
  else
    let moved := (s.place.filter fun e => !isSaddle e.1 && isCompute e.1 && e.1 / 4096 == p).map (·.1 / 4)
    (moved.filter (decide <| · < base) ++ own ++ moved.filter (decide <| base + 16 ≤ ·)).filter fun g =>
      s.placeOf (4 * g + 2) % 2 ^ 20 / 64 == p * 64 + v
/-- The spires of a valley group, when one fits in valley v of plain p (R329). -/
def State.fitValley (s : State) (lix : Nat) (a : Launch) (p v : Nat) : Option (List Nat) :=
  let gs := ((s.spiresIn p v).filter (s.qualifies lix a)).take a.vg
  if gs.length = a.vg then some gs else none
/-- The spires of a plain group, when one fits in plain p. -/
def State.fitPlain (s : State) (lix : Nat) (a : Launch) (p : Nat) : Option (List Nat) :=
  let vs := ((List.range 32).filterMap (s.fitValley lix a p)).take a.pg
  if vs.length = a.pg then some (vs.flatMap id) else none
/-- The spires of a launch, when all of its groups fit together. -/
def State.fitLaunch (s : State) (lix : Nat) (a : Launch) : Option (List Nat) :=
  let ps := (((s.domainPkgs a.pkg).flatMap fun k => (List.range 4).map fun i => k * 4 + i).filterMap (s.fitPlain lix a)).take a.dg
  if ps.length = a.dg then some (ps.flatMap id) else none
/-- The next slot of an empty receive queue begins at its region's first line. -/
def Core.restartQueues (k : Core) : Core :=
  [0, 1].foldl (fun k q => if (k.queue q).msgs.isEmpty then { k with rq := fset k.rq q { k.queue q with next := 0 } } else k) k
/-- Install a carve-out in a spire, and set the tags of the footprint's lines (R74, R290); in a spire with no other launch the
receive queues begin anew (R213). -/
def State.carveSpire (s : State) (a : Launch) (g : Nat) : State :=
  let p := s.spireOf (4 * g + 2)
  let s := if (s.spireAt p).carved then s
    else (s.modCore (4 * g) Core.restartQueues).modCore (4 * g + 2) Core.restartQueues
  s.modSpire p fun p =>
    let slots := if p.carved && p.carve == a.carve then p.slots
      else a.carve.slots.zipIdx.map fun e => (e.2, { base := e.1.base, size := e.1.size })
    { p with carve := a.carve, carved := true, slots := slots, tags := p.tags.filter fun e => decide (a.foot ≤ e.1) }
/-- The record the front pushes on a core (R330). -/
def Launch.recFor (a : Launch) (lix c : Nat) : TaskRec :=
  { succ := true, cmpt := isCompute c, prio := a.prio, banks := BitVec.ofNat 8 (2 ^ Nat.min 8 (ceilDiv (64 * a.foot) 0x20000) - 1),
    lix := some lix, entry := a.entry, a1 := a.a1, a2 := a.a2, a3 := a.a3 }
/-- LAUNCH_PLACE (R329, R330, R332): the front places a launch whose predecessors allow it, when all its groups fit together,
and pushes its records. -/
def execLaunchPlace (lix : Nat) (s : State) : Out :=
  .next (
    let a := s.launchAt lix
    if !(s.launches.any fun e => e.1 == lix) || a.st != .waiting || !(a.preds.all s.predOk) then s
    else
      match s.fitLaunch lix a with
      | none => s
      | some gs =>
        let cs := gs.flatMap a.coresOf
        let s := gs.foldl (fun s g => s.carveSpire a g) s
        let s := s.modLaunch lix fun a => { a with st := .placed, cores := cs }
        cs.foldl (fun s c => (List.range a.c).foldl (fun s _ => s.pushTo c (a.recFor lix c)) s) s)

/-- LAUNCH_DONE (R332, R351, R397, R414): a launch with no strand, no record and no write left releases what it holds, and its
record is queued. -/
def execLaunchDone (lix : Nat) (s : State) : Out :=
  .next (
    let a := s.launchAt lix
    let l := some lix
    if (a.st != .placed && a.st != .ended) || (a.st == .ended && s.msgWaits lix) || !(s.cores.all fun e => e.2.without lix) ||
        s.recWaits lix || s.writesOut lix || s.tileFlying l then s
    else
      let s := { s with
        launches := (fset s.launches lix { a with st := .done, cores := [] }).map fun (e : Nat × Launch) =>
          (e.1, if e.2.st == LaunchSt.waiting then { e.2 with preds := e.2.preds.filter fun p => p.1 != lix } else e.2)
        colls := s.colls.filter fun c => c.lix != l
        contribs := s.contribs.filter fun c => c.lix != l
        runs := s.runs.filter fun e => e.1 / 2 ^ 44 != lix
        cores := s.cores.map fun (e : Nat × Core) => (e.1, { e.2 with
          filter := e.2.filter.filter fun f => f.1 != l
          binds := e.2.binds.filter fun b => b.lix != l }) }
      let s := s.dropCached lix (fun _ => true) fun _ => false
      let gs := a.cores.map fun c => s.spireOf c
      let held (p : Nat) : Bool := s.live.any fun e => e.2.cores.any fun c => s.spireOf c == p
      let s := gs.foldl (fun (s : State) (p : Nat) => if held p then s else s.modSpire p fun k => { k with carved := false }) s
      match a.st, a.why with
      | .ended, some (code, info, pc, reason) =>
        s.record a.queue { eseq := a.eseq, kind := 1, status := 0x10, reason := reason, code := code, launch := a.id.toNat, info := info, pc := pc }
      | _, _ => s.record a.queue { eseq := a.eseq, kind := 1, status := 0, launch := a.id.toNat })

/-! ### Invalidation (R305) -/
/-- A segment meets the range. -/
def Seg.inRange (base len : Nat) (g : Seg) : Bool := len == 0 || (decide (g.va < base + len * 65536) && decide (base < g.va + g.n))
/-- What a message carries of physical addresses of a range. -/
def Pay.inRange (base len : Nat) : Pay → Bool
  | .tile it _ _ _ _ => it.land && it.segs.any (Seg.inRange base len)
  | .tileReq it _ => it.segs.any (Seg.inRange base len)
  | .store _ n va _ => Seg.inRange base len { va := va, ga := 0, n := n }
  | .hostWr _ va bs .. => Seg.inRange base len { va := va, ga := 0, n := bs.length }
  | _ => false
/-- A combining node holds a request or a copy of launch l with an address of a range (R306). -/
def NodeEnt.inRange (l base len : Nat) : NodeEnt → Bool
  | .tiles fs => fs.any fun f => f.lix == some l && f.pay.inRange base len
  | .copies cs => cs.any fun c => c.2.lix == some l && c.2.segs.any (Seg.inRange base len)
/-- A request that has been translated at issue, and a drain that has translated its destinations and has rows still to hand over. -/
def Prep.inRange (base len : Nat) : Prep → Bool
  | .tile _ it => it.segs.any (Seg.inRange base len)
  | .entry p => p.inRange base len
  | _ => false
def Pend.inRange (base len : Nat) (p : Pend) : Bool :=
  p.prep.inRange base len || match p.instr with
    | .mdrain _ _ _ _ => drains
    | .mdrainAdd _ _ _ _ => drains
    | _ => false
where
  drains : Bool := (p.rows.drop 1).any fun d => d != 0 && Seg.inRange base len { va := d / 2 ^ 72, ga := 0, n := fmtBytes (p.rows.headD 0) }
/-- Something accepted before still holds a physical address of the range (R305). -/
def State.holdsRange (s : State) (l base len : Nat) : Bool :=
  (s.engOps.any fun o => o.lix == some l && o.segs.any (Seg.inRange base len)) ||
    (s.net.any fun f => f.lix == some l && f.pay.inRange base len) ||
    (s.valleys.any fun v => v.2.node.any (NodeEnt.inRange l base len)) ||
    (s.cores.any fun e => (e.2.sendq.any fun q => q.lix == some l && q.pay.inRange base len) ||
      e.2.ctxs.any fun x => x.2.lix == some l && x.2.pend.any (Pend.inRange base len)) ||
    s.spires.any fun p => p.2.slots.any fun t => t.2.state != .free && t.2.itin.lix == some l && t.2.itin.land &&
      t.2.itin.segs.any (Seg.inRange base len)
/-- QUEUE_INVALIDATE (R305, R345, R414): once nothing accepted holds an address of the range, every translation cache has dropped it,
and the instruction caches the launch's lines, with those of strands of no launch (log 13). -/
def execQueueInvalidate (q : Nat) (s : State) : Out :=
  .next (match (s.queueAt q).next? 2 with
    | none => s
    | some t =>
      let id := bitsOf (t.ws.getD 1 0) 31 0
      let base := bitsOf (t.ws.getD 2 0) 51 0
      let len := bitsOf (t.ws.getD 3 0) 47 0
      let r : CRec := { eseq := t.seq.toNat, kind := 2, status := 0, launch := id }
      match s.launchOf (queuePkg q) id with
      | none => s.record q r
      | some (l, _) =>
        if s.holdsRange l base len then s
        else
          (s.dropCached l (fun t => Seg.inRange base len { va := t.page * t.size, ga := 0, n := t.size }) fun i => i.lix.isNone).record q r)

/-- A host access of n bytes through BAR 2 of a package completes (R408): 8 bytes, aligned, inside the 128 GiB. -/
def bar2Ok (off n : Nat) : Bool := n == 8 && off % 8 == 0 && decide (off < 2 ^ 37)
/-- A host access of a package's GDDR can be answered: the link is up (R417), the access is good, and the channel's island is on (R420). -/
def State.bar2Up (s : State) (addr n : Nat) : Bool := s.henud.booted && bar2Ok (addr % 2 ^ 52) n && !s.gaOff addr
/-- An error response to a host access is logged (R315). -/
def State.bar2Err (s : State) (addr : Nat) (t : Trap) : State := s.logAt (respOf addr) t.code t.info.toNat 0 (frontOf (addr / 2 ^ 52))
/-- HOST_BAR2_WRITE (R408, R409): a host write of 8 bytes of a package's GDDR, by its global address (log 21), performed by the channel
saddle; a bad access completes with Unsupported Request and changes nothing. -/
def execHostBar2Write (addr : Nat) (v : BitVec 64) (s : State) : Out :=
  .next (if s.bar2Up addr 8 then
      match s.writeAt addr (addr % 2 ^ 52) (leBytes 8 v.toNat) with
      | (.error t, s) => s.bar2Err addr t
      | (.ok _, s) => s
    else s)
/-- A host read through BAR 2 (R408, R409): the doubleword, and the state after the read, in which its single-bit error is corrected, or
what could not be read is logged; no doubleword where it completes with Unsupported Request or an error. -/
def State.bar2Read (s : State) (addr n : Nat) : Option (List Byte) × State :=
  if !s.bar2Up addr n then (none, s)
  else
    match s.readAt addr 8 (addr % 2 ^ 52) with
    | (.error t, s) => (none, s.bar2Err addr t)
    | (.ok bs, s) => (some bs, s)

end Sys2Proof.Machine
end

