-- ==== Sys2Proof/Machine/Migrate.lean ====
section
/-! DEFINITION. Live migration, spire and saddle replacement, lost cores (R297, R310, R311, R344, R357 to R364). -/

namespace Sys2Proof.Machine
open Sys2Proof

/-! ### Freezing (R358) -/
/-- A strand of a frozen core stops issuing, and what has not committed is discarded: it goes on at the continuation pc (R98, R358). -/
def Strand.freeze (t : Strand) : Strand :=
  let live := t.pend.filter (·.com)
  if live.length = t.pend.length then t else { t with pend := live, pc := contOf t }
/-- A macro-operation as it is kept over a move: it begins again, at mstep.step, with a read of its record (R285), and nothing of its
strand issues before it is done. -/
def Pend.resume (p : Pend) : Pend :=
  { p with started := false, step := 0, ptrs := [], rows := [], win := 0
           prep := match p.prep with
             | .shape _ => .none
             | q => q }
/-- The core's part of a macro-operation's stop (R184, R358): mstep as a trap at that step would leave it, its pointers as at issue. It stays
pending, which with the strand's pc is the resume record. -/
def State.stopMacro (s : State) (c x : Nat) : State :=
  match (s.strandAt c x).pend.find? fun p => p.unit == 4 && p.com && p.trap.isNone && p.started with
  | none => s
  | some p =>
    match matOf p.instr with
    | none => s
    | some op =>
      let acc := (op { g := p.g, tag := p.order, pc := p.pc, prep := p.prep } { s with core := c, ctx := x }).acc
      (s.modCore c fun k => { k with mstep := mstepWord x acc p.step, mrngs := some p.rngs
                                     ptr := p.ptrs.foldl (fun m e => fset m e.1 e.2) k.ptr }).modStrand c x fun t =>
        { t with pend := t.pend.map fun q => if q.order = p.order then q.resume else q }
/-- Strand x of core c freezes: the takes that it has discarded leave the spire's queue (R232). -/
def State.freezeStrand (s : State) (c x : Nat) : State :=
  let n := (s.strandAt c x).pend.length
  let s := (s.stopMacro c x).modStrand c x Strand.freeze
  let left := (s.strandAt c x).pend
  if left.length = n then s else s.trimTakes c x (takesOf left)
/-- A composed core hands back to its leader c (R279, R343). -/
def State.uncompose (s : State) (c : Nat) : State :=
  (s.handBack c).modCore c fun k => { k with ctxs := k.ctxs.map fun (e : Nat × Strand) => (e.1, { e.2 with cmp := false }) }
/-- The current stop of a slot's tile. -/
def Slot.at' (t : Slot) : Option Nat := (t.itin.stops[t.stop]?).map fun p => (if t.divert then p.alt else p.core).toNat
/-- No slot of the spire is filling with a tile whose current stop is the core (R310). -/
def State.noFill (s : State) (c : Nat) : Bool :=
  (s.spireAt (s.spireOf c)).slots.all fun e => !(e.2.state == .filling && e.2.at' == some c)
/-! ### Moving (R357, R359, R360) -/
/-- A core is free: no strand, no record, no message, nothing of an engine (R344). -/
def Core.isFree (k : Core) : Bool :=
  (k.ctxs.all fun e => e.2.life == .free) && k.parked.isEmpty && k.deque.isEmpty && k.sendq.isEmpty && k.eng.isEmpty &&
    k.outst.isEmpty && k.leader.isNone && !k.frozen && !k.oos && !k.lost && ((k.queue 0).msgs ++ (k.queue 1).msgs).isEmpty
/-- A strand of a frozen core is ready to move (R358): it waits, or what it has committed is done, but for macro-operations, what waits for
an answer, which the frozen core cannot receive (log 34), and a trap that is to be delivered after them. -/
def Strand.settled (t : Strand) : Bool := t.life == .waiting || t.pend.all fun p => p.tag.isSome || p.unit == 4 || p.trap.isSome
/-- A frozen core is ready to move: its strands are, and its engine is empty (R358). -/
def Core.settled (k : Core) : Bool := k.frozen && k.eng.isEmpty && k.ctxs.all fun e => e.2.settled
/-- Launches a core is admitted to. -/
def State.admittedTo (s : State) (c : Nat) : List Nat := (s.launches.filter fun e => e.2.cores.contains c).map (·.1)
/-- The other place of a spire. -/
def sibling (q : Nat) : Nat := if q % 4 < 2 then q + 2 else q - 2
/-- The core number that stands at a place (R360); none at one left for a spare spire. -/
def State.numAt (s : State) (q : Nat) : Option Nat :=
  match s.place.find? fun e => e.2 == q with
  | some e => some e.1
  | none => if s.placeOf q = q then some q else none
/-- The other core of a core's spire. -/
def State.sibOf (s : State) (c : Nat) : Nat := (s.numAt (sibling (s.placeOf c))).getD (sibling c)
/-- A target of a move (R344): of the same kind, free, in the same plain, admitted to every launch of the moving core. -/
def State.targetFor (s : State) (c d : Nat) : Bool :=
  c != d && !isSaddle c && !isSaddle d && c % 4 == d % 4 && plainOf c == plainOf d && !(s.coreAt c).lost && (s.coreAt d).isFree &&
    !s.away d && (s.admittedTo c).all fun l => (s.launchAt l).cores.contains d
/-- A move takes the whole spire (R357). -/
def State.wholeSpire (s : State) (c : Nat) : Bool :=
  ((s.spireAt (s.spireOf c)).hs.any fun e => e.2 != 0) ||
    s.launches.any fun e => (s.coreAt (s.sibOf c)).liveOf e.1 != 0 && (s.coreAt c).liveOf e.1 != 0
/-- A target of the core or, where R357 asks for it, of its whole spire. -/
def State.fitsAt (s : State) (c d : Nat) : Bool := s.targetFor c d && (!s.wholeSpire c || s.targetFor (s.sibOf c) (s.sibOf d))
/-- Core numbers that stand in a valley. -/
def State.coresIn (s : State) (v : Nat) : List Nat :=
  (((List.range 32).map fun k => 64 * v + 2 * k) ++ s.place.map (·.1)).filter fun c => s.placeOf c % 2 ^ 20 / 64 == v
/-- The target of a move (R344): in the same valley if one is there, else in the same plain. -/
def State.targetOk (s : State) (c d : Nat) : Bool :=
  let v := s.placeOf c % 2 ^ 20 / 64
  s.fitsAt c d && (s.placeOf d % 2 ^ 20 / 64 == v || !((s.coresIn v).any (s.fitsAt c)))
/-- Slots that a move of a core carries (R310, R357): those arrived or held for it, or every slot of the spire. -/
def State.carried (s : State) (c : Nat) (whole : Bool) : List (Nat × Slot) :=
  (s.spireAt (s.spireOf c)).slots.filter fun e =>
    whole || ((e.2.state == .arrived || e.2.state == .held) && (e.2.owner == some c || (e.2.owner.isNone && e.2.at' == some c)))
/-- Banks that move with cores (R359): those of live and parked strands, and those retained. -/
def State.movedBanks (s : State) (cs : List Nat) : BitVec 8 :=
  cs.foldl (fun m c =>
    let k := s.coreAt c
    let m := k.ctxs.foldl (fun m e => if e.2.life = .free then m else m ||| e.2.banks) m
    let m := k.parked.foldl (fun m p => m ||| p.strand.banks) m
    k.deque.foldl (fun m r => m ||| r.ret) m) 0
/-- A move of core c reads n bytes of a scratchpad at a and writes them at b (R359): single-bit errors are corrected by the read (R313); an uncorrectable
doubleword is logged (R315) and stays one at b (log 34). -/
def State.copyMem (s : State) (c a b n : Nat) : State :=
  let s := match s.badIn a n with
    | some d => s.logAt (respOf a) cUncorrectable (0xFF0000000000 + d % 2 ^ 20) 0 c
    | none => s
  let s := s.scrub a n
  let out (l : List (Nat × Bool)) : List (Nat × Bool) := l.filter fun e => !(decide (b ≤ e.1) && decide (e.1 < b + n))
  let data : List Host.Cell := (s.mem.filter fun e => decide (a ≤ e.1) && decide (e.1 < a + n)).map fun (e : Nat × Byte) => (e.1 - a + b, e.2)
  let rest : List Host.Cell := s.mem.filter fun e => !(decide (b ≤ e.1) && decide (e.1 < b + n))
  { s with
    mem := data.foldl (fun m (e : Host.Cell) => fsetD memDefault m e.1 e.2) rest
    bad := out s.bad ++ ((s.bad.filter fun e => decide (a ≤ e.1) && decide (e.1 < a + n)).map fun e => (e.1 - a + b, e.2))
    soft := out s.soft }
/-- A move of core c copies n bytes of a scratchpad, with their tags, from spire p to spire q; the banks they lie in are powered up at both
(R289). -/
def State.copySp (s : State) (c p q off n : Nat) : State :=
  let tags := (s.spireAt p).tags.filter fun e => decide (off ≤ 64 * e.1) && decide (64 * e.1 < off + n)
  let s := (s.powerRange (spBase p + off) n).powerRange (spBase q + off) n
  (s.copyMem c (spBase p + off) (spBase q + off) n).modSpire q fun k =>
    let keep : List (Nat × BitVec 4) := k.tags.filter fun e => !(decide (off ≤ 64 * e.1) && decide (64 * e.1 < off + n))
    { k with tags := tags.foldl (fun m (e : Nat × BitVec 4) => fset m e.1 e.2) keep }
/-- Copy the banks of a mask from spire p to spire q. -/
def State.copyBanks (s : State) (c p q : Nat) (m : BitVec 8) : State :=
  (List.range 8).foldl (fun s b =>
    if m.getLsbD b then s.copySp c p q (b * 0x20000) 0x20000 else s) s
/-- Images of parked strands take the lowest free images of the new spire's spill area, or of the overflow region (R294, R336, R359). -/
def State.moveParked (s : State) (c q : Nat) : List Parked → State
  | [] => s
  | p :: r =>
    if !p.inSpill then s.moveParked c q r
    else
      let img := s.freeImageAt q c p.strand
      let s := s.imageTried q c p.strand img
      match img with
      | none => s.moveParked c q r
      | some (a, va, sp) =>
        let s := ((s.power p.image).power a).copyMem c p.image a 128
        (s.modCore c fun k => { k with parked := k.parked.map fun x =>
          if x.order = p.order then { x with image := a, va := va, inSpill := sp } else x }).moveParked c q r
/-- Every parked strand of some cores finds an image when they move to spire q (R336). -/
def State.parkedFit (s : State) (cs : List Nat) (q : Nat) : Bool :=
  let u := cs.foldl (fun s c => s.moveParked c q (s.coreAt c).parked) s
  cs.all fun c => (u.coreAt c).parked.all fun p => !p.inSpill || (p.image - 2 ^ 60) / 2 ^ 20 == q
/-- What a scratchpad home keeps for locks in the moved banks goes with them (R239, R359): the requests that wait, and the ticket counter,
which a program can observe (R362). Where the target's other core keeps strands of its own, the higher counter goes on for both (log 34). -/
def State.moveHome (s : State) (p q : Nat) (m : BitVec 8) (alone : Bool) : State :=
  let mine (l : LockReq) : Bool := decide (spBase p ≤ l.pa) && m.getLsbD ((l.pa - spBase p) % 2 ^ 20 / 0x20000)
  let h := (s.spireAt p).home
  let s := s.modSpire q fun k => { k with home := { k.home with
    ticket := if alone || decide (k.home.ticket.toNat ≤ h.ticket.toNat) then h.ticket else k.home.ticket } }
  if !(h.lockq.any mine) then s
  else
    let s := s.modSpire q fun k => { k with home := { k.home with
      lockq := k.home.lockq ++ ((h.lockq.filter mine).map fun l => { l with pa := l.pa - spBase p + spBase q }) } }
    s.modSpire p fun k => { k with home := { k.home with lockq := k.home.lockq.filter fun l => !mine l } }
/-- A forwarding entry at the vacated place redirects what is on its way to the core (R360). -/
def State.forward (s : State) (c old : Nat) : State :=
  { s with fwd := fset s.fwd old (fget [] s.fwd old ++ [c])
           net := s.net.map fun (f : Flight) => if f.dst = c ∧ f.net ≠ 5 then { f with hops := f.hops ++ [old] } else f }
/-- Move settled cores of one spire to places of spire q (R359, R360); whole: with the semaphores and every slot (R357). DESIGN CHOICE (log
34): a slot whose tile has gone with a core reads at the old place as after reset (R264 does not say what itstat reads there). -/
def State.moveCores (s : State) (cs : List Nat) (q : Nat) (whole : Bool) (place : Nat → Nat) : State :=
  let alone := whole || cs.all fun c => match s.numAt (sibling (place c)) with
    | some d => (s.coreAt d).isFree
    | none => true
  match cs with
  | [] => s
  | c :: _ =>
    let p := s.spireOf c
    let banks := s.movedBanks cs
    let slots := cs.flatMap fun c => s.carried c whole
    let v := (s.spireAt p).carve
    let regions := (cs.flatMap fun c => [s.queueRegion c 0, s.queueRegion c 1]) ++ slots.map fun e => { base := e.2.base, size := e.2.size }
    let old := cs.map fun c => (c, s.placeOf c)
    let s := s.copyBanks c p q banks
    let s := regions.foldl (fun s r => s.copySp c p q r.base r.size) s
    let s := cs.foldl (fun s c => s.moveParked c q (s.coreAt c).parked) s
    let s := s.moveHome p q banks alone
    let s := s.modSpire q fun k => { k with carve := v, slots := slots.foldl (fun m e => fset m e.1 e.2) k.slots }
    let s := s.modSpire p fun k => { k with slots := k.slots.map fun (e : Nat × Slot) =>
      if (slots.any fun x => x.1 == e.1) then (e.1, { base := e.2.base, size := e.2.size }) else e }
    let s := if whole then
        let sem := (s.spireAt p).hs
        let wq := (s.spireAt p).semq
        (s.modSpire q fun k => { k with hs := sem, semq := wq }).modSpire p fun k => { k with hs := [], semq := [] }
      else
        let wq := (s.spireAt p).semq.filter fun w => cs.contains w.core
        (s.modSpire q fun k => { k with semq := k.semq ++ wq }).modSpire p fun k => { k with semq := k.semq.filter fun w => !cs.contains w.core }
    -- the numbers take their new places
    let s := { s with place := cs.foldl (fun m c => fset m c (place c)) s.place }
    let s := old.foldl (fun s e => s.forward e.1 e.2) s
    let s := cs.foldl (fun s c => s.modCore c fun k => { k with
      frozen := false, moves := if k.moves = 0xFFFF then k.moves else k.moves + 1, tlb := []
      ctxs := k.ctxs.map fun (e : Nat × Strand) => (e.1, { e.2 with since := if e.2.life = .ready then s.tick else e.2.since }) }) s
    s.banksDown p 0xFF
/-- The queue entries whose move of a core has begun (R414): queue, seq. -/
def State.movesOf (s : State) (c : Nat) : List (Nat × BitVec 32) :=
  s.queues.flatMap fun e => (e.2.taken.filter fun t => t.kind == 3 && t.busy && !t.done && bitsOf (t.ws.getD 1 0) 19 0 == c).map fun t =>
    (e.1, t.seq)
/-- The answer to the queue entry that asked for the move of a core, if one did (R414). -/
def State.moveDone (s : State) (c : Nat) : State :=
  (s.movesOf c).foldl (fun s e => s.record e.1 { eseq := e.2.toNat, kind := 3, status := 0 }) s
/-- A move is refused: one of the four statuses that R414 calls refused (log 14). -/
def State.moveRefused (s : State) (q seq : Nat) : State :=
  ({ s with free := s.free + 1 }).record q { eseq := seq, kind := 3, status := 1 + (Config.freeWord s.free).toNat % 4 }
/-- The slots a move carries are free and large enough at the target (R310). -/
def State.slotsFit (s : State) (c q : Nat) (whole : Bool) : Bool :=
  (s.carried c whole).all fun e => e.2.state == .free || (let t := s.slotAt q e.1; t.state == .free && decide (e.2.itin.bytes ≤ t.size))
/-- A place has a forwarding entry free (R360). -/
def State.fwdRoom (s : State) (c : Nat) : Bool := decide ((fget [] s.fwd (s.placeOf c)).length < 64)
/-- The move of a core to a target frees the spire it stands in for a launch that is ready and fits nowhere (R329, R344): its spire does not
qualify, frozen or not, and the target's does. -/
def State.frees (s : State) (cs : List Nat) (core target : Nat) : Bool :=
  let u := cs.foldl (fun s c => s.modCore c fun k => { k with frozen := false }) s
  s.launches.any fun e => e.2.st == .waiting && e.2.preds.all s.predOk && (s.fitLaunch e.1 e.2).isNone &&
    (s.domainPkgs e.2.pkg).contains (pkgOf core) && !(u.qualifies e.1 e.2 (core / 4)) && u.qualifies e.1 e.2 (target / 4)
/-- The host asks for the move of a core, or the launch front makes room for a launch, with one core of the valley at a time (R344). -/
def State.moveReason (s : State) (cs : List Nat) (core target : Nat) : Bool :=
  !(s.movesOf core).isEmpty ||
    (s.frees cs core target && (s.coresIn (s.placeOf core % 2 ^ 20 / 64)).all fun c => !(s.coreAt c).frozen || cs.contains c)
/-- Settled cores can move to the places of others: their slots, parked strands and forwarding entries find room (R310, R336, R360). -/
def State.canMove (s : State) (cs : List Nat) (q : Nat) (whole : Bool) : Bool :=
  (cs.all fun c => (s.coreAt c).settled && s.noFill c && s.slotsFit c q whole && s.fwdRoom c) && s.parkedFit cs q
/-- Settled cores and the cores of a target spire trade places (R359, R360). -/
def State.trade (s : State) (cs : List Nat) (whole : Bool) (dest : Nat → Nat) : State :=
  match cs with
  | [] => s
  | c :: _ =>
    let places := cs.map fun c => (s.placeOf c, dest c)
    let s := s.moveCores cs (s.spireOf (dest c)) whole fun c => s.placeOf (dest c)
    let s := { s with place := places.foldl (fun m e => fset m e.2 e.1) s.place }
    cs.foldl (fun s c => s.moveDone c) s
/-- MIGRATION_SWITCH (R344, R357, R359, R360): a settled core's items are written at the target, the two numbers trade places, and a
forwarding entry stays behind; when R357 asks for it, the whole spire moves. A worn spire moves by SPIRE_REPLACE. -/
def execMigrationSwitch (core target : Nat) (s : State) : Out :=
  .next (
    let whole := s.wholeSpire core
    let cs := if whole then [core, s.sibOf core] else [core]
    let dest (c : Nat) : Nat := if c = core then target else s.sibOf target
    if s.targetOk core target && s.moveReason cs core target && s.canMove cs (s.spireOf target) whole then s.trade cs whole dest else s)
/-- QUEUE_MOVE (R344, R414): a taken entry asks for the move of a core; it is refused when the target is not one of R344. -/
def execQueueMove (q target : Nat) (s : State) : Out :=
  .next (match (s.queueAt q).next? 3 with
    | none => s
    | some t => if s.targetOk (bitsOf (t.ws.getD 1 0) 19 0) target then s.begin q t else s.moveRefused q t.seq.toNat)
/-- FORWARDING_REDIRECT (R311, R360): the entry at the first place on message k's way sends it on. -/
def execForwardingRedirect (k : Nat) (s : State) : Out :=
  .next (match s.net[k]? with
    | none => s
    | some f =>
      match f.hops with
      | [] => s
      | p :: r => if (fget [] s.fwd p).contains f.dst then { s with net := setAt s.net k { f with hops := r } } else s)
/-- FORWARDING_ENTRY_FREE (R360, R363): the oldest entry of a place that no message still needs is freed; the place of a worn
spire then powers down. -/
def execForwardingEntryFree (place : Nat) (s : State) : Out :=
  .next (match fget [] s.fwd place with
    | [] => s
    | c :: r =>
      if (s.net.any fun f => f.dst == c && f.hops.contains place) then s
      else
        let s := { s with fwd := if r.isEmpty then fdel place s.fwd else fset s.fwd place r }
        let p := place / 4
        if r.isEmpty && (fget [] s.fwd (sibling place)).isEmpty && s.henud.spareMap.any fun e => e.1 == 2 * 2 ^ 56 + p then
          (List.range 8).foldl (fun s b => s.bankDown p b) s
        else s)

/-! ### Replacement and loss (R297, R363, R364) -/
/-- Place of a core of place q in the spare spire of its valley. -/
def sparePlace (q : Nat) : Nat := 2 ^ 20 + q / 64 * 64 + q % 4
/-- A replacement enters the spare map (R421). -/
def State.spared (s : State) (what by' : Nat) : State := { s with henud := { s.henud with spareMap := s.henud.spareMap ++ [(what, by')] } }
/-- A free spire of the plain for both cores of a worn one: the lowest number, in the same valley if one is there (R344, R363). -/
def State.freeSpireFor (s : State) (c : Nat) : Option Nat :=
  let ds := ((List.range 1024).map fun i => plainOf c * 4096 + 4 * i + c % 4).filter fun d => s.targetFor c d && s.targetFor (s.sibOf c) (s.sibOf d)
  match ds.find? fun d => s.placeOf d % 2 ^ 20 / 64 == s.placeOf c % 2 ^ 20 / 64 with
  | some d => some d
  | none => ds.head?
/-- A core may be frozen for a reason of R344: the host has asked for its move, or its move makes room for a launch, or its spire is worn
and a spire can take its cores. What is worn the controller finds by itself, and nothing of the state shows it (log 34). -/
def State.freezeReason (s : State) (core : Nat) : Bool :=
  !(s.valleyAt (s.placeOf core % 2 ^ 20 / 64)).spareUsed || !(s.movesOf core).isEmpty || (s.freeSpireFor core).isSome ||
    (let cs := if s.wholeSpire core then [core, s.sibOf core] else [core]
     (s.coresIn (s.placeOf core % 2 ^ 20 / 64)).all (fun c => !(s.coreAt c).frozen || cs.contains c) &&
      (List.range 1024).any fun i =>
        let d := plainOf core * 4096 + 4 * i + core % 4
        s.targetOk core d && s.frees cs core d)
/-- The strand of a composed core stands at the boundary of a block of 8 instructions (R278, R343). -/
def Core.atBlock (k : Core) : Bool := k.ctxs.all fun e => !e.2.cmp || e.2.pc.toNat % 32 == 0
/-- MIGRATION_FREEZE (R310, R344, R358): when no handler runs and no slot is filling with a tile for it, a core with a reason to move stops
starting work; a composed core first hands back, at a block boundary. -/
def execMigrationFreeze (core : Nat) (s : State) : Out :=
  .next (
    let k := s.coreAt core
    if isSaddle core || k.frozen || k.lost || !s.noFill core || (k.ctxs.any fun e => e.2.hnd) || (k.leader.isSome && k.leader != some core) ||
        (k.leader.isSome && !k.atBlock) || !s.freezeReason core then s
    else
      let s := if k.leader = some core then s.uncompose core else s
      ((s.coreAt core).ctxs.foldl (fun s e => s.freezeStrand core e.1) s).modCore core fun k => { k with frozen := true })
/-- SPIRE_REPLACE (R363, R421): both cores of a worn spire move to the valley's spare spire, which holds their numbers from then
on; when that is used, to a free spire of the plain, and the cores that then stand in the worn spire go out of service, so that the
valley places one group fewer. It waits until the engine has performed the landings of no strand that are queued there (R308). -/
def execSpireReplace (spire : Nat) (s : State) : Out :=
  .next (
    let v := spire / 16
    match s.numAt (4 * spire), s.numAt (4 * spire + 2) with
    | some c, some d =>
      let cs := [c, d]
      if !(s.spireAt spire).orphans.isEmpty then s
      else if !(s.valleyAt v).spareUsed then
        let q := sparePlace (4 * spire) / 4
        let carve := (s.spireAt spire).carve
        let u := s.modSpire q fun k => { k with carve := carve, carved := (s.spireAt spire).carved,
                                                slots := carve.slots.zipIdx.map fun e => (e.2, { base := e.1.base, size := e.1.size }) }
        if u.canMove cs q true then
          let s := u.modSpire spire fun k => { k with carved := false }
          let s := (s.moveCores cs q true fun c => sparePlace (s.placeOf c)).modValley v fun k => { k with spareUsed := true }
          (cs.foldl (fun s c => s.moveDone c) s).spared (2 * 2 ^ 56 + spire) q
        else s
      else
        match s.freeSpireFor c with
        | none => s
        | some t =>
          let u := s.sibOf t
          let q := s.spireOf t
          if s.canMove cs q true then
            let s := s.trade cs true fun x => if x = c then t else u
            ([t, u].foldl (fun s x => s.modCore x fun k => { k with oos := true }) s).spared (2 * 2 ^ 56 + spire) q
          else s
    | _, _ => s)
/-- The first entry for each launch. -/
def firstOf (l : List (Nat × Nat)) : List (Nat × Nat) := l.foldl (fun r e => if r.any (·.1 == e.1) then r else r ++ [e]) []
/-- Launches with a strand or record on a core, with the pc of the first. -/
def Core.launchesOn (k : Core) : List (Nat × Nat) :=
  let of' (l : Option Nat) (pc : Nat) : List (Nat × Nat) := match l with
    | some l => [(l, pc)]
    | none => []
  firstOf ((k.ctxs.flatMap fun e => if e.2.life = .free then [] else of' e.2.lix e.2.pc.toNat) ++
    (k.parked.flatMap fun p => of' p.strand.lix p.strand.pc.toNat) ++ k.deque.flatMap fun r => of' r.lix r.entry.toNat)
/-- CORE_LOST (R364): a core leaves service without a move; its strands, deque and state are gone, and every launch that held one
there is reported and ends with a host cause (R356); a move of it that has begun is refused (R414). -/
def execCoreLost (core : Nat) (s : State) : Out :=
  .next (
    let k := s.coreAt core
    if k.lost then s
    else
      let ls := k.launchesOn
      let s := match k.leader with
        | some l => s.uncompose l
        | none => s
      let s := s.modSpire (s.spireOf core) fun p => { p with
        semq := p.semq.filter fun w => w.core != core
        orphans := p.orphans.map fun (o : Orphan) => if isCompute core then { o with comp := 0 } else { o with stage := 0 } }
      let s := s.setCore core { lost := true, txSeq := k.txSeq, rxSeq := k.rxSeq }
      let s := ((k.ctxs.map (·.2)) ++ k.parked.map (·.strand)).foldl State.disownLeft s
      let s := (s.movesOf core).foldl (fun s e => s.moveRefused e.1 e.2.toNat) s
      ls.foldl (fun s e =>
        let a := s.launchAt e.1
        let s := s.henudLog cCoreLost core a.id.toNat core
        if a.st == .placed then s.endLaunch e.1 (cCoreLost, w64 core, e.2, 2) else s) s)
/-- CHANNEL_SADDLE_REPLACE (R297, R386, R421): the spare channel saddle of a plain takes over a worn one's number, memory and
port; index 48 then names no core. -/
def execChannelSaddleReplace (plain channel : Nat) (s : State) : Out :=
  .next (
    if (s.plainAt plain).spareFor.isSome then s
    else
      let num (i : Nat) := plain * 4096 + 2048 + i * 32
      let s := (s.modPlain plain fun p => { p with spareFor := some channel }).setCore (num 48) {}
      { s with henud := { s.henud with spareMap := s.henud.spareMap ++ [(3 * 2 ^ 56 + num (32 + channel), num 48)] } })

end Sys2Proof.Machine
end

