-- ==== Sys2Proof/Machine/Cache.lean ====
section
/-! DEFINITION. The key-value cache protocol (R369 to R380): each event is one whole run of the cache handler, for the head
message of the core's request queue (log 40). -/

namespace Sys2Proof.Machine
open Sys2Proof

/-- What serving a message answers: done, or an abort of the handler (R220, R375), with what it has stored till then, its trap, and the
core number of the responder when the trap is an error response (R315). -/
inductive Served where
  | done (s : State)
  | abort (s : State) (t : Trap) (resp : Option Nat)
/-- Go on with what has been done. -/
def Served.bind (r : Served) (f : State → Served) : Served :=
  match r with
  | .done s => f s
  | .abort s t n => .abort s t n

/-! ### The descriptor and the home of a key (R369 to R371) -/
/-- A cache descriptor (R369): list, table and slots as scratchpad offsets. -/
structure Cd where
  n    : Nat
  list : Nat
  hnd  : Nat
  tbl  : Nat
  slots : Nat
  nsl  : Nat
  d    : Nat
  deriving DecidableEq, Repr
/-- Global address of offset o of a core's scratchpad. -/
def State.spAt (s : State) (c o : Nat) : Nat := spBase (s.spireOf c) + o % 2 ^ 20
/-- A doubleword of a core's scratchpad. -/
def State.dw (s : State) (c o : Nat) : Nat := ofLe (s.bytes (s.spAt c o) 8)
/-- The descriptor at an offset of a core's scratchpad. -/
def State.cacheDesc (s : State) (c o : Nat) : Cd :=
  let w (i : Nat) := s.dw c (o + 8 * i)
  { n := fld (w 0) 57 48 + 1, list := fld (w 0) 47 0, hnd := fld (w 1) 47 0, tbl := fld (w 2) 39 20, slots := fld (w 2) 19 0
    nsl := fld (w 3) 15 8, d := fld (w 3) 7 0 + 1 }
/-- Bytes of a row: ceil(D / 32) pointer blocks (R370). -/
def Cd.row (d : Cd) : Nat := 64 * ceilDiv d.d 32
/-- Bytes of a block slot (R370). -/
def Cd.sz (d : Cd) : Nat := 2 * 64 * d.row + 512
/-- Parts of a QUERY, PARTIAL or APPEND (R373). -/
def Cd.parts (d : Cd) : Nat := ceilDiv d.d 48
/-- Key number of R371. -/
def cacheKey (seq b : Nat) : Nat := (seq * 65536 + b) * 0x2545F491 % 2 ^ 32
/-- The points of the holders, in the order of their ties (R371). -/
def points (n : Nat) : List (Nat × Nat) :=
  (List.range n).flatMap fun i => (List.range 8).map fun v => ((8 * i + v + 1) * 0x9E3779B9 % 2 ^ 32, i)
/-- The least point of a list, the earlier of two equal ones. -/
def leastPoint (ps : List (Nat × Nat)) : Option (Nat × Nat) :=
  ps.foldl (fun (m : Option (Nat × Nat)) p => match m with
    | some q => if p.1 < q.1 then some p else some q
    | none => some p) none
/-- Index of the holder that is home of a key (R371). -/
def homeIx (n seq b : Nat) : Nat :=
  let ps := points n
  match leastPoint (ps.filter fun p => decide (cacheKey seq b ≤ p.1)) with
  | some p => p.2
  | none => ((leastPoint ps).map (·.2)).getD 0
/-- The handler reads ranges of its scratchpad, each an offset and a length, and goes on; the first that meets an uncorrectable word aborts
it (R314, R353). -/
def State.reading (s : State) (c : Nat) : List (Nat × Nat) → (State → Served) → Served
  | [], f => f s
  | r :: rs, f =>
    match s.readAt (s.spAt c r.1) r.2 (0xFF0000000000 + r.1 % 2 ^ 20) with
    | (.error t, s) => .abort s t (some (respOf (s.spAt c r.1)))
    | (.ok _, s) => s.reading c rs f
/-- Core number of the home of a key. -/
def State.keyHome (s : State) (c : Nat) (d : Cd) (seq b : Nat) : Nat :=
  ofLe (s.bytes (s.spAt c (d.list + 4 * homeIx d.n seq b)) 4) % 2 ^ 20

/-! ### The home table (R372) -/
/-- An entry: its index and its two doublewords. -/
structure CEnt where
  ix : Nat
  d0 : Nat
  d1 : Nat
  deriving DecidableEq, Repr
def CEnt.fill (e : CEnt) : Nat := fld e.d0 57 51
def CEnt.st (e : CEnt) : Nat := fld e.d0 50 48
def CEnt.b (e : CEnt) : Nat := fld e.d0 47 32
def CEnt.seq (e : CEnt) : Nat := fld e.d0 31 0
def CEnt.lsrc (e : CEnt) : Nat := fld e.d1 59 40
def CEnt.ltag (e : CEnt) : Nat := fld e.d1 39 24
def CEnt.slot (e : CEnt) : Nat := fld e.d1 23 16
def CEnt.ref (e : CEnt) : Nat := fld e.d1 15 0
def CEnt.nhome (e : CEnt) : Nat := fld e.d1 19 0
def CEnt.tseq (e : CEnt) : Nat := fld e.d1 51 20
def CEnt.thome (e : CEnt) : Nat := fld e.d1 19 0
/-- The entry with another state, another fill. -/
def CEnt.withSt (e : CEnt) (v : Nat) : CEnt := { e with d0 := fld e.d0 57 51 * 2 ^ 51 + v * 2 ^ 48 + e.d0 % 2 ^ 48 }
def CEnt.withFill (e : CEnt) (v : Nat) : CEnt := { e with d0 := v * 2 ^ 51 + e.d0 % 2 ^ 51 }
def CEnt.withRef (e : CEnt) (v : Nat) : CEnt := { e with d1 := fld e.d1 59 16 * 2 ^ 16 + v }
/-- A new entry. -/
def CEnt.new (ix st fill seq b d1 : Nat) : CEnt := { ix := ix, d0 := fill * 2 ^ 51 + st * 2 ^ 48 + b * 2 ^ 32 + seq, d1 := d1 }
/-- Doubleword 1 of a live entry. -/
def liveD1 (lsrc ltag slot ref : Nat) : Nat := lsrc * 2 ^ 40 + ltag * 2 ^ 24 + slot * 2 ^ 16 + ref
/-- Entry ix of a core's table. -/
def State.centAt (s : State) (c : Nat) (d : Cd) (ix : Nat) : CEnt :=
  { ix := ix, d0 := s.dw c (d.tbl + 16 * ix), d1 := s.dw c (d.tbl + 16 * ix + 8) }
/-- The entry that holds a key: probing from ix, a free entry ends it (R372). -/
def State.probe (s : State) (c : Nat) (d : Cd) (seq b : Nat) : Nat → Nat → Option CEnt
  | 0, _ => none
  | n + 1, ix =>
    let e := s.centAt c d (ix % 256)
    if e.st = 0 then none
    else if e.st ≠ 4 ∧ e.st ≠ 7 ∧ e.seq = seq ∧ e.b = b then some e
    else s.probe c d seq b n (ix + 1)
/-- The entries that a lookup reads (R372). -/
def State.probed (s : State) (c : Nat) (d : Cd) (seq b : Nat) : Nat → Nat → List Nat
  | 0, _ => []
  | n + 1, ix =>
    let e := s.centAt c d (ix % 256)
    if e.st = 0 ∨ (e.st ≠ 4 ∧ e.st ≠ 7 ∧ e.seq = seq ∧ e.b = b) then [ix % 256]
    else ix % 256 :: s.probed c d seq b n (ix + 1)
/-- The bytes of some entries of the table. -/
def Cd.entries (d : Cd) (ixs : List Nat) : List (Nat × Nat) := ixs.map fun i => (d.tbl + 16 * i, 16)
/-- Look a key up. -/
def State.lookupKey (s : State) (c : Nat) (d : Cd) (seq b : Nat) : Option CEnt := s.probe c d seq b 256 (cacheKey seq b % 256)
/-- Where a key is inserted: the first free or deleted entry from its index on (R372). -/
def State.insertIx (s : State) (c : Nat) (d : Cd) (seq b : Nat) : Option Nat :=
  ((List.range 256).map fun i => (cacheKey seq b + i) % 256).find? fun i => let e := s.centAt c d i; e.st == 0 || e.st == 4
/-- The lowest block slot that no live or moving entry holds. -/
def State.freeSlot (s : State) (c : Nat) (d : Cd) : Option Nat :=
  let used := ((List.range 256).map fun i => s.centAt c d i).filter fun e => e.st == 1 || e.st == 2
  (List.range d.nsl).find? fun j => !(used.any fun e => e.slot == j)
/-- Write bytes into a core's scratchpad. -/
def State.spWrite (s : State) (c o : Nat) (bs : List Byte) : State :=
  let a := s.spAt c o
  ((s.power a).cleared a bs.length).poke a bs
/-- Write an entry. -/
def State.putCent (s : State) (c : Nat) (d : Cd) (e : CEnt) : State :=
  s.spWrite c (d.tbl + 16 * e.ix) (leBytes 8 e.d0 ++ leBytes 8 e.d1)

/-! ### Messages (R373, R374) -/
def CacheHeld.w (m : CacheHeld) (i : Nat) : Word := m.ws.getD i 0
def CacheHeld.op (m : CacheHeld) : Nat := bitsOf (m.w 0) 63 56
def CacheHeld.part (m : CacheHeld) : Nat := bitsOf (m.w 0) 55 48
def CacheHeld.b (m : CacheHeld) : Nat := bitsOf (m.w 0) 47 32
def CacheHeld.seq (m : CacheHeld) : Nat := bitsOf (m.w 0) 31 0
def CacheHeld.tag (m : CacheHeld) : Nat := bitsOf (m.w 1) 63 48
def CacheHeld.rhnd (m : CacheHeld) : Nat := bitsOf (m.w 1) 47 0
def CacheHeld.via (m : CacheHeld) : Bool := (m.w 2).getLsbD 60
def CacheHeld.oseq (m : CacheHeld) : Nat := bitsOf (m.w 2) 59 28
def CacheHeld.status (m : CacheHeld) : Nat := bitsOf (m.w 2) 27 20
def CacheHeld.rcore (m : CacheHeld) : Nat := bitsOf (m.w 2) 19 0
/-- Words w0 and w2. -/
def cacheW0 (op part b seq : Nat) : Word := w64 (op * 2 ^ 56 + part * 2 ^ 48 + b * 2 ^ 32 + seq)
def CacheHeld.w2With (m : CacheHeld) (status : Nat) : Word := w64 (bitsOf (m.w 2) 60 28 * 2 ^ 28 + status * 2 ^ 20 + m.rcore)
/-- The seq that the origin addressed. -/
def CacheHeld.addressed (m : CacheHeld) : Nat := if m.via then m.oseq else m.seq
/-- A message as it goes on through an alias entry (R375). -/
def CacheHeld.through (m : CacheHeld) (tseq : Nat) : CacheHeld :=
  { m with ws := [cacheW0 m.op m.part m.b tseq, m.w 1,
                  w64 (2 ^ 60 + m.addressed * 2 ^ 28 + m.status * 2 ^ 20 + m.rcore)] ++ m.ws.drop 3 }
/-- The trap of the first of some sends that traps (R214, R215): n entries are in the send queue, of the depth given. -/
def State.sendsTrap (s : State) (depth : Nat) : Nat → List (Nat × Nat × List Word) → Option Trap
  | _, [] => none
  | n, m :: r =>
    match s.sendChk (w64 m.1) (w64 m.2.1) with
    | some t => some t
    | none => if depth ≤ n then some (tr cSendqFull (w64 (depth + n * 256))) else s.sendsTrap depth (n + 1) r
/-- Messages to a core and handler, with the launch of the message served: held entries of the handler (R214), so that none goes out when
one of them traps. -/
def State.sends (s : State) (c : Nat) (lix : Option Nat) (ms : List (Nat × Nat × List Word)) : Served :=
  let k := s.coreAt c
  match State.sendsTrap { s with core := c } k.sqDepth k.sqCount ms with
  | some t => .abort s t none
  | none =>
    .done (s.modCore c fun k => { k with sendq := k.sendq ++ ms.map fun m =>
      { held := false, ctx := 1000, dst := m.1, net := 0, lix := lix, tag := 0, pay := .prog m.2.1 m.2.2 } })
/-- An ACK: the status to the origin of a message (R374). -/
def State.ackTo (s : State) (c : Nat) (m : CacheHeld) (status : Nat) : Served :=
  let seq := if status = 4 then m.addressed else m.seq
  s.sends c m.lix [(m.rcore, m.rhnd, [cacheW0 0x04 0 m.b seq, m.w 1, m.w2With status])]
/-- Messages go on whole to another holder, under the launch of the handler that sends them, which is that of the message it serves (R213,
R218). -/
def State.passOn (s : State) (c : Nat) (d : Cd) (lix : Option Nat) (dst : Nat) (ms : List CacheHeld) : Served :=
  s.sends c lix (ms.map fun m => (dst, d.hnd, m.ws))
/-- Messages go on through a stub (R378); of a RELEASE the stub keeps note. -/
def State.stubOn (s : State) (c : Nat) (d : Cd) (lix : Option Nat) (dst : Nat) (ms : List CacheHeld) : Served :=
  let rs := ms.filter fun m => m.op == 6
  (s.passOn c d lix dst ms).bind fun s => .done (if rs.isEmpty then s else s.modCore c fun k => { k with passed := k.passed ++ rs })

/-- The handler of the request queue may start on this core (R218): none runs on it, and a context is free. -/
def State.mayServe (s : State) (c : Nat) : Bool :=
  let k := s.coreAt c
  !(k.frozen || k.lost || k.handling 0 || k.leader.isSome) && (s.freeCtxOf c).isSome
/-- A message of the request queue as the cache handler reads it. -/
def RMsg.cache (r : RMsg) : CacheHeld := { ws := r.ws, src := bitsOf r.hdr0 19 0, lix := r.lix }
/-- A message of the pending list as the head of the request queue to which an abort returns it (R220): it has no slot there (log 40). -/
def CacheHeld.back (m : CacheHeld) (hnd : Nat) : RMsg :=
  { line := 0, n := 0, hdr0 := msgHdr 0 m.ws.length 0 m.lix false m.src, hdr1 := w64 hnd, ws := m.ws, held := false, lix := m.lix }
/-- The request queue's head message, when the cache handler of this core may take it (R218). -/
def State.cacheHead (s : State) (c : Nat) : Option RMsg :=
  if s.mayServe c then ((s.coreAt c).queue 0).msgs.head?.filter fun r => !r.held else none
/-- The next message an operation may take: a message that an abort has returned from the pending list; else the oldest pending one whose
entry no longer moves; else the queue's head, which must name the cache handler; with the state that has lost it. -/
def State.nextCache (s : State) (c : Nat) (d : Cd) (op : Nat) : Option (RMsg × State) :=
  let moving (m : CacheHeld) : Bool := match s.lookupKey c d m.seq m.b with
    | some e => e.st == 2 || e.st == 6
    | none => false
  let k := s.coreAt c
  let head : Option (RMsg × State) := match s.cacheHead c with
    | some r => if r.hdr1.toNat = d.hnd ∧ r.cache.op = op then some (r, s.modCore c fun k => k.popMsg 0) else none
    | none => none
  if !s.mayServe c || ((k.queue 0).msgs.head?.any fun r => r.held && r.n == 0) then none
  else if (k.queue 0).msgs.head?.any fun r => r.n == 0 then head
  else
    match k.cacheHeld.findIdx? fun m => !moving m with
    | none => head
    | some i =>
      match k.cacheHeld[i]? with
      | none => none
      | some m => if m.op = op then some (m.back d.hnd, s.modCore c fun k => { k with cacheHeld := dropAt k.cacheHeld i }) else none
/-- Two messages are parts of one (R373). -/
def CacheHeld.sameTag (m n : CacheHeld) : Bool := m.op == n.op && m.b == n.b && m.seq == n.seq && m.w 1 == n.w 1 && m.w 2 == n.w 2
/-- The cache handler aborts (R220, R375): what it has stored stays, its message is the head of the queue, a free context has run it and
takes the trap, at an instruction of the handler that the spec does not give (log 40), and an error response is logged (R315). -/
def State.cacheAbort (s : State) (c : Nat) (r : RMsg) (t : Trap) (resp : Option Nat) : State :=
  match s.freeCtxOf c with
  | none => s
  | some x =>
    let pc := BitVec.ofNat 48 ((Config.freeWord s.free).toNat / 4 * 4)
    let s := { s with free := s.free + 1 }.modCore c fun k =>
      { k with rq := fset k.rq 0 { k.queue 0 with msgs := r :: (k.queue 0).msgs } }
    let s := s.beginHandler c 0 x r
    let s := match resp with
      | some n => s.logAt n t.code t.info.toNat (s.launchId r.lix) c
      | none => s
    s.enterTrap c x t pc 0 (pc + 4)
/-- Serve the next message of an operation whole, or abort. A part that is not the last is kept; f has the last one and all the
parts. The handler reads its descriptor first. -/
def State.serve (s : State) (c desc op : Nat) (f : Cd → CacheHeld → List CacheHeld → State → Served) : State :=
  let d := s.cacheDesc c desc
  match s.nextCache c d op with
  | none => s
  | some (r, t) =>
    let m := r.cache
    let ps := (t.coreAt c).cacheParts.filter m.sameTag
    let keep (s : State) (ps : List CacheHeld) : State :=
      if ps.isEmpty then s else s.modCore c fun k => { k with cacheParts := k.cacheParts ++ ps }
    let got := t.reading c [(desc, 32)] fun t =>
      if (op = 1 ∨ op = 3) ∧ m.part + 1 < d.parts then .done (keep t [m])
      else
        f d m (ps ++ [m]) (if ps.isEmpty then t else t.modCore c fun k => { k with cacheParts := k.cacheParts.filter fun x => !m.sameTag x })
    match got with
    | .done u => u
    | .abort u e resp =>
      let u := u.modCore c fun k => { k with cacheParts := k.cacheParts.filter fun x => !m.sameTag x }
      (keep u ps).cacheAbort c r e resp
/-- Look a key up, and go on with what the table holds for it. -/
def State.withKey (s : State) (c : Nat) (d : Cd) (m : CacheHeld) (f : Option CEnt → State → Served) : Served :=
  s.reading c (d.entries (s.probed c d m.seq m.b 256 (cacheKey m.seq m.b % 256))) fun s => f (s.lookupKey c d m.seq m.b) s
/-- A message for a key whose entry moves waits; one for a key that has moved goes on (R378); otherwise the home serves it. -/
def State.atHome (s : State) (c : Nat) (d : Cd) (m : CacheHeld) (ms : List CacheHeld) (own : Option CEnt → State → Served) :
    Served :=
  s.withKey c d m fun found s =>
    match found with
    | none => own none s
    | some e =>
      if e.st = 2 ∨ e.st = 6 then .done (s.modCore c fun k => { k with cacheHeld := k.cacheHeld ++ ms })
      else if e.st = 3 then s.stubOn c d m.lix e.nhome ms
      else own (some e) s
/-- The table entry in which a new key is put, if any (R372). -/
def State.withIx (s : State) (c : Nat) (d : Cd) (m : CacheHeld) (f : Option Nat → State → Served) : Served :=
  let k := cacheKey m.seq m.b
  let n := match s.insertIx c d m.seq m.b with
    | some ix => (ix + 256 - k % 256) % 256 + 1
    | none => 256
  s.reading c (d.entries ((List.range n).map fun i => (k + i) % 256)) fun s => f (s.insertIx c d m.seq m.b) s
/-- The entry and the block slot of a new block, if both are there (R374); the whole table tells which slots are free. -/
def State.withPlace (s : State) (c : Nat) (d : Cd) (m : CacheHeld) (f : Option (Nat × Nat) → State → Served) : Served :=
  s.withIx c d m fun ix s => s.reading c (d.entries (List.range 256)) fun s =>
    f (match ix, s.freeSlot c d with
      | some i, some j => some (i, j)
      | _, _ => none) s

/-! ### Blocks -/
/-- Offset of a block slot. -/
def Cd.slotOff (d : Cd) (j : Nat) : Nat := d.slots + j * d.sz
/-- The ranges of a slot that hold tokens 0 to t - 1: key rows, value rows, signatures. -/
def Cd.ranges (d : Cd) (t : Nat) : List (Nat × Nat) := [(0, t * d.row), (64 * d.row, t * d.row), (128 * d.row, 8 * t)]
/-- Segments of n bytes at a staging address, as the message's launch translates it on this core, or the trap. -/
def State.stageSegs (s : State) (c : Nat) (lix : Option Nat) (a : Acc) : Nat → Nat → Nat → Except (Trap × Option Nat) (List Seg)
  | 0, _, _ => .ok []
  | k + 1, va, n =>
    if n = 0 then .ok []
    else
      let m := Nat.min n (65536 - va % 65536)
      match s.physOf c lix false va m a with
      | .error e =>
        let t := if e = cUncorrectable then s.badEntry c va 4 0 (match lix with | some l => (s.launchAt l).root | none => 0) else va
        .error (tr e (w64 t), if e = cUncorrectable then some (respOf (pkgOf c * 2 ^ 52 + t)) else none)
      | .ok pa =>
        let ga := s.globalOf c pa
        if (if a = .rd then s.readDown c ga else s.gaDown c ga) then .error (tr cLinkDown (w64 va), some c)
        else
          match s.stageSegs c lix a k (va + m) (n - m) with
          | .error e => .error e
          | .ok r => .ok ({ va := va, ga := ga, n := m } :: r)
/-- Copy the ranges of a slot to the staging address: an abort when an address has no translation or a byte cannot be read. -/
def State.stageOut (s : State) (c : Nat) (d : Cd) (lix : Option Nat) (slot va : Nat) (rs : List (Nat × Nat)) : Served :=
  rs.foldl (fun (o : Served) r => o.bind fun s =>
    let off := d.slotOff slot + r.1
    let s := s.walkedAll c lix (va + r.1) r.2
    match s.stageSegs c lix .wr 64 (va + r.1) r.2, s.readAt (s.spAt c off) r.2 (0xFF0000000000 + off) with
    | .error e, _ => .abort s e.1 e.2
    | .ok _, (.error t, s) => .abort s t (some (respOf (s.spAt c off)))
    | .ok gs, (.ok bs, s) =>
      match s.badSegs gs with
      | some (t, ga) => .abort s t (some (respOf ga))
      | none => .done (s.pokeSegs gs bs)) (.done s)
/-- Copy the ranges of a slot from the staging address. -/
def State.stageIn (s : State) (c : Nat) (d : Cd) (lix : Option Nat) (slot va : Nat) (rs : List (Nat × Nat)) : Served :=
  rs.foldl (fun (o : Served) r => o.bind fun s =>
    let s := s.walkedAll c lix (va + r.1) r.2
    match s.stageSegs c lix .rd 64 (va + r.1) r.2 with
    | .error e => .abort s e.1 e.2
    | .ok gs =>
      match s.readSegs gs with
      | (.ok bs, s) => .done (s.spWrite c (d.slotOff slot + r.1) bs)
      | (.error (t, ga), s) => .abort s t (some (respOf ga))) (.done s)
/-- BF16 codes of the elements that parts carry from word at on, D of them. -/
def partElems (d : Cd) (at' : Nat) (ms : List CacheHeld) : List Nat :=
  let bs := ms.flatMap fun m => (List.range 12).flatMap fun i => leBytes 8 (m.w (at' + i)).toNat
  (List.range d.d).map fun i => ofLe ((bs.drop (2 * i)).take 2)

/-! ### What a home does (R375) -/
/-- The partial softmax state of a query over a block: a core whose accumulator 0 holds the row. -/
def blockState (d : Cd) (fill : Nat) (blk : List Byte) (sig : Nat) (radius sc : Nat) (q : List Nat) : Core :=
  let el (o : Nat) : Nat := ofLe ((blk.drop o).take 2)
  let live (c : Nat) : Bool :=
    decide (c < fill) && decide (popCount 64 ((ofLe ((blk.drop (128 * d.row + 8 * c)).take 8)) ^^^ sig) ≤ Nat.min radius 64)
  let score (c : Nat) : Nat :=
    ((List.range (groups d.d)).foldl (fun (a : Nat × Raise) g =>
      let ks := chunkIx g d.d
      domeChunk false false a.1 (ks.map fun k => bf16.value (q.getD k 0)) (ks.map fun k => bf16.value (el (c * d.row + 2 * k))) a.2)
      (0, {})).1
  (softRow 64 d.d 0 0 live score sc (fun c n => el ((64 + c) * d.row + 2 * n)) ({}, {})).1
/-- The parts of a PARTIAL (R373): max and den, then 48 elements of O. -/
def partialParts (d : Cd) (m : CacheHeld) (k : Core) : List (List Word) :=
  (List.range d.parts).map fun p =>
    let o (n : Nat) : Nat := if n < d.d then k.accGet 1 0 0 n else 0
    [cacheW0 0x02 p m.b m.addressed, m.w 1, m.w2With 0, w64 (k.maxOf 0 0 * 2 ^ 32 + k.denOf 0 0)] ++
      (List.range 24).map fun i => w64 (o (48 * p + 2 * i) + o (48 * p + 2 * i + 1) * 2 ^ 32)
/-- QUERY (R375): the rows and signatures of the block's tokens are read (R370). -/
def execQuery (core desc : Nat) (s : State) : Out :=
  .next (s.serve core desc 0x01 fun d m ms s => s.atHome core d m ms fun found s =>
    match found with
    | none => s.ackTo core m 4
    | some e =>
      if e.st = 5 then s.passOn core d m.lix e.thome (ms.map fun m => m.through e.tseq)
      else
        s.reading core ((d.ranges e.fill).map fun r => (d.slotOff e.slot + r.1, r.2)) fun s =>
          let blk := s.bytes (s.spAt core (d.slotOff e.slot)) d.sz
          let k := blockState d e.fill blk (m.w 3).toNat (bitsOf (m.w 4) 6 0) (bitsOf (m.w 4) 63 32) (partElems d 5 ms)
          s.sends core m.lix ((partialParts d m k).map fun ws => (m.rcore, m.rhnd, ws)))
/-- PARTIAL (R373): the merger keeps a part. -/
def execPartialMsg (core : Nat) (s : State) : Out :=
  .next (match s.cacheHead core with
    | none => s
    | some r =>
      let m := r.cache
      if m.op ≠ 0x02 then s
      else s.modCore core fun k =>
        let k := k.popMsg 0
        { k with parts := k.parts ++ [{ seq := m.seq, b := m.b, part := m.part, tag := m.tag, status := m.status, ws := m.ws }] })
/-- The row and signature of an APPEND are written, then the entry. -/
def State.putToken (s : State) (c : Nat) (d : Cd) (e : CEnt) (m : CacheHeld) (ms : List CacheHeld) : State :=
  let row (at' : Nat) : List Byte :=
    let bs := (partElems d at' ms).flatMap fun x => leBytes 2 x
    bs ++ List.replicate (d.row - bs.length) 0
  let o := d.slotOff e.slot
  let s := s.spWrite c (o + e.fill * d.row) (row 5)
  let s := s.spWrite c (o + (64 + e.fill) * d.row) (row 17)
  let s := s.spWrite c (o + 128 * d.row + 8 * e.fill) (leBytes 8 (m.w 4).toNat)
  s.putCent c d { e.withFill (e.fill + 1) with d1 := liveD1 m.rcore m.tag e.slot e.ref }
/-- APPEND (R375): a repeat is acknowledged again; a shared block, a wrong position or an absent key refuses. -/
def execAppend (core desc : Nat) (s : State) : Out :=
  .next (s.serve core desc 0x03 fun d m ms s => s.atHome core d m ms fun found s =>
    match found with
    | none =>
      if bitsOf (m.w 3) 15 0 ≠ 64 * m.b then s.ackTo core m 4
      else s.withPlace core d m fun at' s => match at' with
        | some (ix, j) => (s.putToken core d (CEnt.new ix 1 0 m.seq m.b (liveD1 0 0 j 1)) m ms).ackTo core m 0
        | none => s.ackTo core m 1
    | some e =>
      if e.st = 5 then s.ackTo core m 3
      else if e.lsrc = m.rcore ∧ e.ltag = m.tag then s.ackTo core m 0
      else if 1 < e.ref then s.ackTo core m 3
      else if bitsOf (m.w 3) 15 0 ≠ 64 * m.b + e.fill ∨ 64 ≤ e.fill then s.ackTo core m 2
      else (s.putToken core d e m ms).ackTo core m 0)
/-- ACK (R374, R378): an answer FULL or EXISTS to a rehome returns the entry to live or alias; any other answer is kept. -/
def execAck (core desc : Nat) (s : State) : Out :=
  let note (m : CacheHeld) (s : State) : State :=
    s.modCore core fun k => { k with acks := k.acks ++ [(m.seq * 65536 + m.b, m.tag, m.status)] }
  .next (match s.cacheHead core with
    | none => s
    | some r =>
      if r.cache.op ≠ 0x04 then s
      else if r.hdr1.toNat ≠ (s.cacheDesc core desc).hnd then note r.cache (s.modCore core fun k => k.popMsg 0)
      else s.serve core desc 0x04 fun d m _ s => s.withKey core d m fun found s =>
        match found with
        | some e =>
          if (m.status = 1 ∨ m.status = 5) ∧ (e.st = 2 ∨ e.st = 6) then
            .done (s.putCent core d (e.withSt (if e.st = 2 then 1 else 5)))
          else .done (note m s)
        | none => .done (note m s))
/-- SHARE (R375): the message goes into the send queue before ref changes, so that an abort leaves ref as it was (log 40). -/
def execShare (core desc : Nat) (s : State) : Out :=
  .next (s.serve core desc 0x05 fun d m ms s => s.atHome core d m ms fun found s =>
    match found with
    | none => s.ackTo core m 4
    | some e =>
      let t := bitsOf (m.w 4) 6 0
      let seq' := bitsOf (m.w 3) 31 0
      if e.st = 5 then s.passOn core d m.lix e.thome (ms.map fun m => m.through e.tseq)
      else if e.fill < t ∨ t = 0 then s.ackTo core m 2
      else
        s.reading core [(d.list + 4 * homeIx d.n seq' m.b, 4)] fun s =>
        let dst := s.keyHome core d seq' m.b
        if t = 64 then
          (s.sends core m.lix
            [(dst, d.hnd, [cacheW0 0x0A 0 m.b seq', m.w 1, w64 m.rcore, w64 (core * 2 ^ 32 + m.seq)])]).bind fun s =>
            .done (s.putCent core d (e.withRef (Nat.min (e.ref + 1) 0xFFFF)))
        else
          (s.stageOut core d m.lix e.slot (m.w 5).toNat (d.ranges t)).bind fun s =>
            s.sends core m.lix [(dst, d.hnd, [cacheW0 0x08 0 m.b seq', m.w 1, w64 m.rcore, m.w 5, w64 (2 ^ 32 + 2 ^ 16 + t)])])
/-- The stubs through which a RELEASE came to core c from core src (R378), n of them at most: deleted when the key's block is gone, and
their notes of it end. -/
def State.dropStubs (s : State) (d : Cd) (m : CacheHeld) (gone : Bool) (c src : Nat) : Nat → State
  | 0 => s
  | n + 1 =>
    match (s.coreAt src).passed.find? fun p => p.ws == m.ws with
    | none => s
    | some p =>
      let s := s.modCore src fun k => { k with passed := k.passed.erase p }
      let s := match s.lookupKey src d m.seq m.b with
        | some e => if gone && e.st == 3 && e.nhome == c then s.putCent src d (e.withSt 4) else s
        | none => s
      s.dropStubs d m gone src p.src n
/-- RELEASE (R375): ref falls by one; at 0 the entry is deleted and its slot free. An alias entry is deleted, and the message
goes on to the block it names. -/
def execRelease (core desc : Nat) (s : State) : Out :=
  .next (s.serve core desc 0x06 fun d m ms s => s.atHome core d m ms fun found s =>
    match found with
    | none => .done (s.dropStubs d m false core m.src 64)
    | some e =>
      if e.st = 5 then (s.passOn core d m.lix e.thome (ms.map fun m => m.through e.tseq)).bind fun s =>
        .done ((s.putCent core d (e.withSt 4)).dropStubs d m true core m.src 64)
      else if e.ref ≤ 1 then .done ((s.putCent core d ((e.withRef 0).withSt 4)).dropStubs d m true core m.src 64)
      else .done ((s.putCent core d (e.withRef (e.ref - 1))).dropStubs d m false core m.src 64))
/-- REHOME (R378), step 1: the entry moves, and INSTALL goes to the new home. -/
def execRehome (core desc : Nat) (s : State) : Out :=
  .next (s.serve core desc 0x07 fun d m ms s => s.atHome core d m ms fun found s =>
    match found with
    | none => s.ackTo core m 4
    | some e =>
      let dst := bitsOf (m.w 3) 19 0
      let w1 := w64 (m.tag * 2 ^ 48 + d.hnd)
      if e.st = 5 then
        (s.sends core m.lix
          [(dst, d.hnd, [cacheW0 0x08 0 m.b m.seq, w1, w64 core, w64 (e.thome * 2 ^ 32 + e.tseq), w64 (2 * 2 ^ 32 + 2 ^ 16)])]).bind
          fun s => .done (s.putCent core d (e.withSt 6))
      else
        (s.stageOut core d m.lix e.slot (m.w 4).toNat [(0, d.sz)]).bind fun s =>
          (s.sends core m.lix
            [(dst, d.hnd, [cacheW0 0x08 0 m.b m.seq, w1, w64 core, m.w 4, w64 (e.ref * 2 ^ 16 + e.fill)])]).bind fun s =>
            .done (s.putCent core d (e.withSt 2)))
/-- An answer INSTALLED to the old home. -/
def State.installedTo (s : State) (c : Nat) (m : CacheHeld) : Served :=
  s.sends c m.lix [(m.rcore, m.rhnd, [cacheW0 0x09 0 m.b m.seq, m.w 1, w64 c])]
/-- INSTALL (R375, R378): kind 0 and 2 answer INSTALLED to the old home, kind 1 answers the writer. -/
def execInstall (core desc : Nat) (s : State) : Out :=
  .next (s.serve core desc 0x08 fun d m ms s =>
    let kind := bitsOf (m.w 4) 33 32
    let fill := bitsOf (m.w 4) 6 0
    let ref := bitsOf (m.w 4) 31 16
    let va := (m.w 3).toNat
    let block (s : State) (rs : List (Nat × Nat)) (answer : State → Served) : Served :=
      s.withPlace core d m fun at' s => match at' with
        | none => s.ackTo core m 1
        | some (ix, j) => (s.stageIn core d m.lix j va rs).bind fun s => (answer s).bind fun s =>
            .done (s.putCent core d (CEnt.new ix 1 fill m.seq m.b (liveD1 0 0 j ref)))
    if kind = 1 then s.atHome core d m ms fun found s =>
      match found with
      | some _ => s.ackTo core m 5
      | none => block s (d.ranges fill) fun s => s.ackTo core m 0
    else s.withKey core d m fun found s =>
      match found with
      | some _ => s.ackTo core m 5
      | none =>
        if kind = 0 then block s [(0, d.sz)] fun s => s.installedTo core m
        else if kind = 2 then s.withIx core d m fun at' s => match at' with
          | some ix => (s.installedTo core m).bind fun s =>
            .done (s.putCent core d (CEnt.new ix 5 0 m.seq m.b (fld va 31 0 * 2 ^ 20 + fld va 51 32)))
          | none => s.ackTo core m 1
        else .done s)
/-- INSTALLED (R378), step 3: the messages held for the key go on, the entry becomes a stub and its slot is free. -/
def execInstalled (core desc : Nat) (s : State) : Out :=
  .next (s.serve core desc 0x09 fun d m _ s => s.withKey core d m fun found s =>
    match found with
    | none => .done s
    | some e =>
      if e.st = 2 ∨ e.st = 6 then
        let mine (x : CacheHeld) : Bool := x.seq == m.seq && x.b == m.b
        let held := (s.coreAt core).cacheHeld.filter mine
        (s.stubOn core d m.lix m.src held).bind fun s =>
          .done ((s.putCent core d { e.withSt 3 with d1 := m.src }).modCore core fun k =>
            { k with cacheHeld := k.cacheHeld.filter fun x => !mine x })
      else .done s)
/-- ALIAS (R375): an alias entry is created; a refusal gives back the reference that the SHARE added. -/
def execAliasMsg (core desc : Nat) (s : State) : Out :=
  .next (s.serve core desc 0x0A fun d m ms s => s.atHome core d m ms fun found s =>
    let tseq := bitsOf (m.w 3) 31 0
    let thome := bitsOf (m.w 3) 51 32
    let refuse (st : Nat) (s : State) : Served :=
      (s.ackTo core m st).bind fun s' =>
        match s'.sends core m.lix [(thome, d.hnd, [cacheW0 0x06 0 m.b tseq, m.w 1, m.w 2])] with
        | .done u => .done u
        | .abort _ t n => .abort s t n
    match found with
    | some _ => refuse 5 s
    | none => s.withIx core d m fun at' s => match at' with
      | none => refuse 1 s
      | some ix => (s.ackTo core m 0).bind fun s => .done (s.putCent core d (CEnt.new ix 5 0 m.seq m.b (tseq * 2 ^ 20 + thome))))

end Sys2Proof.Machine
end

