-- ==== Sys2Proof/Machine/Henud.lean ====
section
/-! DEFINITION. The Henud controller: boot, mailbox commands, islands (R412, R417 to R421). One controller stands for those of
the domain; results are little-endian, in the order each definition gives (log 41). -/

namespace Sys2Proof.Machine
open Sys2Proof

/-- The controller with a command's outcome: its tag, done or refused, and its result in the mailbox's area of 4 KiB (R419). -/
def State.answer (s : State) (tag : BitVec 32) (ok : Bool) (res : List Byte) : State :=
  { s with henud := { s.henud with mbTag := tag, mbOk := ok, mbResult := res.take 4096 } }
/-- A mailbox command, started by a write of the doorbell once firmware is up (R417, R419): the command doubleword holds its opcode, the
length of its argument and its tag; it runs whole, so that no doorbell is written while it runs; then MSI-X vector 1,024 is raised. -/
def State.command (s : State) (op len : Nat) (tag : BitVec 32) (f : State → State) : Out :=
  .next (if s.henud.booted then
      (f { s with henud := { s.henud with mbCmd := w64 (tag.toNat * 2 ^ 32 + len * 2 ^ 8 + op) } }).msixSend 1024
    else s)
/-- A host read of n bytes at an offset of the mailbox (R408, R419): the command doubleword, the status with the tag, the area; none
where the read completes with Unsupported Request (log 41), and while no firmware is up, when the link is held in reset (R417). -/
def State.mailboxRead (s : State) (off n : Nat) : Option Word :=
  if s.henud.booted = false ∨ n ≠ 8 ∨ off % 8 ≠ 0 then none
  else if off = 0 then some s.henud.mbCmd
  else if off = 8 then some 0
  else if off = 0x10 then some (w64 (s.henud.mbTag.toNat * 2 ^ 32 + s.henud.mbOk.toNat))
  else if 0x1000 ≤ off ∧ off < 0x2000 then some (w64 (ofLe ((s.henud.mbResult.drop (off - 0x1000)).take 8)))
  else none

/-- POWER_ON_BOOT (R417, R421): an image whose signature or digest fails, or whose header's version is below the rollback count, is
refused; at boot the spare rows and columns of the fuses are brought in and enter the spare map (log 52). An input whose version is not
the header's names no image and changes nothing (log 16). -/
def execPowerOnBoot (version : Nat) (header : BitVec 2048) (digestOk : Bool) (s : State) : Out :=
  .next (
    if s.henud.booted || version != Config.headerVersion header then s
    else
      let no (why : BootFail) : State := { s with henud := { s.henud with refused := some why } }
      if !Config.headerSigned header then no .signature
      else if !digestOk then no .digest
      else if version < s.henud.rollback then no .version
      else { s with henud := { s.henud with
        booted := true, refused := none, version := version, digest := Config.headerDigest header
        spareMap := s.henud.spareMap ++ Config.bootSpares } })

/-- What IDENT does (R418). -/
def State.ident (s : State) (tag : BitVec 32) : State := s.answer tag true Config.identityCertificate
/-- IDENT (R418). -/
def execIdent (tag : BitVec 32) (s : State) : Out := s.command 0x01 0 tag fun s => s.ident tag
/-- What ATTEST does (R418): nonce, firmware digest, version, rollback count, digest of spare map and route table, signature. -/
def State.attest (s : State) (tag : BitVec 32) (nonce : BitVec 256) : State :=
  let h := s.henud
  let md := Config.mapDigest h.spareMap h.routes
  s.answer tag true (leBytes 32 nonce.toNat ++ leBytes 32 h.digest.toNat ++ leBytes 8 h.version ++ leBytes 8 h.rollback ++
    leBytes 32 md.toNat ++ Config.attestSignature nonce h.digest h.version h.rollback md)
/-- ATTEST (R418). -/
def execAttest (tag : BitVec 32) (nonce : BitVec 256) (s : State) : Out := s.command 0x02 32 tag fun s => s.attest tag nonce

/-- The bytes of a log entry (R315). -/
def LogEnt.bytes (e : LogEnt) : List Byte :=
  leBytes 8 (e.code * 2 ^ 56 + e.info % 2 ^ 48) ++ leBytes 8 (e.launch % 2 ^ 32 * 2 ^ 32 + e.seq % 4096 * 2 ^ 20 + e.src % 2 ^ 20)
/-- A log: the number of its valley or plain, the lost count, the number of entries, the entries, oldest first. -/
def ErrLog.bytes (n : Nat) (l : ErrLog) : List Byte :=
  leBytes 4 n ++ leBytes 4 (l.lost % 2 ^ 32) ++ leBytes 4 l.ents.length ++ l.ents.flatMap LogEnt.bytes
/-- The log after it is cleared: the number of entries logged goes on (R315). -/
def ErrLog.clear (l : ErrLog) : ErrLog := { l with ents := [], lost := 0 }
/-- The read of the error logs (R315, R419): those of the valleys, the saddle rings and the controller; with the flag, they are cleared. -/
def State.readLogs (s : State) (tag : BitVec 32) (clear : Bool) : State :=
  let s' := s.answer tag true ((s.valleys.flatMap fun (e : Nat × Valley) => e.2.log.bytes e.1) ++
    (s.plains.flatMap fun (e : Nat × Plain) => e.2.log.bytes e.1) ++ s.henud.log.flatMap LogEnt.bytes)
  if clear then
    { s' with valleys := s.valleys.map fun (e : Nat × Valley) => (e.1, { e.2 with log := e.2.log.clear })
              plains := s.plains.map fun (e : Nat × Plain) => (e.1, { e.2 with log := e.2.log.clear })
              henud := { s'.henud with log := [] } }
  else s'
/-- Read the error logs (R315, R419). -/
def execReadErrorLogs (tag : BitVec 32) (clear : Bool) (s : State) : Out := s.command 0x10 8 tag fun s => s.readLogs tag clear

/-- A route crosses no third link on its way to its package (R387), as the tables stand. -/
def routeOk (rs : List (Nat × Nat × Nat × Nat)) (r : Nat × Nat × Nat × Nat) : Bool :=
  let next := Config.linkPeer r.1 r.2.2.1 r.2.2.2
  next == r.2.1 || match rs.find? fun q => q.1 == next && q.2.1 == r.2.1 with
    | some q => Config.linkPeer q.1 q.2.2.1 q.2.2.2 == r.2.1
    | none => true
/-- The numbers of a route are in range: packages, tower, link (R387, R396). -/
def routeRange (r : Nat × Nat × Nat × Nat) : Bool :=
  decide (r.1 < 64) && decide (r.2.1 < 64) && r.1 != r.2.1 && decide (r.2.2.1 < 2) && decide (r.2.2.2 < 8)
/-- One entry for each pair of packages. -/
def routesUnique : List (Nat × Nat × Nat × Nat) → Bool
  | [] => true
  | r :: rs => !(rs.any fun q => q.1 == r.1 && q.2.1 == r.2.1) && routesUnique rs
/-- The route tables once the tables of the packages that some routes name are written: those of other packages stay (R387). -/
def mergeRoutes (old routes : List (Nat × Nat × Nat × Nat)) : List (Nat × Nat × Nat × Nat) :=
  (old.filter fun r => !(routes.any fun q => q.1 == r.1)) ++ routes
/-- The write of a package's route table (R387, R419): it is refused when with it a route would cross three links. -/
def State.setRoutes (s : State) (tag : BitVec 32) (routes : List (Nat × Nat × Nat × Nat)) : State :=
  let rs := mergeRoutes s.henud.routes routes
  if routes.all routeRange && routesUnique routes && rs.all (routeOk rs) then
    State.answer { s with henud := { s.henud with routes := rs } } tag true []
  else s.answer tag false []
/-- Write a route table (R387, R419). -/
def execWriteRouteTable (tag : BitVec 32) (routes : List (Nat × Nat × Nat × Nat)) (s : State) : Out :=
  s.command 0x11 (8 * routes.length) tag fun s => s.setRoutes tag routes

/-- A system strand starts on a core at a pc (R346, R419); refused when the core has no free context. -/
def State.startSystem (s : State) (tag : BitVec 32) (core : Nat) (pc : BitVec 48) : State :=
  if s.away core || (s.coreAt core).frozen || (s.coreAt core).leader.isSome then s.answer tag false []
  else
    match s.freeCtxOf core with
    | none => s.answer tag false []
    | some x => (s.setStrand core x { life := .ready, sys := true, pc := pc, since := s.tick }).answer tag true []
/-- Start a system strand (R346, R419). -/
def execStartSystemStrand (tag : BitVec 32) (core : Nat) (pc : BitVec 48) (s : State) : Out :=
  s.command 0x12 16 tag fun s => s.startSystem tag core pc

/-- The read of the seq values of a queue's taken entries without a record (R412): in the order in which they were taken, which ascends modulo
2^32. -/
def State.readPending (s : State) (tag : BitVec 32) (q : Nat) : State :=
  s.answer tag true ((s.queueAt q).taken.flatMap fun t => leBytes 4 t.seq.toNat)
/-- Read the pending seq values of a queue (R412, R419). -/
def execReadPendingSeq (tag : BitVec 32) (q : Nat) (s : State) : Out := s.command 0x13 8 tag fun s => s.readPending tag q

/-- An island holds an admitted core (R329, R420). -/
def State.admitsIn (s : State) (island : Nat) : Bool :=
  s.launches.any fun e => (e.2.st == .placed || e.2.st == .ended) && e.2.cores.any fun c => s.islandOf c == island
/-- The state of an island. -/
def State.island (s : State) (i : Nat) : Nat := fget 8 s.henud.islands i
def State.setIsland (s : State) (i v : Nat) : State :=
  { s with henud := { s.henud with islands := fsetD 8 s.henud.islands i v } }
/-- The states of a package's 28 islands are read, or one is set (R420): off only while it holds no admitted core. -/
def State.islandCmd (s : State) (tag : BitVec 32) (set : Bool) (island state : Nat) : State :=
  if !set then s.answer tag true ((List.range 28).map fun i => BitVec.ofNat 8 (s.island (island / 32 * 32 + i)))
  else if state = 2 ∨ state = 3 ∨ 8 < state ∨ (state = 0 ∧ s.admitsIn island = true) then s.answer tag false []
  else (s.setIsland island state).answer tag true []
/-- Read or set island states (R419, R420). -/
def execIslandStates (tag : BitVec 32) (set : Bool) (island state : Nat) (s : State) : Out :=
  s.command 0x20 16 tag fun s => s.islandCmd tag set island state

/-- The read of the spare map and the corrected-error counts (R313, R419, R421): 16 bytes an entry, then 16 bytes a valley. -/
def State.readSpares (s : State) (tag : BitVec 32) : State :=
  s.answer tag true ((s.henud.spareMap.flatMap fun (e : Nat × Nat) => leBytes 8 e.1 ++ leBytes 8 e.2) ++
    s.valleys.flatMap fun (e : Nat × Valley) => leBytes 8 e.1 ++ leBytes 8 e.2.corr)
/-- Read the spare map and the corrected-error counts (R419). -/
def execReadSpareMap (tag : BitVec 32) (s : State) : Out := s.command 0x21 0 tag fun s => s.readSpares tag

/-! ### Writes of BAR 0: the mailbox and the queue registers (R408, R410, R419) -/
/-- Routes of an argument area: 8 bytes each (log 41). -/
def routesOf (bs : List Byte) : Nat → List (Nat × Nat × Nat × Nat)
  | 0 => []
  | n + 1 =>
    let b (i : Nat) : Nat := (bs.getD i 0).toNat
    (b 0, b 1, b 2, b 3) :: routesOf (bs.drop 8) n
/-- The command that the mailbox's doubleword names runs, with the arguments that stand in the area (R419; their forms are log 41); one
with an opcode that no command has is refused. -/
def State.runCommand (s : State) : State :=
  let w := s.henud.mbCmd
  let tag := w.extractLsb' 32 32
  let a := s.henud.mbResult.take (bitsOf w 23 8)
  let arg (i : Nat) : Nat := ofLe ((a.drop (8 * i)).take 8)
  match bitsOf w 7 0 with
  | 0x01 => s.ident tag
  | 0x02 => s.attest tag (BitVec.ofNat 256 (ofLe (a.take 32)))
  | 0x10 => s.readLogs tag (arg 0 % 2 == 1)
  | 0x11 => s.setRoutes tag (routesOf a (a.length / 8))
  | 0x12 => s.startSystem tag (arg 0) (BitVec.ofNat 48 (arg 1))
  | 0x13 => s.readPending tag (arg 0)
  | 0x20 => s.islandCmd tag (arg 0 / 2 ^ 32 % 2 == 1) (arg 0 % 2 ^ 32) (arg 1)
  | 0x21 => s.readSpares tag
  | _ => s.answer tag false []
/-- A host write of a doubleword at an offset of the mailbox (R419): the command, the doorbell, the argument area; any other offset is read
only. -/
def State.mailboxWrite (s : State) (off : Nat) (v : BitVec 64) : State :=
  if off = 0 then { s with henud := { s.henud with mbCmd := v } }
  else if off = 8 then s.runCommand.msixSend 1024
  else if 0x1000 ≤ off ∧ off < 0x2000 ∧ off % 8 = 0 then
    let o := off - 0x1000
    let b := s.henud.mbResult ++ List.replicate (o - s.henud.mbResult.length) 0
    { s with henud := { s.henud with mbResult := b.take o ++ leBytes 8 v.toNat ++ b.drop (o + 8) } }
  else s
/-- HOST_REGISTER_WRITE (R408, R410, R419): a write of BAR 0, at an offset of queue q's registers, or, from 0x10000 on, at an offset of the
mailbox (log 48). ring and cring are discarded with err while the queue is enabled, and a reserved ring size is not taken; cprod and pend
are read only; of cons only err is written. Records that no longer find their ring full are written (R414). -/
def execHostRegisterWrite (q off : Nat) (v : BitVec 64) (s : State) : Out :=
  .next (
    if !s.henud.booted then s
    else if 0x10000 ≤ off then s.mailboxWrite (off - 0x10000) v
    else
      (s.modQueue q fun h =>
        match off with
        | 0x00 =>
          if h.en then { h with err := true }
          else { h with base := v.extractLsb' 12 52, lsz := if 12 < bitsOf v 3 0 then h.lsz else v.extractLsb' 0 4 }
        | 0x08 => if h.en then { h with err := true } else { h with cbase := v.extractLsb' 12 52 }
        | 0x20 => if v.getLsbD 61 then { h with err := false } else h
        | _ => h).drainRecs q 257)

/-- Power and temperature limits lower an island's step (R420): an island that is on, to a lower step. -/
def execPowerThrottle (island step : Nat) (s : State) : Out :=
  .next (if 4 ≤ s.island island ∧ step < s.island island ∧ 4 ≤ step then s.setIsland island step else s)

end Sys2Proof.Machine
end

