-- ==== Sys2Proof/Machine/Dispatch.lean ====
section
/-! DEFINITION. Every constructor of Instr to its meaning. -/

namespace Sys2Proof.Machine
open Sys2Proof

def exec (i : Instr) (s : State) : Host.Outcome State Fault Refusal :=
  match i with
  | .add rd ra rb => Sys2Proof.Machine.execAdd rd ra rb s
  | .sub rd ra rb => Sys2Proof.Machine.execSub rd ra rb s
  | .and rd ra rb => Sys2Proof.Machine.execAnd rd ra rb s
  | .or rd ra rb => Sys2Proof.Machine.execOr rd ra rb s
  | .xor rd ra rb => Sys2Proof.Machine.execXor rd ra rb s
  | .andn rd ra rb => Sys2Proof.Machine.execAndn rd ra rb s
  | .orn rd ra rb => Sys2Proof.Machine.execOrn rd ra rb s
  | .sll rd ra rb => Sys2Proof.Machine.execSll rd ra rb s
  | .srl rd ra rb => Sys2Proof.Machine.execSrl rd ra rb s
  | .sra rd ra rb => Sys2Proof.Machine.execSra rd ra rb s
  | .rol rd ra rb => Sys2Proof.Machine.execRol rd ra rb s
  | .ror rd ra rb => Sys2Proof.Machine.execRor rd ra rb s
  | .slli rd ra sh => Sys2Proof.Machine.execSlli rd ra sh s
  | .srli rd ra sh => Sys2Proof.Machine.execSrli rd ra sh s
  | .srai rd ra sh => Sys2Proof.Machine.execSrai rd ra sh s
  | .rori rd ra sh => Sys2Proof.Machine.execRori rd ra sh s
  | .slt rd ra rb => Sys2Proof.Machine.execSlt rd ra rb s
  | .sltu rd ra rb => Sys2Proof.Machine.execSltu rd ra rb s
  | .seq rd ra rb => Sys2Proof.Machine.execSeq rd ra rb s
  | .min rd ra rb => Sys2Proof.Machine.execMin rd ra rb s
  | .max rd ra rb => Sys2Proof.Machine.execMax rd ra rb s
  | .minu rd ra rb => Sys2Proof.Machine.execMinu rd ra rb s
  | .maxu rd ra rb => Sys2Proof.Machine.execMaxu rd ra rb s
  | .clz rd ra => Sys2Proof.Machine.execClz rd ra s
  | .ctz rd ra => Sys2Proof.Machine.execCtz rd ra s
  | .pop rd ra => Sys2Proof.Machine.execPop rd ra s
  | .sadd rd ra rb sc => Sys2Proof.Machine.execSadd rd ra rb sc s
  | .bfx rd ra pos lm1 => Sys2Proof.Machine.execBfx rd ra pos lm1 s
  | .bfxu rd ra pos lm1 => Sys2Proof.Machine.execBfxu rd ra pos lm1 s
  | .bfi rd ra pos lm1 => Sys2Proof.Machine.execBfi rd ra pos lm1 s
  | .addi rd ra imm => Sys2Proof.Machine.execAddi rd ra imm s
  | .andi rd ra imm => Sys2Proof.Machine.execAndi rd ra imm s
  | .ori rd ra imm => Sys2Proof.Machine.execOri rd ra imm s
  | .xori rd ra imm => Sys2Proof.Machine.execXori rd ra imm s
  | .slti rd ra imm => Sys2Proof.Machine.execSlti rd ra imm s
  | .sltiu rd ra imm => Sys2Proof.Machine.execSltiu rd ra imm s
  | .lui rd imm => Sys2Proof.Machine.execLui rd imm s
  | .apc rd imm => Sys2Proof.Machine.execApc rd imm s
  | .beq ra rb off => Sys2Proof.Machine.execBeq ra rb off s
  | .bne ra rb off => Sys2Proof.Machine.execBne ra rb off s
  | .blt ra rb off => Sys2Proof.Machine.execBlt ra rb off s
  | .bge ra rb off => Sys2Proof.Machine.execBge ra rb off s
  | .bltu ra rb off => Sys2Proof.Machine.execBltu ra rb off s
  | .bgeu ra rb off => Sys2Proof.Machine.execBgeu ra rb off s
  | .dbnz ra off => Sys2Proof.Machine.execDbnz ra off s
  | .jal rd off => Sys2Proof.Machine.execJal rd off s
  | .jalr rd ra imm => Sys2Proof.Machine.execJalr rd ra imm s
  | .mul la rd ra rb => Sys2Proof.Machine.execMul la rd ra rb s
  | .mulh la rd ra rb => Sys2Proof.Machine.execMulh la rd ra rb s
  | .mulhu la rd ra rb => Sys2Proof.Machine.execMulhu la rd ra rb s
  | .mulhsu la rd ra rb => Sys2Proof.Machine.execMulhsu la rd ra rb s
  | .div la rd ra rb => Sys2Proof.Machine.execDiv la rd ra rb s
  | .divu la rd ra rb => Sys2Proof.Machine.execDivu la rd ra rb s
  | .rem la rd ra rb => Sys2Proof.Machine.execRem la rd ra rb s
  | .remu la rd ra rb => Sys2Proof.Machine.execRemu la rd ra rb s
  | .madd la rd ra rb rc => Sys2Proof.Machine.execMadd la rd ra rb rc s
  | .fadd la rd ra rb fs => Sys2Proof.Machine.execFadd la rd ra rb fs s
  | .fsub la rd ra rb fs => Sys2Proof.Machine.execFsub la rd ra rb fs s
  | .fmul la rd ra rb fs => Sys2Proof.Machine.execFmul la rd ra rb fs s
  | .fdiv la rd ra rb fs => Sys2Proof.Machine.execFdiv la rd ra rb fs s
  | .fsqrt la rd ra fs => Sys2Proof.Machine.execFsqrt la rd ra fs s
  | .fmin la rd ra rb fs => Sys2Proof.Machine.execFmin la rd ra rb fs s
  | .fmax la rd ra rb fs => Sys2Proof.Machine.execFmax la rd ra rb fs s
  | .fma la rd ra rb rc fs => Sys2Proof.Machine.execFma la rd ra rb rc fs s
  | .feq la rd ra rb fs => Sys2Proof.Machine.execFeq la rd ra rb fs s
  | .flt la rd ra rb fs => Sys2Proof.Machine.execFlt la rd ra rb fs s
  | .fle la rd ra rb fs => Sys2Proof.Machine.execFle la rd ra rb fs s
  | .fcvti la rd ra u width fs => Sys2Proof.Machine.execFcvti la rd ra u width fs s
  | .fcvtf la rd ra u width fs => Sys2Proof.Machine.execFcvtf la rd ra u width fs s
  | .fcvt la rd ra src fs => Sys2Proof.Machine.execFcvt la rd ra src fs s
  | .fsgnj la rd ra rb sj fs => Sys2Proof.Machine.execFsgnj la rd ra rb sj fs s
  | .fclass la rd ra fs => Sys2Proof.Machine.execFclass la rd ra fs s
  | .ldb la rd ra off => Sys2Proof.Machine.execLdb la rd ra off s
  | .ldbu la rd ra off => Sys2Proof.Machine.execLdbu la rd ra off s
  | .ldh la rd ra off => Sys2Proof.Machine.execLdh la rd ra off s
  | .ldhu la rd ra off => Sys2Proof.Machine.execLdhu la rd ra off s
  | .ldw la rd ra off => Sys2Proof.Machine.execLdw la rd ra off s
  | .ldwu la rd ra off => Sys2Proof.Machine.execLdwu la rd ra off s
  | .ldd la rd ra off => Sys2Proof.Machine.execLdd la rd ra off s
  | .stb la rd ra off => Sys2Proof.Machine.execStb la rd ra off s
  | .sth la rd ra off => Sys2Proof.Machine.execSth la rd ra off s
  | .stw la rd ra off => Sys2Proof.Machine.execStw la rd ra off s
  | .std la rd ra off => Sys2Proof.Machine.execStd la rd ra off s
  | .migrationArrival k => Sys2Proof.Machine.execMigrationArrival k s
  | .nop => Sys2Proof.Machine.execNop s
  | .crr rd cr => Sys2Proof.Machine.execCrr rd cr s
  | .crw rd ra cr => Sys2Proof.Machine.execCrw rd ra cr s
  | .crs rd ra cr => Sys2Proof.Machine.execCrs rd ra cr s
  | .crc rd ra cr => Sys2Proof.Machine.execCrc rd ra cr s
  | .svc code => Sys2Proof.Machine.execSvc code s
  | .trap code => Sys2Proof.Machine.execTrap code s
  | .tret => Sys2Proof.Machine.execTret s
  | .brk code => Sys2Proof.Machine.execBrk code s
  | .await => Sys2Proof.Machine.execAwait s
  | .pin => Sys2Proof.Machine.execPin s
  | .unpin => Sys2Proof.Machine.execUnpin s
  | .awaitWake core ctx => Sys2Proof.Machine.execAwaitWake core ctx s
  | .ptrset la vd vs1 vs2 => Sys2Proof.Machine.execPtrset la vd vs1 vs2 s
  | .ptrdim la vd vs1 => Sys2Proof.Machine.execPtrdim la vd vs1 s
  | .ptrget la vd vs1 vs2 => Sys2Proof.Machine.execPtrget la vd vs1 vs2 s
  | .vadd la vd vs1 vs2 pm => Sys2Proof.Machine.execVadd la vd vs1 vs2 pm s
  | .vsub la vd vs1 vs2 pm => Sys2Proof.Machine.execVsub la vd vs1 vs2 pm s
  | .vmul la vd vs1 vs2 pm => Sys2Proof.Machine.execVmul la vd vs1 vs2 pm s
  | .vmin la vd vs1 vs2 pm => Sys2Proof.Machine.execVmin la vd vs1 vs2 pm s
  | .vmax la vd vs1 vs2 pm => Sys2Proof.Machine.execVmax la vd vs1 vs2 pm s
  | .vabs la vd vs1 pm => Sys2Proof.Machine.execVabs la vd vs1 pm s
  | .vneg la vd vs1 pm => Sys2Proof.Machine.execVneg la vd vs1 pm s
  | .vand la vd vs1 vs2 pm => Sys2Proof.Machine.execVand la vd vs1 vs2 pm s
  | .vor la vd vs1 vs2 pm => Sys2Proof.Machine.execVor la vd vs1 vs2 pm s
  | .vxor la vd vs1 vs2 pm => Sys2Proof.Machine.execVxor la vd vs1 vs2 pm s
  | .vshl la vd vs1 vs2 pm => Sys2Proof.Machine.execVshl la vd vs1 vs2 pm s
  | .vshr la vd vs1 vs2 pm => Sys2Proof.Machine.execVshr la vd vs1 vs2 pm s
  | .vfma la vd vs1 vs2 pm => Sys2Proof.Machine.execVfma la vd vs1 vs2 pm s
  | .vsel la vd vs1 vs2 pm => Sys2Proof.Machine.execVsel la vd vs1 vs2 pm s
  | .vcmpEq la vd vs1 vs2 pm => Sys2Proof.Machine.execVcmpEq la vd vs1 vs2 pm s
  | .vcmpNe la vd vs1 vs2 pm => Sys2Proof.Machine.execVcmpNe la vd vs1 vs2 pm s
  | .vcmpLt la vd vs1 vs2 pm => Sys2Proof.Machine.execVcmpLt la vd vs1 vs2 pm s
  | .vcmpLe la vd vs1 vs2 pm => Sys2Proof.Machine.execVcmpLe la vd vs1 vs2 pm s
  | .vperm la vd vs1 vs2 pm => Sys2Proof.Machine.execVperm la vd vs1 vs2 pm s
  | .vbcast la vd vs1 pm => Sys2Proof.Machine.execVbcast la vd vs1 pm s
  | .vcvt la vd vs1 vs2 pm => Sys2Proof.Machine.execVcvt la vd vs1 vs2 pm s
  | .vcvtS la vd vs1 quant sreg pm => Sys2Proof.Machine.execVcvtS la vd vs1 quant sreg pm s
  | .vpack la vd vs1 => Sys2Proof.Machine.execVpack la vd vs1 s
  | .vunpack la vd vs1 => Sys2Proof.Machine.execVunpack la vd vs1 s
  | .vdot la vs1 vs2 pm => Sys2Proof.Machine.execVdot la vs1 vs2 pm s
  | .vdotS la vd vs1 vs2 pm => Sys2Proof.Machine.execVdotS la vd vs1 vs2 pm s
  | .vsum la vs1 pm => Sys2Proof.Machine.execVsum la vs1 pm s
  | .vredMax la vs1 pm => Sys2Proof.Machine.execVredMax la vs1 pm s
  | .vredMin la vs1 pm => Sys2Proof.Machine.execVredMin la vs1 pm s
  | .vaccClr la vs1 => Sys2Proof.Machine.execVaccClr la vs1 s
  | .vaccSt la vd pm => Sys2Proof.Machine.execVaccSt la vd pm s
  | .vaccRd la vd vs1 vs2 => Sys2Proof.Machine.execVaccRd la vd vs1 vs2 s
  | .vexp2 la vd vs1 pm => Sys2Proof.Machine.execVexp2 la vd vs1 pm s
  | .vrcp la vd vs1 pm => Sys2Proof.Machine.execVrcp la vd vs1 pm s
  | .vrsqrt la vd vs1 pm => Sys2Proof.Machine.execVrsqrt la vd vs1 pm s
  | .vgath la vd vs1 vs2 pm => Sys2Proof.Machine.execVgath la vd vs1 vs2 pm s
  | .vscat la vd vs1 vs2 pm => Sys2Proof.Machine.execVscat la vd vs1 vs2 pm s
  | .vcprs la vd vs1 vs2 pm => Sys2Proof.Machine.execVcprs la vd vs1 vs2 pm s
  | .vhamf la vd vs1 vs2 pm => Sys2Proof.Machine.execVhamf la vd vs1 vs2 pm s
  | .tcfg ga => Sys2Proof.Machine.execTcfg ga s
  | .tcfgD ga => Sys2Proof.Machine.execTcfgD ga s
  | .mzero la m => Sys2Proof.Machine.execMzero la m s
  | .mwait => Sys2Proof.Machine.execMwait s
  | .mexc la ga clr => Sys2Proof.Machine.execMexc la ga clr s
  | .mscale la m p ga row => Sys2Proof.Machine.execMscale la m p ga row s
  | .mma la m p ga gb neg nacc fb scl => Sys2Proof.Machine.execMma la m p ga gb neg nacc fb scl s
  | .mmaCo la m p ga gb neg nacc fb scl => Sys2Proof.Machine.execMmaCo la m p ga gb neg nacc fb scl s
  | .mmi la m p ga gb lr nacc cm => Sys2Proof.Machine.execMmi la m p ga gb lr nacc cm s
  | .mmt la m p ga gb lr nacc cm => Sys2Proof.Machine.execMmt la m p ga gb lr nacc cm s
  | .msig la m p fb => Sys2Proof.Machine.execMsig la m p fb s
  | .mldb la p lr dst => Sys2Proof.Machine.execMldb la p lr dst s
  | .mrd la m p fmt => Sys2Proof.Machine.execMrd la m p fmt s
  | .mwr la m p fmt => Sys2Proof.Machine.execMwr la m p fmt s
  | .mdrain la m ga clr => Sys2Proof.Machine.execMdrain la m ga clr s
  | .mdrainAdd la m ga clr => Sys2Proof.Machine.execMdrainAdd la m ga clr s
  | .mmov la m src => Sys2Proof.Machine.execMmov la m src s
  | .mrowRd la m p den => Sys2Proof.Machine.execMrowRd la m p den s
  | .mrowWr la m p den => Sys2Proof.Machine.execMrowWr la m p den s
  | .msmx la m p ga src fb mk => Sys2Proof.Machine.execMsmx la m p ga src fb mk s
  | .mmrg la m other => Sys2Proof.Machine.execMmrg la m other s
  | .mfin la m => Sys2Proof.Machine.execMfin la m s
  | .macroStepCommit core => Sys2Proof.Machine.execMacroStepCommit core s
  | .cooperativeRowArrival k => Sys2Proof.Machine.execCooperativeRowArrival k s
  | .longLatencyComplete core unit => Sys2Proof.Machine.execLongLatencyComplete core unit s
  | .send la w ra rb rc => Sys2Proof.Machine.execSend la w ra rb rc s
  | .sendl la rd ra rb rc => Sys2Proof.Machine.execSendl la rd ra rb rc s
  | .reply la w rb rc => Sys2Proof.Machine.execReply la w rb rc s
  | .hret => Sys2Proof.Machine.execHret s
  | .mpoll la rd ra q => Sys2Proof.Machine.execMpoll la rd ra q s
  | .rsend la det op ra rb rc => Sys2Proof.Machine.execRsend la det op ra rb rc s
  | .sendQueueAccept core => Sys2Proof.Machine.execSendQueueAccept core s
  | .messageDelivery k => Sys2Proof.Machine.execMessageDelivery k s
  | .handlerStart core q ctx => Sys2Proof.Machine.execHandlerStart core q ctx s
  | .reductionPacketMerge j k => Sys2Proof.Machine.execReductionPacketMerge j k s
  | .barInit la ra n => Sys2Proof.Machine.execBarInit la ra n s
  | .barArr la rd ra n => Sys2Proof.Machine.execBarArr la rd ra n s
  | .barExp la ra n => Sys2Proof.Machine.execBarExp la ra n s
  | .barWait ra n => Sys2Proof.Machine.execBarWait ra n s
  | .barTest la rd n => Sys2Proof.Machine.execBarTest la rd n s
  | .barFlags la rd n => Sys2Proof.Machine.execBarFlags la rd n s
  | .remoteBarrierArrival k => Sys2Proof.Machine.execRemoteBarrierArrival k s
  | .ecSet la ra n => Sys2Proof.Machine.execEcSet la ra n s
  | .ecInc la ra n => Sys2Proof.Machine.execEcInc la ra n s
  | .ecArm la rd ra n => Sys2Proof.Machine.execEcArm la rd ra n s
  | .ecRd la rd n => Sys2Proof.Machine.execEcRd la rd n s
  | .semPost la ra n => Sys2Proof.Machine.execSemPost la ra n s
  | .semTake la ra n => Sys2Proof.Machine.execSemTake la ra n s
  | .fence n => Sys2Proof.Machine.execFence n s
  | .atom la rd ra rb op => Sys2Proof.Machine.execAtom la rd ra rb op s
  | .atomRet la rd ra rb op => Sys2Proof.Machine.execAtomRet la rd ra rb op s
  | .atomicApply k => Sys2Proof.Machine.execAtomicApply k s
  | .atomicReply k => Sys2Proof.Machine.execAtomicReply k s
  | .replyAck k => Sys2Proof.Machine.execReplyAck k s
  | .replyTimeout core tag => Sys2Proof.Machine.execReplyTimeout core tag s
  | .acq rd ra => Sys2Proof.Machine.execAcq rd ra s
  | .rel ra rb => Sys2Proof.Machine.execRel ra rb s
  | .lockRequest k => Sys2Proof.Machine.execLockRequest k s
  | .lockRelease k => Sys2Proof.Machine.execLockRelease k s
  | .lockGrant k => Sys2Proof.Machine.execLockGrant k s
  | .lockReleaseAck k => Sys2Proof.Machine.execLockReleaseAck k s
  | .bind la ra rb rc => Sys2Proof.Machine.execBind la ra rb rc s
  | .unbind la ra => Sys2Proof.Machine.execUnbind la ra s
  | .copy la rd ra rb rc => Sys2Proof.Machine.execCopy la rd ra rb rc s
  | .copyPerform core => Sys2Proof.Machine.execCopyPerform core s
  | .collCfg la rd ra rb => Sys2Proof.Machine.execCollCfg la rd ra rb s
  | .collRdy la ra rb => Sys2Proof.Machine.execCollRdy la ra rb s
  | .strmOpen la ra => Sys2Proof.Machine.execStrmOpen la ra s
  | .strmClose la ra => Sys2Proof.Machine.execStrmClose la ra s
  | .itreq la ra slot => Sys2Proof.Machine.execItreq la ra slot s
  | .itreqX la ra rb slot => Sys2Proof.Machine.execItreqX la ra rb slot s
  | .ithold la rd ra slot => Sys2Proof.Machine.execIthold la rd ra slot s
  | .itrel la slot => Sys2Proof.Machine.execItrel la slot s
  | .itstat la rd slot => Sys2Proof.Machine.execItstat la rd slot s
  | .itland la ra slot => Sys2Proof.Machine.execItland la ra slot s
  | .bdeal la rd ra rb => Sys2Proof.Machine.execBdeal la rd ra rb s
  | .bdpat la ra rb => Sys2Proof.Machine.execBdpat la ra rb s
  | .combiningNodeArrival core k => Sys2Proof.Machine.execCombiningNodeArrival core k s
  | .combiningHoldExpiry valley => Sys2Proof.Machine.execCombiningHoldExpiry valley s
  | .tileRequest k => Sys2Proof.Machine.execTileRequest k s
  | .tileAnswer k => Sys2Proof.Machine.execTileAnswer k s
  | .tileFillStart k => Sys2Proof.Machine.execTileFillStart k s
  | .tileArrived k => Sys2Proof.Machine.execTileArrived k s
  | .holdTimerExpiry spire slot => Sys2Proof.Machine.execHoldTimerExpiry spire slot s
  | .slotForwardDone spire slot => Sys2Proof.Machine.execSlotForwardDone spire slot s
  | .landingPerform core => Sys2Proof.Machine.execLandingPerform core s
  | .itlandPerform core => Sys2Proof.Machine.execItlandPerform core s
  | .drainPerform core => Sys2Proof.Machine.execDrainPerform core s
  | .dealPerform core => Sys2Proof.Machine.execDealPerform core s
  | .forwardingRedirect k => Sys2Proof.Machine.execForwardingRedirect k s
  | .spawn la ra x => Sys2Proof.Machine.execSpawn la ra x s
  | .spawnR la ra rb x => Sys2Proof.Machine.execSpawnR la ra rb x s
  | .yield => Sys2Proof.Machine.execYield s
  | .halt ra rt => Sys2Proof.Machine.execHalt ra rt s
  | .trig la => Sys2Proof.Machine.execTrig la s
  | .awaitEv ra rb => Sys2Proof.Machine.execAwaitEv ra rb s
  | .cmp ra => Sys2Proof.Machine.execCmp ra s
  | .dcmp => Sys2Proof.Machine.execDcmp s
  | .proxyBatchForward plain target => Sys2Proof.Machine.execProxyBatchForward plain target s
  | .taskStart core ctx => Sys2Proof.Machine.execTaskStart core ctx s
  | .stealIdleDetect core => Sys2Proof.Machine.execStealIdleDetect core s
  | .stealRequest k => Sys2Proof.Machine.execStealRequest k s
  | .stealRecordArrival k ctx => Sys2Proof.Machine.execStealRecordArrival k ctx s
  | .stealRefusalArrival k => Sys2Proof.Machine.execStealRefusalArrival k s
  | .stealBackoffExpiry core => Sys2Proof.Machine.execStealBackoffExpiry core s
  | .priorityAging core ctx => Sys2Proof.Machine.execPriorityAging core ctx s
  | .watchdog core cycles => Sys2Proof.Machine.execWatchdog core cycles s
  | .strandPark core => Sys2Proof.Machine.execStrandPark core s
  | .strandRestore core ctx => Sys2Proof.Machine.execStrandRestore core ctx s
  | .trapEntry core ctx => Sys2Proof.Machine.execTrapEntry core ctx s
  | .launchDone lix => Sys2Proof.Machine.execLaunchDone lix s
  | .launchPlace lix => Sys2Proof.Machine.execLaunchPlace lix s
  | .postedStorePerform k => Sys2Proof.Machine.execPostedStorePerform k s
  | .writeAckArrival k => Sys2Proof.Machine.execWriteAckArrival k s
  | .lineSpare line => Sys2Proof.Machine.execLineSpare line s
  | .pageWalk core ctx va => Sys2Proof.Machine.execPageWalk core ctx va s
  | .migrationFreeze core => Sys2Proof.Machine.execMigrationFreeze core s
  | .migrationSwitch core target => Sys2Proof.Machine.execMigrationSwitch core target s
  | .forwardingEntryFree place => Sys2Proof.Machine.execForwardingEntryFree place s
  | .spireReplace spire => Sys2Proof.Machine.execSpireReplace spire s
  | .coreLost core => Sys2Proof.Machine.execCoreLost core s
  | .collTileFire lix group tile order => Sys2Proof.Machine.execCollTileFire lix group tile order s
  | .collContribution lix group tile rank run chunk => Sys2Proof.Machine.execCollContribution lix group tile rank run chunk s
  | .deleusFlitReceive link sq good => Sys2Proof.Machine.execDeleusFlitReceive link sq good s
  | .laneFailure link => Sys2Proof.Machine.execLaneFailure link s
  | .query core desc => Sys2Proof.Machine.execQuery core desc s
  | .partialMsg core => Sys2Proof.Machine.execPartialMsg core s
  | .append core desc => Sys2Proof.Machine.execAppend core desc s
  | .ack core desc => Sys2Proof.Machine.execAck core desc s
  | .share core desc => Sys2Proof.Machine.execShare core desc s
  | .release core desc => Sys2Proof.Machine.execRelease core desc s
  | .rehome core desc => Sys2Proof.Machine.execRehome core desc s
  | .install core desc => Sys2Proof.Machine.execInstall core desc s
  | .installed core desc => Sys2Proof.Machine.execInstalled core desc s
  | .aliasMsg core desc => Sys2Proof.Machine.execAliasMsg core desc s
  | .queueLaunch q => Sys2Proof.Machine.execQueueLaunch q s
  | .queueInvalidate q => Sys2Proof.Machine.execQueueInvalidate q s
  | .queueMove q target => Sys2Proof.Machine.execQueueMove q target s
  | .queueEntryTake q => Sys2Proof.Machine.execQueueEntryTake q s
  | .queueTailWrite q v => Sys2Proof.Machine.execQueueTailWrite q v s
  | .queueCtlWrite q v => Sys2Proof.Machine.execQueueCtlWrite q v s
  | .queueErrClear q => Sys2Proof.Machine.execQueueErrClear q s
  | .completionHeadWrite q v => Sys2Proof.Machine.execCompletionHeadWrite q v s
  | .hostRegisterWrite q off v => Sys2Proof.Machine.execHostRegisterWrite q off v s
  | .queueSwitchIn q => Sys2Proof.Machine.execQueueSwitchIn q s
  | .queueSwitchOut q => Sys2Proof.Machine.execQueueSwitchOut q s
  | .hostBar2Write addr v => Sys2Proof.Machine.execHostBar2Write addr v s
  | .hostWindowWritePost k => Sys2Proof.Machine.execHostWindowWritePost k s
  | .ident tag => Sys2Proof.Machine.execIdent tag s
  | .attest tag nonce => Sys2Proof.Machine.execAttest tag nonce s
  | .readErrorLogs tag clear => Sys2Proof.Machine.execReadErrorLogs tag clear s
  | .writeRouteTable tag routes => Sys2Proof.Machine.execWriteRouteTable tag routes s
  | .startSystemStrand tag core pc => Sys2Proof.Machine.execStartSystemStrand tag core pc s
  | .readPendingSeq tag q => Sys2Proof.Machine.execReadPendingSeq tag q s
  | .islandStates tag set island state => Sys2Proof.Machine.execIslandStates tag set island state s
  | .readSpareMap tag => Sys2Proof.Machine.execReadSpareMap tag s
  | .powerThrottle island step => Sys2Proof.Machine.execPowerThrottle island step s
  | .powerOnBoot version header digestOk => Sys2Proof.Machine.execPowerOnBoot version header digestOk s
  | .channelSaddleReplace plain channel => Sys2Proof.Machine.execChannelSaddleReplace plain channel s
  | .takeOutOfService core => Sys2Proof.Machine.execTakeOutOfService core s
  | .rowReplayRequest k => Sys2Proof.Machine.execRowReplayRequest k s
  | .linkLevelRetry link sq => Sys2Proof.Machine.execLinkLevelRetry link sq s

end Sys2Proof.Machine
end

