-- ==== Sys2Proof/Machine/Auto.lean ====
section
/-! DEFINITION. What happens of itself when the schedule is empty: the first step of the device, in a fixed order, that changes
something; with none, the next core that has a strand acts (log 1). -/

namespace Sys2Proof.Machine
open Sys2Proof

/-- The steps that message k of the network waits for. -/
def netSteps (s : State) (k : Nat) (f : Flight) : List (State → Out) :=
  execForwardingRedirect k ::
  match f.pay with
  | .prog _ _ => [execMessageDelivery k]
  | .red _ _ _ _ _ _ => [execMessageDelivery k]
  | .migr _ => [execMigrationArrival k]
  | .store _ _ _ _ => [execPostedStorePerform k]
  | .ack _ _ => [execWriteAckArrival k]
  | .atomReq _ _ _ _ _ _ => [execAtomicApply k]
  | .atomRep _ _ _ _ _ => [execAtomicReply k]
  | .repAck _ => [execReplyAck k]
  | .lockReq _ _ => [execLockRequest k]
  | .lockGrant _ _ _ => [execLockGrant k]
  | .lockRel _ _ _ => [execLockRelease k]
  | .lockRelAck _ _ => [execLockReleaseAck k]
  | .barArr _ _ => [execRemoteBarrierArrival k]
  | .tileReq _ _ => [execTileRequest k]
  | .tileAns _ _ => [execTileAnswer k]
  | .tile _ _ _ _ _ => [execTileFillStart k, execTileArrived k]
  | .rows _ _ _ _ _ _ => [execCooperativeRowArrival k]
  | .rowReq _ _ _ => [execRowReplayRequest k]
  | .steal _ _ => [execStealRequest k]
  | .stealRec _ => [execStealRecordArrival k ((s.freeCtxOf f.dst).getD 0)]
  | .stealRef => [execStealRefusalArrival k]
  | .hostWr _ _ _ _ _ _ _ => [execHostWindowWritePost k]

/-- The steps of a core's units. -/
def unitSteps (c : Nat) : List (State → Out) := [1, 2, 3, 4, 5].map fun u => execLongLatencyComplete c u

/-- The steps of a core's engine, queues and deque. -/
def coreSteps (s : State) (c : Nat) : List (State → Out) :=
  let x := (s.freeCtxOf c).getD 0
  [execSendQueueAccept c, execCopyPerform c, execLandingPerform c, execItlandPerform c,
   execDrainPerform c, execDealPerform c, execHandlerStart c 0 x, execHandlerStart c 1 x, execTaskStart c x]

/-- The steps of proxies, slots, launches and host queues. -/
def otherSteps (s : State) : List (State → Out) :=
  (s.plains.flatMap fun p => p.2.shadows.map fun d => execProxyBatchForward p.1 d.1) ++
  (s.spires.flatMap fun p => p.2.slots.map fun t => execSlotForwardDone p.1 t.1) ++
  (s.launches.flatMap fun l => [execLaunchPlace l.1, execLaunchDone l.1]) ++
  s.queues.flatMap fun q => [execQueueSwitchIn q.1, execQueueEntryTake q.1, execQueueLaunch q.1, execQueueInvalidate q.1]

/-- The first of a list of steps that changes the state. -/
def firstChange (s : State) : List (State → Out) → Option State
  | [] => none
  | f :: r =>
    match f s with
    | .next t => if t = s then firstChange s r else some t
    | _ => firstChange s r

/-- The next core, in the order of their numbers and around, that has a strand; the acting core when there is none. -/
def State.nextCore (s : State) : Nat :=
  let cs := (s.cores.filter fun e => !e.2.ctxs.isEmpty).map (·.1)
  match cs.find? fun c => decide (s.core < c) with
  | some c => c
  | none => cs.headD s.core

/-- A step of the device when nothing else is said to happen; units complete their work only when the core waits for it. -/
def State.auto (s : State) (units : Bool) : State :=
  let steps := (if units then s.cores.flatMap fun e => unitSteps e.1 else []) ++ (s.net.zipIdx.flatMap fun f => netSteps s f.2 f.1) ++ (s.cores.flatMap fun e => coreSteps s e.1) ++ otherSteps s
  match firstChange s steps with
  | some t => t
  | none => { s with core := s.nextCore }

end Sys2Proof.Machine
end

