-- ==== Sys2Proof/Machine/Step.lean ====
section
/-! DEFINITION. The step: what the schedule names next happens, a step of the device or the issue of one instruction (log 1). -/

namespace Sys2Proof.Machine
open Sys2Proof

/-- The first of the ranked strands that can issue does (R340); when none can, the state only notes what they wait for. -/
def issueFirst : List (Nat × Strand) → State → Host.Outcome State Fault Refusal
  | [], s => .next s
  | e :: r, s =>
    let s := { s with ctx := e.1, stalled := false }
    match s.nextInstr with
    | .error t => if s.gate then .next (s.trapNext t) else issueFirst r s
    | .ok i =>
      match exec i s.fetched with
      | .next t => if t.stalled && !r.isEmpty then issueFirst r t else .next t
      | .fault f => .fault f
      | .refused f => .refused f

/-- The machine as the acting core is about to issue: strands whose condition has come to hold are ready again, on every core, and then the
moment of the issue comes (R340): a strand that yields at it ranks behind them, and before all that become ready later. -/
def State.begun (s : State) : State := { { s with tick := s.tick + 1 }.noted with tick := s.tick + 2 }

/-- One issue of the acting core; a core whose island is off issues nothing (R420). -/
def coreStep (s : State) : Host.Outcome State Fault Refusal :=
  if s.islandOff s.core then .next s.begun else issueFirst s.begun.me.ranked s.begun

/-- With no schedule: one issue of the acting core, or, when none of its strands issues and every sixteenth time, a step of the
device (Auto.lean). -/
def freeStep (s : State) : Host.Outcome State Fault Refusal :=
  if s.begun.me.ranked.isEmpty || s.islandOff s.core then .next (s.begun.auto true)
  else if s.tick / 2 % 16 = 15 then .next (s.begun.auto false)
  else
    match coreStep s with
    | .next t => if t.stalled then .next (t.auto true) else .next t
    | o => o

/-- One step: the head of the schedule, or, with none, what happens of itself. An input that names no agent of the machine, or no step
of the device, changes nothing (R2, log 1). -/
def step (s : State) : Host.Outcome State Fault Refusal :=
  match s.acts with
  | [] => freeStep { s with split := false }
  | .core c slow :: r => if coreOk c then coreStep { s with acts := r, core := c, split := slow } else .next { s with acts := r }
  | .event e :: r =>
    if e.isEvent && e.wf then exec e (State.noted { s with acts := r, split := false, tick := s.tick + 1 })
    else .next { s with acts := r }

/-- The core that runs a word: a saddle for an instruction of saddles only (R89), else a compute core. -/
def runCore (nbits w : Nat) : Nat :=
  match decodeTableWord nbits w with
  | some i => match i.cls with
    | .saddle => 2048
    | _ => 2
  | none => 2

/-- The state with one instruction word where the next step fetches it: a system strand of the core's context 0 is alone ready,
its pc names the word in GDDR, which no instruction cache holds, its island is on, and the schedule is empty (log 42). -/
def State.withFetchWord (s : State) (nbits w : Nat) : State :=
  let c := runCore nbits w
  let pc := 0x1000
  let k := s.coreAt c
  let s := s.setCore c { k with ctxs := [(0, { life := .ready, sys := true, pc := BitVec.ofNat 48 pc })], frozen := false }
  let s := { s with henud := { s.henud with islands := fdel (s.islandOf c) s.henud.islands }
                    valleys := s.valleys.map fun (e : Nat × Valley) => (e.1, { e.2 with icache := e.2.icache.filter fun l => l.ga != pc }) }
  { s.poke pc (leBytes 4 w) with acts := [], core := c, ctx := 0, tick := 0, bad := s.bad.filter fun e => e.1 != pc, links := [] }

end Sys2Proof.Machine
end

