-- ==== Sys2Proof/Safety.lean ====
section
/-! DEFINITION. What claims call a safe step, a well-kept state, and a strand that is ready for an instruction. -/

namespace Sys2Proof
open Sys2Proof.Machine

/-- The register a scalar operation writes (R119, R121 to R124, R136). -/
def Instr.target : Instr → Option (BitVec 4)
  | .add rd _ _ => some rd
  | .sub rd _ _ => some rd
  | .and rd _ _ => some rd
  | .or rd _ _ => some rd
  | .xor rd _ _ => some rd
  | .andn rd _ _ => some rd
  | .orn rd _ _ => some rd
  | .sll rd _ _ => some rd
  | .srl rd _ _ => some rd
  | .sra rd _ _ => some rd
  | .rol rd _ _ => some rd
  | .ror rd _ _ => some rd
  | .slt rd _ _ => some rd
  | .sltu rd _ _ => some rd
  | .seq rd _ _ => some rd
  | .min rd _ _ => some rd
  | .max rd _ _ => some rd
  | .minu rd _ _ => some rd
  | .maxu rd _ _ => some rd
  | .slli rd _ _ => some rd
  | .srli rd _ _ => some rd
  | .srai rd _ _ => some rd
  | .rori rd _ _ => some rd
  | .clz rd _ => some rd
  | .ctz rd _ => some rd
  | .pop rd _ => some rd
  | .sadd rd _ _ _ => some rd
  | .bfx rd _ _ _ => some rd
  | .bfxu rd _ _ _ => some rd
  | .bfi rd _ _ _ => some rd
  | .addi rd _ _ => some rd
  | .andi rd _ _ => some rd
  | .ori rd _ _ => some rd
  | .xori rd _ _ => some rd
  | .slti rd _ _ => some rd
  | .sltiu rd _ _ => some rd
  | .lui rd _ => some rd
  | .apc rd _ => some rd
  | .mul _ rd _ _ => some rd
  | .mulh _ rd _ _ => some rd
  | .mulhu _ rd _ _ => some rd
  | .mulhsu _ rd _ _ => some rd
  | .div _ rd _ _ => some rd
  | .divu _ rd _ _ => some rd
  | .rem _ rd _ _ => some rd
  | .remu _ rd _ _ => some rd
  | .madd _ rd _ _ _ => some rd
  | .fadd _ rd _ _ _ => some rd
  | .fsub _ rd _ _ _ => some rd
  | .fmul _ rd _ _ _ => some rd
  | .fdiv _ rd _ _ _ => some rd
  | .fmin _ rd _ _ _ => some rd
  | .fmax _ rd _ _ _ => some rd
  | .feq _ rd _ _ _ => some rd
  | .flt _ rd _ _ _ => some rd
  | .fle _ rd _ _ _ => some rd
  | .fsqrt _ rd _ _ => some rd
  | .fma _ rd _ _ _ _ => some rd
  | .fcvti _ rd _ _ _ _ => some rd
  | .fcvtf _ rd _ _ _ _ => some rd
  | .fcvt _ rd _ _ _ => some rd
  | .fsgnj _ rd _ _ _ _ => some rd
  | .fclass _ rd _ _ => some rd
  | _ => none

/-- The format a scalar operation rounds to (R138), for those that deliver a rounded result. -/
def Instr.rounds : Instr → Option FpFmt
  | .fadd _ _ _ _ fs => some (fsFmt fs)
  | .fsub _ _ _ _ fs => some (fsFmt fs)
  | .fmul _ _ _ _ fs => some (fsFmt fs)
  | .fdiv _ _ _ _ fs => some (fsFmt fs)
  | .fsqrt _ _ _ fs => some (fsFmt fs)
  | .fma _ _ _ _ _ fs => some (fsFmt fs)
  | .fcvtf _ _ _ _ _ fs => some (fsFmt fs)
  | .fcvt _ _ _ _ fs => some (fsFmt fs)
  | _ => none

/-- The format a scalar operation delivers its result in (R60, R138): the rounded ones, fmin and fmax. -/
def Instr.delivers : Instr → Option FpFmt
  | .fmin _ _ _ _ fs => some (fsFmt fs)
  | .fmax _ _ _ _ fs => some (fsFmt fs)
  | i => i.rounds

/-- The scalar operations that may raise flags (R57). -/
def Instr.mergesFlags : Instr → Bool
  | .fcvti _ _ _ _ _ _ => true
  | i => i.rounds.isSome

/-- Loads and stores (R130): base register, offset, size, kind of access. -/
def Instr.access : Instr → Option (BitVec 4 × BitVec 11 × Nat × Acc)
  | .ldb _ _ ra off => some (ra, off, 1, .rd)
  | .ldbu _ _ ra off => some (ra, off, 1, .rd)
  | .ldh _ _ ra off => some (ra, off, 2, .rd)
  | .ldhu _ _ ra off => some (ra, off, 2, .rd)
  | .ldw _ _ ra off => some (ra, off, 4, .rd)
  | .ldwu _ _ ra off => some (ra, off, 4, .rd)
  | .ldd _ _ ra off => some (ra, off, 8, .rd)
  | .stb _ _ ra off => some (ra, off, 1, .wr)
  | .sth _ _ ra off => some (ra, off, 2, .wr)
  | .stw _ _ ra off => some (ra, off, 4, .wr)
  | .std _ _ ra off => some (ra, off, 8, .wr)
  | _ => none

end Sys2Proof

namespace Sys2Proof.Machine
open Sys2Proof

/-- A step that ends in a next state: neither a fault nor a refusal. -/
def Runs (s : State) : Prop := ∃ t, step s = .next t

/-- Every input of the schedule is one the device can be given (WellFormed.lean). -/
def State.scheduleOk (s : State) : Prop :=
  ∀ a ∈ s.acts, match a with
    | .core c _ => coreOk c = true
    | .event e => (e.isEvent && e.wf) = true

/-- The memory is in its canonical form. -/
def State.memOk (s : State) : Prop := Memory.wf s.mem

/-- The acting strand has nothing behind it: no pending instruction (R90), no trap found or held for it, no re-execution under
way (R352); it is not suspended, its launch has not ended, its core is not frozen, and the writes before the push of its record
are performed (R335). -/
structure State.Clear (s : State) : Prop where
  pend : s.st.pend = []
  found : s.st.found = none
  live : s.st.ended = false
  awake : s.st.awaiting = false
  replay : s.st.replay = none
  moving : s.me.frozen = false
  seen : s.pushSeen s.st.after = true

/-- The acting core and strand may run the instruction: orders 1 to 3 of R88 find nothing. -/
structure State.Accepts (s : State) (i : Instr) : Prop where
  assigned : i.unassigned = false
  core : clsTrap i.cls s.core = none
  mode : i.priv = true → s.st.sys = true

/-- A strand that issues the instruction as the only one of its strand. -/
structure State.Ready (s : State) (i : Instr) : Prop extends State.Clear s, State.Accepts s i

/-- The same of an instruction of a unit (R91): the unit is idle, the step is not a slow one, and the word opens no window. -/
structure State.ReadyUnit (s : State) (i : Instr) : Prop extends State.Ready s i where
  fast : s.split = false
  idle : s.unitBusy i.unit = false
  alone : i.la = 0

/-- The acting strand goes on with the instruction behind it. -/
def State.advance (s : State) : State := s.modSt fun t =>
  { t with pc := t.pc + 4, life := .ready, waitBar := none, waitEv := none, cond := false, waitSq := false }

/-- The acting strand goes on at an address. -/
def State.goto (s : State) (pc : BitVec 48) : State := s.modSt fun t =>
  { t with pc := pc, life := .ready, waitBar := none, waitEv := none, cond := false, waitSq := false }

/-- The acting strand with sw.pin set (R19): what a vector or matrix instruction does before anything else. -/
def State.pinned (s : State) : State := s.modSt fun t => { t with pin := true }

/-- What the effect of an instruction of the acting strand is given. -/
def State.envOf (s : State) : Env := { g := s.st.g, tag := s.me.seqNo, pc := s.st.pc }

/-- The state in which an instruction's effect starts: vector and matrix instructions have set sw.pin (R19). -/
def State.start (s : State) (i : Instr) : State := if i.pins then s.pinned else s

/-- The value of a finite number format value, exactly (R44). -/
def Fv.rat : Fv → Rat
  | .fin n m e => (if n then -1 else 1) * (m : Rat) * (2 : Rat) ^ e
  | _ => 0

/-- Everything but one core is as it was. -/
structure State.OnlyCore (s t : State) (c : Nat) : Prop where
  cores : ∀ d, d ≠ c → t.coreAt d = s.coreAt d
  spires : t.spires = s.spires
  valleys : t.valleys = s.valleys
  plains : t.plains = s.plains
  mem : ∀ a, t.byte a = s.byte a
  bad : t.bad = s.bad
  soft : t.soft = s.soft
  net : t.net = s.net
  place : t.place = s.place
  launches : t.launches = s.launches
  colls : t.colls = s.colls
  queues : t.queues = s.queues
  links : t.links = s.links
  henud : t.henud = s.henud

/-- Everything but the acting strand is as it was: every other strand, every register of the core, memory, network. -/
structure State.OnlyStrand (s t : State) : Prop extends State.OnlyCore s t s.core where
  strands : ∀ c x, ¬(c = s.core ∧ x = s.ctx) → t.strandAt c x = s.strandAt c x
  core : (t.coreAt s.core) = { s.me with ctxs := (t.coreAt s.core).ctxs }

/-- Of a strand, what no register operation touches: the state word but for its flags and pc, the trap registers, what is kept. -/
structure Strand.SameRest (t u : Strand) : Prop where
  pin : u.pin = t.pin
  hnd : u.hnd = t.hnd
  cmp : u.cmp = t.cmp
  prio : u.prio = t.prio
  rm : u.rm = t.rm
  sr : u.sr = t.sr
  sys : u.sys = t.sys
  lix : u.lix = t.lix
  cause : u.tcause = t.tcause
  info : u.tInfo = t.tInfo
  tpc : u.tPc = t.tPc
  cont : u.tCont = t.tCont
  swHi : u.tSwHi = t.tSwHi
  msg : u.tMsg = t.tMsg
  scr : u.tScr = t.tScr
  pend : u.pend = t.pend
  held : u.held = t.held
  kept : u.kept = t.kept

/-! ### Vector and matrix instructions on blocks -/

/-- The bytes of blocks as one number, the first block lowest. -/
def State.value (s : State) : List Blk → Nat
  | [] => 0
  | b :: r => ofLe (s.bytes b.ga 64) + 2 ^ 512 * s.value r

/-- Blocks that do not meet one another. -/
def apart (ds : List Blk) : Prop := ds.Pairwise fun a b => a.ga + 64 ≤ b.ga ∨ b.ga + 64 ≤ a.ga

/-- The acting core can run a vector instruction now, but for the tag check of R75: its sources' blocks are bs and its destination's ds,
all readable and writable; the memory holds no error, and no earlier store of the core is under way to them. -/
structure State.VecSet (s : State) (i : Instr) (srcs : List Src) (d : BitVec 4) (nd : Nat) (k : Acc) (bs : List (List Blk))
    (ds : List Blk) : Prop extends s.ReadyUnit i where
  noBad : s.bad = []
  noSoft : s.soft = []
  src : s.srcBlks (planSrcs s.me.ptr srcs).1 = .ok bs
  dst : s.blks k ((ptrOf (planSrcs s.me.ptr srcs).2 d).run nd).1 = .ok ds
  quiet : bs.flatten.any s.blkBusy = false
  quietDst : ds.any s.blkBusy = false
  disjoint : apart ds

/-- The acting core can run a vector instruction now, with the tag check off. -/
structure State.VecReady (s : State) (i : Instr) (srcs : List Src) (d : BitVec 4) (nd : Nat) (k : Acc) (bs : List (List Blk))
    (ds : List Blk) : Prop extends s.VecSet i srcs d nd k bs ds where
  noTags : s.me.fmt.getLsbD 15 = false

/-- The pointers after an instruction that reads its sources once and writes nd blocks through d (R22). -/
def State.ptrsAfter (s : State) (srcs : List Src) (d : BitVec 4) (nd : Nat) : List (Nat × Ptr) :=
  let p := planSrcs s.me.ptr srcs
  if nd = 0 then p.2 else fset p.2 d.toNat ((ptrOf p.2 d).run nd).2

/-- Everything but memory, the acting core, and the tags and power of scratchpads is as it was. -/
structure State.OnlyMem (s t : State) : Prop where
  cores : ∀ d, d ≠ s.core → t.coreAt d = s.coreAt d
  strands : ∀ y, y ≠ s.ctx → t.strandAt s.core y = s.strandAt s.core y
  spires : ∀ p, { t.spireAt p with up := (s.spireAt p).up, tags := (s.spireAt p).tags } = s.spireAt p
  valleys : t.valleys = s.valleys
  plains : t.plains = s.plains
  bad : t.bad = s.bad
  soft : t.soft = s.soft
  net : t.net = s.net
  place : t.place = s.place
  launches : t.launches = s.launches
  colls : t.colls = s.colls
  queues : t.queues = s.queues
  links : t.links = s.links
  henud : t.henud = s.henud

/-- A vector instruction is done: the strand is pinned and goes on, the pointers are ps, and what was raised is committed: flags,
counters, the generator (R97, R151). Predicates, va and general registers are spoken of apart. -/
structure State.VecDone (s t : State) (ps : List (Nat × Ptr)) (r : Raise) : Prop extends s.OnlyMem t where
  st : t.st = { s.st with
    g := t.st.g, pc := s.st.pc + 4, pin := true, life := .ready, waitBar := none, waitEv := none, cond := false, waitSq := false
    flags := s.st.flags ||| r.fl }
  me : t.me = { s.me with
    ctxs := t.me.ctxs, q := t.me.q, va := t.me.va, ptr := ps
    mxsub := cntAdd s.me.mxsub r.sub, mxsat := cntAdd s.me.mxsat r.sat, mxmrow := cntAdd s.me.mxmrow r.mrow
    mxnan := cntAdd s.me.mxnan r.nan, rngs := r.rng.setWidth 64 }

/-- The elements named hold their codes in the destination blocks, the others what they held, and no other byte changed. -/
structure State.Wrote (s t : State) (ds : List Blk) (w : Nat) (els : List (Nat × Nat)) : Prop where
  written : ∀ e c, (e, c) ∈ els → elt w (t.value ds) e = c % 2 ^ w
  kept : ∀ e, e < 512 * ds.length / w → (∀ c, (e, c) ∉ els) → elt w (t.value ds) e = elt w (s.value ds) e
  frame : ∀ a, (∀ b ∈ ds, a < b.ga ∨ b.ga + 64 ≤ a) → t.byte a = s.byte a

/-- The whole outcome of a vector instruction that writes elements through its destination. -/
structure State.VecOut (s t : State) (srcs : List Src) (d : BitVec 4) (fmt : Nat) (ds : List Blk) (m : List (Nat × Nat) × Raise) :
    Prop extends s.VecDone t (s.ptrsAfter srcs d ds.length) m.2 where
  wrote : s.Wrote t ds (fmtWidth fmt) (m.1.map fun e => (e.1, fix4 ((elemOf fmt).getD (.i 8)) s.ctl.uns (e.2 % 2 ^ fmtWidth fmt)))
  q : t.me.q = s.me.q
  va : t.me.va = s.me.va

/-! ### Macro-operations -/

/-- The acting core can start a macro-operation of its strand: the sequencer is idle and nobody's, the memory holds no error, the
tag check is off, and tshape holds a combination of R175. -/
structure State.MatReady (s : State) (i : Instr) : Prop extends State.Ready s i where
  fast : s.split = false
  idle : s.unitBusy 4 = false
  alone : i.la = 0
  nobody : mstepAct s.me.mstep = false
  noBad : s.bad = []
  noSoft : s.soft = []
  noTags : s.me.fmt.getLsbD 15 = false
  shape : (isDome s.me.tshape || isMacro s.me.tshape) = true

/-- The same, and the n blocks that it goes through by pointer p are bs: accessible, and no earlier store is under way to them. -/
structure State.MatThrough (s : State) (i : Instr) (p : BitVec 4) (n : Nat) (k : Acc) (bs : List Blk) : Prop extends s.MatReady i where
  blks : s.blks k ((ptrOf s.me.ptr p).run n).1 = .ok bs
  quiet : bs.any s.blkBusy = false
  disjoint : apart bs

/-- Row i of operand blocks, m blocks a row, as one number. -/
def State.rowOf (s : State) (bs : List Blk) (m i : Nat) : Nat := s.value ((bs.drop (i * m)).take m)

/-- What was raised is committed: flags, counters, the generator (R32, R97). -/
structure State.Raised (s t : State) (r : Raise) (rng : BitVec 32 := s.me.rngs.setWidth 32) : Prop where
  flags : t.st.flags = s.st.flags ||| r.fl
  sub : t.me.mxsub = cntAdd s.me.mxsub r.sub
  sat : t.me.mxsat = cntAdd s.me.mxsat r.sat
  mrow : t.me.mxmrow = cntAdd s.me.mxmrow r.mrow
  nan : t.me.mxnan = cntAdd s.me.mxnan r.nan
  rngs : t.me.rngs = rng.setWidth 64

/-- What elements raise together. -/
def sumRaise : List Raise → Raise
  | [] => {}
  | r :: l =>
    let a := sumRaise l
    { fl := r.fl ||| a.fl, sub := r.sub + a.sub, sat := r.sat + a.sat, mrow := r.mrow + a.mrow, nan := r.nan + a.nan, rng := 0 }

/-- A macro-operation of accumulator m is done, and its strand goes on pinned; registers, memory, the engine, the accumulators and
buffers, and what was raised, are spoken of apart. With use its accumulator is in use, and with a pointer that has moved. -/
structure State.MatDone (s t : State) (use : Option (BitVec 2)) (move : Option (BitVec 4 × Nat)) : Prop extends s.OnlyMem t where
  st : t.st = { s.st with g := t.st.g, pc := s.st.pc + 4, pin := true, life := .ready, waitSq := false, flags := t.st.flags }
  me : t.me = { s.me with
    ctxs := t.me.ctxs, seqNo := s.me.seqNo + 1
    acc := t.me.acc, amax := t.me.amax, aden := t.me.aden, fb := t.me.fb, cm := t.me.cm, cmTern := t.me.cmTern, eng := t.me.eng
    mxsub := t.me.mxsub, mxsat := t.me.mxsat, mxmrow := t.me.mxmrow, mxnan := t.me.mxnan, rngs := t.me.rngs
    tshape := match use with | some m => putBit s.me.tshape (32 + m.toNat) true | none => s.me.tshape
    ptr := match move with | some (p, n) => fset s.me.ptr p.toNat ((ptrOf s.me.ptr p).run n).2 | none => s.me.ptr }

/-- Of accumulators: the elements (i, n) of m, i below rows and n below cols, are f's, every other is as it was. -/
def State.AccIs (s t : State) (cw m rows cols : Nat) (f : Nat → Nat → Nat) : Prop :=
  ∀ a i n, a < 4 → i < 128 → n < 128 / cw →
    t.me.accGet cw a i n = if a = m ∧ i < rows ∧ n < cols then f i n % 2 ^ (32 * cw) else s.me.accGet cw a i n

/-- Accumulators' row maxima and denominators, and what else a product leaves alone: registers, memory, buffers, the engine. -/
structure State.RestHeld (s t : State) : Prop where
  g : ∀ r, t.g r = s.g r
  mem : ∀ a, t.byte a = s.byte a
  amax : ∀ a i, t.me.maxOf a i = s.me.maxOf a i
  aden : ∀ a i, t.me.denOf a i = s.me.denOf a i
  fb : t.me.fb = s.me.fb
  cm : t.me.cm = s.me.cm
  cmTern : t.me.cmTern = s.me.cmTern
  eng : t.me.eng = s.me.eng

/-- The scratchpad of a core meets no error in what its cache handler reads: memory holds none, and the banks are powered up. -/
def State.CacheCalm (s : State) (c : Nat) : Prop := s.bad = [] ∧ s.soft = [] ∧ (s.spireAt (s.spireOf c)).up = 0xFF
/-- The cache handler of core c takes message m of an operation, the last of its parts ms (R373), from s, which leaves u; what it reads
holds no error. -/
def State.CacheTurn (s : State) (c desc op : Nat) (m : CacheHeld) (ms : List CacheHeld) (u : State) : Prop :=
  s.CacheCalm c ∧ ∃ r t, s.nextCache c (s.cacheDesc c desc) op = some (r, t) ∧ m = r.cache ∧
    ((op = 1 ∨ op = 3) → (s.cacheDesc c desc).parts ≤ m.part + 1) ∧
    ms = (t.coreAt c).cacheParts.filter m.sameTag ++ [m] ∧
    u = if ((t.coreAt c).cacheParts.filter m.sameTag).isEmpty then t
      else t.modCore c fun k => { k with cacheParts := k.cacheParts.filter fun x => !m.sameTag x }

end Sys2Proof.Machine
end

