-- ==== Sys2Proof/Certificates/Slice0/Obligations.lean ====
section
/-! DEFINITION. What is claimed of the machine: the statements for the provers, each citing the rules of the spec it formalises.

A hypothesis names the strand, core or step concerned and what it needs; the conclusion is the next state. -/

open Sys2Proof Sys2Proof.Machine

/-! ### Scalar and system -/

/-- R119: each register operation writes its result to rd (a write to g0 is discarded, R13) and execution goes on behind it. Numbers are
written as the rule writes them: sums and shifts modulo 2^64, comparisons of the values as integers. -/
def Obligations.AluResults : Prop :=
  ∀ (rd ra rb : BitVec 4) (sh : BitVec 6) (sc : BitVec 2) (s : State),
    let a := s.g ra
    let b := s.g rb
    let n := (s.g rb).toNat % 64
    let out (v : Word) : Out := .next (s.setG rd v).advance
    (s.Ready (.add rd ra rb) → exec (.add rd ra rb) s = out (w64 (a.toNat + b.toNat))) ∧
    (s.Ready (.sub rd ra rb) → exec (.sub rd ra rb) s = out (i64 ((a.toNat : Int) - b.toNat))) ∧
    (s.Ready (.and rd ra rb) → exec (.and rd ra rb) s = out (a &&& b)) ∧
    (s.Ready (.or rd ra rb) → exec (.or rd ra rb) s = out (a ||| b)) ∧
    (s.Ready (.xor rd ra rb) → exec (.xor rd ra rb) s = out (a ^^^ b)) ∧
    (s.Ready (.andn rd ra rb) → exec (.andn rd ra rb) s = out (a &&& ~~~b)) ∧
    (s.Ready (.orn rd ra rb) → exec (.orn rd ra rb) s = out (a ||| ~~~b)) ∧
    (s.Ready (.sll rd ra rb) → exec (.sll rd ra rb) s = out (w64 (a.toNat * 2 ^ n))) ∧
    (s.Ready (.srl rd ra rb) → exec (.srl rd ra rb) s = out (w64 (a.toNat / 2 ^ n))) ∧
    (s.Ready (.sra rd ra rb) → exec (.sra rd ra rb) s = out (i64 (a.toInt / 2 ^ n))) ∧
    (s.Ready (.rol rd ra rb) → exec (.rol rd ra rb) s = out (w64 (a.toNat * 2 ^ n) ||| w64 (a.toNat / 2 ^ (64 - n)))) ∧
    (s.Ready (.ror rd ra rb) → exec (.ror rd ra rb) s = out (w64 (a.toNat / 2 ^ n) ||| w64 (a.toNat * 2 ^ (64 - n)))) ∧
    (s.Ready (.slli rd ra sh) → exec (.slli rd ra sh) s = out (w64 (a.toNat * 2 ^ sh.toNat))) ∧
    (s.Ready (.srli rd ra sh) → exec (.srli rd ra sh) s = out (w64 (a.toNat / 2 ^ sh.toNat))) ∧
    (s.Ready (.srai rd ra sh) → exec (.srai rd ra sh) s = out (i64 (a.toInt / 2 ^ sh.toNat))) ∧
    (s.Ready (.rori rd ra sh) → exec (.rori rd ra sh) s = out (w64 (a.toNat / 2 ^ sh.toNat) ||| w64 (a.toNat * 2 ^ (64 - sh.toNat)))) ∧
    (s.Ready (.slt rd ra rb) → exec (.slt rd ra rb) s = out (if a.toInt < b.toInt then 1 else 0)) ∧
    (s.Ready (.sltu rd ra rb) → exec (.sltu rd ra rb) s = out (if a.toNat < b.toNat then 1 else 0)) ∧
    (s.Ready (.seq rd ra rb) → exec (.seq rd ra rb) s = out (if a = b then 1 else 0)) ∧
    (s.Ready (.min rd ra rb) → exec (.min rd ra rb) s = out (if a.toInt ≤ b.toInt then a else b)) ∧
    (s.Ready (.max rd ra rb) → exec (.max rd ra rb) s = out (if a.toInt ≤ b.toInt then b else a)) ∧
    (s.Ready (.minu rd ra rb) → exec (.minu rd ra rb) s = out (if a.toNat ≤ b.toNat then a else b)) ∧
    (s.Ready (.maxu rd ra rb) → exec (.maxu rd ra rb) s = out (if a.toNat ≤ b.toNat then b else a)) ∧
    (s.Ready (.clz rd ra) → ∃ k : Nat, k ≤ 64 ∧ a.toNat < 2 ^ (64 - k) ∧ (k < 64 → 2 ^ (63 - k) ≤ a.toNat) ∧
      exec (.clz rd ra) s = out (w64 k)) ∧
    (s.Ready (.ctz rd ra) → ∃ k : Nat, k ≤ 64 ∧ a.toNat % 2 ^ k = 0 ∧ (k < 64 → a.toNat / 2 ^ k % 2 = 1) ∧
      exec (.ctz rd ra) s = out (w64 k)) ∧
    (s.Ready (.pop rd ra) → exec (.pop rd ra) s = out (w64 ((List.range 64).filter fun j => a.getLsbD j).length)) ∧
    (s.Ready (.sadd rd ra rb sc) → exec (.sadd rd ra rb sc) s = out (w64 (a.toNat + b.toNat * 2 ^ sc.toNat)))

/-- R121, R122: the bit-field and immediate instructions write their results; immediates are sign-extended in addi, slti and sltiu and
zero-extended in andi, ori and xori; lui and apc place theirs 18 bits up. -/
def Obligations.FieldAndImmediateResults : Prop :=
  ∀ (rd ra : BitVec 4) (pos lm1 : BitVec 6) (imm : BitVec 18) (up : BitVec 22) (s : State),
    let a := s.g ra
    let out (v : Word) : Out := .next (s.setG rd v).advance
    (s.Ready (.bfx rd ra pos lm1) → exec (.bfx rd ra pos lm1) s = out (i64 (sextI (a.toNat / 2 ^ pos.toNat) (lm1.toNat + 1)))) ∧
    (s.Ready (.bfxu rd ra pos lm1) → exec (.bfxu rd ra pos lm1) s = out (w64 (a.toNat / 2 ^ pos.toNat % 2 ^ (lm1.toNat + 1)))) ∧
    (s.Ready (.bfi rd ra pos lm1) → ∃ v : Word, exec (.bfi rd ra pos lm1) s = out v ∧
      ∀ j, j < 64 → v.getLsbD j = if pos.toNat ≤ j ∧ j < pos.toNat + lm1.toNat + 1 then a.getLsbD (j - pos.toNat) else (s.g rd).getLsbD j) ∧
    (s.Ready (.addi rd ra imm) → exec (.addi rd ra imm) s = out (i64 ((a.toNat : Int) + imm.toInt))) ∧
    (s.Ready (.andi rd ra imm) → exec (.andi rd ra imm) s = out (a &&& w64 imm.toNat)) ∧
    (s.Ready (.ori rd ra imm) → exec (.ori rd ra imm) s = out (a ||| w64 imm.toNat)) ∧
    (s.Ready (.xori rd ra imm) → exec (.xori rd ra imm) s = out (a ^^^ w64 imm.toNat)) ∧
    (s.Ready (.slti rd ra imm) → exec (.slti rd ra imm) s = out (if a.toInt < imm.toInt then 1 else 0)) ∧
    (s.Ready (.sltiu rd ra imm) → exec (.sltiu rd ra imm) s = out (if a.toNat < (i64 imm.toInt).toNat then 1 else 0)) ∧
    (s.Ready (.lui rd up) → exec (.lui rd up) s = out (i64 (up.toInt * 2 ^ 18))) ∧
    (s.Ready (.apc rd up) → exec (.apc rd up) s = out (i64 ((s.st.pc.toNat : Int) + up.toInt * 2 ^ 18)))

/-- R126 to R128: a branch goes to pc + 4 × offset when its condition holds and to the next instruction when it does not; dbnz decrements
first, and jal and jalr write the return address to rd, jalr from ra as it was, or it traps with MISALIGN or TRANSLATION and writes
nothing. -/
def Obligations.BranchesAndJumps : Prop :=
  ∀ (rd ra rb : BitVec 4) (off imm : BitVec 18) (far : BitVec 22) (s : State),
    let a := s.g ra
    let b := s.g rb
    let pc := s.st.pc
    let tgt : BitVec 48 := BitVec.ofInt 48 ((pc.toNat : Int) + 4 * off.toInt)
    let br (c : Prop) [Decidable c] : Out := .next (s.goto (if c then tgt else pc + 4))
    (s.Ready (.beq ra rb off) → exec (.beq ra rb off) s = br (a = b)) ∧
    (s.Ready (.bne ra rb off) → exec (.bne ra rb off) s = br (a ≠ b)) ∧
    (s.Ready (.blt ra rb off) → exec (.blt ra rb off) s = br (a.toInt < b.toInt)) ∧
    (s.Ready (.bge ra rb off) → exec (.bge ra rb off) s = br (b.toInt ≤ a.toInt)) ∧
    (s.Ready (.bltu ra rb off) → exec (.bltu ra rb off) s = br (a.toNat < b.toNat)) ∧
    (s.Ready (.bgeu ra rb off) → exec (.bgeu ra rb off) s = br (b.toNat ≤ a.toNat)) ∧
    (s.Ready (.dbnz ra off) → exec (.dbnz ra off) s = .next ((s.setG ra (a - 1)).goto (if a - 1 ≠ 0 then tgt else pc + 4))) ∧
    (s.Ready (.jal rd far) → exec (.jal rd far) s =
      .next ((s.setG rd (w64 (pc + 4).toNat)).goto (BitVec.ofInt 48 ((pc.toNat : Int) + 4 * far.toInt)))) ∧
    (s.Ready (.jalr rd ra imm) → (i64 ((a.toNat : Int) + imm.toInt)).toNat % 4 = 0 → (i64 ((a.toNat : Int) + imm.toInt)).toNat < 2 ^ 48 →
      exec (.jalr rd ra imm) s =
        .next ((s.setG rd (w64 (pc + 4).toNat)).goto (BitVec.ofNat 48 (i64 ((a.toNat : Int) + imm.toInt)).toNat))) ∧
    (s.Ready (.jalr rd ra imm) → (i64 ((a.toNat : Int) + imm.toInt)).toNat % 4 ≠ 0 → exec (.jalr rd ra imm) s =
      .next (s.raise { code := 0x10, info := i64 ((a.toNat : Int) + imm.toInt) })) ∧
    (s.Ready (.jalr rd ra imm) → (i64 ((a.toNat : Int) + imm.toInt)).toNat % 4 = 0 → 2 ^ 48 ≤ (i64 ((a.toNat : Int) + imm.toInt)).toNat →
      exec (.jalr rd ra imm) s = .next (s.raise { code := 0x11, info := i64 ((a.toNat : Int) + imm.toInt) }))

/-- R123, R124: products modulo 2^64 and their high halves; division by zero gives all ones, and the remainder is then the dividend; the
one overflowing quotient wraps. -/
def Obligations.DivisionResults : Prop :=
  ∀ (rd ra rb rc : BitVec 4) (s : State),
    let a := s.g ra
    let b := s.g rb
    let out (v : Word) : Out := .next (s.setG rd v).advance
    (s.ReadyUnit (.mul 0 rd ra rb) → exec (.mul 0 rd ra rb) s = out (w64 (a.toNat * b.toNat))) ∧
    (s.ReadyUnit (.mulh 0 rd ra rb) → exec (.mulh 0 rd ra rb) s = out (i64 (a.toInt * b.toInt / 2 ^ 64))) ∧
    (s.ReadyUnit (.mulhu 0 rd ra rb) → exec (.mulhu 0 rd ra rb) s = out (w64 (a.toNat * b.toNat / 2 ^ 64))) ∧
    (s.ReadyUnit (.mulhsu 0 rd ra rb) → exec (.mulhsu 0 rd ra rb) s = out (i64 (a.toInt * b.toNat / 2 ^ 64))) ∧
    (s.ReadyUnit (.div 0 rd ra rb) → exec (.div 0 rd ra rb) s =
      out (if b = 0 then 0xFFFFFFFFFFFFFFFF else i64 (a.toInt.tdiv b.toInt))) ∧
    (s.ReadyUnit (.divu 0 rd ra rb) → exec (.divu 0 rd ra rb) s =
      out (if b = 0 then 0xFFFFFFFFFFFFFFFF else w64 (a.toNat / b.toNat))) ∧
    (s.ReadyUnit (.rem 0 rd ra rb) → exec (.rem 0 rd ra rb) s = out (if b = 0 then a else i64 (a.toInt - a.toInt.tdiv b.toInt * b.toInt))) ∧
    (s.ReadyUnit (.remu 0 rd ra rb) → exec (.remu 0 rd ra rb) s = out (if b = 0 then a else w64 (a.toNat - a.toNat / b.toNat * b.toNat))) ∧
    (s.ReadyUnit (.madd 0 rd ra rb rc) → exec (.madd 0 rd ra rb rc) s = out (w64 (a.toNat * b.toNat + (s.g rc).toNat)))

/-- R137, R57: each arithmetic instruction delivers the exact result of its operands, rounded once (R138), and merges its flags. -/
def Obligations.FpArithmetic : Prop :=
  ∀ (rd ra rb rc : BitVec 4) (fs : BitVec 2) (s : State),
    let f := fsFmt fs
    let a := f.ofReg (s.g ra)
    let b := f.ofReg (s.g rb)
    let c := f.ofReg (s.g rc)
    let out (x : Fv) (sticky : Bool) (fl : Flags) : Out := .next (s.fpOut f rd x sticky fl).advance
    (s.ReadyUnit (.fadd 0 rd ra rb fs) → exec (.fadd 0 rd ra rb fs) s = out (a.add s.st.rm b).1 false (a.add s.st.rm b).2) ∧
    (s.ReadyUnit (.fsub 0 rd ra rb fs) → exec (.fsub 0 rd ra rb fs) s = out (a.add s.st.rm b.neg).1 false (a.add s.st.rm b.neg).2) ∧
    (s.ReadyUnit (.fmul 0 rd ra rb fs) → exec (.fmul 0 rd ra rb fs) s = out (a.mul b).1 false (a.mul b).2) ∧
    (s.ReadyUnit (.fma 0 rd ra rb rc fs) → exec (.fma 0 rd ra rb rc fs) s = out (Fv.fma s.st.rm a b c).1 false (Fv.fma s.st.rm a b c).2) ∧
    (s.ReadyUnit (.fdiv 0 rd ra rb fs) → exec (.fdiv 0 rd ra rb fs) s = out (a.div b).1.1 (a.div b).1.2 (a.div b).2) ∧
    (s.ReadyUnit (.fsqrt 0 rd ra fs) → exec (.fsqrt 0 rd ra fs) s = out a.sqrt.1.1 a.sqrt.1.2 a.sqrt.2)

/-- R137, R46, R57: the values those instructions round are exact: sums and products as rational numbers, the product of fma with its
addend in one; a quotient and a root carry at least 66 bits and a mark that says whether something follows them, so that they round as the
exact value does. A zero product or quotient has the sign of its operands together; a zero sum keeps the sign of two like zeros, and is
otherwise -0 in mode rdn and +0 in the others. Infinities follow the IEEE rules, with nv for inf - inf, 0 x inf, inf / inf, 0 / 0 and the
root of a negative, and dz for a quotient by zero. -/
def Obligations.FpExactValues : Prop :=
  ∀ (mode : Rm) (n p q : Bool) (i j l : Nat) (d e x : Int),
    let a := Fv.fin n i d
    let b := Fv.fin p j e
    let c := Fv.fin q l x
    let zero (s : Bool) : Fv := .fin s 0 0
    (a.add mode b).1.rat = a.rat + b.rat ∧ (a.add mode b).2 = 0 ∧ (a.mul b).1.rat = a.rat * b.rat ∧ (a.mul b).2 = 0 ∧
    (Fv.fma mode a b c).1.rat = a.rat * b.rat + c.rat ∧ (Fv.fma mode a b c).2 = 0 ∧
    -- zeros
    (a.rat + b.rat = 0 → (a.add mode b).1 = zero (if i = 0 ∧ j = 0 ∧ n = p then n else mode == rdn)) ∧
    (a.mul b).1.sgn = (n != p) ∧
    (a.rat * b.rat + c.rat = 0 → (Fv.fma mode a b c).1 = zero (if (i = 0 ∨ j = 0) ∧ l = 0 ∧ (n != p) = q then q else mode == rdn)) ∧
    (i = 0 → j ≠ 0 → a.div b = ((zero (n != p), false), 0)) ∧ (i = 0 → a.sqrt = ((zero n, false), 0)) ∧
    -- quotients and roots
    (i ≠ 0 → j ≠ 0 → ∃ (k : Nat) (y : Int), (a.div b).1.1 = .fin (n != p) k y ∧ 2 ^ 65 ≤ k ∧ (a.div b).2 = 0 ∧
      (k : Rat) * 2 ^ y ≤ |a.rat / b.rat| ∧ |a.rat / b.rat| < (k + 1 : Rat) * 2 ^ y ∧
      ((a.div b).1.2 = false ↔ (k : Rat) * 2 ^ y = |a.rat / b.rat|)) ∧
    (i ≠ 0 → n = false → ∃ (k : Nat) (y : Int), a.sqrt.1.1 = .fin false k y ∧ 2 ^ 65 ≤ k ∧ a.sqrt.2 = 0 ∧
      ((k : Rat) * 2 ^ y) ^ 2 ≤ a.rat ∧ a.rat < ((k + 1 : Rat) * 2 ^ y) ^ 2 ∧
      (a.sqrt.1.2 = false ↔ ((k : Rat) * 2 ^ y) ^ 2 = a.rat)) ∧
    (i ≠ 0 → j = 0 → (a.div b).1.1 = .inf (n != p) ∧ (a.div b).2 = fDZ) ∧
    (i = 0 → j = 0 → (a.div b).1.1 = .nan ∧ (a.div b).2 = fNV) ∧
    (i ≠ 0 → n = true → a.sqrt.1.1 = .nan ∧ a.sqrt.2 = fNV) ∧
    -- infinities
    (Fv.inf n).add mode (.inf p) = (if n = p then (.inf n, 0) else (.nan, fNV)) ∧
    (Fv.inf n).add mode b = (.inf n, 0) ∧ b.add mode (.inf n) = (.inf n, 0) ∧
    (Fv.inf n).mul b = (if j = 0 then (.nan, fNV) else (.inf (n != p), 0)) ∧
    b.mul (.inf n) = (if j = 0 then (.nan, fNV) else (.inf (p != n), 0)) ∧ (Fv.inf n).mul (.inf p) = (.inf (n != p), 0) ∧
    (Fv.inf n).div (.inf p) = ((.nan, false), fNV) ∧ (Fv.inf n).div b = ((.inf (n != p), false), 0) ∧
    a.div (.inf p) = ((zero (n != p), false), 0) ∧
    (Fv.inf n).sqrt = (if n then ((.nan, false), fNV) else ((.inf false, false), 0)) ∧
    Fv.fma mode (.inf n) b c = (if j = 0 then (.nan, fNV) else (.inf (n != p), 0)) ∧
    Fv.fma mode a b (.inf q) = (.inf q, 0) ∧
    (j ≠ 0 → Fv.fma mode (.inf n) b (.inf q) = (if (n != p) = q then (.inf q, 0) else (.nan, fNV)))

/-- R56: rounding m + t units of 2^e (0 ≤ t < 1, the mark saying whether t is 0) to multiples of 2^q: toward zero, up, down, or to the
nearest with ties to even; the result is marked inexact exactly when something is lost. R44, R49, R56, R57: what rounding a value to a
format delivers. For (m + t) * 2^e of a sign, nonzero: u is its magnitude rounded in the mode to the format's fraction width with an
unbounded exponent; above the largest finite value it overflows, to an infinity or the largest value as the mode and the format say, with
of and nx; otherwise the code has the sign and the magnitude u, nx is raised exactly when u differs, and uf too when the value lies below
the smallest normal. A zero keeps its sign, an infinity and a NaN are delivered as such where the format has them. R60: stochastic
rounding to BF16 with the advanced generator g: an exact value is delivered as it is; from 2^128 on the infinity; otherwise the neighbour
away from zero when the low 16 bits of g are below floor(f * 65536), f being the part of the last place that is lost, and the neighbour
toward zero when not. An infinity delivered raises of and nx, a changed value nx, and uf below the smallest normal. -/
def Obligations.RoundingModes : Prop :=
  (∀ (neg : Bool) (m : Nat) (e q : Int) (t : Rat), 0 ≤ t → t < 1 → e < q →
     let v : Rat := (m + t) * 2 ^ (e - q)
     let r (mode : Rm) : Nat × Bool := roundAt mode neg m e q (decide (t ≠ 0))
     ((r rtz).1 : Rat) ≤ v ∧ v < (r rtz).1 + 1 ∧
     (neg = false → v ≤ (r rup).1 ∧ ((r rup).1 : Rat) < v + 1 ∧ r rdn = r rtz) ∧
     (neg = true → v ≤ (r rdn).1 ∧ ((r rdn).1 : Rat) < v + 1 ∧ r rup = r rtz) ∧
     |((r rne).1 : Rat) - v| ≤ 1 / 2 ∧ (|((r rne).1 : Rat) - v| = 1 / 2 → (r rne).1 % 2 = 0) ∧
     (∀ mode, (r mode).2 = false ↔ v = (r rtz).1)) ∧
  (∀ (f : FpFmt) (mode : Rm) (neg : Bool) (m : Nat) (e top : Int) (t : Rat), f ∈ [fp64, fp32, bf16, fp16, e4m3, e5m2, fp4] →
     m ≠ 0 → 0 ≤ t → t < 1 → (2 : Rat) ^ top ≤ (m + t) * 2 ^ e → (m + t) * (2 : Rat) ^ e < 2 ^ (top + 1) →
     let v : Rat := (m + t) * 2 ^ e
     let emin : Int := 1 - f.bias
     let q : Int := max top emin - f.fbits
     let u : Rat := (roundAt mode neg m e q (decide (t ≠ 0))).1 * 2 ^ q
     let largest := (f.value f.maxCode).rat
     let r := f.round mode (.fin neg m e) (decide (t ≠ 0))
     let z := f.round mode (.fin neg 0 e)
     (t = 0 ∨ e < q → largest < u → r.2 = fOF ||| fNX ∧
       ((f.kind = .ieee ∧ (mode = rne ∨ (mode = rup ∧ neg = false) ∨ (mode = rdn ∧ neg = true)) → f.value r.1 = .inf neg) ∧
       (¬ (f.kind = .ieee ∧ (mode = rne ∨ (mode = rup ∧ neg = false) ∨ (mode = rdn ∧ neg = true))) →
         (f.value r.1).rat = if neg then -largest else largest))) ∧
     (t = 0 ∨ e < q → u ≤ largest → (∃ k y, f.value r.1 = .fin neg k y ∧ (k : Rat) * 2 ^ y = u) ∧
       r.2 = if u = v then 0 else if v < 2 ^ emin then fNX ||| fUF else fNX) ∧
     ((∃ y, f.value z.1 = .fin neg 0 y) ∧ z.2 = 0) ∧
     (f.kind = .ieee → f.value (f.round mode (.inf neg)).1 = .inf neg ∧ (f.round mode (.inf neg)).2 = 0) ∧
     (f.kind = .e4m3 → f.value (f.round mode (.inf neg)).1 = .nan ∧ (f.round mode (.inf neg)).2 = fNV) ∧
     (f.kind = .fp4 → (f.value (f.round mode (.inf neg)).1).rat = (if neg then -6 else 6) ∧ (f.round mode (.inf neg)).2 = fNV) ∧
     (f.kind = .fp4 → f.round mode .nan = (0, fNV)) ∧ (f.kind ≠ .fp4 → f.round mode .nan = (f.canonNaN, 0) ∧ f.value f.canonNaN = .nan)) ∧
  (∀ (g : BitVec 32) (neg : Bool) (m : Nat) (e top : Int) (t : Rat), m ≠ 0 → 0 ≤ t → t < 1 →
     (2 : Rat) ^ top ≤ (m + t) * 2 ^ e → (m + t) * (2 : Rat) ^ e < 2 ^ (top + 1) →
     let v : Rat := (m + t) * 2 ^ e
     let q : Int := max top (-126) - 7
     let lo : Nat := ⌊v / 2 ^ q⌋₊
     let n : Nat := if g.toNat % 65536 < ⌊(v / 2 ^ q - lo) * 65536⌋₊ then lo + 1 else lo
     let r := roundStoch g (.fin neg m e) (decide (t ≠ 0))
     let big : Rat := 2 ^ (128 : Int)
     (big ≤ v → bf16.value r.1 = .inf neg ∧ r.2 = fOF ||| fNX) ∧
     (v < big → t = 0 ∨ e + 16 ≤ q →
       (big ≤ n * 2 ^ q → bf16.value r.1 = .inf neg ∧ r.2 = fOF ||| fNX) ∧
       ((n : Rat) * 2 ^ q < big → (∃ k y, bf16.value r.1 = .fin neg k y ∧ (k : Rat) * 2 ^ y = n * 2 ^ q) ∧
         r.2 = if v = lo * 2 ^ q then 0 else if v < 2 ^ (-126 : Int) then fNX ||| fUF else fNX)) ∧
     (∃ y, bf16.value (roundStoch g (.fin neg 0 e)).1 = .fin neg 0 y ∧ (roundStoch g (.fin neg 0 e)).2 = 0) ∧
     bf16.value (roundStoch g (.inf neg)).1 = .inf neg ∧ (roundStoch g (.inf neg)).2 = 0 ∧ roundStoch g .nan = (bf16.canonNaN, 0))

/-- R136, R138, R60: a delivered result fills rd with the code and zeros above it; its flags are merged; rngs advances once exactly when
the result is BF16 on a compute core with sw.sr = 1. Nothing else of the machine changes. -/
def Obligations.FpDelivery : Prop :=
  ∀ (f : FpFmt) (rd : BitVec 4) (x : Fv) (sticky : Bool) (fl : Flags) (s : State),
    let t := s.fpOut f rd x sticky fl
    let on := f = bf16 ∧ s.st.sr = true ∧ isCompute s.core = true
    let rng := rngStep (s.me.rngs.setWidth 32)
    (¬ on → (rd ≠ 0 → t.g rd = w64 (f.round s.st.rm x sticky).1) ∧ t.st.flags = s.st.flags ||| fl ||| (f.round s.st.rm x sticky).2 ∧
      t.me.rngs = s.me.rngs) ∧
    (on → (rd ≠ 0 → t.g rd = w64 (roundStoch rng x sticky).1) ∧ t.st.flags = s.st.flags ||| fl ||| (roundStoch rng x sticky).2 ∧
      t.me.rngs = rng.setWidth 64) ∧
    t.g 0 = 0 ∧ (∀ r, r ≠ rd → t.g r = s.g r) ∧ s.st.SameRest t.st ∧ t.st.pc = s.st.pc ∧ s.OnlyCore t s.core ∧
    (∀ y, y ≠ s.ctx → t.strandAt s.core y = s.strandAt s.core y) ∧
    t.me = { s.me with ctxs := t.me.ctxs, rngs := t.me.rngs }

/-- R137, R139: minima and maxima (a NaN operand gives the canonical NaN, -0 is below +0), comparisons (false with a NaN), sign injection
and the class mask; none of them raises a flag, and the minimum and maximum are delivered as a result is (R138). R139, R58: conversion to
an integer rounds in the mode of sw.rm; a NaN gives 0 and a value out of range the nearest end, both with nv; a changed value raises nx.
Conversion from an integer and between formats delivers the exact value rounded. -/
def Obligations.FpComparesAndConversions : Prop :=
  (∀ (rd ra rb : BitVec 4) (sj fs : BitVec 2) (s : State),
     let f := fsFmt fs
     let a := f.ofReg (s.g ra)
     let b := f.ofReg (s.g rb)
     let less := a.cmp b < 0 ∨ (a.cmp b = 0 ∧ a.sgn = true ∧ b.sgn = false)
     let nan := a.isNaN = true ∨ b.isNaN = true
     let out (v : Word) : Out := .next (s.setG rd v).advance
     let ca := (s.g ra).toNat % 2 ^ f.width
     let cb := (s.g rb).toNat % 2 ^ f.width
     let sign (c : Nat) : Bool := c.testBit (f.width - 1)
     let neg := if sj = 0 then sign cb else if sj = 1 then !sign cb else xor (sign ca) (sign cb)
     (s.ReadyUnit (.fmin 0 rd ra rb fs) → ∃ x : Fv, exec (.fmin 0 rd ra rb fs) s = .next (s.fpOut f rd x false 0).advance ∧
       (s.fpOut f rd x false 0).st.flags = s.st.flags ∧ (nan → x = .nan) ∧ (¬ nan → x = if less then a else b)) ∧
     (s.ReadyUnit (.fmax 0 rd ra rb fs) → ∃ x : Fv, exec (.fmax 0 rd ra rb fs) s = .next (s.fpOut f rd x false 0).advance ∧
       (s.fpOut f rd x false 0).st.flags = s.st.flags ∧ (nan → x = .nan) ∧ (¬ nan → x = if less then b else a)) ∧
     (s.ReadyUnit (.feq 0 rd ra rb fs) → exec (.feq 0 rd ra rb fs) s = out (if ¬ nan ∧ a.cmp b = 0 then 1 else 0)) ∧
     (s.ReadyUnit (.flt 0 rd ra rb fs) → exec (.flt 0 rd ra rb fs) s = out (if ¬ nan ∧ a.cmp b < 0 then 1 else 0)) ∧
     (s.ReadyUnit (.fle 0 rd ra rb fs) → exec (.fle 0 rd ra rb fs) s = out (if ¬ nan ∧ a.cmp b ≤ 0 then 1 else 0)) ∧
     (s.ReadyUnit (.fsgnj 0 rd ra rb sj fs) → exec (.fsgnj 0 rd ra rb sj fs) s =
       out (w64 ((if neg then 2 ^ (f.width - 1) else 0) + ca % 2 ^ (f.width - 1)))) ∧
     (s.ReadyUnit (.fclass 0 rd ra fs) → exec (.fclass 0 rd ra fs) s = out (w64 (match a with
       | .inf true => 1
       | .fin true m _ => if m = 0 then 8 else if 2 ^ f.fbits ≤ m then 2 else 4
       | .fin false m _ => if m = 0 then 16 else if 2 ^ f.fbits ≤ m then 64 else 32
       | .inf false => 128
       | .nan => 256)))) ∧
  (∀ (rd ra : BitVec 4) (u : BitVec 1) (width src fs : BitVec 2) (s : State),
     let f := fsFmt fs
     let bits := 8 * 2 ^ width.toNat
     let lo : Int := if u = 1 then 0 else -(2 ^ (bits - 1))
     let hi : Int := if u = 1 then 2 ^ bits - 1 else 2 ^ (bits - 1) - 1
     let out (v : Int) (fl : Flags) : Out := .next ((s.setG rd (i64 v)).mergeFlags fl).advance
     (s.ReadyUnit (.fcvti 0 rd ra u width fs) → exec (.fcvti 0 rd ra u width fs) s = match f.ofReg (s.g ra) with
       | .nan => out 0 fNV
       | .inf n => out (if n then lo else hi) fNV
       | .fin n m e =>
         let r := roundAt s.st.rm n m e 0 false
         let v : Int := if n then -(r.1 : Int) else r.1
         if hi < v then out hi fNV else if v < lo then out lo fNV else out v (if r.2 then fNX else 0)) ∧
     (s.ReadyUnit (.fcvtf 0 rd ra u width fs) → exec (.fcvtf 0 rd ra u width fs) s =
       .next (s.fpOut f rd (Fv.ofInt (if u = 1 then ((s.g ra).toNat % 2 ^ bits : Nat) else sextI (s.g ra).toNat bits)) false 0).advance) ∧
     (s.ReadyUnit (.fcvt 0 rd ra src fs) → exec (.fcvt 0 rd ra src fs) s =
       .next (s.fpOut f rd ((fsFmt src).ofReg (s.g ra)) false 0).advance))

/-- R13, R57, R119: what a scalar operation leaves as it was: every register but rd (g0 reads as zero whatever is written to it), every
flag but those it merges, the rest of sw, the trap registers, every other strand and core, every special register but rngs under R60, and
every byte of memory. -/
def Obligations.ScalarFrame : Prop :=
  ∀ (i : Instr) (rd : BitVec 4) (s : State), i.target = some rd → s.Ready i → (i.unit ≠ 0 → s.ReadyUnit i) →
    ∃ t, exec i s = .next t ∧ t.st.pc = s.st.pc + 4 ∧ t.g 0 = 0 ∧ (∀ r, r ≠ rd → t.g r = s.g r) ∧ s.st.SameRest t.st ∧
      s.st.flags ||| t.st.flags = t.st.flags ∧ (i.mergesFlags = false → t.st.flags = s.st.flags) ∧
      (i.delivers ≠ some bf16 ∨ s.st.sr = false ∨ isCompute s.core = false → t.me.rngs = s.me.rngs) ∧
      s.OnlyCore t s.core ∧ (∀ y, y ≠ s.ctx → t.strandAt s.core y = s.strandAt s.core y) ∧
      t.me = { s.me with ctxs := t.me.ctxs, rngs := t.me.rngs }

/-- R130, R131, R135: a load from a local address that passes its checks writes rd with the bytes, sign- or zero-extended; the read powers
the bank up, and it and its page walk correct the single-bit errors they meet (R289, R313). R130, R131, R318: a store to the scratchpad,
or at a saddle, writes the low bytes of rd at the address at once; one to the own valley store is a posted write, which is performed at
once when no earlier request of the core is under way to that store, and follows those that are; it is on its way too when the store's
saddle is out of reach (log 20). -/
def Obligations.LocalAccesses : Prop :=
  (∀ (rd ra : BitVec 4) (off : BitVec 11) (s : State) (pa : Nat),
     let ga := s.globalOf s.core pa
     let d := saddleOf (pkgOf s.core) pa
     let addr (n : Nat) : Int := ((s.g ra).toNat : Int) + off.toInt * n
     let at' (n : Nat) : Prop := s.accPhys (addr n) n .rd = .ok pa ∧ s.isLocal s.core pa = true ∧ s.badIn ga n = none ∧
       (isStorePa pa = true → s.queuedTo d = false ∧ s.flyingTo d s.me.seqNo = false)
     let out (n : Nat) (v : Word) : Out := .next (((((s.xlated (addr n).toNat n).power ga).scrub ga n).setG rd v).advance)
     let raw (n : Nat) : Nat := ofLe (s.bytes ga n)
     (s.ReadyUnit (.ldb 0 rd ra off) → at' 1 → exec (.ldb 0 rd ra off) s = out 1 (i64 (sextI (raw 1) 8))) ∧
     (s.ReadyUnit (.ldbu 0 rd ra off) → at' 1 → exec (.ldbu 0 rd ra off) s = out 1 (w64 (raw 1))) ∧
     (s.ReadyUnit (.ldh 0 rd ra off) → at' 2 → exec (.ldh 0 rd ra off) s = out 2 (i64 (sextI (raw 2) 16))) ∧
     (s.ReadyUnit (.ldhu 0 rd ra off) → at' 2 → exec (.ldhu 0 rd ra off) s = out 2 (w64 (raw 2))) ∧
     (s.ReadyUnit (.ldw 0 rd ra off) → at' 4 → exec (.ldw 0 rd ra off) s = out 4 (i64 (sextI (raw 4) 32))) ∧
     (s.ReadyUnit (.ldwu 0 rd ra off) → at' 4 → exec (.ldwu 0 rd ra off) s = out 4 (w64 (raw 4))) ∧
     (s.ReadyUnit (.ldd 0 rd ra off) → at' 8 → exec (.ldd 0 rd ra off) s = out 8 (w64 (raw 8)))) ∧
  (∀ (i : Instr) (rd ra : BitVec 4) (off : BitVec 11) (n : Nat) (s : State) (pa : Nat),
     (i = .stb 0 rd ra off ∧ n = 1) ∨ (i = .sth 0 rd ra off ∧ n = 2) ∨ (i = .stw 0 rd ra off ∧ n = 4) ∨ (i = .std 0 rd ra off ∧ n = 8) →
     let addr : Int := ((s.g ra).toNat : Int) + off.toInt * n
     let ga := s.globalOf s.core pa
     let d := saddleOf (pkgOf s.core) pa
     let here := isSpPa pa = true ∨ isSaddle s.core = true
     let put (u : State) : State := ((u.power ga).cleared ga n).poke ga (leBytes n (s.g rd).toNat)
     let walked := s.xlated addr.toNat n
     let counted := walked.modMe fun k => { k with seqNo := k.seqNo + 1 }
     s.ReadyUnit i → s.accPhys addr n .wr = .ok pa → s.isLocal s.core pa = true → s.badPart ga n = none →
       (here → exec i s = .next (put walked).advance) ∧
       (¬ here → s.queuedTo d = false → s.flyingTo d s.me.seqNo = false → s.away d = false → exec i s = .next (put counted).advance) ∧
       (¬ here → s.queuedTo d = false → (s.flyingTo d s.me.seqNo = true ∨ s.away d = true) → exec i s =
         .next (counted.post s.core d 0 s.ctx s.st.lix s.me.seqNo (.store pa n addr.toNat (s.g rd))).advance))

/-- R130: a store changes no byte of memory but the ones it stores, at the address it computes; a load changes none. Registers other than
a load's destination, flags, the rest of sw and every special register stay. -/
def Obligations.LoadStoreFrame : Prop :=
  ∀ (i : Instr) (ra : BitVec 4) (off : BitVec 11) (n : Nat) (k : Acc) (s : State) (pa : Nat), i.access = some (ra, off, n, k) →
    let ga := s.globalOf s.core pa
    let d := saddleOf (pkgOf s.core) pa
    s.ReadyUnit i → s.accPhys (accAddr s.st.g ra off n) n k = .ok pa → s.isLocal s.core pa = true → s.badIn ga n = none →
    s.queuedTo d = false → s.flyingTo d s.me.seqNo = false → (isStorePa pa = true → s.away d = false) →
    ∃ t, exec i s = .next t ∧ t.st.pc = s.st.pc + 4 ∧ t.st.flags = s.st.flags ∧ s.st.SameRest t.st ∧
      (∀ a, (k = .rd ∨ a < ga ∨ ga + n ≤ a) → t.byte a = s.byte a) ∧
      (k = .wr → ∃ v : Word, t.bytes ga n = leBytes n v.toNat ∧ (∀ r, t.g r = s.g r)) ∧
      (∀ r, (i.regs s.me.fmt s.me.tshape).2.contains r.toNat = false → t.g r = s.g r) ∧
      (∀ c, c ≠ s.core → t.coreAt c = s.coreAt c) ∧
      (∀ y, y ≠ s.ctx → t.strandAt s.core y = s.strandAt s.core y) ∧ t.net = s.net ∧
      t.me = { s.me with ctxs := t.me.ctxs, seqNo := t.me.seqNo }

/-- R132 to R134: a load or store whose address is not local leaves its core with its strand, for the saddle of the address; the context
it leaves is free, and the strand travels with its registers and its pc, at the instruction that moves it. (That a composed core hands
back at the access itself, wherever it stands in its block of 8 instructions, is log 62.) R133: a remote access of a pinned strand traps
with PINNED_REMOTE, info its address, with bit 63 set in a handler. R130: an address that is no multiple of the size traps with MISALIGN,
and one outside the 48-bit space with TRANSLATION, info the address; the second only when the first does not. -/
def Obligations.RemoteAndBadAddresses : Prop :=
  (∀ (i : Instr) (ra : BitVec 4) (off : BitVec 11) (n : Nat) (k : Acc) (s : State) (pa : Nat), i.access = some (ra, off, n, k) →
     let d := saddleOf (pkgOf s.core) pa
     s.Ready i → s.accPhys (accAddr s.st.g ra off n) n k = .ok pa → s.isLocal s.core pa = false → s.st.hnd = false → s.st.pin = false →
     s.linkDown s.core d = false → s.away d = false → (s.places.any fun e => s.unacked e.1 e.2) = false →
     s.report (fun q => q == 0) = none →
     ∃ t f u, exec i s = .next t ∧ t.strandAt s.core s.ctx = {} ∧ t.net.getLast? = some f ∧ t.net.length = s.net.length + 1 ∧ f.src = s.core ∧
       f.dst = d ∧
       f.pay = .migr u ∧ u.g = s.st.g ∧ u.pc = s.st.pc ∧ u.flags = s.st.flags ∧ u.rm = s.st.rm ∧ u.sys = s.st.sys ∧
       u.lix = s.st.lix ∧ u.cmp = false ∧ (∀ a, t.byte a = s.byte a) ∧
       (∀ y, y ≠ s.ctx → s.st.cmp = false → t.strandAt s.core y = s.strandAt s.core y)) ∧
  (∀ (i : Instr) (ra : BitVec 4) (off : BitVec 11) (n : Nat) (k : Acc) (s : State) (pa : Nat), i.access = some (ra, off, n, k) →
     let addr := accAddr s.st.g ra off n
     s.Ready i → s.accPhys addr n k = .ok pa → s.isLocal s.core pa = false → (s.st.hnd = true ∨ s.st.pin = true) →
     exec i s = .next ((s.xlated addr.toNat n).raise { code := 0x14, info := i64 addr ||| (if s.st.hnd then 0x8000000000000000 else 0) })) ∧
  (∀ (i : Instr) (ra : BitVec 4) (off : BitVec 11) (n : Nat) (k : Acc) (s : State), i.access = some (ra, off, n, k) → s.ReadyUnit i →
     let addr := accAddr s.st.g ra off n
     (addr % n ≠ 0 → exec i s = .next (s.raise { code := 0x10, info := i64 addr })) ∧
     (addr % n = 0 → addr < 0 ∨ 2 ^ 48 ≤ addr → exec i s = .next (s.raise { code := 0x11, info := i64 addr })))

/-- R141, R24 to R26: crr reads a control register into rd; crw, crs and crc write it, set bits of it, clear bits of it, and read its old
value; read-only bits keep theirs. fmt, tsc and rngs are written when no vector or matrix work of the core is pending or interrupted (R26,
R61, R177), rngs when no scalar result that may draw from it is (R93). R24 to R36, R346: what is stored in a control register its core
holds is what it reads afterwards; rngs never holds 0; no other control register changes, but that sw and fflags share the flags. -/
def Obligations.ControlRegisters : Prop :=
  (∀ (i : Instr) (rd ra : BitVec 4) (cr : BitVec 12) (new : Word) (s : State),
     let n := cr.toNat
     let old := s.crGet n
     (s.Ready (.crr rd cr) → exec (.crr rd cr) s = .next (s.setG rd old).advance) ∧
     ((i = .crw rd ra cr ∧ new = s.g ra) ∨ (i = .crs rd ra cr ∧ new = old ||| s.g ra) ∨ (i = .crc rd ra cr ∧ new = old &&& ~~~(s.g ra)) →
       s.Ready i →
       (crCompute n = true ∧ isCompute s.core = false → exec i s = .next (s.raise { code := 0x01, info := i.word })) ∧
       (crCompute n = false ∨ isCompute s.core = true → (crLate n = false ∨ s.vecBusy = false) → (n = 6 → s.drawBusy = false) →
         (new &&& crReserved n ≠ 0 ∨ crRange n new = false → exec i s = .next (s.raise { code := 0x02, info := w64 n })) ∧
         (new &&& crReserved n = 0 → crRange n new = true →
           exec i s = .next ((s.crPut n ((new &&& ~~~(crRo n)) ||| (old &&& crRo n))).setG rd old).advance)))) ∧
  (∀ (n : Nat) (v : Word) (s : State), crAssigned n = true → (crCompute n = false ∨ isCompute s.core = true) →
     v &&& crReserved n = 0 → s.crGet n &&& crReserved n = 0 →
     let w := (v &&& ~~~(crRo n)) ||| (s.crGet n &&& crRo n)
     (s.crPut n w).crGet n = (if n = 6 ∧ w = 0 then 1 else w) ∧
     (∀ m, m ≠ n → ¬(n ≤ 1 ∧ m ≤ 1) → (s.crPut n w).crGet m = s.crGet m) ∧
     (n ≤ 1 → ∀ m, m ≤ 1 → m ≠ n → (s.crPut n w).st.flags = (if n = 0 then w.extractLsb' 59 5 else w.extractLsb' 0 5)))

/-- R143, R349: svc, trap and brk take their exception when no trap is active and a handler is installed: the cause, the code as info, the
pc, the next pc and the upper half of sw are saved, the strand goes on at the handler in system mode, and nothing in its registers
changes; a message handler whose launch has not ended is aborted and keeps its message (R353). R350: with no handler installed, or while a
trap is being handled, a trap stops the strand: its context is free, and its launch ends with the trap's cause, info and pc, and reason 0
or 1. -/
def Obligations.TrapsTaken : Prop :=
  (∀ (i : Instr) (cause : BitVec 8) (code : BitVec 12) (s : State),
     (i = .svc code ∧ cause = 0x08) ∨ (i = .trap code ∧ cause = 0x09) ∨ (i = .brk code ∧ cause = 0x0A) →
     s.Ready i → bitsOf s.me.tvec 47 2 ≠ 0 → s.st.tAct = false → (s.st.hnd = true → s.over s.st.lix = false) →
     ∃ t, exec i s = .next t ∧ t.st.tCode = cause ∧ t.st.tInfo = code.setWidth 64 ∧ t.st.tPc = s.st.pc ∧ t.st.tCont = s.st.pc + 4 ∧
       t.st.tRe = false ∧ t.st.tAct = true ∧ t.st.tW = 0 ∧ t.st.tCmp = s.st.cmp ∧ t.st.tHab = s.st.hnd ∧ t.st.tDfr = false ∧
       t.st.tSwHi = ({ s.st with cmp := false }.sw).extractLsb' 48 16 ∧
       t.st.pc = BitVec.ofNat 48 (bitsOf s.me.tvec 47 2 * 4) ∧ t.st.sys = true ∧ t.st.hnd = false ∧ t.st.cmp = false ∧
       t.st.flags = s.st.flags ∧ t.st.rm = s.st.rm ∧ t.st.prio = s.st.prio ∧ (∀ r, t.g r = s.g r) ∧
       (s.st.hnd = false → t.st.tMsg = s.st.tMsg) ∧ (∀ a, t.byte a = s.byte a) ∧
       (t.me.tcount = s.me.tcount + 1 ∨ (0xFFFFFFFF ≤ s.me.tcount.toNat ∧ t.me.tcount = s.me.tcount)) ∧
       (∀ c, c ≠ s.core → c ∉ s.me.members → t.coreAt c = s.coreAt c)) ∧
  (∀ (i : Instr) (cause : Nat) (code : BitVec 12) (s : State) (l : Nat),
     (i = .svc code ∧ cause = 0x08) ∨ (i = .trap code ∧ cause = 0x09) ∨ (i = .brk code ∧ cause = 0x0A) →
     s.Ready i → (bitsOf s.me.tvec 47 2 = 0 ∨ s.st.tAct = true) → s.st.cmp = false → s.st.lix = some l → (s.launchAt l).why = none →
     (s.launchAt l).st ≠ .done → (s.st.hnd = true → s.over s.st.lix = false) →
     ∃ t, exec i s = .next t ∧ (t.strandAt s.core s.ctx).life = .free ∧ (t.launchAt l).st = .ended ∧
       (t.launchAt l).why = some (cause, code.setWidth 64, s.st.pc.toNat, if bitsOf s.me.tvec 47 2 = 0 then 0 else 1) ∧
       (∀ a, t.byte a = s.byte a))

/-- R352: tret without an active trap raises TRET_STATE. With one it restores the upper half of sw from tswhi; when tcause.re is 0
execution continues at tcont and the held traps are dropped (DEDUCED, log 25), otherwise the trapped instruction executes again at tpc,
after which it continues where the trap said. -/
def Obligations.TrapReturns : Prop :=
  ∀ s : State, s.Ready .tret →
    (s.st.tAct = false → exec .tret s = .next (s.raise { code := 0x0B, info := 0xF8007000 })) ∧
    (s.st.tAct = true → s.st.tHab = false → ∃ t, exec .tret s = .next t ∧ t.st.tAct = false ∧
      t.st.sw.extractLsb' 50 14 = s.st.tSwHi.extractLsb' 2 14 ∧ (∀ r, t.g r = s.g r) ∧ (∀ a, t.byte a = s.byte a) ∧
      t.st.tPc = s.st.tPc ∧ t.st.tCont = s.st.tCont ∧ t.st.tCode = s.st.tCode ∧ t.st.tInfo = s.st.tInfo ∧
      (s.st.tRe = false → t.st.pc = s.st.tCont ∧ t.st.replay = none ∧ t.st.held = [] ∧
        (mstepAct s.me.mstep = true ∧ mstepCtx s.me.mstep = s.ctx → t.me.mstep = 0)) ∧
      (s.st.tRe = true → t.st.pc = s.st.tPc ∧ t.st.held = s.st.held ∧ t.me.mstep = s.me.mstep ∧
        t.st.replay = some (if s.st.tW = 0 then none else some (s.st.tW.toNat, s.st.tCont))))

/-- R145, R19, R20, R146: nop does nothing but go on; pin and unpin set and clear sw.pin, unpin when no interrupted macro-operation of the
strand awaits its replay, else it waits; await suspends the strand behind it until a wake event, or until AWAIT_WAKE, which makes it ready
again. -/
def Obligations.NopPinAwait : Prop :=
  ∀ (s : State) (c x : Nat),
    (s.Ready .nop → exec .nop s = .next s.advance) ∧
    (s.Ready .pin → exec .pin s = .next (s.modSt fun t => { t with pin := true }).advance) ∧
    (s.Ready .unpin → ¬(mstepAct s.me.mstep = true ∧ mstepCtx s.me.mstep = s.ctx) →
      exec .unpin s = .next (s.modSt fun t => { t with pin := false }).advance) ∧
    (s.Ready .unpin → mstepAct s.me.mstep = true → mstepCtx s.me.mstep = s.ctx → exec .unpin s = .next { s with stalled := true }) ∧
    (s.Ready .await → s.st.hnd = true → exec .await s = .next (s.raise { code := 0x31, info := 0xF8009000 })) ∧
    (s.Ready .await → s.st.hnd = false → ∃ t, exec .await s = .next t ∧ t.st.awaiting = true ∧ t.st.life = .waiting ∧
      t.st.pc = s.st.pc + 4 ∧ (∀ r, t.g r = s.g r) ∧ s.st.SameRest t.st ∧ t.st.flags = s.st.flags ∧
      (t.wakeCore s.core).st.awaiting = false ∧ (t.wakeCore s.core).st.life = .ready) ∧
    ((s.strandAt c x).awaiting = true → ∃ t, exec (.awaitWake c x) s = .next t ∧
      t.strandAt c x = { s.strandAt c x with awaiting := false, life := .ready, since := s.tick } ∧
      (∀ a, t.byte a = s.byte a) ∧ (∀ d, d ≠ c → t.coreAt d = s.coreAt d))

/-- R88, R89, R142: before an instruction does anything, a control register of no register, a core that does not accept it, and a
privileged instruction or register in user mode are refused in this order, with ILLEGAL_OP, the cause of R89 and PRIV, info the
instruction word. -/
def Obligations.DecodeTraps : Prop :=
  ∀ (i : Instr) (s : State), i.isEvent = false → s.Clear → s.unitBusy i.unit = false →
    let saddle := isSaddle s.core
    let wrong : Option Nat := match i.cls with
      | .all => none
      | .compute => if saddle then some 0x06 else if isCompute s.core then none else some 0x05
      | .spire => if saddle then some 0x06 else none
      | .saddle => if saddle then none else some 0x07
    (i.unassigned = true → exec i s = .next (s.raise { code := 0x01, info := i.word })) ∧
    (∀ c, i.unassigned = false → wrong = some c → exec i s = .next (s.raise { code := c, info := i.word })) ∧
    (i.unassigned = false → wrong = none → i.priv = true → s.st.sys = false →
      exec i s = .next (s.raise { code := 0x04, info := i.word }))

/-- R90, R91, R94: an instruction of a unit with a window stays pending, and execution goes on behind it. Any instruction of another unit,
but one that waits for all earlier work and a load or store, that writes a register which the pending one reads or writes traps with
LOOKAHEAD_CONFLICT, info the pending instruction's pc. R90, R91: so does every instruction of the other units but a load or store, unless
a check at its issue traps, or a message finds the send queue full and waits (R214); sw.pin is set by then for those of the vector and
matrix units (R19; before their own checks: DEDUCED, log 32), and nothing is written or sent. -/
def Obligations.LookaheadWindows : Prop :=
  (∀ (i : Instr) (rd : BitVec 4) (s : State), i.target = some rd → i.unit = 1 → s.Ready i → 0 < i.la →
     ∃ t p, exec i s = .next t ∧ t.st.pend = [p] ∧ p.instr = i ∧ p.pc = s.st.pc ∧ p.win = i.la ∧ p.com = true ∧ p.g = s.st.g ∧
       p.rngs = s.me.rngs ∧ p.trap = none ∧ t.st.pc = s.st.pc + 4 ∧ (∀ r, t.g r = s.g r) ∧ s.OnlyCore t s.core ∧
       (∀ (j : Instr) (r : Nat), j.isEvent = false → waitsAll j = false → j.access = none → j.unit ≠ 1 → s.Accepts j →
         r ∈ (j.regs s.me.fmt s.me.tshape).2 → (r ∈ (i.regs s.me.fmt s.me.tshape).1 ∨ r ∈ (i.regs s.me.fmt s.me.tshape).2) →
         exec j t = .next (t.modSt fun u => { u with found := some ({ code := 0x03, info := s.st.pc.setWidth 64 }, u.pc) }))) ∧
  (∀ (i : Instr) (s : State), i.isEvent = false → i.unit ≠ 2 → 0 < i.la → s.Ready i →
     ∃ (u : State) (p : Prep) (x : Trap), (exec i s = .next (u.accept i i.la true false false p) ∨ exec i s = .next (u.raise x) ∨
         (i.unit = 5 ∧ s.me.sqFull = true ∧ exec i s = .next ((u.modSt fun t => { t with waitSq := true }).stall true))) ∧
       u.st = (s.start i).st ∧ u.net = s.net ∧ (∀ a, u.byte a = s.byte a) ∧ (∀ c, c ≠ s.core → u.coreAt c = s.coreAt c))

/-- R90, R93, R96, R97: LONG_LATENCY_COMPLETE performs the pending instruction whose turn it is with the registers, dflt, sqcfg and rngs
as they stood at its issue, and with what it read and checked there; the window closes when it is done, and a strand that waited for it is
ready (R339). -/
def Obligations.LongLatencyCompletes : Prop :=
  ∀ (k : Nat) (p : Pend) (f : Eff) (s u : State), matOf p.instr = none → effOf p.instr = some f → s.me.turn k = [(s.ctx, p)] → p.com = true →
    (k = 4 → s.me.frozen = false) →
    f { g := p.g, tag := p.order, pc := p.pc, prep := p.prep }
      (s.modMe fun k => { k with dflt := p.dflt, sqcfg := p.sqcfg, rngs := p.rngs }) = .done u →
    u.core = s.core → u.ctx = s.ctx → u.st.pend = [p] → u.st.replay = none → u.st.found = none → u.st.ended = false →
    ∃ t, exec (.longLatencyComplete s.core k) s = .next t ∧
      t.st = { u.st with pend := [], life := if p.yields then .ready else u.st.life, since := t.st.since } ∧
      t.me.dflt = s.me.dflt ∧ t.me.sqcfg = s.me.sqcfg ∧ (p.rngs = s.me.rngs → t.me.rngs = u.me.rngs) ∧
      (∀ a, t.byte a = u.byte a) ∧ (∀ y, y ≠ s.ctx → t.strandAt s.core y = u.strandAt s.core y)

/-! ### Vector -/

/-- R155 to R157: ptrset and ptrdim write a pointer's inner and outer dimension, ptrset with the outer one reset; a base or stride that is
no multiple of 64 traps with MISALIGN, an address above 48 bits or an index not below its count with RESERVED_FIELD. ptrget reads a
pointer. (The info of ptrdim's MISALIGN is log 23; that sw.pin is set before a trap is log 32.) -/
def Obligations.PointerRegisters : Prop :=
  ∀ (vd vs1 vs2 : BitVec 4) (s : State),
    let b := s.g vs1
    let v := s.g vs2
    let count (w : Word) : Nat := if w.extractLsb' 32 16 = 0 then 65536 else (w.extractLsb' 32 16).toNat
    let old : Ptr := fget {} s.me.ptr vd.toNat
    let p : Ptr := fget {} s.me.ptr vs1.toNat
    let setP (q : Ptr) : Out := .next (s.pinned.modMe fun k => { k with ptr := fset k.ptr vd.toNat q }).advance
    (s.ReadyUnit (.ptrset 0 vd vs1 vs2) →
      (b.toNat < 2 ^ 48 → b.toNat % 64 = 0 → v.toNat % 64 = 0 → (v.extractLsb' 48 16).toNat < count v →
        exec (.ptrset 0 vd vs1 vs2) s = setP { base := b.setWidth 48, s1 := v.setWidth 32, c1 := v.extractLsb' 32 16,
                                               i1 := v.extractLsb' 48 16, s2 := 0, c2 := 1, i2 := 0 }) ∧
      (2 ^ 48 ≤ b.toNat → exec (.ptrset 0 vd vs1 vs2) s = .next (s.pinned.raise { code := 0x02, info := b })) ∧
      (b.toNat < 2 ^ 48 → b.toNat % 64 ≠ 0 ∨ v.toNat % 64 ≠ 0 →
        exec (.ptrset 0 vd vs1 vs2) s = .next (s.pinned.raise { code := 0x10, info := b })) ∧
      (b.toNat < 2 ^ 48 → b.toNat % 64 = 0 → v.toNat % 64 = 0 → count v ≤ (v.extractLsb' 48 16).toNat →
        exec (.ptrset 0 vd vs1 vs2) s = .next (s.pinned.raise { code := 0x02, info := v }))) ∧
    (s.ReadyUnit (.ptrdim 0 vd vs1) →
      (b.toNat % 64 = 0 → (b.extractLsb' 48 16).toNat < count b → exec (.ptrdim 0 vd vs1) s =
        setP { old with s2 := b.setWidth 32, c2 := b.extractLsb' 32 16, i2 := b.extractLsb' 48 16 }) ∧
      (b.toNat % 64 ≠ 0 → exec (.ptrdim 0 vd vs1) s = .next (s.pinned.raise { code := 0x10, info := b })) ∧
      (b.toNat % 64 = 0 → count b ≤ (b.extractLsb' 48 16).toNat →
        exec (.ptrdim 0 vd vs1) s = .next (s.pinned.raise { code := 0x02, info := b }))) ∧
    (s.ReadyUnit (.ptrget 0 vd vs1 vs2) → exec (.ptrget 0 vd vs1 vs2) s = .next ((s.pinned.setG vd
      (match vs2.toNat with
       | 0 => i64 ((((p.base.toNat : Int) + p.i1.toNat * p.s1.toInt + p.i2.toNat * p.s2.toInt) % 2 ^ 48 + 2 ^ 48) % 2 ^ 48)
       | 1 => p.base.setWidth 64
       | 2 => p.i1 ++ p.c1 ++ p.s1
       | _ => p.i2 ++ p.c2 ++ p.s2)).advance))

/-- R158, R159, R149: each arithmetic instruction computes every enabled element of the destination block from the same elements of its
sources, F elements by the exact result rounded, I elements saturated; the others keep their bytes; vfma also reads vd. R158, R160: minima
and maxima, magnitudes and negations (of F elements only the sign changes), bitwise functions of codes, shifts (a full-width shift leaves
0, or the sign), of every enabled element. (That vmin and vmax draw no random number is log 29; that a bitwise function counts no reserved
code is log 59.) R74, R75: while the tag check is on, an instruction that reads a line as elements of a format takes them as they are when
the line's tag is that format; converts the enabled ones, their flags raised, when the tag is another format of the same width and
fmt.tagact is 0; and traps with FMT_MISMATCH otherwise, the line's address, its tag and the format in the info. Said of vadd, vsub and
vmul, whose sources' banks are powered. (That sw.pin is set before the trap is log 32.) -/
def Obligations.VectorElementwise : Prop :=
  (∀ (i : Instr) (vd vs1 vs2 pm : BitVec 4) (s : State) (bs : List (List Blk)) (ds : List Blk) (peek : Bool)
     (ff : Rm → List Fv → Fv × Flags) (fi : List Int → Int),
     let x := bitsOf s.me.fmt 3 0
     let w := fmtWidth x
     let src (k : BitVec 4) : Src := { k := k, n := 1, fmt := some x }
     (i = .vadd 0 vd vs1 vs2 pm ∧ peek = false ∧ (ff = fun m x => (f0 x).add m (f1 x)) ∧ (fi = fun x => i0 x + i1 x)) ∨
     (i = .vsub 0 vd vs1 vs2 pm ∧ peek = false ∧ (ff = fun m x => (f0 x).add m (f1 x).neg) ∧ (fi = fun x => i0 x - i1 x)) ∨
     (i = .vmul 0 vd vs1 vs2 pm ∧ peek = false ∧ (ff = fun _ x => (f0 x).mul (f1 x)) ∧ (fi = fun x => i0 x * i1 x)) ∨
     (i = .vfma 0 vd vs1 vs2 pm ∧ peek = true ∧ (ff = fun m x => Fv.fma m (f0 x) (f1 x) (f2 x)) ∧ (fi = fun x => i0 x * i1 x + i2 x)) →
     isFI x = true → s.VecReady i [src vs1, src vs2] vd 1 (if peek then .rw else .wr) bs ds →
     ∃ t, exec i s = .next t ∧ (∀ r, t.g r = s.g r) ∧
       s.VecOut t [src vs1, src vs2] vd x ds
         (mapEls (s.on pm) (fun e => arith ff fi s.ctl s.elem ((bs ++ (if peek then [ds] else [])).map fun b => elt w (s.value b) e))
           (512 / w) 0 s.calm)) ∧
  (∀ (i : Instr) (vd vs1 vs2 pm : BitVec 4) (s : State) (bs : List (List Blk)) (ds : List Blk) (two : Bool)
     (f : List Nat → Raise → Nat × Raise),
     let x := bitsOf s.me.fmt 3 0
     let w := fmtWidth x
     let el := s.elem
     let c := s.ctl
     let src (k : BitVec 4) : Src := { k := k, n := 1, fmt := some x }
     let srcs := if two then [src vs1, src vs2] else [src vs1]
     let a (l : List Nat) : Nat := l.getD 0 0
     let b (l : List Nat) : Nat := l.getD 1 0
     let lim (v : Int) : Nat := codeI w (clampI (intLo el c.uns) (intHi el c.uns) v)
     let val2 (g : Int → Int → Nat) (l : List Nat) (r : Raise) : Nat × Raise :=
       let u := r.int el c.uns (a l)
       let v := u.2.int el c.uns (b l)
       (g u.1 v.1, v.2)
     let val1 (g : Int → Nat) (l : List Nat) (r : Raise) : Nat × Raise :=
       let u := r.int el c.uns (a l)
       (g u.1, u.2)
     (i = .vmin 0 vd vs1 vs2 pm ∧ two = true ∧ isFI x = true ∧ f = (match el with
       | .f g => fun l r => ((g.round rne (Fv.minmax false (g.value (a l)) (g.value (b l)))).1, r)
       | _ => val2 fun u v => lim (min u v))) ∨
     (i = .vmax 0 vd vs1 vs2 pm ∧ two = true ∧ isFI x = true ∧ f = (match el with
       | .f g => fun l r => ((g.round rne (Fv.minmax true (g.value (a l)) (g.value (b l)))).1, r)
       | _ => val2 fun u v => lim (max u v))) ∨
     (i = .vabs 0 vd vs1 pm ∧ two = false ∧ isFI x = true ∧ f = (match el with
       | .f g => fun l r => (a l % 2 ^ (g.width - 1), r)
       | _ => val1 fun u => lim |u|)) ∨
     (i = .vneg 0 vd vs1 pm ∧ two = false ∧ isFI x = true ∧ f = (match el with
       | .f g => fun l r => (a l ^^^ 2 ^ (g.width - 1), r)
       | _ => val1 fun u => lim (-u))) ∨
     (i = .vand 0 vd vs1 vs2 pm ∧ two = true ∧ isFI x = true ∧ f = fun l r => (a l &&& b l, r)) ∨
     (i = .vor 0 vd vs1 vs2 pm ∧ two = true ∧ isFI x = true ∧ f = fun l r => (a l ||| b l, r)) ∨
     (i = .vxor 0 vd vs1 vs2 pm ∧ two = true ∧ isFI x = true ∧ f = fun l r => (a l ^^^ b l, r)) ∨
     (i = .vshl 0 vd vs1 vs2 pm ∧ two = true ∧ isI x = true ∧ f = fun l r =>
       val1 (fun u => if w ≤ b l then 0 else codeI w (u * 2 ^ b l)) l r) ∨
     (i = .vshr 0 vd vs1 vs2 pm ∧ two = true ∧ isI x = true ∧ f = fun l r =>
       val1 (fun u => codeI w (u / 2 ^ Nat.min (b l) w)) l r) →
     s.VecReady i srcs vd 1 .wr bs ds →
     ∃ t, exec i s = .next t ∧ (∀ r, t.g r = s.g r) ∧
       s.VecOut t srcs vd x ds (mapEls (s.on pm) (fun e => f (bs.map fun b => elt w (s.value b) e)) (512 / w) 0 s.calm)) ∧
  (∀ (i : Instr) (vd vs1 vs2 pm : BitVec 4) (s : State) (b0 b1 : Blk) (ds : List Blk) (ff : Rm → List Fv → Fv × Flags)
     (fi : List Int → Int),
     let x := bitsOf s.me.fmt 3 0
     let w := fmtWidth x
     let src (k : BitVec 4) : Src := { k := k, n := 1, fmt := some x }
     let tag (b : Blk) : Nat := if b.ga < 2 ^ 60 then x else s.tagAt b.ga
     let fits (b : Blk) : Bool := tag b == x || (decide (tag b ≤ 12) && fmtWidth (tag b) == w && !s.me.fmt.getLsbD 14)
     let code (b : Blk) (e : Nat) : Nat := elt w (ofLe (s.bytes b.ga 64)) e
     let conv (b : Blk) (e : Nat) (r : Raise) : Nat × Raise :=
       if tag b = x then (code b e, r) else r.conv s.ctl false ((elemOf (tag b)).getD (.i 8)) s.elem (code b e)
     let all (b : Blk) (r : Raise) : Raise := ((List.range (512 / w)).filter (s.on pm)).foldl (fun r e => (conv b e r).2) r
     let refuse (b : Blk) : Out := .next (s.pinned.raise
       { code := 0x21, info := w64 (b.va / 64 * 64 + tag b * 2 ^ 48 + x * 2 ^ 52) })
     (i = .vadd 0 vd vs1 vs2 pm ∧ (ff = fun m x => (f0 x).add m (f1 x)) ∧ (fi = fun x => i0 x + i1 x)) ∨
     (i = .vsub 0 vd vs1 vs2 pm ∧ (ff = fun m x => (f0 x).add m (f1 x).neg) ∧ (fi = fun x => i0 x - i1 x)) ∨
     (i = .vmul 0 vd vs1 vs2 pm ∧ (ff = fun _ x => (f0 x).mul (f1 x)) ∧ (fi = fun x => i0 x * i1 x)) →
     isFI x = true → s.me.fmt.getLsbD 15 = true → s.VecSet i [src vs1, src vs2] vd 1 .wr [[b0], [b1]] ds →
     s.power b0.ga = s → s.power b1.ga = s →
     (fits b0 = true → fits b1 = true → ∃ t, exec i s = .next t ∧ (∀ r, t.g r = s.g r) ∧
       s.VecOut t [src vs1, src vs2] vd x ds
         (mapEls (s.on pm) (fun e => arith ff fi s.ctl s.elem [(conv b0 e {}).1, (conv b1 e {}).1]) (512 / w) 0 (all b1 (all b0 s.calm)))) ∧
     (fits b0 = false → exec i s = refuse b0) ∧ (fits b0 = true → fits b1 = false → exec i s = refuse b1))

/-- R53, R161, R162: vsel takes each element from vs1 or vs2 as the predicate says, a reserved code read as 0 and counted, and writes all
of them; vperm takes, for an enabled element, the element of vs1 that byte e of vs2 names, or 0 when it names none; vbcast writes the low
bits of a register. (That vsel reads and counts only the elements it selects is log 59.) R161: a compare writes a predicate: the bit of an
enabled element is the relation of its operands (with a NaN only ne holds), every other bit is 0; memory does not change. -/
def Obligations.VectorSelectsAndCompares : Prop :=
  (∀ (vd vs1 vs2 pm : BitVec 4) (s : State) (bs : List (List Blk)) (ds : List Blk),
     let x := bitsOf s.me.fmt 3 0
     let w := fmtWidth x
     let src (k : BitVec 4) : Src := { k := k, n := 1, fmt := some x, dis := false }
     let v (k e : Nat) : Nat := elt w (s.value (bs.getD k [])) e
     let sel (e : Nat) : Nat := if s.on pm e then v 0 e else v 1 e
     let read (c : Nat) : Nat × Bool := match s.elem with
       | .f _ => (c, false)
       | el => (codeI el.width (intVal el s.ctl.uns c).1, (intVal el s.ctl.uns c).2)
     let some' (f : Nat → Nat) : List (Nat × Nat) := ((List.range (512 / w)).filter (s.on pm)).map fun e => (e, f e)
     (isFI x = true → s.VecReady (.vsel 0 vd vs1 vs2 pm) [src vs1, src vs2] vd 1 .wr bs ds →
       ∃ t, exec (.vsel 0 vd vs1 vs2 pm) s = .next t ∧ (∀ r, t.g r = s.g r) ∧
         s.VecOut t [src vs1, src vs2] vd x ds ((List.range (512 / w)).map fun e => (e, (read (sel e)).1),
           { s.calm with sub := ((List.range (512 / w)).filter fun e => (read (sel e)).2).length })) ∧
     (isW8 x = true → s.VecReady (.vperm 0 vd vs1 vs2 pm) [src vs1, { k := vs2, n := 1, fmt := none }] vd 1 .wr bs ds →
       ∃ t, exec (.vperm 0 vd vs1 vs2 pm) s = .next t ∧ (∀ r, t.g r = s.g r) ∧
         s.VecOut t [src vs1, { k := vs2, n := 1, fmt := none }] vd x ds
           (some' fun e =>
             let j := elt 8 (s.value (bs.getD 1 [])) e
             if j < 512 / w then v 0 j else 0, s.calm)) ∧
     (isFI x = true → s.VecReady (.vbcast 0 vd vs1 pm) [] vd 1 .wr bs ds →
       ∃ t, exec (.vbcast 0 vd vs1 pm) s = .next t ∧ (∀ r, t.g r = s.g r) ∧
         s.VecOut t [] vd x ds (some' fun _ => (s.g vs1).toNat, s.calm))) ∧
  (∀ (i : Instr) (vd vs1 vs2 pm : BitVec 4) (s : State) (bs : List (List Blk)) (test : Option Int → Bool),
     let x := bitsOf s.me.fmt 3 0
     let w := fmtWidth x
     let src (k : BitVec 4) : Src := { k := k, n := 1, fmt := some x }
     (i = .vcmpEq 0 vd vs1 vs2 pm ∧ test = fun v => match v with | some d => d == 0 | none => false) ∨
     (i = .vcmpNe 0 vd vs1 vs2 pm ∧ test = fun v => match v with | some d => d != 0 | none => true) ∨
     (i = .vcmpLt 0 vd vs1 vs2 pm ∧ test = fun v => match v with | some d => decide (d < 0) | none => false) ∨
     (i = .vcmpLe 0 vd vs1 vs2 pm ∧ test = fun v => match v with | some d => decide (d ≤ 0) | none => false) →
     isFI x = true → s.VecReady i [src vs1, src vs2] 0 0 .wr bs [] →
     let rel (e : Nat) : Bool := test (cmpEl s.ctl s.elem (elt w (s.value (bs.getD 0 [])) e) (elt w (s.value (bs.getD 1 [])) e) {}).1
     ∃ t r, exec i s = .next t ∧ s.VecDone t (s.ptrsAfter [src vs1, src vs2] 0 0) r ∧ r.fl = 0 ∧ (∀ j, t.g j = s.g j) ∧
       t.me.va = s.me.va ∧ (∀ a, t.byte a = s.byte a) ∧ (∀ k, k ≠ vd.toNat → fget 0 t.me.q k = fget 0 s.me.q k) ∧
       ∀ e, e < 128 → (fget (0 : BitVec 128) t.me.q vd.toNat).getLsbD e = (decide (e < 512 / w) && s.on pm e && rel e))

/-- R163 to R165: vcvt converts elements from a named format to fmt.elem; vcvt.s divides by a block's scale and converts, or multiplies by
it (an element of a block with a NaN scale gives NaN or 0, and nv, and each such block is counted); vpack saturates INT8 to INT4 or
ternary, vunpack widens them. (That vcvt to the same format, and vcvt.s in a NaN-scaled block, count no reserved code is log 59.) -/
def Obligations.VectorConversions : Prop :=
  ∀ (vd vs1 vs2 pm : BitVec 4) (quant : BitVec 1) (sreg : BitVec 3) (s : State) (bs : List (List Blk)) (ds : List Blk),
    let x := bitsOf s.me.fmt 3 0
    let w := fmtWidth x
    let v (wy e : Nat) : Nat := elt wy (s.value (bs.getD 0 [])) e
    (let y := vs2.toNat
     let n := 512 / Nat.min w (fmtWidth y)
     let srcs : List Src := [{ k := vs1, n := n * fmtWidth y / 512, fmt := some y }]
     isFI x = true → isFI y = true → s.VecReady (.vcvt 0 vd vs1 vs2 pm) srcs vd (n * w / 512) .wr bs ds →
      ∃ t, exec (.vcvt 0 vd vs1 vs2 pm) s = .next t ∧ (∀ r, t.g r = s.g r) ∧ s.VecOut t srcs vd x ds
        (mapEls (s.on pm) (fun e => cvtEl s.ctl ((elemOf y).getD (.i 8)) s.elem (v (fmtWidth y) e)) n 0 s.calm)) ∧
    (let a := accCode s.me.fmt
     let n := 512 / w
     let nw := n * fmtWidth a / 512
     let q := quant == 1
     let y := if q then a else x
     let z := if q then x else a
     let srcs : List Src := [{ k := vs1, n := if q then nw else 1, fmt := some y }]
     let g : BitVec 4 := 8 + sreg.setWidth 4
     let sc (b : Nat) : Fv := scaleOf (bitsOf s.me.fmt 9 8) [s.g g, s.g (g + 1)] b
     let dst := (elemOf z).getD (.i 8)
     let bad (e : Nat) : Bool := (sc (e / blkLen s.me.fmt)).isNaN
     let none' : Nat := match dst with | .f f => f.canonNaN | _ => 0
     let el (e : Nat) (r : Raise) : Nat × Raise :=
       if bad e then (none', r.flag fNV)
       else scaledEl s.ctl q ((elemOf y).getD (.i 8)) dst (sc (e / blkLen s.me.fmt)) (v (fmtWidth y) e) r
     let m := mapEls (s.on pm) el n 0 s.calm
     let nans := (List.range (n / blkLen s.me.fmt)).filter fun b =>
       (sc b).isNaN && (List.range n).any fun e => s.on pm e && e / blkLen s.me.fmt == b
     isScl x = true → isF a = true → (8 < vecNb s.me.fmt → sreg ≠ 7) →
      s.VecReady (.vcvtS 0 vd vs1 quant sreg pm) srcs vd (if q then 1 else nw) .wr bs ds →
      ∃ t, exec (.vcvtS 0 vd vs1 quant sreg pm) s = .next t ∧ (∀ r, t.g r = s.g r) ∧ s.VecOut t srcs vd z ds
        (m.1, { m.2 with nan := m.2.nan + nans.length })) ∧
    (let n := 512 / w
     let uns := s.ctl.uns && x == 8
     let srcs : List Src := [{ k := vs1, n := n / 64, fmt := some 7 }]
     isPack x = true → s.VecReady (.vpack 0 vd vs1) srcs vd 1 .wr bs ds →
      ∃ t, exec (.vpack 0 vd vs1) s = .next t ∧ (∀ r, t.g r = s.g r) ∧ s.VecOut t srcs vd x ds
        ((List.range n).map fun e => (e, codeI w (clampI (intLo s.elem uns) (intHi s.elem uns)
          (if uns then (v 8 e : Int) else sextI (v 8 e) 8))), s.calm)) ∧
    (let n := 512 / w
     let uns := s.ctl.uns && x == 8
     let srcs : List Src := [{ k := vs1, n := 1, fmt := some x }]
     isPack x = true → s.VecReady (.vunpack 0 vd vs1) srcs vd (n / 64) .wr bs ds →
      ∃ t r, exec (.vunpack 0 vd vs1) s = .next t ∧ (∀ j, t.g j = s.g j) ∧ s.VecOut t srcs vd 7 ds
        ((List.range n).map fun e => (e, codeI 8 (intVal s.elem uns (v w e)).1), r) ∧ r.fl = 0 ∧
        r.sub = ((List.range n).filter fun e => (intVal s.elem uns (v w e)).2).length)

/-- R166, R167: a reduction updates each lane of va that an enabled element falls to, element e to lane e modulo 32: F lanes by the exact
sum, or the greatest or least, rounded once to nearest even, I lanes saturated at 32 bits and wrapped at 64; vdot.s adds one block-scaled
sum to lane 0. Memory does not change. (That a maximum or minimum into an INT32 lane saturates is log 29.) R167: vdot.s adds the
block-scaled dot product of R63 to lane 0 of va, in which a disabled element counts as zero. -/
def Obligations.VectorReductions : Prop :=
  (∀ (i : Instr) (vs1 vs2 pm : BitVec 4) (s : State) (bs : List (List Blk)),
     let x := bitsOf s.me.fmt 3 0
     let w := fmtWidth x
     let aw := fmtWidth (accCode s.me.fmt)
     let acc := if aw = 64 then fp64 else fp32
     let src (k : BitVec 4) : Src := { k := k, n := 1, fmt := some x }
     let srcs := match i with
       | .vdot _ _ _ _ => [src vs1, src vs2]
       | .vdotS _ _ _ _ _ => [src vs1, src vs2]
       | _ => [src vs1]
     let c (k e : Nat) : Nat := elt w (s.value (bs.getD k [])) e
     let els (l : Nat) : List Nat := (List.range (512 / w)).filter fun e => s.on pm e && e % 32 == l
     let fv (f : FpFmt) (k e : Nat) : Fv := f.value (c k e)
     let iv (k e : Nat) : Int := (intVal s.elem s.ctl.uns (c k e)).1
     let cur (l : Nat) : Nat := s.me.lane l
     let cf (l : Nat) : Fv := acc.value (cur l)
     let ci (l : Nat) : Int := (intVal (.i aw) s.ctl.uns (cur l)).1
     let lim (v : Int) : Nat := if aw = 64 then codeI 64 v else codeI aw (clampI (intLo (.i aw) s.ctl.uns) (intHi (.i aw) s.ctl.uns) v)
     let fit (v : Int) : Nat := codeI aw (clampI (intLo (.i aw) s.ctl.uns) (intHi (.i aw) s.ctl.uns) v)
     let sumF (l : Nat) (ts : List Fv) : Nat := (acc.round rne ((cf l).add rne (sumFv rne ts).1).1).1
     (i = .vdot 0 vs1 vs2 pm ∨ i = .vsum 0 vs1 pm ∨ i = .vredMax 0 vs1 pm ∨ i = .vredMin 0 vs1 pm) →
     isFI x = true → isF x = isF (accCode s.me.fmt) → s.VecReady i srcs 0 0 .wr bs [] →
     ∃ t r, exec i s = .next t ∧ s.VecDone t (s.ptrsAfter srcs 0 0) r ∧ (∀ j, t.g j = s.g j) ∧ t.me.q = s.me.q ∧
       (∀ a, t.byte a = s.byte a) ∧ ∀ l, l < 32 → t.me.lane l =
         (if els l = [] then cur l
          else match s.elem, i with
          | .f f, .vdot _ _ _ _ => sumF l ((els l).map fun e => ((fv f 0 e).mul (fv f 1 e)).1)
          | .f f, .vsum _ _ _ => sumF l ((els l).map (fv f 0))
          | .f f, .vredMax _ _ _ => (acc.round rne (((els l).map (fv f 0)).foldl (Fv.minmax true) (cf l))).1
          | .f f, _ => (acc.round rne (((els l).map (fv f 0)).foldl (Fv.minmax false) (cf l))).1
          | _, .vdot _ _ _ _ => lim (ci l + ((els l).map fun e => iv 0 e * iv 1 e).sum)
          | _, .vsum _ _ _ => lim (ci l + ((els l).map (iv 0)).sum)
          | _, .vredMax _ _ _ => fit (((els l).map (iv 0)).foldl max (ci l))
          | _, _ => fit (((els l).map (iv 0)).foldl min (ci l))) % 2 ^ aw) ∧
  (∀ (vd vs1 vs2 pm : BitVec 4) (s : State) (bs : List (List Blk)),
     let fmt := s.me.fmt
     let x := bitsOf fmt 3 0
     let w := fmtWidth x
     let acc := if fmtWidth (accCode fmt) = 64 then fp64 else fp32
     let src (k : BitVec 4) : Src := { k := k, n := 1, fmt := some x }
     let two := 8 < vecNb fmt
     let ra := if vd = 0 then [] else if two then [s.g vd, s.g (vd + 1)] else [s.g vd]
     let rb := if vd = 0 then [] else if two then [s.g (vd + 2), s.g (vd + 3)] else [s.g (vd + 1)]
     let val (k e : Nat) : Fv := if s.on pm e then (match s.elem with
       | .f f => f.value (elt w (s.value (bs.getD k [])) e)
       | el => Fv.ofInt (intVal el s.ctl.uns (elt w (s.value (bs.getD k [])) e)).1) else .fin false 0 0
     let vals (k : Nat) : List Fv := (List.range (512 / w)).map (val k)
     let sum := (scaledSum (blkLen fmt) (bitsOf fmt 9 8) (vecNb fmt) (scaleOf (bitsOf fmt 9 8) ra) (scaleOf (bitsOf fmt 9 8) rb)
       s.me.tsc (vals 0) (vals 1) {}).1
     isScl x = true → isF (accCode fmt) = true → (vd ≠ 0 → vd.toNat + (if two then 4 else 2) ≤ 16) →
     s.VecReady (.vdotS 0 vd vs1 vs2 pm) [src vs1, src vs2] 0 0 .wr bs [] →
     ∃ t r, exec (.vdotS 0 vd vs1 vs2 pm) s = .next t ∧ s.VecDone t (s.ptrsAfter [src vs1, src vs2] 0 0) r ∧ (∀ j, t.g j = s.g j) ∧
       t.me.q = s.me.q ∧ (∀ a, t.byte a = s.byte a) ∧ (∀ l, 0 < l → t.me.lane l = s.me.lane l) ∧
       t.me.lane 0 = (acc.round rne ((acc.value (s.me.lane 0)).add rne (fp32.value sum)).1).1 % 2 ^ fmtWidth (accCode fmt))

/-- R168, R169: vacc.clr writes every lane, vacc.st stores the enabled lanes, vacc.rd reads a lane, or folds all of them in ascending
order: the sum, of F lanes rounded at each addition, of INT32 lanes saturated and counted at each, of INT64 lanes wrapped; or the greatest
or the least lane. An FP32 value is zero-extended, an INT32 value sign-extended. -/
def Obligations.VectorAccumulator : Prop :=
  ∀ (vd vs1 vs2 pm : BitVec 4) (s : State) (ds : List Blk),
    let a := accCode s.me.fmt
    let aw := fmtWidth a
    let lane (l : Nat) : Nat := s.me.lane l
    let rest : List Nat := (List.range 31).map fun l => lane (l + 1)
    let iv (c : Nat) : Int := if s.ctl.uns then (c : Int) else sextI c aw
    let lo : Int := if s.ctl.uns then 0 else -2 ^ 31
    let hi : Int := if s.ctl.uns then 2 ^ 32 - 1 else 2 ^ 31 - 1
    let addF (f : FpFmt) (x : Nat × Flags) (y : Nat) : Nat × Flags :=
      let v := (f.value x.1).add rne (f.value y)
      ((f.round rne v.1).1, x.2 ||| v.2 ||| (f.round rne v.1).2)
    let add32 (x : Nat × Nat) (y : Nat) : Nat × Nat :=
      let v := iv x.1 + iv y
      let c := max lo (min hi v)
      ((c % 2 ^ 32).toNat, if c = v then x.2 else x.2 + 1)
    let best (isMax : Bool) (f : FpFmt) : Nat × Flags :=
      f.round rne ((rest.map f.value).foldl (Fv.minmax isMax) (f.value (lane 0)))
    let rd : Instr := .vaccRd 0 vd vs1 vs2
    let read (t : State) (v : Nat) (fl : Flags) (sat : Nat) : Prop :=
      s.VecDone t s.me.ptr { s.calm with fl := fl, sat := sat } ∧ t.me.q = s.me.q ∧ t.me.va = s.me.va ∧ (∀ b, t.byte b = s.byte b) ∧
        (∀ r, r ≠ vd → t.g r = s.g r) ∧ (vd ≠ 0 → t.g vd = if a = 11 then i64 (sextI v 32) else w64 v)
    (s.ReadyUnit (.vaccClr 0 vs1) → ∃ t, exec (.vaccClr 0 vs1) s = .next t ∧ (∀ l, l < 32 → t.me.lane l = (s.g vs1).toNat % 2 ^ aw) ∧
      (∀ j, t.g j = s.g j) ∧ (∀ b, t.byte b = s.byte b) ∧ t.st.pc = s.st.pc + 4 ∧ t.st.pin = true ∧ t.me.q = s.me.q ∧
      t.me.ptr = s.me.ptr) ∧
    (s.VecReady (.vaccSt 0 vd pm) [] vd (32 * aw / 512) .wr [] ds → ∃ t, exec (.vaccSt 0 vd pm) s = .next t ∧ (∀ j, t.g j = s.g j) ∧
      s.VecDone t (s.ptrsAfter [] vd (32 * aw / 512)) s.calm ∧ t.me.q = s.me.q ∧ t.me.va = s.me.va ∧
      s.Wrote t ds aw (((List.range 32).filter (s.on pm)).map fun l => (l, s.me.lane l))) ∧
    (s.ReadyUnit rd →
      (vs2 = 0 → ∃ t, exec rd s = .next t ∧ read t (lane ((s.g vs1).toNat % 32)) 0 0) ∧
      (∀ f, vs2 = 1 → elemOf a = some (.f f) → ∃ t, exec rd s = .next t ∧
        read t (rest.foldl (addF f) (lane 0, 0)).1 (rest.foldl (addF f) (lane 0, 0)).2 0) ∧
      (vs2 = 1 → a = 11 → ∃ t, exec rd s = .next t ∧
        read t (rest.foldl add32 (lane 0, 0)).1 0 (rest.foldl add32 (lane 0, 0)).2) ∧
      (vs2 = 1 → a = 12 → ∃ t, exec rd s = .next t ∧ read t (((iv (lane 0) + (rest.map iv).sum) % 2 ^ 64).toNat) 0 0) ∧
      (∀ f, vs2 = 2 ∨ vs2 = 3 → elemOf a = some (.f f) → ∃ t, exec rd s = .next t ∧
        read t (best (vs2 == 2) f).1 (best (vs2 == 2) f).2 0) ∧
      (vs2 = 2 ∨ vs2 = 3 → isF a = false → ∃ t m, exec rd s = .next t ∧ read t (lane m) 0 0 ∧ m < 32 ∧
        ∀ l, l < 32 → if vs2 = 2 then iv (lane l) ≤ iv (lane m) else iv (lane m) ≤ iv (lane l)))

/-- R170, R69 to R73: each enabled element becomes its defined base-2 exponential, reciprocal or reciprocal square root: computed in the
element's own format for FP32 and FP64, and in FP32, then rounded, for BF16 and FP16. -/
def Obligations.VectorApproximations : Prop :=
  ∀ (i : Instr) (vd vs1 pm : BitVec 4) (s : State) (bs : List (List Blk)) (ds : List Blk) (g : FpFmt → Nat → Nat × Flags),
    let x := bitsOf s.me.fmt 3 0
    let w := fmtWidth x
    let f : FpFmt := if x = 0 then fp64 else if x = 1 then fp32 else if x = 2 then bf16 else fp16
    let src : Src := { k := vs1, n := 1, fmt := some x }
    let lane (e : Nat) (r : Raise) : Nat × Raise :=
      let a := elt w (s.value (bs.getD 0 [])) e
      if x ≤ 1 then ((g f a).1, r.flag (g f a).2)
      else
        let v := g fp32 (fp32.round rne (f.value a)).1
        (r.flag v.2).deliver s.ctl f (fp32.value v.1)
    ((i = .vexp2 0 vd vs1 pm ∧ (g = fun _ c => (exp2a c, 0)) ∧ 1 ≤ x) ∨ (i = .vrcp 0 vd vs1 pm ∧ g = rcpFp) ∨
      (i = .vrsqrt 0 vd vs1 pm ∧ g = rsqrtFp)) → x ≤ 3 →
    s.VecReady i [src] vd 1 .wr bs ds →
    ∃ t, exec i s = .next t ∧ (∀ r, t.g r = s.g r) ∧ s.VecOut t [src] vd x ds (mapEls (s.on pm) lane (512 / w) 0 s.calm)

/-- R171 to R173: vgath reads each enabled element from base + index × width in the scratchpad, and vscat writes it there, lower elements
first, so that of two at one address the higher one stays; vcprs packs the enabled elements, a reserved code read as 0 and counted, into
the low ones, clears the rest and counts them; vhamf appends the numbers of the enabled keys within the radius to a list, advancing its
address, and the key number by 8. (That vcprs counts the reserved codes it packs is log 59.) -/
def Obligations.VectorGatherAndFilter : Prop :=
  ∀ (vd vs1 vs2 pm : BitVec 4) (s : State) (bs : List (List Blk)) (ds : List Blk) (es : List (Nat × Blk)),
    let x := bitsOf s.me.fmt 3 0
    let w := fmtWidth x
    let n := w / 8
    let on := (List.range (64 / n)).filter (s.on pm)
    let idx (k : Nat) : Nat := s.value (bs.getD k [])
    let at' (base k : Nat) : List (Nat × Nat) := on.map fun e => (e, base + elt 32 (idx k) e * n)
    (let srcs : List Src := [{ k := vs2, n := (64 / n + 15) / 16, fmt := some 11, uns := true }]
     isW8 x = true → (s.g vs1).toNat % n = 0 → s.spElems .rd n (at' (s.g vs1).toNat 0) = .ok es →
      s.VecReady (.vgath 0 vd vs1 vs2 pm) srcs vd 1 .wr bs ds →
      ∃ t, exec (.vgath 0 vd vs1 vs2 pm) s = .next t ∧ (∀ r, t.g r = s.g r) ∧
        s.VecOut t srcs vd x ds (es.map fun e => (e.1, ofLe (s.bytes e.2.ga n)), s.calm)) ∧
    (let srcs : List Src := [{ k := vs1, n := 1, fmt := some x }, { k := vs2, n := (64 / n + 15) / 16, fmt := some 11, uns := true }]
     isW8 x = true → (s.g vd).toNat % n = 0 → s.spElems .wr n (at' (s.g vd).toNat 1) = .ok es →
      s.VecReady (.vscat 0 vd vs1 vs2 pm) srcs 0 0 .wr bs [] →
      ∃ t, exec (.vscat 0 vd vs1 vs2 pm) s = .next t ∧ (∀ r, t.g r = s.g r) ∧ s.VecDone t (s.ptrsAfter srcs 0 0) s.calm ∧
        (∀ j, j < es.length → (∀ k, j < k → k < es.length → (es.getD k (0, ⟨0, 0⟩)).2.ga ≠ (es.getD j (0, ⟨0, 0⟩)).2.ga) →
          ofLe (t.bytes (es.getD j (0, ⟨0, 0⟩)).2.ga n) = elt w (idx 0) (es.getD j (0, ⟨0, 0⟩)).1) ∧
        (∀ a, (∀ e ∈ es, a < e.2.ga ∨ e.2.ga + n ≤ a) → t.byte a = s.byte a)) ∧
    (let srcs : List Src := [{ k := vs1, n := 1, fmt := some x }]
     let all := (List.range (512 / w)).filter (s.on pm)
     let read (c : Nat) : Nat × Bool := match s.elem with
       | .f _ => (c, false)
       | el => (codeI el.width (intVal el s.ctl.uns c).1, (intVal el s.ctl.uns c).2)
     isFI x = true → s.VecReady (.vcprs 0 vd vs1 vs2 pm) srcs vd 1 .wr bs ds →
      ∃ t, exec (.vcprs 0 vd vs1 vs2 pm) s = .next t ∧ (vs2 ≠ 0 → t.g vs2 = w64 all.length) ∧ (∀ r, r ≠ vs2 → t.g r = s.g r) ∧
        s.VecOut t srcs vd x ds ((List.range (512 / w)).map fun e => (e, (all.map fun j => (read (elt w (idx 0) j)).1).getD e 0),
          { s.calm with sub := (all.filter fun j => (read (elt w (idx 0) j)).2).length })) ∧
    (let srcs : List Src := [{ k := vs1, n := 1, fmt := none }]
     let par := s.g (vs2 + 1)
     let hits := (List.range 8).filter fun j =>
       s.on pm j && decide (popCount 64 (elt 64 (idx 0) j ^^^ (s.g vs2).toNat) ≤ Nat.min (bitsOf par 6 0) 64)
     let l := (s.g vd).toNat
     l % 4 = 0 → vd ≠ 0 → vs2 + 1 ≠ 0 → vd ≠ vs2 + 1 →
      s.spElems .wr 4 ((List.range hits.length).map fun i => (i, l + 4 * i)) = .ok es →
      (es.Pairwise fun a b => a.2.ga + 4 ≤ b.2.ga ∨ b.2.ga + 4 ≤ a.2.ga) →
      s.VecReady (.vhamf 0 vd vs1 vs2 pm) srcs 0 0 .wr bs [] →
      ∃ t, exec (.vhamf 0 vd vs1 vs2 pm) s = .next t ∧ t.g vd = w64 (l + 4 * hits.length) ∧
        t.g (vs2 + 1) = w64 (bitsOf par 31 0 + (bitsOf par 63 32 + 8) % 2 ^ 32 * 2 ^ 32) ∧
        (∀ r, r ≠ vd → r ≠ vs2 + 1 → t.g r = s.g r) ∧ s.VecDone t (s.ptrsAfter srcs 0 0) s.calm ∧
        (∀ e ∈ es, ofLe (t.bytes e.2.ga 4) = (bitsOf par 63 32 + hits.getD e.1 0) % 2 ^ 32) ∧
        (∀ a, (∀ e ∈ es, a < e.2.ga ∨ e.2.ga + 4 ≤ a) → t.byte a = s.byte a))

/-! ### Matrix -/

/-- R175, R176, R202: tcfg writes tshape when no accumulator is in use and traps with TCFG_IN_USE, info the accumulators in use, when one
is; tcfg.d restores every accumulator to its reset value and writes tshape; a value that R175 does not allow traps with RESERVED_FIELD.
mwait completes when no drain of its strand waits in the engine and none of them failed. (That sw.pin is set before a trap is log 32.)
R195, R206: mzero restores an accumulator to its reset values and marks it unused; mmov copies one with its row state; mexc reads the four
exception counters, each held at 16 bits, and with clr sets them to 0. -/
def Obligations.MatrixConfigurationAndMoves : Prop :=
  (∀ (ga : BitVec 4) (s : State),
     let v := s.g ga
     let new : Word := (v.extractLsb' 0 32).setWidth 64
     let ok := v.extractLsb' 32 32 = 0 ∧ (isDome v || isMacro v) = true
     let free := s.unitBusy 4 = false ∧ mstepAct s.me.mstep = false
     (s.Ready (.tcfg ga) → free → ok → s.me.tshape.extractLsb' 32 4 = 0 →
       exec (.tcfg ga) s = .next (s.pinned.modMe fun k => { k with tshape := new }).advance) ∧
     (s.Ready (.tcfg ga) → free → ok → s.me.tshape.extractLsb' 32 4 ≠ 0 →
       exec (.tcfg ga) s = .next (s.pinned.raise { code := 0x20, info := (s.me.tshape.extractLsb' 32 4).setWidth 64 })) ∧
     (∀ i, i = .tcfg ga ∨ i = .tcfgD ga → s.Ready i → mstepAct s.me.mstep = false → ¬ ok →
       exec i s = .next (s.pinned.raise { code := 0x02, info := v })) ∧
     (s.Ready (.tcfgD ga) → free → ok → ∃ t, exec (.tcfgD ga) s = .next t ∧ t.me.tshape = new ∧ s.OnlyMem t ∧
       (∀ b, t.byte b = s.byte b) ∧ (∀ r, t.g r = s.g r) ∧ t.st.pc = s.st.pc + 4 ∧ t.st.pin = true ∧ t.st.flags = s.st.flags ∧
       (∀ a i n, a < 4 → i < 128 → n < 128 →
         t.me.accGet 1 a i n = 0 ∧ t.me.maxOf a i = 0xFF800000 ∧ t.me.denOf a i = 0) ∧
       t.me = { s.me with ctxs := t.me.ctxs, acc := t.me.acc, amax := t.me.amax, aden := t.me.aden, tshape := new }) ∧
     (s.Ready .mwait → free → s.st.left = [] → s.me.eng.any (EngOp.isDrain s.ctx) = false → s.st.kept.any (fun k => k.kind == 3) = false →
       exec .mwait s = .next s.pinned.advance)) ∧
  (∀ (m src : BitVec 2) (ga : BitVec 4) (clr : BitVec 1) (s : State),
     let lim (w : Word) : BitVec 16 := if w.toNat < 0xFFFF then w.setWidth 16 else 0xFFFF
     (s.MatReady (.mzero 0 m) → ∃ t, exec (.mzero 0 m) s = .next t ∧ s.OnlyMem t ∧
       (∀ a i n, a < 4 → i < 128 → n < 128 →
         t.me.accGet 1 a i n = (if a = m.toNat then 0 else s.me.accGet 1 a i n) ∧
         t.me.maxOf a i = (if a = m.toNat then 0xFF800000 else s.me.maxOf a i) ∧
         t.me.denOf a i = (if a = m.toNat then 0 else s.me.denOf a i)) ∧
       t.st = { s.st with pc := s.st.pc + 4, pin := true, life := .ready, waitSq := false } ∧ (∀ b, t.byte b = s.byte b) ∧
       t.me = { s.me with ctxs := t.me.ctxs, seqNo := s.me.seqNo + 1, acc := t.me.acc, amax := t.me.amax, aden := t.me.aden
                          tshape := putBit s.me.tshape (32 + m.toNat) false }) ∧
     (s.MatReady (.mmov 0 m src) → ∃ t, exec (.mmov 0 m src) s = .next t ∧ s.MatDone t (some m) none ∧
       (∀ a i n, a < 4 → i < 128 → n < 128 →
         let b := if a = m.toNat then src.toNat else a
         t.me.accGet 1 a i n = s.me.accGet 1 b i n ∧ t.me.maxOf a i = s.me.maxOf b i ∧ t.me.denOf a i = s.me.denOf b i) ∧
       t.st.flags = s.st.flags ∧ (∀ r, t.g r = s.g r) ∧ (∀ b, t.byte b = s.byte b) ∧ t.me.mexc = s.me.mexc ∧ t.me.rngs = s.me.rngs ∧
       t.me.fb = s.me.fb ∧ t.me.cm = s.me.cm ∧ t.me.cmTern = s.me.cmTern ∧ t.me.eng = s.me.eng) ∧
     (s.MatReady (.mexc 0 ga clr) → ∃ t, exec (.mexc 0 ga clr) s = .next t ∧ s.MatDone t none none ∧
       (ga ≠ 0 → t.g ga = lim s.me.mxsat ++ lim s.me.mxsub ++ lim s.me.mxmrow ++ lim s.me.mxnan) ∧
       (∀ r, r ≠ ga → t.g r = s.g r) ∧ t.st.flags = s.st.flags ∧ (∀ b, t.byte b = s.byte b) ∧ t.me.fb = s.me.fb ∧ t.me.cm = s.me.cm ∧
       t.me.cmTern = s.me.cmTern ∧ t.me.eng = s.me.eng ∧ t.me.amax = s.me.amax ∧ t.me.aden = s.me.aden ∧ t.me.acc = s.me.acc ∧ t.me.rngs = s.me.rngs ∧
       (if clr = 1 then t.me.mxsat = 0 ∧ t.me.mxsub = 0 ∧ t.me.mxmrow = 0 ∧ t.me.mxnan = 0
        else t.me.mxsat = s.me.mxsat ∧ t.me.mxsub = s.me.mxsub ∧ t.me.mxmrow = s.me.mxmrow ∧ t.me.mxnan = s.me.mxnan)))

/-- R188, R189: mma adds the product of the A rows read through its pointer and the B buffer to every element of its accumulator below M
and N: K by chunks of 16 exact products, each sum rounded once and added with one rounding (FP64: one rounding a product); or, scaled, as
the one block-scaled sum of R63. mma.co does the same on the member that reads A, whatever the width of its rectangle, as far as the row
buffers of the members to its right have room. -/
def Obligations.MatrixProducts : Prop :=
  ∀ (i : Instr) (m : BitVec 2) (p ga gb : BitVec 4) (neg nacc fb scl : BitVec 1) (s : State) (bs : List Blk),
    i = .mma 0 m p ga gb neg nacc fb scl ∨
      (i = .mmaCo 0 m p ga gb neg nacc fb scl ∧ coOk (s.g 13) s.core = true ∧ coX s.core = coX0 (s.g 13) ∧
        ∀ c ∈ coRow (s.g 13) s.core, (s.coreAt c).rowBuf.length + s.rowsTo s.core c +
          (tM s.me.tshape + 15) / 16 * (if scl = 1 then 1 else (tK s.me.tshape + 15) / 16) ≤ 2) →
    let t := s.me.tshape
    let fmt := s.me.fmt
    let bpr := rowBlks (tK t) (tAf t)
    let nb := ceilDiv (tK t) (blkLen fmt)
    let regs (g : BitVec 4) : List Word := if g = 0 then [] else if nb ≤ 8 then [s.g g] else [s.g g, s.g (g + 1)]
    let num (f : Nat) (c : Nat) : Fv := match elemOf f with
      | some (.f f) => f.value c
      | _ => .fin false 0 0
    let a (r k : Nat) : Fv :=
      let v := num (tAf t) (elt (fmtWidth (tAf t)) (s.rowOf bs bpr r) k)
      if neg = 1 then v.neg else v
    let b (k n : Nat) : Fv := num (tBf t) (s.me.fbGet fb.toNat (fmtWidth (tBf t)) k n)
    let chunk (c : Nat) : List Nat := (List.range (tK t)).filter fun k => k / 16 == c
    let old (r n : Nat) : Nat := if nacc = 1 then 0 else s.me.accGet (accW t) m.toNat r n
    let el (r n : Nat) : Nat × Raise :=
      if scl = 1 then
        let v := scaledSum (blkLen fmt) (bitsOf fmt 9 8) nb (scaleOf (bitsOf fmt 9 8) (regs ga)) (scaleOf (bitsOf fmt 9 8) (regs gb))
          s.me.tsc ((List.range (tK t)).map (a r)) ((List.range (tK t)).map fun k => b k n) {}
        v.2.near fp32 ((fp32.value (old r n)).add rne (fp32.value v.1))
      else if tAf t = 0 then
        (List.range (tK t)).foldl (fun (x : Nat × Raise) k => x.2.near fp64 (Fv.fma rne (a r k) (b k n) (fp64.value x.1))) (old r n, {})
      else
        (List.range ((tK t + 15) / 16)).foldl (fun (x : Nat × Raise) c =>
          let d := x.2.near fp32 (dotFv ((chunk c).map (a r)) ((chunk c).map fun k => b k n))
          d.2.near fp32 ((fp32.value x.1).add rne (fp32.value d.1))) (old r n, {})
    isDome t = true →
    (scl = 1 → 4 ≤ tAf t ∧ tAf t ≤ 6 ∧ 4 ≤ tBf t ∧ tBf t ≤ 6 ∧ nb ≤ 16 ∧ (8 < nb → ga ≠ 15 ∧ gb ≠ 15)) →
    s.MatThrough i p (tM t * bpr) .rd bs →
    ∃ u, exec i s = .next u ∧
      (i = .mma 0 m p ga gb neg nacc fb scl → s.MatDone u (some m) (some (p, tM t * bpr))) ∧
      u.st.pc = s.st.pc + 4 ∧ u.st.pend = [] ∧ s.RestHeld u ∧ s.AccIs u (accW t) m.toNat (tM t) (tN t) (fun r n => (el r n).1) ∧
      s.Raised u (sumRaise ((List.range (tM t)).flatMap fun r => (List.range (tN t)).map fun n => (el r n).2))

/-- R182, R184: MACRO_STEP_COMMIT commits one step of the operation whose turn it is; the operation is done with its last step, and a step
that stalls changes nothing. R61, R184: a step that traps leaves the generator state that it would have drawn from, and a replay resumes
at mstep.step and draws on from there. R190, R191: of a cooperative product every member updates the elements of the step's row group by
its chunk of K (or, scaled, by the one scaled sum). The first member of a row reads the A rows of a group at its first step and, as it
commits a step, sends each member to its right the step's A elements. Another member waits for the rows of its step, takes them, leaves
those of later steps, and commits the step; rows of a descriptor, K or af of their own trap with RESERVED_FIELD, and what the buffer holds
of their stream is discarded. (One message a step, products told apart by a number, and that rows of another descriptor wait while rows of
the own product are on their way, is log 31.) R191, R192: rows of a product that a member has still to begin, or of the one it is in,
enter its buffer, two steps deep; rows of one that it has finished or given up are discarded. A replaying member's request makes the first
member send the rows of every step from the one named on, of its own product of the number named, read again through the pointer as it
stood at that product's issue. (The number, and room for the rows that a replay waits for, is log 31.) -/
def Obligations.MacroOperationSteps : Prop :=
  (∀ (s : State) (p : Pend) (op : Env → State → MatOp) (rows : List Nat) (u : State), matOf p.instr = some op →
     s.me.turn 4 = [(s.ctx, p)] → p.started = true → p.com = true → s.mstepOther = false → s.pendAt p.order = some p →
     s.me.frozen = false → p.rngs = s.me.rngs →
     let o := op { g := p.g, tag := p.order, pc := p.pc, prep := p.prep } s
     (o.step p.step p.rows s = .ok rows u → p.step + 1 < o.n → u.core = s.core → u.ctx = s.ctx →
       ∃ t, exec (.macroStepCommit s.core) s = .next t ∧
         t = u.modSt fun st => { st with pend := st.pend.map fun q =>
           if q.order = p.order then { q with step := p.step + 1, rows := rows, rngs := u.me.rngs } else q }) ∧
     (o.step p.step p.rows s = .ok rows u → p.step + 1 = o.n → o.lr = false → mstepAct u.me.mstep = false → u.st.pend = [p] →
       u.core = s.core → u.ctx = s.ctx → u.st.replay = none → u.st.found = none → u.st.ended = false →
       ∃ t, exec (.macroStepCommit s.core) s = .next t ∧
         t.st = { u.st with pend := [], life := if p.yields then .ready else u.st.life, since := t.st.since } ∧
         (∀ a, t.byte a = u.byte a) ∧ t.me = { u.me with ctxs := t.me.ctxs }) ∧
     (o.step p.step p.rows s = .stall s → p.step + 1 < o.n → exec (.macroStepCommit s.core) s = .next s) ∧
     (∀ x, o.step p.step p.rows s = .trap x u → p.step + 1 < o.n → u.core = s.core → u.ctx = s.ctx →
       ∃ t, exec (.macroStepCommit s.core) s = .next t ∧ t.me.mrngs = some p.rngs) ∧
     (∀ w v, mstepAct s.me.mstep = true → mstepCtx s.me.mstep = s.ctx → s.beginMat p o = .ok rows v → v.me.mrngs = some w →
       ∀ q ∈ v.st.pend, q.order = p.order → q.rngs = w ∧ q.step = Nat.min (bitsOf s.me.mstep 15 0) (o.n - 1))) ∧
  (∀ (s : State) (p : Pend) (la : BitVec 4) (m : BitVec 2) (k ga gb : BitVec 4) (neg nacc fb scl : BitVec 1) (bs : List Blk)
     (rows : List Nat) (b : CoRows) (rest : List CoRows),
     let t := s.me.tshape
     let fmt := s.me.fmt
     let desc := gread p.g 13
     let nk := if scl = 1 then 1 else (tK t + 15) / 16
     let g := p.step / nk
     let c := p.step % nk
     let ks : List Nat := (List.range (tK t)).filter fun x => scl == 1 || x / 16 == c
     let rs : List Nat := (List.range (tM t)).filter fun r => r / 16 == g
     let bpr := rowBlks (tK t) (tAf t)
     let nb := ceilDiv (tK t) (blkLen fmt)
     let regs (g : BitVec 4) : List Word := if g = 0 then [] else if nb ≤ 8 then [gread p.g g] else [gread p.g g, gread p.g (g + 1)]
     let num (f : Nat) (c : Nat) : Fv := match elemOf f with
       | some (.f f) => f.value c
       | _ => .fin false 0 0
     let el (data : List (List Nat)) (r n : Nat) : Nat :=
       let as := (List.range ks.length).map fun x =>
         let v := num (tAf t) ((data.getD (r - 16 * g) []).getD x 0)
         if neg = 1 then v.neg else v
       let xs := ks.map fun q => num (tBf t) (s.me.fbGet fb.toNat (fmtWidth (tBf t)) q n)
       let old := if c = 0 ∧ nacc = 1 then 0 else s.me.accGet (accW t) m.toNat r n
       if scl = 1 then
         let v := scaledSum (blkLen fmt) (bitsOf fmt 9 8) nb (scaleOf (bitsOf fmt 9 8) (regs ga)) (scaleOf (bitsOf fmt 9 8) (regs gb))
           s.me.tsc as xs {}
         (v.2.near fp32 ((fp32.value old).add rne (fp32.value v.1))).1
       else if tAf t = 0 then
         ((as.zip xs).foldl (fun (a : Nat × Raise) e => a.2.near fp64 (Fv.fma rne e.1 e.2 (fp64.value a.1))) (old, {})).1
       else
         let d := ({} : Raise).near fp32 (dotFv as xs)
         (d.2.near fp32 ((fp32.value old).add rne (fp32.value d.1))).1
     let grid (data : List (List Nat)) (u : State) : Prop := ∀ a i n, a < 4 → i < 128 → n < 128 / accW t →
       u.me.accGet (accW t) a i n = if a = m.toNat ∧ i ∈ rs ∧ n < tN t then el data i n % 2 ^ (32 * accW t)
         else s.me.accGet (accW t) a i n
     p.instr = .mmaCo la m k ga gb neg nacc fb scl → isDome t = true →
     s.me.turn 4 = [(s.ctx, p)] → p.started = true → p.com = true → s.mstepOther = false → s.pendAt p.order = some p → s.st.pend = [p] →
     s.me.frozen = false → p.rngs = s.me.rngs → p.step + 1 < (tM t + 15) / 16 * nk →
     (coX s.core = coX0 desc → ((coRow desc s.core).any fun d => s.rowsFull s.core d) = false → s.bad = [] → s.soft = [] →
       s.me.fmt.getLsbD 15 = false →
       (c ≠ 0 ∧ p.rows = rows ∧ rows ≠ []) ∨ (c = 0 ∧ s.blks .rd ((ptrOf s.me.ptr k).run (rs.length * bpr)).1 = .ok bs ∧
         bs.any s.blkBusy = false ∧ rows = (List.range rs.length).map (s.rowOf bs bpr)) →
       let data := rows.map fun v => ks.map fun x => elt (fmtWidth (tAf t)) v x
       ∃ u, exec (.macroStepCommit s.core) s = .next u ∧ grid data u ∧ (∀ a, u.byte a = s.byte a) ∧ (∀ r, u.g r = s.g r) ∧
         u.st.pend = [{ p with step := p.step + 1, rows := rows, rngs := (s.me.rngs.setWidth 32).setWidth 64 }] ∧
         (u.net.drop s.net.length).map (fun f => (f.src, f.dst, f.net, f.pay)) = (coRow desc s.core).map fun d => (s.core, d, 2,
           Pay.rows desc (if p.step = 0 then s.me.coOrd desc + 1 else s.me.coOrd desc) (tK t) (tAf t) p.step data)) ∧
     (coX s.core ≠ coX0 desc → 0 < p.step →
       let newer := ∀ e ∈ rest, e.desc = desc ∧ s.me.coOrd desc < e.ord
       (newer → s.me.rowBuf = rest ∨ (s.me.rowBuf = b :: rest ∧ b.desc ≠ desc ∧ s.me.coOrd b.desc < b.ord ∧ s.coOwed s.core desc = true) →
         ∃ u, exec (.macroStepCommit s.core) s = .next u ∧ u.me = s.me ∧ u.st = s.st ∧ u.net = s.net ∧
         ∀ a, u.byte a = s.byte a) ∧
       (s.me.rowBuf = b :: rest → (∀ e ∈ rest, e.desc = desc ∧ s.me.coOrd desc ≤ e.ord) → b.desc = desc → b.ord = s.me.coOrd desc →
         b.step = p.step → b.k = tK t → b.af = tAf t →
         ∃ u, exec (.macroStepCommit s.core) s = .next u ∧ grid b.rows u ∧ u.me.rowBuf = rest ∧ u.st.pc = s.st.pc ∧
           (∀ r, u.g r = s.g r) ∧ (∀ a, u.byte a = s.byte a) ∧ u.net = s.net ∧
           u.st.pend = [{ p with step := p.step + 1, rows := [], rngs := (s.me.rngs.setWidth 32).setWidth 64 }]) ∧
       (newer → s.me.rowBuf = b :: rest → b.desc ≠ desc ∧ s.me.coOrd b.desc < b.ord ∧ s.coOwed s.core desc = false ∨
           b.desc = desc ∧ b.ord = s.me.coOrd desc ∧ b.step = p.step ∧ (b.k ≠ tK t ∨ b.af ≠ tAf t) →
         bitsOf s.me.tvec 47 2 ≠ 0 → s.st.tAct = false → s.st.replay = none → s.st.held = [] → s.st.cmp = false → s.st.hnd = false →
         s.st.ended = false →
         ∃ u, exec (.macroStepCommit s.core) s = .next u ∧ u.me.rowBuf = rest ∧ u.st.tCode = 0x02 ∧ u.st.tPc = p.pc ∧ u.st.tAct = true ∧
           u.st.pend = [] ∧ u.me.mstep = mstepWord s.ctx m.toNat p.step ∧ u.me.acc = s.me.acc))) ∧
  (∀ (k : Nat) (s : State) (f : Flight) (desc : Word) (ord kk af st : Nat) (data : List (List Nat)) (co : Coop) (pas : List Nat)
     (x : Nat) (w : Strand) (q : Pend) (la : BitVec 4) (m : BitVec 2) (p ga gb : BitVec 4) (neg nacc fb scl : BitVec 1),
     s.arriving k = some f →
     (f.pay = .rows desc ord kk af st data →
       let c := s.coreAt f.dst
       let b : CoRows := { desc := desc, ord := ord, k := kk, af := af, step := st, rows := data }
       let kept : State := (s.take k f).modCore f.dst fun c => { c with rowBuf := c.rowBuf ++ [b] }
       let inIt := c.ctxs = [(x, w)] ∧ w.pend = [q] ∧ q.instr = .mmaCo la m p ga gb neg nacc fb scl ∧ q.started = true ∧ q.trap = none ∧
         gread q.g 13 = desc ∧ 0 < q.step
       (c.coOrd desc < ord → c.rowBuf.length < 2 → exec (.cooperativeRowArrival k) s = .next kept) ∧
       (c.coOrd desc < ord → 2 ≤ c.rowBuf.length → exec (.cooperativeRowArrival k) s = .next s) ∧
       (c.coOrd desc = ord → inIt → c.rowBuf.length < 2 ∨ (q.step = st ∧ ∀ a ∈ c.rowBuf, ¬(a.desc = desc ∧ a.ord = ord ∧ a.step = st)) →
         exec (.cooperativeRowArrival k) s = .next kept) ∧
       (ord < c.coOrd desc ∨ (ord = c.coOrd desc ∧ mstepAct c.mstep = false ∧ ∀ e ∈ c.ctxs, e.2.pend = []) →
         exec (.cooperativeRowArrival k) s = .next (s.take k f))) ∧
     (f.pay = .rowReq desc ord st →
       ((∀ c ∈ (s.coreAt f.dst).coops, ¬(c.desc = desc ∧ c.ord = ord)) → exec (.rowReplayRequest k) s = .next (s.take k f)) ∧
       (((s.coreAt f.dst).coops.find? fun c => c.desc == desc && c.ord == ord) = some co → s.bad = [] → s.soft = [] →
         (s.coreAt f.dst).fmt.getLsbD 15 = false →
         let t := co.tsh
         let w := fmtWidth (tAf t)
         let bpr := rowBlks (tK t) (tAf t)
         let nk := if co.scl then 1 else (tK t + 15) / 16
         let n := (tM t + 15) / 16 * nk
         let all := (co.ptr.run (tM t * bpr)).1
         let bs : List Blk := (all.zip pas).map fun e => { va := e.1, ga := s.globalOf f.dst e.2 }
         all.map (fun va => s.physOf f.dst co.lix co.sys va 64 .rd) = pas.map .ok → st < n →
         ∃ u, exec (.rowReplayRequest k) s = .next u ∧ (∀ a, u.byte a = s.byte a) ∧
           (u.net.drop (s.take k f).net.length).map (fun g => (g.src, g.dst, g.net, g.pay)) =
             ((List.range n).drop st).map fun j => (f.dst, f.src, 2,
               Pay.rows desc ord (tK t) (tAf t) j (((List.range (tM t)).filter fun r => r / 16 == j / nk).map fun r =>
                 ((List.range (tK t)).filter fun x => co.scl || x / 16 == j % nk).map fun x => elt w (s.rowOf bs bpr r) x)))))

/-- R193, R194: mmi and mmt add the product of the A rows and a macro's cells, exact and saturated at 32 bits for an INT32 accumulator, or
block-scaled and added with one rounding for FP32; reserved codes read as 0 and are counted. msig gives each row the signs of its 64
products as one doubleword, and clears the rest of the row. R187: mldb loads K rows of N elements through its pointer into a B buffer, or
into a macro as INT8 or ternary cells, which sets the macro's mode; a reserved ternary code is held as 0 and counted. R185, R186, R193,
R194: a last-read form traps with RESERVED_FIELD, info the pointer's address, when its core holds no tile in a slot that the address lies
in; else it has the effect of the form without the mark and its last step, when no write of its strand to the slot is under way, releases
the tile: a slot at the last stop of a tile that does not land is then free. (Which writes are waited for is log 17, that sw.pin is set
before the trap log 32, the place of the last-read check among the others log 51.) -/
def Obligations.MacroProductsAndLoads : Prop :=
  (∀ (m : BitVec 2) (p ga gb : BitVec 4) (nacc fb : BitVec 1) (cm : BitVec 2) (s : State) (bs : List Blk),
     let t := s.me.tshape
     let fmt := s.me.fmt
     let bpr := rowBlks (tK t) (tAf t)
     let nb := ceilDiv (tK t) (blkLen fmt)
     let sf := bitsOf fmt 9 8
     let regs (g : BitVec 4) : List Word := if g = 0 then [] else if nb ≤ 8 then [s.g g] else [s.g g, s.g (g + 1)]
     let uns := fmt.getLsbD 6
     let kn : List Nat := List.range (tK t)
     (∀ (i : Instr) (tern : Bool), (i = .mmi 0 m p ga gb 0 nacc cm ∧ tern = false) ∨ (i = .mmt 0 m p ga gb 0 nacc cm ∧ tern = true) →
       isMacro t = true → s.me.isTern cm.toNat = tern →
       (if tCf t = 2 then ga = 0 ∧ gb = 0 else nb ≤ 16 ∧ (8 < nb → ga ≠ 15 ∧ gb ≠ 15)) → s.MatThrough i p (tM t * bpr) .rd bs →
       let a (r k : Nat) : Int × Bool := intVal (if tAf t = 8 then .i 4 else .i 8) uns (elt (fmtWidth (tAf t)) (s.rowOf bs bpr r) k)
       let b (k n : Nat) : Int := (intVal (if tern then .tern else .i 8) (uns && !tern) (s.me.cmGet cm.toNat k n)).1
       let old (r n : Nat) : Nat := if nacc = 1 then 0 else s.me.accGet 1 m.toNat r n
       let el (r n : Nat) : Nat × Raise :=
         if tCf t = 2 then
           let v := (intVal (.i 32) uns (old r n)).1 + (kn.map fun k => (a r k).1 * b k n).sum
           let c := clampI (intLo (.i 32) uns) (intHi (.i 32) uns) v
           (codeI 32 c, { sat := if c = v then 0 else 1 })
         else
           let v := scaledSum (blkLen fmt) sf nb (scaleOf sf (regs ga)) (scaleOf sf (regs gb)) s.me.tsc
             (kn.map fun k => Fv.ofInt (a r k).1) (kn.map fun k => Fv.ofInt (b k n)) {}
           v.2.near fp32 ((fp32.value (old r n)).add rne (fp32.value v.1))
       let reserved := ((List.range (tM t)).flatMap fun r => kn.filter fun k => (a r k).2).length +
         (if tern then (kn.flatMap fun k => (List.range (tN t)).filter fun n => s.me.cmGet cm.toNat k n % 4 == 2).length else 0)
       ∃ u, exec i s = .next u ∧ s.MatDone u (some m) (some (p, tM t * bpr)) ∧ s.RestHeld u ∧
         s.AccIs u 1 m.toNat (tM t) (tN t) (fun r n => (el r n).1) ∧
         s.Raised u (sumRaise ({ sub := reserved } :: (List.range (tM t)).flatMap fun r => (List.range (tN t)).map fun n => (el r n).2))) ∧
     (isDome t = true → tCf t = 0 → tN t = 64 → s.MatThrough (.msig 0 m p fb) p (tM t * bpr) .rd bs →
       let num (f c : Nat) : Fv := match elemOf f with
         | some (.f f) => f.value c
         | _ => .fin false 0 0
       let a (r k : Nat) : Fv := num (tAf t) (elt (fmtWidth (tAf t)) (s.rowOf bs bpr r) k)
       let b (k n : Nat) : Fv := num (tBf t) (s.me.fbGet fb.toNat (fmtWidth (tBf t)) k n)
       let chunk (c : Nat) : List Nat := kn.filter fun k => k / 16 == c
       let el (r n : Nat) : Nat × Raise := (List.range ((tK t + 15) / 16)).foldl (fun (x : Nat × Raise) c =>
         let d := x.2.near fp32 (dotFv ((chunk c).map (a r)) ((chunk c).map fun k => b k n))
         d.2.near fp32 ((fp32.value x.1).add rne (fp32.value d.1))) (0, {})
       let bit (r n : Nat) : Nat := if 2 ^ 31 ≤ (el r n).1 then 2 ^ n else 0
       let sig (r : Nat) : Nat := ((List.range 64).map (bit r)).sum
       ∃ u, exec (.msig 0 m p fb) s = .next u ∧ s.MatDone u (some m) (some (p, tM t * bpr)) ∧ s.RestHeld u ∧
         s.AccIs u 1 m.toNat (tM t) 128 (fun r n => if n = 0 then sig r else if n = 1 then sig r / 2 ^ 32 else 0) ∧
         s.Raised u (sumRaise ((List.range (tM t)).flatMap fun r => (List.range 64).map fun n => (el r n).2)))) ∧
  (∀ (p : BitVec 4) (dst : BitVec 3) (s : State) (bs : List Blk),
     let t := s.me.tshape
     let w := fmtWidth (tBf t)
     let bpr := rowBlks (tN t) (tBf t)
     let d := dst.toNat
     let v (r n : Nat) : Nat := elt w (s.rowOf bs bpr r) n
     s.MatThrough (.mldb 0 p 0 dst) p (tK t * bpr) .rd bs →
     (d < 2 → tBf t ≤ 6 → ∃ u, exec (.mldb 0 p 0 dst) s = .next u ∧ s.MatDone u none (some (p, tK t * bpr)) ∧
       (∀ r, u.g r = s.g r) ∧ (∀ a, u.byte a = s.byte a) ∧ u.me.acc = s.me.acc ∧ u.me.amax = s.me.amax ∧ u.me.aden = s.me.aden ∧
       u.me.cm = s.me.cm ∧ u.me.cmTern = s.me.cmTern ∧ u.me.eng = s.me.eng ∧ s.Raised u {} ∧
       ∀ b r n, b < 2 → (r + 1) * fbRow w ≤ 65536 → n < 8 * fbRow w / w → u.me.fbGet b w r n =
         if b = d ∧ r < tK t then (if n < tN t then v r n else 0) else s.me.fbGet b w r n) ∧
     (4 ≤ d → tBf t = 7 ∨ tBf t = 9 → ∃ u, exec (.mldb 0 p 0 dst) s = .next u ∧ s.MatDone u none (some (p, tK t * bpr)) ∧
       (∀ r, u.g r = s.g r) ∧ (∀ a, u.byte a = s.byte a) ∧ u.me.acc = s.me.acc ∧ u.me.amax = s.me.amax ∧ u.me.aden = s.me.aden ∧
       u.me.fb = s.me.fb ∧ u.me.eng = s.me.eng ∧
       (∀ c, u.me.isTern c = if c = d - 4 then tBf t == 9 else s.me.isTern c) ∧
       let bad (r n : Nat) : Bool := tBf t == 9 && v r n == 2
       s.Raised u { sub := ((List.range (tK t)).flatMap fun r => (List.range (tN t)).filter (bad r)).length } ∧
       ∀ c r n, c < 4 → r < 128 → n < 128 → u.me.cmGet c r n =
         if c = d - 4 ∧ r < tK t then (if n < tN t ∧ bad r n = false then v r n else 0) else s.me.cmGet c r n)) ∧
  (∀ (i j : Instr) (m : BitVec 2) (p ga gb : BitVec 4) (nacc : BitVec 1) (cm : BitVec 2) (dst : BitVec 3) (s : State) (bs : List Blk) (n k : Nat),
     let t := s.me.tshape
     let nb := ceilDiv (tK t) (blkLen s.me.fmt)
     let a := (ptrOf s.me.ptr p).addr
     let x := s.slotAt s.mySpire k
     let inMacro (tern : Bool) : Prop := isMacro t = true ∧ s.me.isTern cm.toNat = tern ∧ n = tM t * rowBlks (tK t) (tAf t) ∧
       (if tCf t = 2 then ga = 0 ∧ gb = 0 else nb ≤ 16 ∧ (8 < nb → ga ≠ 15 ∧ gb ≠ 15))
     (i = .mldb 0 p 1 dst ∧ j = .mldb 0 p 0 dst ∧ n = tK t * rowBlks (tN t) (tBf t) ∧
         ((dst.toNat < 2 ∧ tBf t ≤ 6) ∨ (4 ≤ dst.toNat ∧ (tBf t = 7 ∨ tBf t = 9)))) ∨
       (i = .mmi 0 m p ga gb 1 nacc cm ∧ j = .mmi 0 m p ga gb 0 nacc cm ∧ inMacro false) ∨
       (i = .mmt 0 m p ga gb 1 nacc cm ∧ j = .mmt 0 m p ga gb 0 nacc cm ∧ inMacro true) →
     (s.MatReady i → s.heldSlot a = none →
       (∀ y ∈ s.me.ctxs, ∀ q ∈ y.2.pend, 16 + p.toNat ∉ (q.instr.regs s.me.fmt s.me.tshape).2) →
         exec i s = .next (s.pinned.raise { code := 0x02, info := w64 a })) ∧
     (s.MatThrough i p n .rd bs → s.heldSlot a = some k → x.state = .held → x.owner = some s.core → x.gone = false → x.itin.land = false →
       x.itin.stops.length = x.stop + 1 → s.writing s.me.seqNo (slotHit s.mySpire x) = false → ∃ u v, exec j s = .next u ∧ exec i s = .next v ∧
         v.st.pc = s.st.pc + 4 ∧ v.st.pend = [] ∧
         v.slotAt s.mySpire k = { x with state := .free, owner := none, armed := false, timer := 0 } ∧ (∀ r, v.g r = u.g r) ∧
         v.st.flags = u.st.flags ∧ (∀ y, v.byte y = u.byte y) ∧ v.me = { u.me with ctxs := v.me.ctxs, seqNo := u.me.seqNo + 1 }))

/-- R196 to R198: mrd writes the elements of an accumulator below M and N, converted, as rows of whole blocks, and mwr reads such rows
into one; mrow.rd and mrow.wr move row maxima or denominators; mscale multiplies every element by a register's value or by its row's of a
vector, with one rounding. -/
def Obligations.AccumulatorTransfers : Prop :=
  ∀ (m : BitVec 2) (p fmt ga : BitVec 4) (den row : BitVec 1) (s : State) (bs : List Blk),
    let t := s.me.tshape
    let f := fmt.toNat
    let w := fmtWidth f
    let bpr := rowBlks (tN t) f
    let g := (tM t + 15) / 16
    let acc := (elemOf (accFmt t)).getD (.f fp32)
    let mem := (elemOf f).getD (.f fp32)
    let cur (r n : Nat) : Nat := s.me.accGet (accW t) m.toNat r n
    let out (u : State) : Prop := ∀ a, (∀ b ∈ bs, a < b.ga ∨ b.ga + 64 ≤ a) → u.byte a = s.byte a
    (moveOk t f = true → s.MatThrough (.mrd 0 m p fmt) p (tM t * bpr) .wr bs →
      let x := (List.range (tM t)).foldl (fun (a : List (List (Nat × Nat)) × Raise) r =>
        let y := mapEls (fun _ => true) (fun n q => q.conv s.ctl true acc mem (cur r n)) (tN t) 0 a.2
        (a.1 ++ [y.1], y.2)) ([], s.calm)
      ∃ u, exec (.mrd 0 m p fmt) s = .next u ∧ s.MatDone u none (some (p, tM t * bpr)) ∧ (∀ r, u.g r = s.g r) ∧ out u ∧
        u.me.acc = s.me.acc ∧ u.me.amax = s.me.amax ∧ u.me.aden = s.me.aden ∧ u.me.fb = s.me.fb ∧ u.me.cm = s.me.cm ∧
        u.me.cmTern = s.me.cmTern ∧ u.me.eng = s.me.eng ∧ s.Raised u x.2 x.2.rng ∧
        ∀ r e, r < tM t → e < 512 * bpr / w →
          elt w (u.rowOf bs bpr r) e = if e < tN t then fget 0 (x.1.getD r []) e % 2 ^ w else 0) ∧
    (moveOk t f = true → s.MatThrough (.mwr 0 m p fmt) p (tM t * bpr) .rd bs →
      let el (r n : Nat) : Nat × Raise := ({} : Raise).conv s.ctl true mem acc (elt w (s.rowOf bs bpr r) n)
      ∃ u, exec (.mwr 0 m p fmt) s = .next u ∧ s.MatDone u (some m) (some (p, tM t * bpr)) ∧ s.RestHeld u ∧
        s.AccIs u (accW t) m.toNat (tM t) (tN t) (fun r n => (el r n).1) ∧
        s.Raised u (sumRaise ((List.range (tM t)).flatMap fun r => (List.range (tN t)).map fun n => (el r n).2))) ∧
    (s.MatThrough (.mrowRd 0 m p den) p g .wr bs →
      ∃ u, exec (.mrowRd 0 m p den) s = .next u ∧ s.MatDone u none (some (p, g)) ∧ (∀ r, u.g r = s.g r) ∧ out u ∧
        u.me.acc = s.me.acc ∧ u.me.amax = s.me.amax ∧ u.me.aden = s.me.aden ∧ u.me.fb = s.me.fb ∧ u.me.cm = s.me.cm ∧
        u.me.cmTern = s.me.cmTern ∧ u.me.eng = s.me.eng ∧ s.Raised u {} ∧
        ∀ r, r < 16 * g → elt 32 (u.rowOf bs 1 (r / 16)) (r % 16) =
          if r < tM t then (if den = 1 then s.me.denOf m.toNat r else s.me.maxOf m.toNat r) else 0) ∧
    (s.MatThrough (.mrowWr 0 m p den) p g .rd bs →
      let v (r : Nat) : Nat := elt 32 (s.rowOf bs 1 (r / 16)) (r % 16)
      ∃ u, exec (.mrowWr 0 m p den) s = .next u ∧ s.MatDone u (some m) (some (p, g)) ∧ (∀ r, u.g r = s.g r) ∧
        (∀ a, u.byte a = s.byte a) ∧ u.me.acc = s.me.acc ∧ u.me.fb = s.me.fb ∧ u.me.cm = s.me.cm ∧ u.me.cmTern = s.me.cmTern ∧
        u.me.eng = s.me.eng ∧ s.Raised u {} ∧
        ∀ a r, a < 4 → r < 128 →
          u.me.denOf a r = (if a = m.toNat ∧ r < tM t ∧ den = 1 then v r else s.me.denOf a r) ∧
          u.me.maxOf a r = (if a = m.toNat ∧ r < tM t ∧ den = 0 then v r else s.me.maxOf a r)) ∧
    (tCf t ≠ 2 → (row = 0 ∧ s.MatReady (.mscale 0 m p ga row)) ∨ (row = 1 ∧ s.MatThrough (.mscale 0 m p ga row) p g .rd bs) →
      let a := accF t
      let by' (r : Nat) : Fv := if row = 1 then fp32.value (elt 32 (s.rowOf bs 1 (r / 16)) (r % 16))
        else a.value ((s.g ga).toNat % 2 ^ a.width)
      let el (r n : Nat) : Nat × Raise := ({} : Raise).near a ((a.value (cur r n)).mul (by' r))
      ∃ u, exec (.mscale 0 m p ga row) s = .next u ∧ s.MatDone u (some m) (if row = 1 then some (p, g) else none) ∧ s.RestHeld u ∧
        s.AccIs u (accW t) m.toNat (tM t) (tN t) (fun r n => (el r n).1) ∧
        s.Raised u (sumRaise ((List.range (tM t)).flatMap fun r => (List.range (tN t)).map fun n => (el r n).2)))

/-- R200: mdrain and mdrain.add hand the elements below M and N that their record does not clip to the engine, with the addresses the
record gives them, a group of 16 rows at a time; with clr the accumulator is restored to its reset values. Memory changes only when the
engine performs them. -/
def Obligations.AccumulatorDrains : Prop :=
  ∀ (i : Instr) (m : BitVec 2) (ga : BitVec 4) (clr : BitVec 1) (add : Bool) (s : State) (gs : List Seg) (ds : List Nat),
    (i = .mdrain 0 m ga clr ∧ add = false) ∨ (i = .mdrainAdd 0 m ga clr ∧ add = true) →
    let t := s.me.tshape
    let a := s.g ga
    let h := parseShape (gs.flatMap fun g => s.bytes g.ga g.n)
    let acc := (elemOf (accFmt t)).getD (.f fp32)
    let mem := (elemOf h.fmt).getD (.f fp32)
    let one (j : Nat) (q : Raise) : List DrainEl × Raise :=
      ((List.range (tM t)).filter fun r => r / 16 == j).foldl (fun x r => (List.range (tN t)).foldl (fun (x : List DrainEl × Raise) n =>
        let d := ds.getD (r * tN t + n) 0
        let c := s.me.accGet (accW t) m.toNat r n
        if d = 0 then x
        else
          let v := if add then (c, x.2) else x.2.conv s.ctl true acc mem c
          (x.1 ++ [{ pa := d % 2 ^ 72 - 1, va := d / 2 ^ 72, n := fmtBytes h.fmt, v := v.1 }], v.2)) x) ([], q)
    let x := (List.range ((tM t + 15) / 16)).foldl (fun (x : List (List DrainEl) × Raise) j =>
      let y := one j x.2
      (x.1 ++ [y.1], y.2)) ([], s.calm)
    s.MatReady i → a.toNat % 64 = 0 → inSp a 64 = true → s.segsOf a.toNat 64 .rd = .ok gs →
    h.ok = true → fmtBytes h.fmt ≠ 0 → h.total = tM t * tN t → (if add then h.fmt = accFmt t else moveOk t h.fmt = true) →
    s.drainDsts h (fmtBytes h.fmt) (if add then .rw else .wr) 0 (tM t * tN t) = .ok ds →
    s.me.eng.length + (tM t + 15) / 16 ≤ 16 →
    ∃ u, exec i s = .next u ∧ s.OnlyMem u ∧ u.st = { s.st with pc := s.st.pc + 4, pin := true, life := .ready, waitSq := false, flags := u.st.flags } ∧
      (∀ b, u.byte b = s.byte b) ∧ s.Raised u x.2 x.2.rng ∧
      u.me.eng = s.me.eng ++ ((x.1.filter fun l => !l.isEmpty).map fun l =>
        { ctx := s.ctx, order := s.me.seqNo, lix := s.st.lix, job := .drain add h.fmt l }) ∧
      (∀ b r n, b < 4 → r < 128 → n < 128 → let z := clr = 1 ∧ b = m.toNat
        u.me.accGet 1 b r n = (if z then 0 else s.me.accGet 1 b r n) ∧ u.me.denOf b r = (if z then 0 else s.me.denOf b r) ∧
        u.me.maxOf b r = (if z then 0xFF800000 else s.me.maxOf b r)) ∧
      u.me = { s.me with ctxs := u.me.ctxs, seqNo := s.me.seqNo + 1, acc := u.me.acc, amax := u.me.amax, aden := u.me.aden
                         eng := u.me.eng, mxsub := u.me.mxsub, mxsat := u.me.mxsat, mxmrow := u.me.mxmrow, mxnan := u.me.mxnan
                         rngs := u.me.rngs, tshape := if clr = 1 then putBit s.me.tshape (32 + m.toNat) false else s.me.tshape }

/-- R203 to R205: the streaming softmax. msmx rescales a row's state to the new maximum and adds the weights of the live columns and their
weighted rows of B; mmrg merges two states; mfin divides by the denominator, and gives 0 for a row all of whose scores were masked,
counting it; each raises the flags of its roundings. (That masked columns stay out of the weighted sums, where R203's pseudocode has a
weight of +0, is log 30.) -/
def Obligations.StreamingSoftmax : Prop :=
  ∀ (m src : BitVec 2) (p ga : BitVec 4) (fb mk : BitVec 1) (s : State),
    let t := s.me.tshape
    let k := s.me
    let o := m.toNat
    let rn (v : Fv × Flags) : Nat × Flags := ((fp32.round rne v.1).1, v.2 ||| (fp32.round rne v.1).2)
    let mulP (a b : Nat) : Nat × Flags := rn ((fp32.value a).mul (fp32.value b))
    let addP (a b : Nat) : Nat × Flags := rn ((fp32.value a).add rne (fp32.value b))
    let subP (a b : Nat) : Nat × Flags := rn ((fp32.value a).add rne (fp32.value b).neg)
    let mul (a b : Nat) : Nat := (mulP a b).1
    let add (a b : Nat) : Nat := (addP a b).1
    let sub (a b : Nat) : Nat := (subP a b).1
    let all (l : List Flags) : Flags := l.foldl (fun x y => x ||| y) 0
    let ninf := 0xFF800000
    let scale (a mn : Nat) : Nat := if mn = ninf then 0x3F800000 else exp2a (sub a mn)
    let scaleF (a mn : Nat) : Flags := if mn = ninf then 0 else (subP a mn).2
    let rows (u : State) (mx dn : Nat → Nat) : Prop := ∀ a r, a < 4 → r < 128 →
      u.me.maxOf a r = (if a = o ∧ r < tM t then mx r else k.maxOf a r) ∧ u.me.denOf a r = (if a = o ∧ r < tM t then dn r else k.denOf a r)
    let rest (u : State) : Prop := (∀ r, u.g r = s.g r) ∧ (∀ a, u.byte a = s.byte a) ∧ u.me.fb = k.fb ∧ u.me.cm = k.cm ∧
      u.me.cmTern = k.cmTern ∧ u.me.eng = k.eng
    (tAf t = 2 → tBf t = 2 → tCf t = 0 → tK t ≤ 128 → src ≠ m → s.MatReady (.msmx 0 m p ga src fb mk) →
      let live := (List.range (tK t)).filter fun c => mk == 0 || s.qbit p.toNat c
      let x (r c : Nat) : Nat := mul (k.accGet 1 src.toNat r c) (bitsOf (s.g ga) 31 0)
      let mn (r : Nat) : Nat := (live.map (x r)).foldl max32 (k.maxOf o r)
      let al (r : Nat) : Nat := scale (k.maxOf o r) (mn r)
      let wt (r c : Nat) : Nat := if live.contains c ∧ mn r ≠ ninf then (bf16.round rne (fp32.value (exp2a (sub (x r c) (mn r))))).1 else 0
      let b (c n : Nat) : Fv := bf16.value (k.fbGet fb.toNat 16 c n)
      let chunk (c : Nat) : List Nat := live.filter fun q => q / 16 == c
      let den (r : Nat) : Nat × Flags := (List.range (tK t)).foldl (fun y c =>
        let z := rn ((fp32.value y.1).add rne (bf16.value (wt r c)))
        (z.1, y.2 ||| z.2)) (mulP (k.denOf o r) (al r))
      let el (r n : Nat) : Nat × Flags := (List.range ((tK t + 15) / 16)).foldl (fun y c =>
        let d := rn (dotFv ((chunk c).map fun q => bf16.value (wt r q)) ((chunk c).map fun q => b q n))
        let z := addP y.1 d.1
        (z.1, y.2 ||| d.2 ||| z.2)) (mulP (k.accGet 1 o r n) (al r))
      let wtF (r c : Nat) : Flags := if mn r = ninf then 0
        else (subP (x r c) (mn r)).2 ||| (bf16.round rne (fp32.value (exp2a (sub (x r c) (mn r))))).2
      let fl (r : Nat) : Flags := all (live.map fun c => (mulP (k.accGet 1 src.toNat r c) (bitsOf (s.g ga) 31 0)).2 ||| wtF r c) |||
        scaleF (k.maxOf o r) (mn r) ||| (den r).2 ||| all ((List.range (tN t)).map fun n => (el r n).2)
      ∃ u, exec (.msmx 0 m p ga src fb mk) s = .next u ∧ s.MatDone u (some m) none ∧ rest u ∧ rows u mn (fun r => (den r).1) ∧
        s.AccIs u 1 o (tM t) (tN t) (fun r n => (el r n).1) ∧ s.Raised u { fl := all ((List.range (tM t)).map fl) }) ∧
    (tCf t = 0 → s.MatReady (.mmrg 0 m src) →
      let b := src.toNat
      let mn (r : Nat) : Nat := max32 (k.maxOf o r) (k.maxOf b r)
      let f (r : Nat) : Nat := scale (k.maxOf o r) (mn r)
      let g (r : Nat) : Nat := scale (k.maxOf b r) (mn r)
      let el (x y : Nat) (r : Nat) : Nat × Flags :=
        let v := mulP x (f r)
        let w := mulP y (g r)
        ((addP v.1 w.1).1, v.2 ||| w.2 ||| (addP v.1 w.1).2)
      let fl (r : Nat) : Flags := scaleF (k.maxOf o r) (mn r) ||| scaleF (k.maxOf b r) (mn r) ||| (el (k.denOf o r) (k.denOf b r) r).2 |||
        all ((List.range (tN t)).map fun n => (el (k.accGet 1 o r n) (k.accGet 1 b r n) r).2)
      ∃ u, exec (.mmrg 0 m src) s = .next u ∧ s.MatDone u (some m) none ∧ rest u ∧ s.Raised u { fl := all ((List.range (tM t)).map fl) } ∧
        rows u mn (fun r => add (mul (k.denOf o r) (f r)) (mul (k.denOf b r) (g r))) ∧
        s.AccIs u 1 o (tM t) (tN t) fun r n => add (mul (k.accGet 1 o r n) (f r)) (mul (k.accGet 1 b r n) (g r))) ∧
    (tCf t = 0 → s.MatReady (.mfin 0 m) →
      let none' (r : Nat) : Bool := k.maxOf o r == ninf
      let el (r n : Nat) : Nat × Raise :=
        if none' r then (0, {})
        else
          let q := (fp32.value (k.accGet 1 o r n)).div (fp32.value (k.denOf o r))
          let y := fp32.round rne q.1.1 q.1.2
          (y.1, { fl := q.2 ||| y.2 })
      ∃ u, exec (.mfin 0 m) s = .next u ∧ s.MatDone u (some m) none ∧ rest u ∧ rows u (k.maxOf o) (k.denOf o) ∧
        s.AccIs u 1 o (tM t) (tN t) (fun r n => (el r n).1) ∧
        s.Raised u (sumRaise ({ mrow := ((List.range (tM t)).filter none').length } ::
          (List.range (tM t)).flatMap fun r => (List.range (tN t)).map fun n => (el r n).2)))

/-! ### Messages and synchronisation -/

/-- R214 to R217: send, sendl, reply and rsend put one message in the send queue when it has room, the entries that pending instructions
hold counted; when it is full a task strand waits and a handler traps with SENDQ_FULL; a destination that is no core of the domain traps
with MSG_DEST, then a handler address that is not aligned with MISALIGN. A handler's entries are held. (That the reply to a message of a
saddle is queued to that saddle is log 62.) R219, R221: hret releases the handler's held messages, takes its message from its queue and
frees its context. mpoll writes the head message of a queue at its address, takes it from the queue and gives its payload's length, or
gives -1 when there is none. -/
def Obligations.MessagesSentAndRead : Prop :=
  (∀ (i : Instr) (w rd ra rb rc : BitVec 4) (det : BitVec 1) (op : BitVec 2) (s : State) (gs : List Seg) (pay : Pay),
     let h := (s.g rb).toNat
     let d := (s.g ra).toNat
     let regs (n : Nat) : List Word := (List.range n).map fun j => s.g (rc + BitVec.ofNat 4 j)
     let v := s.g (rc + 1)
     let len := (s.g rd).toNat
     let bytes := gs.flatMap fun g => s.bytes g.ga g.n
     let ent (dst net : Nat) (p : Pay) : SqEnt :=
       { held := s.st.hnd, ctx := s.ctx, dst := dst, net := net, lix := s.st.lix, tag := 0, pay := p }
     let room := s.me.sqCount < s.me.sqDepth
     let sent (dst net : Nat) (p : Pay) : State := (s.modMe fun k => { k with sendq := k.sendq ++ [ent dst net p] }).advance
     let dest := d < 2 ^ 20 ∧ d % 2 = 0 ∧ isSaddle d = false ∧ s.inDomain (pkgOf d) = true
     let addr := h % 4 = 0 ∧ h < 2 ^ 48
     let short := (i = .send 0 w ra rb rc ∧ pay = .prog h (regs w.toNat)) ∨
       (i = .rsend 0 det op ra rb rc ∧ pay = .red h (s.g rc) op.toNat (det == 1) (if op = 2 then (v.setWidth 32).setWidth 64 else v) 1)
     (short → s.ReadyUnit i →
       (dest → addr → room → exec i s = .next (sent d 0 pay)) ∧
       (dest → addr → ¬ room → s.st.hnd = false → exec i s =
         .next ((s.modSt fun t => { t with waitSq := true }).stall true)) ∧
       (dest → addr → ¬ room → s.st.hnd = true → exec i s =
         .next (s.raise { code := 0x30, info := w64 (s.me.sqDepth + 256 * s.me.sqCount) })) ∧
       (¬ dest → exec i s = .next (s.raise { code := 0x32, info := s.g ra })) ∧
       (dest → ¬ addr → exec i s = .next (s.raise { code := 0x10, info := s.g rb }))) ∧
     (i = .reply 0 w rb rc → s.ReadyUnit i →
       (s.st.hnd = true → addr → room → exec i s = .next (sent s.st.hsrc 1 (.prog h (regs w.toNat)))) ∧
       (s.st.hnd = false → exec i s = .next (s.raise { code := 0x31, info := i.word }))) ∧
     (i = .sendl 0 rd ra rb rc → s.ReadyUnit i → dest → addr → room → 0 < len → len ≤ 256 → len % 8 = 0 → (s.g rc).toNat % 8 = 0 →
       inSp (s.g rc) len = true → s.segsOf (s.g rc).toNat len .rd = .ok gs → s.bad = [] → s.soft = [] →
       ∃ t, exec i s = .next t ∧ s.OnlyMem t ∧ (∀ a, t.byte a = s.byte a) ∧
         t.st = { s.st with pc := s.st.pc + 4, life := .ready, waitBar := none, waitEv := none, cond := false, waitSq := false } ∧
         t.me = { s.me with ctxs := t.me.ctxs, sendq := s.me.sendq ++ [ent d 0 (.prog h (wordsOf (len / 8) bytes))] })) ∧
  (∀ (rd ra q : BitVec 4) (s : State) (m : RMsg) (rest : List RMsg) (gs : List Seg),
     let x := s.me.queue q.toNat
     let bs := leBytes 8 m.hdr0.toNat ++ leBytes 8 m.hdr1.toNat ++ m.ws.flatMap fun w => leBytes 8 w.toNat
     (s.ReadyUnit (.mpoll 0 rd ra q) → (s.g ra).toNat % 16 = 0 → x.msgs = [] ∨ s.me.handling q.toNat = true →
       exec (.mpoll 0 rd ra q) s = .next (s.setG rd 0xFFFFFFFFFFFFFFFF).advance) ∧
     (s.ReadyUnit (.mpoll 0 rd ra q) → (s.g ra).toNat % 16 ≠ 0 →
       exec (.mpoll 0 rd ra q) s = .next (s.raise { code := 0x10, info := s.g ra })) ∧
     (s.ReadyUnit (.mpoll 0 rd ra q) → (s.g ra).toNat % 16 = 0 → x.msgs = m :: rest → s.me.handling q.toNat = false →
       inSp (s.g ra) bs.length = true → s.segsOf (s.g ra).toNat bs.length .wr = .ok gs → s.bad = [] → s.soft = [] → gs.length = 1 →
       ∃ t g, exec (.mpoll 0 rd ra q) s = .next t ∧ gs = [g] ∧ t.bytes g.ga bs.length = bs ∧
         (∀ a, a < g.ga ∨ g.ga + bs.length ≤ a → t.byte a = s.byte a) ∧ (rd ≠ 0 → t.g rd = w64 (8 * m.ws.length)) ∧
         (∀ r, r ≠ rd → t.g r = s.g r) ∧ (t.me.queue q.toNat).msgs = rest ∧ s.OnlyMem t ∧
         t.st = { s.st with g := t.st.g, pc := s.st.pc + 4, life := .ready, waitBar := none, waitEv := none, cond := false, waitSq := false } ∧
         t.me = { s.me with ctxs := t.me.ctxs, rq := t.me.rq }) ∧
     (s.ReadyUnit .hret → s.st.hnd = true → s.st.left = [] → s.unacked s.core s.ctx = false → s.st.kept.any (fun k => k.kind == 0) = false →
       (∀ e ∈ s.me.sendq, e.held = true → e.ctx = s.ctx → ∀ pa va op b c ret, e.pay ≠ .atomReq pa va op b c ret) →
       ∃ t, exec .hret s = .next t ∧ t.strandAt s.core s.ctx = {} ∧ (∀ a, t.byte a = s.byte a) ∧
         (t.me.queue s.st.hq).msgs = (s.me.queue s.st.hq).msgs.drop 1 ∧
         t.me.sendq = (s.me.sendq.map fun e => if e.ctx = s.ctx then { e with held := false, ctx := 1000 } else e) ∧
         (∀ y, y ≠ s.ctx → t.strandAt s.core y = s.strandAt s.core y)) ∧
     (s.ReadyUnit .hret → s.st.hnd = false → exec .hret s = .next (s.raise { code := 0x31, info := Instr.hret.word })))

/-- R212 to R214, R217, R218, R311: the network takes the oldest entry that is not held, delivers a message whole behind the last one of
its queue, in the order of its sequence numbers, and starts the handler of a queue's head message; packets of one reduction merge; a
forwarding entry sends a message on to where its core now stands. -/
def Obligations.MessageSteps : Prop :=
  ∀ (s : State) (c q x j k i at' : Nat) (e : SqEnt) (f f' : Flight) (m : RMsg) (rest : List RMsg) (h : Nat) (ws : List Word)
    (key v v' n n' : Word) (op : Nat) (r : List Nat),
    ((∀ l, l < i → ∃ e, (s.coreAt c).sendq[l]? = some e ∧ e.held = true) → (s.coreAt c).sendq[i]? = some e → e.held = false →
      (s.coreAt c).frozen = false → ∃ t g, exec (.sendQueueAccept c) s = .next t ∧ t.net = s.net ++ [g] ∧ g.src = c ∧ g.dst = e.dst ∧
        g.net = e.net ∧ g.pay = e.pay ∧ g.ctx = e.ctx ∧ g.hops = [] ∧ (t.coreAt c).sendq = dropAt (s.coreAt c).sendq i ∧
        (∀ a, t.byte a = s.byte a) ∧ (∀ d, d ≠ c → t.coreAt d = s.coreAt d)) ∧
    (s.net[k]? = some f → f.pay = .prog h ws → f.hops = [] → (s.coreAt f.dst).frozen = false → s.inOrder f = true →
      s.unreachable f = false → s.badSaddle f.dst = false →
      let lines := (16 + 8 * ws.length + 63) / 64
      ((s.coreAt f.dst).queue f.net).slot ((s.queueRegion f.dst f.net).size / 64) lines = some at' →
      let a := spBase (s.spireOf f.dst) + (s.queueRegion f.dst f.net).base + 64 * at'
      let bs := leBytes 8 (msgHdr f.seq ws.length f.net f.lix false f.src).toNat ++ leBytes 8 (w64 h).toNat ++
        ws.flatMap fun w => leBytes 8 w.toNat
      ∃ t m', exec (.messageDelivery k) s = .next t ∧ t.net = dropAt s.net k ∧ t.bytes a bs.length = bs ∧
        (∀ b, b < a ∨ a + bs.length ≤ b → t.byte b = s.byte b) ∧
        ((t.coreAt f.dst).queue f.net).msgs = ((s.coreAt f.dst).queue f.net).msgs ++ [m'] ∧ m'.hdr1 = w64 h ∧ m'.ws = ws ∧
        m'.line = at' ∧ (∀ y, (s.strandAt f.dst y).awaiting = true → (t.strandAt f.dst y).awaiting = false ∧
          (t.strandAt f.dst y).life = .ready)) ∧
    (s.net[k]? = some f → f.pay = .prog h ws → s.inOrder f = false → exec (.messageDelivery k) s = .next s) ∧
    (((s.coreAt c).queue q).msgs = m :: rest → m.held = false → m.n ≠ 0 → m.hdr1 ≠ 0 → (s.coreAt c).handling q = false →
      (s.strandAt c x).life = .free → (s.coreAt c).frozen = false → (s.coreAt c).leader = none →
      ∃ t, exec (.handlerStart c q x) s = .next t ∧ (t.strandAt c x).hnd = true ∧ (t.strandAt c x).pc = m.hdr1.setWidth 48 ∧
        gread (t.strandAt c x).g 1 = w64 ((s.queueRegion c q).base + 64 * m.line + 16) ∧
        gread (t.strandAt c x).g 2 = (m.hdr0.extractLsb' 0 20).setWidth 64 ∧ (t.strandAt c x).sys = false ∧
        (t.strandAt c x).lix = m.lix ∧ (t.strandAt c x).life = .ready ∧ (∀ b, t.byte b = s.byte b) ∧
        ((t.coreAt c).queue q).msgs = m :: rest ∧ (∀ y, y ≠ x → t.strandAt c y = s.strandAt c y)) ∧
    (s.net[j]? = some f → s.net[k]? = some f' → j ≠ k → f.dst = f'.dst → pkgOf f.src = pkgOf f'.src → f.lix = f'.lix →
      f.pay = .red h key op false v n →
      f'.pay = .red h key op false v' n' → ∃ t g, exec (.reductionPacketMerge j k) s = .next t ∧
        g.pay = .red h key op false (mergeVal op v v') (n + n') ∧ g.dst = f.dst ∧ g.src = min f.src f'.src ∧
        t.net = dropAt (setAt s.net j g) k) ∧
    (s.net[k]? = some f → f.hops = j :: r → (fget [] s.fwd j).contains f.dst = true →
      exec (.forwardingRedirect k) s = .next { s with net := setAt s.net k { f with hops := r } })

/-- R227 to R231, R281: the barrier instructions and the remote arrival. An arrival that is the last of its phase completes it: the phase
bit changes, the count starts again, and the strands that wait on it and the core's awaiting ones wake; a bar.wait whose phase has
completed goes on whatever has followed. A local arrival that finds the phase full waits, pending, and is the first that the next phase
counts: it then receives that phase's parity. -/
def Obligations.BarrierInstructions : Prop :=
  ∀ (rd ra rd' : BitVec 4) (n : BitVec 8) (s : State) (k x tag : Nat) (f : Flight) (q : Pend) (fs : BitVec 5),
    let b := s.bar s.core n.toNat
    let v := s.g ra
    let put (u : State) (x : Bar) : State := u.modMe fun c => { c with bars := fset c.bars n.toNat x }
    (s.ReadyUnit (.barInit 0 ra n) → s.boundPending s.core n.toNat = false → b.arrived = 0 → s.me.waitsOn n.toNat = false →
      (0 < v.toNat → v.toNat < 65536 → exec (.barInit 0 ra n) s = .next (put s { target := v.setWidth 16 }).advance) ∧
      (v = 0 ∨ 65536 ≤ v.toNat → exec (.barInit 0 ra n) s = .next (s.raise { code := 0x02, info := v }))) ∧
    (s.ReadyUnit (.barArr 0 rd 0 n) → s.st.left = [] → s.unacked s.core s.ctx = false → s.st.kept.any (fun k => k.kind == 0) = false →
      s.releaseWaits s.me.seqNo (barObj s.core n.toNat) = false →
      (b.target = 0 → exec (.barArr 0 rd 0 n) s = .next (s.raise { code := 0x44, info := n.setWidth 64 })) ∧
      (b.target ≠ 0 → b.broken = false → b.arrived.toNat + 1 < b.target.toNat → exec (.barArr 0 rd 0 n) s =
        .next ((put s { b with arrived := b.arrived + 1, flags := b.flags ||| s.st.flags }).setG rd (b2w b.phase)).advance) ∧
      (b.target ≠ 0 → b.broken = false → b.arrived + 1 = b.target → b.xbytes = 0 → b.heldArr = [] → exec (.barArr 0 rd 0 n) s =
        .next ((((put s { b with arrived := 0, phase := !b.phase, flags := b.flags ||| s.st.flags }).meet s.core fun t => t.waitBar == some n.toNat).wakeCore
          s.core).setG rd (b2w b.phase)).advance) ∧
      (b.target ≠ 0 → b.broken = false → b.arrived + 1 = b.target → b.xbytes = 0 → 1 < b.target.toNat →
        b.heldArr = [{ flags := fs, who := some (x, tag) }] → x ≠ s.ctx → (s.strandAt s.core x).pend = [q] → q.tag = some tag →
        q.instr = .barArr 0 rd' 0 n → q.re = false → (s.strandAt s.core x).found = none → (s.strandAt s.core x).ended = false →
        ∃ t, exec (.barArr 0 rd 0 n) s = .next t ∧ t.st.pc = s.st.pc + 4 ∧ (rd ≠ 0 → t.g rd = b2w b.phase) ∧
          t.bar s.core n.toNat = { b with arrived := 1, phase := !b.phase, flags := b.flags ||| s.st.flags ||| fs, heldArr := [] } ∧
          (t.strandAt s.core x).pend = [] ∧ (rd' ≠ 0 → gread (t.strandAt s.core x).g rd' = b2w (!b.phase))) ∧
      (b.target ≠ 0 → b.broken = false → b.arrived = b.target → s.st.hnd = false → ∃ t p, exec (.barArr 0 rd 0 n) s = .next t ∧
        t.bar s.core n.toNat = { b with heldArr := b.heldArr ++ [{ flags := s.st.flags, who := some (s.ctx, s.me.seqNo) }] } ∧
        t.st.pend = [p] ∧ p.instr = .barArr 0 rd 0 n ∧ p.tag = some s.me.seqNo ∧ p.win = 0 ∧ (∀ r, t.g r = s.g r) ∧
        ∀ a, t.byte a = s.byte a) ∧
      (b.target ≠ 0 → b.broken = false → b.arrived = b.target → s.st.hnd = true → exec (.barArr 0 rd 0 n) s =
        .next (s.raise { code := 0x31, info := (Instr.barArr 0 rd 0 n).word })) ∧
      (b.target ≠ 0 → b.broken = true → exec (.barArr 0 rd 0 n) s = .next (s.setG rd (b2w b.phase)).advance)) ∧
    (ra ≠ 0 → s.ReadyUnit (.barArr 0 rd ra n) → s.st.left = [] → s.unacked s.core s.ctx = false → s.st.kept.any (fun k => k.kind == 0) = false →
      let ok := isSaddle s.core = false ∧ v.toNat < 2 ^ 20 ∧ v.toNat % 2 = 0 ∧ isSaddle v.toNat = false ∧ valleyOf v.toNat = valleyOf s.core
      (ok → s.releaseWaits s.me.seqNo (barObj v.toNat n.toNat) = false → s.me.sqFull = false → exec (.barArr 0 rd ra n) s =
        .next ((s.modMe fun c => { c with sendq := c.sendq ++
          [{ held := s.st.hnd, ctx := s.ctx, dst := v.toNat, net := 4, lix := s.st.lix, tag := 0,
             pay := .barArr n.toNat s.st.flags }] }).setG rd 0).advance) ∧
      (¬ ok → exec (.barArr 0 rd ra n) s = .next (s.raise { code := 0x45, info := v }))) ∧
    (s.ReadyUnit (.barExp 0 ra n) → v.toNat < 2 ^ 31 → b.target ≠ 0 → b.arrived ≠ b.target → exec (.barExp 0 ra n) s =
      .next (put s { b with xbytes := b.xbytes + v.setWidth 32 }).advance) ∧
    (s.ReadyUnit (.barWait ra n) → s.st.cond = true → exec (.barWait ra n) s = .next s.advance) ∧
    (s.ReadyUnit (.barWait ra n) → s.st.cond = false → s.st.hnd = false → v.toNat < 2 → b.target ≠ 0 → b.broken = false →
      (b2w b.phase ≠ v → exec (.barWait ra n) s = .next s.advance) ∧
      (b2w b.phase = v → exec (.barWait ra n) s = .next ((s.modSt fun t => { t with waitBar := some n.toNat }).stall true))) ∧
    (s.ReadyUnit (.barTest 0 rd n) → exec (.barTest 0 rd n) s = .next (s.setG rd (b.xbytes ++ b.arrived ++ (0 : BitVec 14) ++
      BitVec.ofBool b.broken ++ BitVec.ofBool b.phase)).advance) ∧
    (s.ReadyUnit (.barFlags 0 rd n) → exec (.barFlags 0 rd n) s = .next (s.setG rd (b.flags.setWidth 64)).advance) ∧
    (s.arriving k = some f → ∀ fl, f.pay = .barArr n.toNat fl →
      let r := s.bar f.dst n.toNat
      (r.target ≠ 0 → r.broken = false → r.arrived.toNat + 1 < r.target.toNat → exec (.remoteBarrierArrival k) s =
        .next ((s.take k f).modCore f.dst fun c =>
          { c with bars := fset c.bars n.toNat { r with arrived := r.arrived + 1, flags := r.flags ||| fl } })) ∧
      (r.target ≠ 0 → r.broken = true → exec (.remoteBarrierArrival k) s = .next (s.take k f)) ∧
      (r.target = 0 → exec (.remoteBarrierArrival k) s =
        .next ((s.take k f).logAt f.dst 0x44 n.toNat (s.launchId f.lix) f.src)))

/-- R233, R234, R276: an event counter is written, added to and read; a strand that waits for it is ready when it holds the value waited
for or a higher one, and not when it only passes it by wrapping; an armed operation fires when its counter passes its threshold, at once
when it has passed it already; a seventeenth traps with EC_ARM_FULL, also one that would fire at once (log 61). -/
def Obligations.EventCounters : Prop :=
  ∀ (rd ra : BitVec 4) (n : BitVec 8) (s : State),
    let v := s.g ra
    let old := s.ec s.core n.toNat
    let w := s.g rd
    let put (x : Word) : State := s.modMe fun k => { k with ecs := fsetD 0 k.ecs n.toNat x }
    let alone := (∀ e ∈ s.me.ctxs, e.2.waitEv = none) ∧ ∀ p ∈ s.me.parked, p.strand.waitEv = none
    let calm := ∀ a ∈ s.me.armed, a.ec ≠ n.toNat
    let a : Armed := { ec := n.toNat, thr := v, kind := bitsOf w 1 0, arg := bitsOf w 15 8 }
    (s.ReadyUnit (.ecSet 0 ra n) → calm → alone → exec (.ecSet 0 ra n) s = .next (put v).advance) ∧
    (s.ReadyUnit (.ecInc 0 ra n) → calm → alone → exec (.ecInc 0 ra n) s = .next (put (old + v)).advance) ∧
    (s.ReadyUnit (.ecInc 0 ra n) → calm → ∀ y thr, y ≠ s.ctx → (s.strandAt s.core y).waitEv = some (n.toNat, thr) →
      ∃ t, exec (.ecInc 0 ra n) s = .next t ∧ t.ec s.core n.toNat = old + v ∧
        (thr.toNat ≤ (old + v).toNat → (t.strandAt s.core y).life = .ready ∧ (t.strandAt s.core y).cond = true ∧
          (t.strandAt s.core y).waitEv = none) ∧
        ((old + v).toNat < thr.toNat → (t.strandAt s.core y).waitEv = some (n.toNat, thr) ∧
          (t.strandAt s.core y).life = (s.strandAt s.core y).life)) ∧
    (s.ReadyUnit (.ecInc 0 ra n) → alone → ∀ x, s.me.armed = [x] → x.ec = n.toNat → x.kind = 0 → old.toNat < x.thr.toNat →
      x.thr.toNat ≤ old.toNat + v.toNat → exec (.ecInc 0 ra n) s =
        .next (((s.modMe fun k => { k with ecs := fsetD 0 k.ecs n.toNat (old + v), armed := [] }).wakeCore s.core).advance)) ∧
    (s.ReadyUnit (.ecRd 0 rd n) → exec (.ecRd 0 rd n) s = .next (s.setG rd old).advance) ∧
    (s.ReadyUnit (.ecArm 0 rd ra n) →
      (armOk w (isSaddle s.core) = false → exec (.ecArm 0 rd ra n) s = .next (s.raise { code := 0x02, info := w })) ∧
      (armOk w (isSaddle s.core) = true → 16 ≤ s.me.armed.length →
        exec (.ecArm 0 rd ra n) s = .next (s.raise { code := 0x46, info := n.setWidth 64 })) ∧
      (armOk w (isSaddle s.core) = true → s.me.armed.length < 16 → old.toNat < v.toNat →
        exec (.ecArm 0 rd ra n) s = .next (s.modMe fun k => { k with armed := k.armed ++ [a] }).advance) ∧
      (armOk w (isSaddle s.core) = true → s.me.armed.length < 16 → v.toNat ≤ old.toNat → bitsOf w 1 0 = 0 →
        exec (.ecArm 0 rd ra n) s = .next (s.wakeCore s.core).advance))

/-- R232, R236 to R238: semaphores, whose post waits for the strand's earlier scratchpad writes, fence, and the bind table. (That a fence
of every scope waits for all writes, and one of scope system also for host-window writes of bound copies, is log 18.) -/
def Obligations.SemaphoresFenceBind : Prop :=
  ∀ (ra rb rc : BitVec 4) (n : BitVec 8) (s : State),
    let v := (s.g ra).toNat
    let h := (fget (0 : BitVec 16) s.sp.hs n.toNat).toNat
    let put (x : Nat) : State := s.modSp fun p => { p with hs := fsetD 0 p.hs n.toNat (BitVec.ofNat 16 x) }
    let len := (s.g rb).toNat
    let sys := (if n = 255 then bitsOf s.me.dflt 31 29 else n.toNat) == 5
    (s.ReadyUnit (.semPost 0 ra n) →
      (0 < v → v < 65536 → (s.writing s.me.seqNo fun g => isSpVa g.va) = false →
        exec (.semPost 0 ra n) s = .next ((put (min (h + v) 0xFFFF)).wakeSpire s.mySpire).advance) ∧
      (0 < v → v < 65536 → (s.writing s.me.seqNo fun g => isSpVa g.va) = true → exec (.semPost 0 ra n) s = .next (s.stall false)) ∧
      (v = 0 → exec (.semPost 0 ra n) s = .next s.advance) ∧
      (65536 ≤ v → exec (.semPost 0 ra n) s = .next (s.raise { code := 0x02, info := s.g ra }))) ∧
    (s.ReadyUnit (.semTake 0 ra n) → s.st.hnd = true →
      exec (.semTake 0 ra n) s = .next (s.raise { code := 0x31, info := (Instr.semTake 0 ra n).word })) ∧
    (s.ReadyUnit (.semTake 0 ra n) → s.st.hnd = false → 0 < v → v < 65536 → s.sp.semq = [] →
      (v ≤ h → exec (.semTake 0 ra n) s = .next (put (h - v)).advance) ∧
      (h < v → ∃ t, exec (.semTake 0 ra n) s = .next t ∧ t.st.pc = s.st.pc ∧ t.st.life = .waiting ∧ (∀ r, t.g r = s.g r) ∧
        t.sp.hs = s.sp.hs ∧
        t.sp.semq = [{ core := s.core, ctx := s.ctx, tag := s.st.pc.toNat, n := n.toNat, amount := v }])) ∧
    (s.ReadyUnit (.fence n) → s.st.left = [] → (s.unacked s.core s.ctx || s.msgBusy s.core s.ctx sys || s.fenceBusy s.core s.ctx sys) = false →
      (s.st.kept.all (fun k => k.kind == 3) = true → exec (.fence n) s = .next s.advance) ∧
      (∀ k, s.st.kept = [k] → k.kind ≠ 3 → exec (.fence n) s =
        .next ((s.modSt fun t => { t with kept := [] }).raise { code := k.code, info := w64 k.addr, dfr := true }))) ∧
    (s.ReadyUnit (.fence n) → (s.unacked s.core s.ctx || s.msgBusy s.core s.ctx sys || s.fenceBusy s.core s.ctx sys) = true →
      exec (.fence n) s = .next (s.stall false)) ∧
    (s.ReadyUnit (.bind 0 ra rb rc) →
      (0 < len → objOk (s.g rc) = true → s.me.binds.length < 32 →
        (∀ b ∈ s.me.binds, b.lix ≠ s.st.lix ∨ b.base + b.len ≤ v ∨ v + len ≤ b.base) → exec (.bind 0 ra rb rc) s =
          .next (s.modMe fun k => { k with binds := k.binds ++ [{ base := v, len := len, obj := s.g rc, lix := s.st.lix }] }).advance) ∧
      (0 < len → objOk (s.g rc) = true → 32 ≤ s.me.binds.length →
        exec (.bind 0 ra rb rc) s = .next (s.raise { code := 0x34, info := s.g ra }))) ∧
    (s.ReadyUnit (.unbind 0 ra) →
      let mine (b : BindEnt) : Bool := b.lix == s.st.lix && b.base == v
      (s.me.binds.any mine = true → exec (.unbind 0 ra) s =
        .next (s.modMe fun k => { k with binds := k.binds.filter fun b => !mine b }).advance) ∧
      (s.me.binds.any mine = false → exec (.unbind 0 ra) s = .next (s.raise { code := 0x35, info := s.g ra })))

/-- R222, R223, R239, R240: atom and atom.ret on the scratchpad are applied in place; elsewhere, and in a handler, they are requests to
the home, for whose reply atom.ret stays pending; one that finds the send queue full waits at its issue. An address that is no multiple of
8 traps with MISALIGN. acq takes a free lock word with the home's next ticket, and waits for another; rel frees the lock it holds the
ticket of, and traps with SYNC_STATE otherwise. -/
def Obligations.AtomicsAndLocks : Prop :=
  ∀ (i : Instr) (rd ra rb op : BitVec 4) (ret : Bool) (s : State) (pa : Nat),
    let a := s.g ra
    let b := s.g rb
    let c := s.g rd
    let ga := s.globalOf s.core pa
    let home := saddleOf (pkgOf s.core) pa
    let old : Word := w64 (ofLe (s.bytes ga 8))
    let new : Word :=
      if op = 0 then old + b
      else if op = 1 then (if old.toInt < b.toInt then old else b)
      else if op = 2 then (if old.toInt < b.toInt then b else old)
      else if op = 3 then old &&& b
      else if op = 4 then old ||| b
      else if op = 5 then old ^^^ b
      else if op = 6 then b
      else if op = 7 then (if old = c then b else old)
      else w64 (addC fp64 old.toNat b.toNat).1
    let sound := a.toNat % 8 = 0 ∧ a.toNat < 2 ^ 48 ∧ s.xlate a.toNat 8 .rw = .ok pa ∧ isHostPa pa = false ∧ s.bad = [] ∧ s.soft = []
    let only (t : State) (v : Word) : Prop := t.bytes ga 8 = leBytes 8 v.toNat ∧ ∀ x, x < ga ∨ ga + 8 ≤ x → t.byte x = s.byte x
    let ent (dst : Nat) (p : Pay) : SqEnt :=
      { held := s.st.hnd, ctx := s.ctx, dst := dst, net := 0, lix := s.st.lix, tag := s.me.seqNo, pay := p }
    let req : Pay := .atomReq pa a.toNat op.toNat b c ret
    let asked (t : State) (x : SqEnt) : Prop := t.me.sendq = s.me.sendq ++ [x] ∧ t.st.pc = s.st.pc + 4 ∧ (∀ r, t.g r = s.g r) ∧
      (∀ y, t.byte y = s.byte y) ∧ ∃ p, t.st.pend = [p] ∧ p.instr = i ∧ p.tag = some s.me.seqNo ∧ p.com = true ∧ p.order = s.me.seqNo
    ((i = .atom 0 rd ra rb op ∧ ret = false) ∨ (i = .atomRet 0 rd ra rb op ∧ ret = true) → s.ReadyUnit i → op.toNat ≤ 8 →
      (sound → isSpPa pa = true → s.st.hnd = false → ∃ t, exec i s = .next t ∧ only t new ∧ t.st.pc = s.st.pc + 4 ∧ s.OnlyMem t ∧
        (ret = true → rd ≠ 0 → t.g rd = old) ∧ (∀ r, r ≠ rd ∨ ret = false → t.g r = s.g r) ∧ t.me = { s.me with ctxs := t.me.ctxs }) ∧
      (sound → isSpPa pa = false → s.st.hnd = false → s.me.sqFull = false →
        (ret = false → exec i s = .next (s.modMe fun k => { k with sendq := k.sendq ++ [ent home req], seqNo := k.seqNo + 1 }).advance) ∧
        (ret = true → ∃ t, exec i s = .next t ∧ asked t (ent home req))) ∧
      (sound → isSpPa pa = false → s.st.hnd = false → s.me.sqFull = true →
        exec i s = .next ((s.modSt fun t => { t with waitSq := true }).stall true)) ∧
      (s.st.hnd = true → ret = true → exec i s = .next (s.raise { code := 0x31, info := i.word })) ∧
      (sound → s.st.hnd = true → ret = false → s.me.sqFull = false → exec i s =
        .next (s.modMe fun k => { k with sendq := k.sendq ++ [ent (if isSpPa pa then s.core else home) req], seqNo := k.seqNo + 1 }).advance) ∧
      (s.st.hnd = false → a.toNat % 8 ≠ 0 → exec i s = .next (s.raise { code := 0x10, info := a }))) ∧
    (i = .acq rd ra → s.ReadyUnit i → s.st.hnd = false → sound →
      (isSpPa pa = true → old = 0 → ∃ t, exec i s = .next t ∧ t.st.pc = s.st.pc + 4 ∧
        only t (0x8000000000000000 ||| (s.sp.home.ticket.setWidth 64)) ∧ (rd ≠ 0 → t.g rd = s.sp.home.ticket.setWidth 64) ∧
        (∀ r, r ≠ rd → t.g r = s.g r) ∧ t.sp.home.ticket = s.sp.home.ticket + 1) ∧
      (isSpPa pa = true → old ≠ 0 → s.sp.home.lockq.length < 64 → ∃ t p, exec i s = .next t ∧ t.st.pend = [p] ∧
        p.tag = some s.me.seqNo ∧ t.st.life = .waiting ∧ (∀ y, t.byte y = s.byte y) ∧
        t.sp.home.lockq = s.sp.home.lockq ++ [{ core := s.core, ctx := s.ctx, tag := s.me.seqNo, pa := ga }]) ∧
      (isSpPa pa = false → s.me.sqFull = false → ∃ t, exec i s = .next t ∧ asked t (ent home (.lockReq pa a.toNat)))) ∧
    (i = .rel ra rb → s.ReadyUnit i → s.st.hnd = false → sound → s.st.left = [] → s.unacked s.core s.ctx = false →
      s.st.kept.any (fun k => k.kind == 0) = false → s.releaseWaits s.me.seqNo a = false →
      (isSpPa pa = true → old = 0x8000000000000000 ||| b → b.toNat < 65536 → s.sp.home.lockq.any (fun q => q.pa == ga) = false →
        ∃ t, exec i s = .next t ∧ t.st.pc = s.st.pc + 4 ∧ only t 0 ∧ (∀ r, t.g r = s.g r)) ∧
      (isSpPa pa = true → ¬(old = 0x8000000000000000 ||| b ∧ b.toNat < 65536) →
        exec i s = .next (s.raise { code := 0x35, info := a })) ∧
      (isSpPa pa = false → s.me.sqFull = false → ∃ t, exec i s = .next t ∧ asked t (ent home (.lockRel pa a.toNat b))))

/-- R222 to R225, R239, R240, R318: what homes and requesters do with requests and replies. A request already answered is answered again
and not applied again (R224). -/
def Obligations.AtomicAndLockSteps : Prop :=
  ∀ (s : State) (k pa va op n req tag code addr : Nat) (b c v old : Word) (ret : Bool) (f : Flight) (p : Pend) (rd ra rb o : BitVec 4)
    (la : BitVec 4) (e : RepEnt) (q : LockReq),
    let ga := s.globalOf f.src pa
    let old' : Word := w64 (ofLe (s.bytes ga 8))
    let home := (s.coreAt f.dst).home
    let u := s.strandAt f.dst f.ctx
    let sound := s.bad = [] ∧ s.soft = []
    let only (t : State) (m : Nat) (bs : List Byte) : Prop :=
      t.bytes ga m = bs ∧ ∀ x, x < ga ∨ ga + m ≤ x → t.byte x = s.byte x
    let answers (t : State) (w ctx tag : Nat) (y : Pay) : Prop := ∃ g, t.net = (s.take k f).net ++ [g] ∧ g.src = f.dst ∧
      g.dst = f.src ∧ g.net = w ∧ g.ctx = ctx ∧ g.tag = tag ∧ g.pay = y
    let waits := u.pend = [p] ∧ p.tag = some f.tag ∧ p.order = f.tag ∧ u.replay = none ∧ u.found = none ∧ u.ended = false
    let ends (t : State) : Prop := (t.strandAt f.dst f.ctx).pend = [] ∧ (t.strandAt f.dst f.ctx).pc = u.pc ∧
      (t.strandAt f.dst f.ctx).life = (if p.yields then .ready else u.life) ∧ ∀ x, t.byte x = s.byte x
    (s.net[k]? = some f → f.pay = .atomReq pa va op b c ret → f.hops = [] → (s.coreAt f.dst).frozen = false → s.nodeWaits f = false →
      s.unreachable f = false →
      (home.cache.find? (fun e => e.src == f.src && e.seq == f.seq) = none → s.inOrder f = true → home.cache.length < 256 → sound →
        ∃ t, exec (.atomicApply k) s = .next t ∧ only t 8 (leBytes 8 (atomNew op old' b c).toNat) ∧
          answers t 1 f.ctx f.tag (.atomRep old' ret 0 va f.seq) ∧
          (t.coreAt f.dst).home.cache = home.cache ++ [{ src := f.src, seq := f.seq, ctx := f.ctx, tag := f.tag, old := old', ret := ret
                                                         code := 0, addr := va }]) ∧
      (home.cache.find? (fun e => e.src == f.src && e.seq == f.seq) = some e →
        ∃ t g, exec (.atomicApply k) s = .next t ∧ (∀ x, t.byte x = s.byte x) ∧ t.net = dropAt s.net k ++ [g] ∧ g.dst = e.src ∧
          g.pay = .atomRep e.old e.ret e.code e.addr e.seq)) ∧
    (s.arriving k = some f → f.pay = .atomRep old true 0 addr req →
      ((s.coreAt f.dst).outst.find? fun o => o.flight.tag == f.tag).map (·.flight.ctx) = some f.ctx →
      waits → p.instr = .atomRet la rd ra rb o →
      ∃ t g, exec (.atomicReply k) s = .next t ∧ ends t ∧ t.net = (s.take k f).net ++ [g] ∧ g.dst = f.src ∧ g.net = 4 ∧
        g.pay = .repAck req ∧ (rd ≠ 0 → gread (t.strandAt f.dst f.ctx).g rd = old) ∧
        (∀ r, r ≠ rd → gread (t.strandAt f.dst f.ctx).g r = gread u.g r) ∧
        (t.coreAt f.dst).outst = (s.coreAt f.dst).outst.filter fun o => o.flight.tag != f.tag) ∧
    (s.arriving k = some f → f.pay = .repAck req → exec (.replyAck k) s = .next ((s.take k f).modCore f.dst fun c =>
      { c with home := { c.home with cache := c.home.cache.filter fun e => !(e.src == f.src && e.seq == req) } })) ∧
    (∀ (w : Nat) (x : Outst), (s.coreAt w).outst = [x] → x.flight.tag = tag →
      (x.resends < 3 → ∃ t, exec (.replyTimeout w tag) s = .next t ∧ t.net = s.net ++ [x.flight] ∧
        (t.coreAt w).outst = [{ x with resends := x.resends + 1 }] ∧ ∀ y, t.byte y = s.byte y) ∧
      (3 ≤ x.resends → x.flight.pay = .atomReq pa va op b c false → x.flight.ctx < 64 →
        (s.strandAt w x.flight.ctx).kept = [] → ∃ t, exec (.replyTimeout w tag) s = .next t ∧ (t.coreAt w).outst = [] ∧ t.net = s.net ∧
          (t.strandAt w x.flight.ctx).kept = [{ kind := 0, order := tag, code := 0x33, addr := va }])) ∧
    (s.arriving k = some f → f.pay = .lockReq pa va → sound →
      (old' = 0 → ∃ t, exec (.lockRequest k) s = .next t ∧ only t 8 (leBytes 8 (0x8000000000000000 ||| (home.ticket.setWidth 64 : Word)).toNat) ∧
        answers t 1 f.ctx f.tag (.lockGrant (home.ticket.setWidth 64) 0 0) ∧ (t.coreAt f.dst).home.ticket = home.ticket + 1) ∧
      (old' ≠ 0 → home.lockq.length < 64 → ∃ t, exec (.lockRequest k) s = .next t ∧ (∀ x, t.byte x = s.byte x) ∧
        t.net = (s.take k f).net ∧
        (t.coreAt f.dst).home.lockq = home.lockq ++ [{ core := f.src, ctx := f.ctx, tag := f.tag, pa := ga }])) ∧
    (s.arriving k = some f → f.pay = .lockRel pa va v → sound →
      (v.toNat < 65536 → old' = 0x8000000000000000 ||| v → home.lockq = [] → ∃ t, exec (.lockRelease k) s = .next t ∧
        only t 8 (leBytes 8 0) ∧ answers t 4 f.ctx f.tag (.lockRelAck 0 va)) ∧
      (v.toNat < 65536 → old' = 0x8000000000000000 ||| v → home.lockq = [q] → q.pa = ga → ∃ t g, exec (.lockRelease k) s = .next t ∧
        only t 8 (leBytes 8 (0x8000000000000000 ||| (home.ticket.setWidth 64 : Word)).toNat) ∧ (t.coreAt f.dst).home.lockq = [] ∧
        t.net.drop (s.take k f).net.length = g ∧ g.map (fun x => (x.dst, x.net, x.tag, x.pay)) =
          [(q.core, 1, q.tag, .lockGrant (home.ticket.setWidth 64) 0 0), (f.src, 4, f.tag, .lockRelAck 0 va)]) ∧
      (¬(v.toNat < 65536 ∧ old' = 0x8000000000000000 ||| v) → ∃ t, exec (.lockRelease k) s = .next t ∧ (∀ x, t.byte x = s.byte x) ∧
        answers t 4 f.ctx f.tag (.lockRelAck 0x35 va))) ∧
    (s.arriving k = some f → f.pay = .lockGrant v 0 addr → waits → p.instr = .acq rd ra →
      ∃ t, exec (.lockGrant k) s = .next t ∧ ends t ∧ (rd ≠ 0 → gread (t.strandAt f.dst f.ctx).g rd = v) ∧
        (∀ r, r ≠ rd → gread (t.strandAt f.dst f.ctx).g r = gread u.g r)) ∧
    (s.arriving k = some f → f.pay = .lockRelAck 0 va → waits → ∃ t, exec (.lockReleaseAck k) s = .next t ∧ ends t ∧
      (t.strandAt f.dst f.ctx).g = u.g) ∧
    (s.arriving k = some f → f.pay = .store pa n va v → sound → ∃ t, exec (.postedStorePerform k) s = .next t ∧
      only t n (leBytes n v.toNat) ∧ answers t 4 f.ctx f.tag (.ack 0 0)) ∧
    (s.arriving k = some f → f.pay = .ack code addr → f.ctx < 64 →
      (code = 0 → exec (.writeAckArrival k) s = .next (s.take k f)) ∧
      (code ≠ 0 → u.kept = [] → exec (.writeAckArrival k) s = .next ((s.take k f).modStrand f.dst f.ctx fun t =>
        { t with kept := [{ kind := 0, order := f.tag, code := code, addr := addr }] })))

/-! ### Copies, tiles, tasks -/

/-- R242 to R244, R248, R249, R268, R269: copy and bdeal are accepted by the engine with their translated addresses, which it performs
later, their walks having corrected what they met; a full engine queue makes them wait. bdpat sets the pattern, strm.open and strm.close
open and close a stream port. (That bdpat traps for a doff that is no multiple of 64 and for a bm1 above 1,023 is log 23; that a copy's
control word is checked before its length 0 is log 61.) -/
def Obligations.CopiesStreamsDeals : Prop :=
  ∀ (rd ra rb rc : BitVec 4) (s : State) (src dst gs : List Seg) (el : List (Nat × Seg)),
    let w := s.g rd
    let len := (s.g rc).toNat
    let obj : Obj := { bk := bitsOf w 9 8, num := bitsOf w 7 0, core := if w.getLsbD 12 then bitsOf w 51 32 else s.core }
    let fits := w.getLsbD 12 = true → obj.core % 2 = 0 ∧ isSaddle obj.core = false ∧ valleyOf obj.core = valleyOf s.core
    let add (j : EngJob) (k : Core) : Core :=
      { k with eng := k.eng ++ [{ ctx := s.ctx, order := s.me.seqNo, lix := s.st.lix, job := j }], seqNo := k.seqNo + 1 }
    let room := s.me.eng.length < 16
    (s.ReadyUnit (.copy 0 rd ra rb rc) → len < 2 ^ 32 → ctlOk w = true → fits →
      (len = 0 → exec (.copy 0 rd ra rb rc) s = .next s.advance) ∧
      (let u := s.xlated (s.g ra).toNat len
       let v := u.xlated (s.g rb).toNat len
       0 < len → w.getLsbD 10 = false → u.segsOf (s.g ra).toNat len .rd = .ok src → v.segsOf (s.g rb).toNat len .wr = .ok dst →
        (room → exec (.copy 0 rd ra rb rc) s =
          .next (v.modMe (add (.copy (.mem src) dst obj 0 true false))).advance) ∧
        (¬ room → exec (.copy 0 rd ra rb rc) s = .next (v.stall true))) ∧
      (let side := w.getLsbD 11
       let a := if side then s.g ra else s.g rb
       let h := parseShape (gs.flatMap fun g => s.bytes g.ga g.n)
       let es := fmtBytes h.fmt
       let cut := el.flatMap fun p => cutSegs src (p.1 * es) es
       let shaped := el.map (·.2)
       0 < len → w.getLsbD 10 = true → a.toNat % 64 = 0 → inSp a 64 = true → s.segsOf a.toNat 64 .rd = .ok gs → s.bad = [] →
        s.soft = [] → h.ok = true → es ≠ 0 → h.total * es = len → s.elems h es (if side then .rd else .wr) 0 h.total = .ok el →
        s.segsOf (if side then s.g rb else s.g ra).toNat len (if side then .wr else .rd) = .ok src → room →
        ∃ t, exec (.copy 0 rd ra rb rc) s = .next t ∧ s.OnlyMem t ∧ (∀ b, t.byte b = s.byte b) ∧ (∀ r, t.g r = s.g r) ∧
          t.st.pc = s.st.pc + 4 ∧ t.me = { add (.copy (.mem (if side then shaped else cut))
            (if side then cut else shaped) obj 0 false false) s.me with ctxs := t.me.ctxs })) ∧
    (s.ReadyUnit (.copy 0 rd ra rb rc) → 2 ^ 32 ≤ len → exec (.copy 0 rd ra rb rc) s = .next (s.raise { code := 0x02, info := s.g rc })) ∧
    (s.ReadyUnit (.copy 0 rd ra rb rc) → len < 2 ^ 32 → ctlOk w = false →
      exec (.copy 0 rd ra rb rc) s = .next (s.raise { code := 0x02, info := w })) ∧
    (s.ReadyUnit (.strmOpen 0 ra) →
      (s.destOk (s.g ra) = true → s.me.ports.length < 2 → s.me.ports.contains (s.g ra).toNat = false →
        exec (.strmOpen 0 ra) s = .next (s.modMe fun k => { k with ports := k.ports ++ [(s.g ra).toNat] }).advance) ∧
      (s.destOk (s.g ra) = true → 2 ≤ s.me.ports.length → exec (.strmOpen 0 ra) s = .next (s.raise { code := 0x37, info := s.g ra }))) ∧
    (s.ReadyUnit (.strmClose 0 ra) → (s.g ra).toNat < 2 ^ 20 →
      (s.me.ports.contains (s.g ra).toNat = true → exec (.strmClose 0 ra) s =
        .next (s.modMe fun k => { k with ports := k.ports.erase (s.g ra).toNat }).advance) ∧
      (s.me.ports.contains (s.g ra).toNat = false → exec (.strmClose 0 ra) s = .next (s.raise { code := 0x37, info := s.g ra }))) ∧
    (let a := s.g ra
     let b := s.g rb
     let okA := a.extractLsb' 40 24 = 0 ∧ a.extractLsb' 0 10 = 0 ∧ a.extractLsb' 10 10 ≠ 0 ∧
       bitsOf a 39 30 + bitsOf a 29 20 * bitsOf a 19 10 ≤ 1023
     let okB := b.extractLsb' 52 12 = 0 ∧ bitsOf b 51 32 % 64 = 0 ∧ bitsOf b 15 0 ≤ 1023
     s.ReadyUnit (.bdpat 0 ra rb) →
      (okA → okB → exec (.bdpat 0 ra rb) s = .next (s.modMe fun k => { k with patA := a, patB := b }).advance) ∧
      (¬ okA → exec (.bdpat 0 ra rb) s = .next (s.raise { code := 0x02, info := a })) ∧
      (okA → ¬ okB → exec (.bdpat 0 ra rb) s = .next (s.raise { code := 0x02, info := b }))) ∧
    (let n := (s.g rb).toNat
     let a := s.me.patA
     let b := s.me.patB
     let blk := 64 * (bitsOf b 15 0 + 1)
     let cores := bitsOf a 29 20 + 1
     let u := s.xlated (s.g ra).toNat n
     s.ReadyUnit (.bdeal 0 rd ra rb) → ctlOk w = true → w.extractLsb' 10 3 = 0 → bitsOf a 19 10 ≠ 0 → 0 < n → n % blk = 0 → n ≤ 2 ^ 24 →
      (s.g ra).toNat % 64 = 0 → u.segsOf (s.g ra).toNat n .rd = .ok gs → (∀ g ∈ gs, u.isLocal s.core (g.ga % 2 ^ 52) = true) →
      (∀ k, k < n / blk → bitsOf b 51 32 + k / cores * (64 * bitsOf b 31 16) + blk ≤ 2 ^ 20) → room →
      exec (.bdeal 0 rd ra rb) s = .next (u.modMe (add (.deal gs a b n
        { bk := bitsOf w 9 8, num := bitsOf w 7 0 } 0))).advance)

/-- R201, R243, R245, R262, R263, R269, R298, R308, R318 to R320, R324: at its turn the engine performs the next piece of the operation at
the head of a core's queue: of a copy the bytes up to the end of the destination's doubleword, of a landing or itland those up to the end
of its 64-byte line, of a drain an element, or those that follow each other in a line of a saddle, of a deal a line of 64 bytes; the rest
stays at the head. What a copy reads of a saddle it reads by whole lines. A copy counts its bytes down at its barrier and sends those of
the host window to the host link; one that meets an uncorrectable error breaks its barrier, or is kept for the strand. The last byte of a
landing frees its slot. Out of turn, behind an earlier request to the same saddle, or, bound to a barrier and at its end, behind the
strand's writes to regions bound to it, a copy does nothing. (The piece of a step is log 1; that the read of mdrain.add meets no tag check
is log 56.) -/
def Obligations.EngineSteps : Prop :=
  ∀ (s : State) (c x order num p m k l v fmt len moved : Nat) (lix : Option Nat) (a b : Seg) (gs : List Seg) (rest : List EngOp)
    (data : List Byte) (f : Flight) (el : DrainEl) (els more : List DrainEl) (pa pb : Word) (o : Obj),
    let sound := s.bad = [] ∧ s.soft = [] ∧ (∀ e ga, s.readDown e ga = false)
    let only (t : State) (ga : Nat) (bs : List Byte) : Prop :=
      t.bytes ga bs.length = bs ∧ ∀ y, y < ga ∨ ga + bs.length ≤ y → t.byte y = s.byte y
    let op (j : EngJob) : EngOp := { ctx := x, order := order, lix := lix, job := j }
    let head (j : EngJob) : Prop := (s.coreAt c).eng = op j :: rest
    let left (t : State) (last : Prop) (j : EngJob) : Prop := (last → (t.coreAt c).eng = rest) ∧ (¬ last → (t.coreAt c).eng = op j :: rest)
    let r := s.bar c num
    let n := Nat.min b.n (8 - b.ga % 8)
    let b' := b.part n (b.n - n)
    let nl := Nat.min b.n (64 - b.ga % 64)
    let bl := b.part nl (b.n - nl)
    let turn (gs : List Seg) : Prop := s.engMay c = true ∧ s.storeAhead c order gs = false
    let atBar : Obj := { bk := 1, num := num, core := c }
    let src : EngSrc := .mem [a]
    let now : List Seg := src.reads n ++ [b.part 0 n]
    let job : EngJob := .copy src [b] o moved true false
    let after : EngJob := .copy ((s.fill c n src).1.rest n) [b'] o (moved + n) true false
    let clear : Prop := b.n ≤ n → s.objWaits c (op job) o = false
    let counted (t : State) : Prop := t.bar c num = if o = {} then r else { r with xbytes := r.xbytes - BitVec.ofNat 32 n }
    ((sadOf a.ga).isSome = false → 0 < n → n ≤ a.n → now = [a.part 0 n, b.part 0 n] ∧ (s.fill c n src).1.rest n = .mem (restSegs [a] n)) ∧
    ((sadOf a.ga).isSome = true → 0 < n → n ≤ Nat.min a.n (64 - a.ga % 64) →
      now = [a.part 0 (Nat.min a.n (64 - a.ga % 64)), b.part 0 n]) ∧
    (head job → a.n = b.n → 0 < b.n →
      (s.engMay c = false ∨ s.storeAhead c order now = true ∨ (b.n ≤ n ∧ s.objWaits c (op job) o = true) →
        exec (.copyPerform c) s = .next s) ∧
      (turn now → clear → sound →
        (hostAt b.ga = false → o = {} ∨ (o = atBar ∧ r.broken = false ∧ r.arrived ≠ r.target) →
          ∃ t, exec (.copyPerform c) s = .next t ∧ only t b.ga (s.bytes a.ga n) ∧ (t.coreAt c).ctxs = (s.coreAt c).ctxs ∧
            left t (b.n ≤ n) after ∧ counted t) ∧
        (hostAt b.ga = true → ∃ t g, exec (.copyPerform c) s = .next t ∧ (∀ y, t.byte y = s.byte y) ∧ t.net = s.net ++ [g] ∧
          g.src = c ∧ g.net = 2 ∧ g.pay = .hostWr b.ga b.va (s.bytes a.ga n) o.bk o.num o.core (decide (b.n ≤ n)) ∧
          left t (b.n ≤ n) after)) ∧
      (turn now → clear → s.badIn a.ga n = some a.ga → (∀ ga, s.readDown c ga = false) → s.writable c [b.part 0 n] = (n, none) →
        hostAt a.ga = false →
        (o = atBar → r.broken = false → r.arrived ≠ r.target → r.heldArr = [] → ∃ t, exec (.copyPerform c) s = .next t ∧ (∀ y, t.byte y = s.byte y) ∧
          (t.coreAt c).eng = rest ∧ (t.bar c num).broken = true ∧ (t.bar c num).xbytes = BitVec.ofNat 32 moved) ∧
        (o = {} → x < 64 → (s.strandAt c x).kept = [] → ∃ t, exec (.copyPerform c) s = .next t ∧ (∀ y, t.byte y = s.byte y) ∧
          (t.coreAt c).eng = rest ∧ (t.strandAt c x).kept = [{ kind := 1, order := order, code := 0x13, addr := a.va }]))) ∧
    (head (.copy (.line data gs) [b] {} moved true false) → data.length + segLen gs = b.n → 0 < b.n → n ≤ data.length →
      turn [b.part 0 n] → sound → hostAt b.ga = false → ∃ t, exec (.copyPerform c) s = .next t ∧ only t b.ga (data.take n) ∧
        left t (b.n ≤ n) (.copy ((EngSrc.line data gs).rest n) [b'] {} (moved + n) true false)) ∧
    (let last := els = []
     let alone : Prop := (sadOf el.pa).isSome = false ∨ ∀ x ∈ els.head?, x.pa / 64 ≠ el.pa / 64
     turn [{ va := el.va, ga := el.pa, n := el.n }] → sound → alone →
      (head (.drain false fmt (el :: els)) → ∃ t, exec (.drainPerform c) s = .next t ∧ only t el.pa (leBytes el.n el.v) ∧
        left t last (.drain false fmt els)) ∧
      (head (.drain true 11 (el :: els)) → el.n = 4 → ∃ t, exec (.drainPerform c) s = .next t ∧
        only t el.pa (leBytes 4 ((ofLe (s.bytes el.pa 4) + el.v) % 2 ^ 32)) ∧ left t last (.drain true 11 els)) ∧
      (head (.drain true 1 (el :: els)) → el.n = 4 → ∃ t, exec (.drainPerform c) s = .next t ∧
        only t el.pa (leBytes 4 (addC fp32 (ofLe (s.bytes el.pa 4)) el.v).1) ∧ left t last (.drain true 1 els))) ∧
    (turn [{ va := el.va, ga := el.pa, n := el.n }] → sound → (sadOf el.pa).isSome = true → (∀ x ∈ els, x.pa / 64 = el.pa / 64) →
      (∀ x ∈ more.head?, x.pa / 64 ≠ el.pa / 64) → head (.drain false fmt (el :: (els ++ more))) →
      ∃ t, exec (.drainPerform c) s = .next t ∧ left t (more = []) (.drain false fmt more) ∧
        ∀ y, t.byte y = ((el :: els).foldl (fun u x => u.poke x.pa (leBytes x.n x.v)) s).byte y) ∧
    (head (.landing (.bytes data none) [b] p m) → data.length = b.n → 0 < b.n → turn [b.part 0 nl] → sound → hostAt b.ga = false →
      ∃ t, exec (.landingPerform c) s = .next t ∧ only t b.ga (data.take nl) ∧
        left t (b.n ≤ nl) (.landing (.bytes (data.drop nl) none) [bl] p m) ∧
        (b.n ≤ nl → (s.slotAt p m).state = .forwarding → (t.slotAt p m).state = .free)) ∧
    (head (.itland [a] [b]) → a.n = b.n → 0 < b.n → turn [a.part 0 nl, b.part 0 nl] → sound → hostAt b.ga = false →
      ∃ t, exec (.itlandPerform c) s = .next t ∧ only t b.ga (s.bytes a.ga nl) ∧ (∀ q j, t.slotAt q j = s.slotAt q j) ∧
        left t (b.n ≤ nl) (.itland [a.part nl (a.n - nl)] [bl])) ∧
    (let blk := 64 * (bitsOf pb 15 0 + 1)
     let i := 64 * l / blk
     let cores := bitsOf pa 29 20 + 1
     let d := c / 4096 * 4096 + 2 * (bitsOf pa 39 30 + i % cores * bitsOf pa 19 10)
     head (.deal [a] pa pb len {} l) → a.n = len → len % blk = 0 → 64 * (l + 1) ≤ len →
      (s.engMay c = false → exec (.dealPerform c) s = .next s) ∧
      (s.engMay c = true → sound → s.linkDown c d = false → s.away d = false → ∃ t, exec (.dealPerform c) s = .next t ∧
        left t (len ≤ 64 * (l + 1)) (.deal [a] pa pb len {} (l + 1)) ∧
        only t (spBase (s.spireOf d) + (bitsOf pb 51 32 + i / cores * (64 * bitsOf pb 31 16)) + 64 * l % blk)
          (s.bytes (a.ga + 64 * l) 64))) ∧
    (s.net[k]? = some f → f.pay = .hostWr v p data 0 0 0 true → (s.net.take k).any (fun g => s.spireOf g.src == s.spireOf f.src &&
        match g.pay with
        | .hostWr .. => true
        | _ => false) = false →
      ∃ t, exec (.hostWindowWritePost k) s = .next t ∧ only t v data ∧ t.net = dropAt s.net k)

/-- R256, R257, R260, R261, R263, R264: itreq and itreq.x send a checked itinerary, whole or shaped, to the saddle of its tile and stay
pending for the answer (a tile that is to land must be writable too, R302); ithold claims an arrived tile and starts its timer; itrel
waits for the strand's writes to the slot, and while an instruction marked as last read of it is pending on the core (R185), then sends a
held tile on, or frees its slot when it goes nowhere; itland hands the engine a copy through the tile's shape, or of the slot to G[ra];
itstat reads a slot. -/
def Obligations.TileInstructions : Prop :=
  ∀ (rd ra rb slot : BitVec 4) (s : State) (hb sb cb gs : List Seg) (el : List (Nat × Seg)) (d : Nat) (p : Stop),
    let t := s.slotAt s.mySpire slot.toNat
    let n := slot.toNat
    let put (u : State) (x : Slot) : State := u.setSlot s.mySpire n x
    let tile := spBase s.mySpire + t.base
    let free : Prop := s.writing s.me.seqNo (slotHit s.mySpire t) = false ∧ s.lrBusy n s.me.seqNo = false
    (s.ReadyUnit (.itstat 0 rd slot) → t.size ≠ 0 → t.stop < 16 → 0 < t.itin.stops.length → t.itin.stops.length ≤ 16 →
      exec (.itstat 0 rd slot) s = .next (s.setG rd (t.missed ++ BitVec.ofNat 4 t.stop ++ BitVec.ofNat 4 (t.itin.stops.length - 1) ++
        (match t.state with | .free => (0 : BitVec 3) | .filling => 1 | .arrived => 2 | .held => 3 | .forwarding => 4) ++
        BitVec.ofBool t.gone ++ BitVec.ofBool t.exp ++ (0 : BitVec 3) ++ t.tile)).advance) ∧
    (s.ReadyUnit (.itstat 0 rd slot) → t.size = 0 →
      exec (.itstat 0 rd slot) s = .next (s.raise { code := 0x02, info := (Instr.itstat 0 rd slot).word })) ∧
    (s.ReadyUnit (.ithold 0 rd ra slot) → s.st.hnd = false → t.size ≠ 0 → t.tile = (s.g ra).setWidth 32 →
      (t.state = .arrived → s.mayClaim s.core t = true → t.itin.stops[t.stop]? = some p → exec (.ithold 0 rd ra slot) s =
        .next ((put s { t with state := .held, timer := p.hold, armed := p.hold != 0, exp := false, owner := some s.core }).setG rd
          (t.missed.setWidth 64)).advance) ∧
      (t.state = .free ∨ t.state = .forwarding →
        exec (.ithold 0 rd ra slot) s = .next (s.raise { code := 0x41, info := t.tile.setWidth 64 })) ∧
      (t.state = .held → exec (.ithold 0 rd ra slot) s = .next (s.raise { code := 0x48, info := slot.setWidth 64 })) ∧
      (t.state = .filling → exec (.ithold 0 rd ra slot) s = .next (s.stall true))) ∧
    (s.ReadyUnit (.itrel 0 slot) → t.size ≠ 0 →
      (t.state ≠ .held ∨ t.owner ≠ some s.core → exec (.itrel 0 slot) s = .next (s.raise { code := 0x48, info := slot.setWidth 64 })) ∧
      (t.state = .held → t.owner = some s.core → (s.writing s.me.seqNo (slotHit s.mySpire t) || s.lrBusy n s.me.seqNo) = true →
        exec (.itrel 0 slot) s = .next (s.stall false)) ∧
      (t.state = .held → t.owner = some s.core → free → t.gone = true → exec (.itrel 0 slot) s =
        .next ((put s { t with state := .free, owner := none, armed := false, timer := 0 }).raise
          { code := 0x41, info := w64 (t.tile.toNat + 2 ^ 32 * t.stop) })) ∧
      (t.state = .held → t.owner = some s.core → free → t.gone = false → s.bad = [] → s.soft = [] → t.itin.land = false →
        t.itin.stops.length = t.stop + 1 → exec (.itrel 0 slot) s = .next ((put (s.modMe fun k => { k with seqNo := k.seqNo + 1 })
          { t with state := .free, owner := none, armed := false, timer := 0 }).advance)) ∧
      (t.state = .held → t.owner = some s.core → free → t.gone = false → s.bad = [] → s.soft = [] →
        t.itin.stops[t.stop + 1]? = some p → s.tileEnded t.itin.lix = false → s.stopFails p.core.toNat t.itin.slot t.itin.bytes = false →
        s.linkDown s.core p.core.toNat = false → t.stop + 1 < 17 →
        ∃ u g, exec (.itrel 0 slot) s = .next u ∧ (u.slotAt s.mySpire n).state = .forwarding ∧ (u.slotAt s.mySpire n).owner = none ∧
          u.net = s.net ++ [g] ∧ g.dst = p.core.toNat ∧ g.net = 2 ∧
          g.pay = .tile t.itin (t.stop + 1) t.missed false (s.bytes tile t.itin.bytes) ∧
          u.st.pc = s.st.pc + 4 ∧ (∀ r, u.g r = s.g r) ∧ ∀ y, u.byte y = s.byte y)) ∧
    (let dest := if ra = 0 then t.itin.base else (s.g ra).toNat
     let u := if ra = 0 then s.xlatedSegs t.itin.segs else s.xlated dest t.itin.bytes
     s.ReadyUnit (.itland 0 ra slot) → t.size ≠ 0 → t.state = .held → t.owner = some s.core → dest % 64 = 0 → dest < 2 ^ 48 →
      isSpVa dest = false → isHostVa dest = false →
      (if ra = 0 then u.rewrite t.itin.segs else u.segsOf dest t.itin.bytes .wr) = .ok gs → s.me.eng.length < 16 →
      exec (.itland 0 ra slot) s = .next (u.modMe fun k => { k with
        eng := k.eng ++ [{ ctx := s.ctx, order := s.me.seqNo, lix := s.st.lix
                           job := .itland [{ va := 0xFF0000000000 + t.base, ga := tile, n := segLen gs }] gs }]
        seqNo := k.seqNo + 1 }).advance) ∧
    (∀ (i : Instr) (basic : Bool), (i = .itreq 0 ra slot ∧ basic = true) ∨ (i = .itreqX 0 ra rb slot ∧ basic = false) →
      let plain := basic || s.g rb == 0
      let a := (s.g ra).toNat
      let raw (gs : List Seg) : List Byte := gs.flatMap fun g => s.bytes g.ga g.n
      let h0 := ofLe ((raw hb).take 8)
      let h1 := ofLe ((raw hb).drop 8)
      let k := fld h1 3 0 + 1
      let ws := (wordsOf k (raw sb)).map (·.toNat)
      let it : Itin := { base := fld h0 47 0, bytes := 64 * (fld h0 57 48 + 1), tile := BitVec.ofNat 32 (fld h1 63 32)
                         land := if basic then s.me.dflt.getLsbD 28 else fld h1 5 5 == 1
                         stops := (ws.map parseStop).map fun p => if basic then
                           { p with hold := s.me.dflt.extractLsb' 0 16, pol := s.me.dflt.extractLsb' 26 2 } else p
                         slot := n, segs := if plain then gs else el.map (·.2), lix := s.st.lix, shape := if plain then [] else raw cb }
      let acc : Acc := if it.land then .rw else .rd
      let h := parseShape (raw cb)
      let es := fmtBytes h.fmt
      s.ReadyUnit i → a % 16 = 0 → inSp (s.g ra) (16 + 8 * k) = true → s.segsOf a 16 .rd = .ok hb → s.segsOf (a + 16) (8 * k) .rd = .ok sb →
      s.bad = [] → s.soft = [] →
      (s.recordOk h0 h1 ws = false → ∃ u, exec i s = .next (u.raise { code := 0x47, info := s.g ra }) ∧ s.OnlyMem u ∧
        u.me = { s.me with ctxs := u.me.ctxs } ∧ u.st = s.st) ∧
      (s.recordOk h0 h1 ws = true → s.segsOf it.base it.bytes acc = .ok gs →
        (plain = false → (s.g rb).toNat % 64 = 0 ∧ inSp (s.g rb) 64 = true ∧ s.segsOf (s.g rb).toNat 64 .rd = .ok cb ∧ h.ok = true ∧
          es ≠ 0 ∧ h.base = it.base ∧ (((List.range h.total).filter fun j => (h.addr j).isSome).length * es + 63) / 64 * 64 = it.bytes ∧
          s.elems h es acc 0 h.total = .ok el) →
        oneSaddle (granules (gs ++ if plain then [] else el.map (·.2))) = some d → s.queuedTo d = false →
        ∃ u x g, exec i s = .next u ∧ u.net = s.net ++ [g] ∧ g.src = s.core ∧ g.dst = d ∧ g.net = 0 ∧ g.pay = .tileReq it [] ∧
          u.st.pend = [x] ∧ x.instr = i ∧ x.tag = some s.me.seqNo ∧ g.tag = s.me.seqNo ∧ u.st.pc = s.st.pc + 4 ∧ (∀ r, u.g r = s.g r) ∧
          ∀ y, u.byte y = s.byte y))

/-- R258, R259, R265, R266, R306, R307: the saddle reads a tile once, refuses it the second time, and sends it to its first stop; the
answer completes the request; a tile fills a free slot and arrives, also when its launch ends meanwhile (R351); an expired timer applies
the stop's policy; a slot that has sent its tile becomes free; the combining node joins identical requests and forwards one; a core out of
service fails its later stops. -/
def Obligations.TileSteps : Prop :=
  ∀ (s : State) (k l c q n i v : Nat) (f g : Flight) (it : Itin) (m : BitVec 16) (data : List Byte) (st : Stop) (p : Pend) (a : Seg)
    (info : Word),
    let sound := s.bad = [] ∧ s.soft = [] ∧ (∀ e ga, s.readDown e ga = false)
    let slot := s.slotAt q n
    let u := s.strandAt f.dst f.ctx
    let seen : Prop := (s.coreAt f.dst).filter.contains (it.lix, it.tile) = true
    (s.arriving k = some f → f.pay = .tileReq it [] →
      (seen → ∃ t h, exec (.tileRequest k) s = .next t ∧ t.net = (s.take k f).net ++ [h] ∧ h.dst = f.src ∧ h.tag = f.tag ∧
        h.pay = .tileAns 0x40 (it.tile.setWidth 64) ∧ ∀ y, t.byte y = s.byte y) ∧
      (¬ seen → sound → it.segs = [a] → a.n = it.bytes → it.stops[0]? = some st → s.tileEnded it.lix = false →
        s.stopFails st.core.toNat it.slot it.bytes = false → s.linkDown f.dst st.core.toNat = false →
        ∃ t h h', exec (.tileRequest k) s = .next t ∧ t.net = (s.take k f).net ++ [h, h'] ∧ h.dst = f.src ∧ h.tag = f.tag ∧
          h.pay = .tileAns 0 0 ∧ h'.dst = st.core.toNat ∧ h'.net = 2 ∧ h'.pay = .tile it 0 0 false (s.bytes a.ga a.n) ∧
          (t.coreAt f.dst).filter = (s.coreAt f.dst).filter ++ [(it.lix, it.tile)] ∧ ∀ y, t.byte y = s.byte y)) ∧
    (s.arriving k = some f → f.pay = .tileAns 0 info → u.pend = [p] → p.tag = some f.tag → p.order = f.tag → u.replay = none →
      u.found = none → u.ended = false → ∃ t, exec (.tileAnswer k) s = .next t ∧ (t.strandAt f.dst f.ctx).pend = [] ∧
        (t.strandAt f.dst f.ctx).pc = u.pc ∧ (t.strandAt f.dst f.ctx).life = (if p.yields then .ready else u.life) ∧
          (t.strandAt f.dst f.ctx).g = u.g) ∧
    (s.arriving k = some f → f.pay = .tile it i m false data → q = s.spireOf f.dst → n = it.slot →
      (s.tileEnded it.lix = false → slot.state = .free → exec (.tileFillStart k) s = .next (s.setSlot q n
        { slot with state := .filling, tile := it.tile, missed := m, itin := it, stop := i, gone := false, divert := false
                    owner := none, armed := false, timer := 0 })) ∧
      (s.tileEnded it.lix = false → slot.state ≠ .free → exec (.tileFillStart k) s = .next s) ∧
      (slot.filledBy it i false = true → exec (.tileFillStart k) s = .next s) ∧
      (slot.state = .filling → slot.itin = it → slot.stop = i → slot.divert = false → it.stops[i]? = some st →
        ∃ t, exec (.tileArrived k) s = .next t ∧ t.bytes (spBase q + slot.base) data.length = data ∧
          (∀ y, y < spBase q + slot.base ∨ spBase q + slot.base + data.length ≤ y → t.byte y = s.byte y) ∧
          t.slotAt q n = { slot with state := .arrived, timer := st.hold, armed := st.hold != 0, exp := false } ∧
          (st.post = true → (fget (0 : BitVec 16) (t.spireAt q).hs n).toNat =
            min ((fget (0 : BitVec 16) (s.spireAt q).hs n).toNat + 1) 0xFFFF) ∧
          (st.post = false → (t.spireAt q).hs = (s.spireAt q).hs) ∧ t.net = dropAt s.net k)) ∧
    (slot.itin.stops[slot.stop]? = some st → slot.armed = true →
      (slot.state = .held → st.pol = 0 → slot.divert = false → exec (.holdTimerExpiry q n) s =
        .next (s.setSlot q n { slot with timer := 0, armed := false, exp := true })) ∧
      (slot.state = .held → st.pol = 1 → s.bad = [] → s.soft = [] → slot.itin.land = false → slot.itin.stops.length = slot.stop + 1 →
        exec (.holdTimerExpiry q n) s = .next (s.setSlot q n { slot with
          timer := 0, armed := false, exp := true, missed := putBit slot.missed slot.stop true, gone := true }))) ∧
    (slot.state = .forwarding → (s.spireAt q).orphans = [] → (∀ e ∈ s.cores, e.2.eng = []) → exec (.slotForwardDone q n) s =
      .next (s.setSlot q n { slot with state := .free })) ∧
    (s.net[k]? = some f → f.pay = .tileReq it [] → f.src = c → f.hops = [] → s.nodeWaits f = false → (s.valleyAt (s.valleyAtPlace c)).node = [] →
      ∃ t, exec (.combiningNodeArrival c k) s = .next t ∧ t.net = dropAt s.net k ∧
        (t.valleyAt (s.valleyAtPlace c)).node = [.tiles [f]] ∧ ∀ y, t.byte y = s.byte y) ∧
    (s.net[k]? = some f → f.pay = .tileReq it [] → f.src = c → f.hops = [] → s.nodeWaits f = false → g.pay = .tileReq it [] → g.lix = f.lix →
      (s.valleyAt (s.valleyAtPlace c)).node = [.tiles [g]] →
      ∃ t, exec (.combiningNodeArrival c k) s = .next t ∧ (t.valleyAt (s.valleyAtPlace c)).node = [.tiles [g, f]]) ∧
    ((s.valleyAt v).node = [.tiles [f, g]] → f.pay = .tileReq it [] → ∃ t, exec (.combiningHoldExpiry v) s = .next t ∧
      (t.valleyAt v).node = [] ∧ t.net = s.net ++ [{ f with pay := .tileReq it [(g.src, g.seq, g.ctx, g.tag)] }]) ∧
    (exec (.takeOutOfService l) s = .next (s.modCore l fun k => { k with oos := true }) ∧
      ∀ x b, (s.modCore l fun k => { k with oos := true }).stopFails l x b = true)

/-- R270 to R279: spawn pushes a record on the core's own deque, spawn.r in the proxy shadow of its plain, for a core or a saddle; the
record's mark names the writes that the strand has issued before, on this core and on those it has left (R335, log 54); halt ends the
strand; trig marks it once its earlier writes are performed; yield makes it the newest of its class; await.ev goes on once its counter has
reached the value, be it only for a moment, and waits before; cmp composes idle cores and dcmp hands their state back. -/
def Obligations.TaskInstructions : Prop :=
  ∀ (ra rb : BitVec 4) (x rt : BitVec 1) (s : State),
    let w := s.g ra
    let d := s.g rb
    let n := d.toNat
    let prio (x : BitVec 1) : BitVec 2 := if x = 1 then w.extractLsb' 58 2 else s.me.dflt.extractLsb' 24 2
    let r : TaskRec := { succ := w.getLsbD 61, cmpt := w.getLsbD 60, prio := prio x, banks := w.extractLsb' 50 8, lix := s.st.lix
                         entry := w.extractLsb' 2 35 ++ (0 : BitVec 2) |>.setWidth 48, a1 := s.g (ra + 1), a2 := s.g (ra + 2)
                         a3 := s.g (ra + 3), mark := (s.core, s.ctx, s.me.seqNo) :: s.st.left.map fun e => (e.1, 2000 + e.2, e.2) }
    let legal := w.extractLsb' 62 2 = 0 ∧ w.extractLsb' 37 5 = 0 ∧ w.extractLsb' 0 2 = 0
    let pushed (r : TaskRec) : State := (s.modMe fun k => { k with deque := r :: k.deque }).unback s.core
    let shadow : List TaskRec := fget [] (s.plainAt (plainOf s.core)).shadows n
    (∀ (u : State) (c : Nat) (q : TaskRec) (l : List TaskRec),
      ((u.coreAt c).steal ≠ .back → u.unback c = u) ∧
      ((u.coreAt c).steal = .back → (u.coreAt c).deque = q :: l →
        u.unback c = if u.mayStart c 0 q then u.modCore c fun k => { k with steal := .run } else u)) ∧
    (s.ReadyUnit (.spawn 0 ra x) → legal → (w.getLsbD 60 = true → isCompute s.core = true) →
      (s.me.deque.length < 128 → exec (.spawn 0 ra x) s = .next (pushed r).advance) ∧
      (128 ≤ s.me.deque.length → exec (.spawn 0 ra x) s = .next (s.raise { code := 0x49, info := 128 }))) ∧
    (s.ReadyUnit (.spawn 0 ra x) → ¬ legal → exec (.spawn 0 ra x) s = .next (s.raise { code := 0x02, info := w })) ∧
    (s.ReadyUnit (.spawnR 0 ra rb x) → legal →
      (n < 2 ^ 20 → s.inDomain (pkgOf n) = true → (if isSaddle n then s.badSaddle n = false else n % 2 = 0) → (w.getLsbD 60 = true →
        isCompute n = true) →
        (shadow.length < 64 → exec (.spawnR 0 ra rb x) s = .next (s.modPlain (plainOf s.core) fun p =>
          { p with shadows := fset p.shadows n (shadow ++ [r]) }).advance) ∧
        (64 ≤ shadow.length → exec (.spawnR 0 ra rb x) s = .next (s.stall true))) ∧
      (2 ^ 20 ≤ n ∨ s.inDomain (pkgOf n) = false ∨ (isSaddle n = true ∧ s.badSaddle n = true) ∨ (isSaddle n = false ∧ n % 2 = 1) →
        exec (.spawnR 0 ra rb x) s = .next (s.raise { code := 0x32, info := d }))) ∧
    (s.ReadyUnit .yield → exec .yield s =
      .next (s.modSt fun t => { t with since := s.tick, wd := 0, cls := t.prio.toNat }).advance) ∧
    (s.ReadyUnit (.trig 0) → s.st.hnd = false →
      (s.writing s.me.seqNo (fun _ => true) = false → exec (.trig 0) s = .next (s.modSt fun t => { t with triggered := true }).advance) ∧
      (s.writing s.me.seqNo (fun _ => true) = true → exec (.trig 0) s = .next (s.stall false))) ∧
    (s.ReadyUnit (.halt ra rt) → s.st.hnd = false → s.st.cmp = false → s.st.left = [] → s.unacked s.core s.ctx = false →
      s.st.kept.any (fun k => k.kind == 0) = false → s.st.tHab = false →
      (ra = 0 → ∃ t, exec (.halt ra rt) s = .next t ∧ t.strandAt s.core s.ctx = {} ∧ t.me.deque = s.me.deque ∧
        (∀ y, y ≠ s.ctx → t.strandAt s.core y = s.strandAt s.core y) ∧ t.net.length = s.net.length) ∧
      (ra ≠ 0 → legal → (w.getLsbD 60 = true → isCompute s.core = true) → s.me.deque.length < 128 →
        ∃ t, exec (.halt ra rt) s = .next t ∧ t.strandAt s.core s.ctx = {} ∧
          t.me.deque = (if rt = 1 then { r with prio := prio 1, succ := true, ret := s.st.banks } else { r with prio := prio 1 }) :: s.me.deque)) ∧
    (s.ReadyUnit (.halt ra rt) → s.st.hnd = true → exec (.halt ra rt) s = .next (s.raise { code := 0x31, info := (Instr.halt ra rt).word })) ∧
    (s.ReadyUnit (.awaitEv ra rb) → s.st.hnd = false →
      (w.toNat < 64 → d.toNat ≤ (s.ec s.core w.toNat).toNat → exec (.awaitEv ra rb) s = .next s.advance) ∧
      (w.toNat < 64 → s.st.cond = true → exec (.awaitEv ra rb) s = .next s.advance) ∧
      (w.toNat < 64 → s.st.cond = false → (s.ec s.core w.toNat).toNat < d.toNat → exec (.awaitEv ra rb) s =
        .next ((s.modSt fun t => { t with waitEv := some (w.toNat, d) }).stall true)) ∧
      (64 ≤ w.toNat → exec (.awaitEv ra rb) s = .next (s.raise { code := 0x02, info := w }))) ∧
    (let mine := s.core / 4 % 16
     let num (i : Nat) := s.core / 64 * 64 + i * 4 + 2
     let set := (List.range 16).filter fun i => w.getLsbD i
     let others := (set.filter fun i => i != mine).map num
     s.ReadyUnit (.cmp ra) → w.extractLsb' 16 48 = 0 → w.getLsbD mine = true → set.length ∈ [2, 4, 8, 16] → s.st.cmp = false →
      ((∀ i ∈ set, s.memberBusy (num i) = false) → ∃ t, exec (.cmp ra) s = .next t ∧ t.me.members = s.core :: others ∧
        t.me.leader = some s.core ∧ (∀ m ∈ others, t.coreAt m = { s.coreAt m with leader := some s.core }) ∧ t.st.cmp = true ∧
        t.st.pc = s.st.pc + 4 ∧ (∀ r, t.g r = s.g r) ∧ ∀ y, t.byte y = s.byte y) ∧
      ((∃ i ∈ set, s.memberBusy (num i) = true) → ∃ v, exec (.cmp ra) s = .next (s.raise { code := 0x43, info := v }) ∧
        ∀ i, i < 64 → v.getLsbD i = (decide (i ∈ set) && s.memberBusy (num i)))) ∧
    (s.ReadyUnit .dcmp →
      (s.st.cmp = false → exec .dcmp s = .next s.advance) ∧
      (s.st.cmp = true → ∃ t, exec .dcmp s = .next t ∧ t.st.cmp = false ∧ t.me.members = [] ∧ t.me.leader = none ∧
        (∀ m ∈ s.me.members, (t.coreAt m).leader = none) ∧ t.st.pc = s.st.pc + 4 ∧ (∀ r, t.g r = s.g r) ∧ ∀ y, t.byte y = s.byte y))

/-- R272, R294, R333 to R342: what a core's scheduler does of itself: it forwards batches, starts records, steals and gives, ages and
watches strands, parks one that waits and restores it, and delivers a trap that was found. (The launches that a steal request names, the
lowest four, and a victim chosen by the summaries as they stand are log 33; what of a parked strand stays on the core is log 35.) -/
def Obligations.SchedulerSteps : Prop :=
  ∀ (s : State) (c x p k n i v : Nat) (near : Bool) (r : TaskRec) (f : Flight) (lixs : List Nat) (compute : Bool) (t0 : Strand)
    (e : Parked) (rest : List (Nat × Strand)),
    let st := s.strandAt c x
    let pk : Strand := { t0 with pend := [], pc := match t0.pend with | q :: _ => q.pc | [] => t0.pc }
    let to' := s.coreAt f.dst
    let sent (t : State) (d : Nat) (q : List Flight) : Prop := ∃ g, t.net = q ++ [g] ∧ g.src = c ∧ g.dst = d ∧ g.net = 5 ∧
      g.pay = .steal (isCompute c) (s.stealLixs c)
    (fget [] (s.plainAt p).shadows c = [r] → (s.coreAt c).frozen = false → (s.coreAt c).deque.length < 128 →
      ∃ t, exec (.proxyBatchForward p c) s = .next t ∧ fget [] (t.plainAt p).shadows c = [] ∧
        (t.coreAt c).deque = r :: (s.coreAt c).deque ∧ ∀ y, t.byte y = s.byte y) ∧
    (st.life = .free → s.startable c = true → s.pickRec c = some i → (s.coreAt c).deque[i]? = some r → r.ret = 0 →
      ∃ t, exec (.taskStart c x) s = .next t ∧ (t.coreAt c).deque = dropAt (s.coreAt c).deque i ∧ (∀ y, t.byte y = s.byte y) ∧
        (t.strandAt c x).pc = r.entry ∧ (t.strandAt c x).life = .ready ∧ (t.strandAt c x).prio = r.prio ∧ (t.strandAt c x).lix = r.lix ∧
        (t.strandAt c x).after = r.mark ∧ (t.strandAt c x).sys = false ∧ (t.strandAt c x).flags = 0 ∧ gread (t.strandAt c x).g 1 = r.a1 ∧
        gread (t.strandAt c x).g 2 = r.a2 ∧ gread (t.strandAt c x).g 3 = r.a3 ∧
        ∀ j : BitVec 4, 3 < j.toNat → gread (t.strandAt c x).g j = 0) ∧
    ((s.coreAt c).steal = .run → s.idle c = true → (s.coreAt c).refusals = 0 → s.victim c = some (v, near) →
      ∃ t, exec (.stealIdleDetect c) s = .next t ∧ sent t v s.net ∧ (t.coreAt c).steal = (if near then .askv else .askp)) ∧
    ((s.coreAt c).steal = .back → s.victim c = some (v, near) →
      ∃ t, exec (.stealBackoffExpiry c) s = .next t ∧ sent t v s.net ∧ (t.coreAt c).steal = (if near then .askv else .askp)) ∧
    (s.net[k]? = some f → f.pay = .steal compute lixs →
      (to'.frozen = false → to'.leader = none → to'.lost = false → stealIx compute lixs to'.deque = some i → to'.deque[i]? = some r →
        ∃ t g, exec (.stealRequest k) s = .next t ∧ t.net = dropAt s.net k ++ [g] ∧ g.dst = f.src ∧ g.src = f.dst ∧ g.pay = .stealRec r ∧
          (t.coreAt f.dst).deque = dropAt to'.deque i) ∧
      (to'.leader ≠ none ∨ stealIx compute lixs to'.deque = none → ∃ t g, exec (.stealRequest k) s = .next t ∧
        t.net = dropAt s.net k ++ [g] ∧ g.dst = f.src ∧ g.pay = .stealRef ∧ (t.coreAt f.dst).deque = to'.deque)) ∧
    (let u := { s with net := dropAt s.net k }.modCore f.dst fun c => { c with steal := .run, refusals := 0 }
     s.net[k]? = some f → f.pay = .stealRec r → s.recEnded r = false → to'.lost = false → x < ctxCount f.dst →
      (s.strandAt f.dst x).life = .free → u.startable f.dst = true → u.mayStart f.dst 1000 r = true →
      exec (.stealRecordArrival k x) s = .next (u.startRec f.dst x r)) ∧
    (s.net[k]? = some f → f.pay = .stealRec r → s.recEnded r = false → to'.lost = false → s.freeCtxOf f.dst = none →
      to'.deque.length < 128 → ∃ t, exec (.stealRecordArrival k x) s = .next t ∧ t.net = dropAt s.net k ∧
        (t.coreAt f.dst).deque = r :: to'.deque ∧ (t.coreAt f.dst).steal = .run ∧ (t.coreAt f.dst).refusals = 0) ∧
    (s.net[k]? = some f → f.pay = .stealRef → to'.refusals = 3 → ∃ t, exec (.stealRefusalArrival k) s = .next t ∧
      t.net = dropAt s.net k ∧ (t.coreAt f.dst).steal = .back ∧ (t.coreAt f.dst).refusals = 4) ∧
    (st.life = .ready → st.hnd = false →
      exec (.priorityAging c x) s = .next (s.modStrand c x fun t => { t with cls := t.cls - 1 })) ∧
    ((s.coreAt c).ranked = (x, t0) :: rest → t0 = st → s.core = c → s.ctx = x →
      (st.wd + n < 2 ^ bitsOf (s.coreAt c).wdog 4 0 → exec (.watchdog c n) s = .next (s.modStrand c x fun t => { t with wd := st.wd + n })) ∧
      (2 ^ bitsOf (s.coreAt c).wdog 4 0 ≤ st.wd + n → st.found = none → st.ended = false → st.pend = [] → exec (.watchdog c n) s =
        .next ((s.modStrand c x fun t => { t with wd := st.wd + n }).raise { code := 0x50, info := w64 (bitsOf (s.coreAt c).wdog 4 0) }))) ∧
    ((s.coreAt c).handlerWaits = true → s.hasFree c = false → (s.coreAt c).frozen = false → (s.coreAt c).parkPick = some (x, t0) →
      t0 = st → s.freeImage c t0 = some (n, v, near) → ∃ t, exec (.strandPark c) s = .next t ∧ t.bytes n 128 = pk.image ∧
        (∀ y, y < n ∨ n + 128 ≤ y → t.byte y = s.byte y) ∧ t.strandAt c x = {} ∧
        (t.coreAt c).parked = (s.coreAt c).parked ++ [{ image := n, va := v, inSpill := near, order := (s.coreAt c).seqNo, strand := pk }]) ∧
    (st.life = .free → (s.coreAt c).handlerWaits = false → (s.coreAt c).frozen = false → (s.coreAt c).leader = none →
      (s.coreAt c).parked = [e] → s.parkedReady c e = true → s.readDown c e.image = false → s.bad = [] → s.soft = [] →
        s.bytes e.image 128 = e.strand.image →
      ∃ t, exec (.strandRestore c x) s = .next t ∧ (t.coreAt c).parked = [] ∧ (t.strandAt c x).pc = e.strand.pc ∧
        (∀ r, gread (t.strandAt c x).g r = gread e.strand.g r) ∧ (t.strandAt c x).life = .ready ∧ (t.strandAt c x).lix = e.strand.lix ∧
        (t.strandAt c x).flags = e.strand.flags ∧ ∀ y, t.byte y = s.byte y) ∧
    (st.found = some ({ code := n, info := 0 }, st.pc) → st.pend = [] → st.ended = false → bitsOf (s.coreAt c).tvec 47 2 ≠ 0 →
      st.tAct = false → st.cmp = false → st.hnd = false → n < 256 → ∃ t, exec (.trapEntry c x) s = .next t ∧
        (t.strandAt c x).tCode.toNat = n ∧ (t.strandAt c x).tPc = st.pc ∧ (t.strandAt c x).tAct = true ∧ (t.strandAt c x).sys = true ∧
        (t.strandAt c x).pc = BitVec.ofNat 48 (bitsOf (s.coreAt c).tvec 47 2 * 4) ∧ (t.strandAt c x).found = none ∧
        (t.strandAt c x).g = st.g ∧ ∀ y, t.byte y = s.byte y)

/-! ### Migration, collectives, cache -/

/-- R132, R297, R302, R303, R310, R356 to R364, R421: a migrating strand enters a free context; the walker fills the translation caches; a
core freezes, and once it is settled it and a free core trade places, a forwarding entry staying behind; a worn spire, whose engine has no
landing of no strand left, a worn channel saddle and a worn line are replaced; what a lost core held is gone, and its launches end with
CORE_LOST. A core is frozen for a reason of R344, a composed one at the boundary of a block of 8 instructions (R278, R343). (The targets
and reasons of a move are log 34, the entries of the spare map log 39, which entry a full translation cache replaces log 12.) -/
def Obligations.MigrationSteps : Prop :=
  ∀ (s : State) (k c d x l va b sz pc line plain p : Nat) (perm : BitVec 4) (f : Flight) (t0 : Strand) (rest : List Nat)
    (ent : TlbEnt),
    let kc := s.coreAt c
    let st := s.strandAt c x
    let kept (t : State) : Prop := ∀ y, t.byte y = s.byte y
    (s.arriving k = some f → f.pay = .migr t0 →
      (s.over t0.lix = false → s.freeCtxOf f.dst = some x → exec (.migrationArrival k) s =
        .next ((s.take k f).setStrand f.dst x { t0 with life := .ready, since := s.tick, wd := 0 })) ∧
      (s.over t0.lix = false → s.freeCtxOf f.dst = none → exec (.migrationArrival k) s = .next s) ∧
      (s.over t0.lix = true → exec (.migrationArrival k) s = .next (((s.take k f).unhold t0).disownLeft t0))) ∧
    (st.lix = some l →
      (tlbFind l va (s.sharedTlb c) = some ent → ∃ t, exec (.pageWalk c x va) s = .next t ∧ (t.coreAt c).tlb.head? = some ent ∧
        (t.coreAt c).tlb.length ≤ 32 ∧ t = s.setCore c { kc with tlb := (t.coreAt c).tlb }) ∧
      (tlbFind l va (s.sharedTlb c) = none → s.walk c va 4 0 (s.launchAt l).root = .ok (b, sz, perm) → s.soft = [] →
        let new : TlbEnt := { lix := l, size := sz, page := va / sz, base := b, perm := perm }
        ∃ t, exec (.pageWalk c x va) s = .next t ∧ (t.coreAt c).tlb.head? = some new ∧ (t.coreAt c).tlb.length ≤ 32 ∧
          (t.sharedTlb c).head? = some new ∧ (t.sharedTlb c).length ≤ 2048 ∧ t.coreAt c = { kc with tlb := (t.coreAt c).tlb } ∧
          (∀ e, e ≠ c → t.coreAt e = s.coreAt e) ∧ kept t)) ∧
    (isSaddle c = false → kc.frozen = false → kc.lost = false → s.noFill c = true → kc.leader = none → kc.ctxs.any (fun e => e.2.hnd) = false →
      (s.freezeReason c = false → exec (.migrationFreeze c) s = .next s) ∧
      (s.freezeReason c = true → (∀ y, (s.strandAt c y).pend = []) → ∃ t, exec (.migrationFreeze c) s = .next t ∧
        t.coreAt c = { kc with frozen := true, ctxs := (t.coreAt c).ctxs } ∧ (∀ y, t.strandAt c y = s.strandAt c y) ∧
        (∀ e, e ≠ c → t.coreAt e = s.coreAt e) ∧ kept t)) ∧
    (kc.leader = some c → kc.atBlock = false → exec (.migrationFreeze c) s = .next s) ∧
    (s.targetOk c d = true → s.moveReason [c] c d = true → s.wholeSpire c = false → s.canMove [c] (s.spireOf d) false = true →
      s.spireOf d ≠ s.spireOf c → ∃ t, exec (.migrationSwitch c d) s = .next t ∧ t.placeOf c = s.placeOf d ∧
        t.placeOf d = s.placeOf c ∧ (t.coreAt c).frozen = false ∧ (t.coreAt c).moves = (if kc.moves = 0xFFFF then kc.moves else kc.moves + 1) ∧
          (t.coreAt c).tlb = [] ∧
        (fget [] t.fwd (s.placeOf c)).contains c = true ∧
        (∀ y r, gread (t.strandAt c y).g r = gread (s.strandAt c y).g r ∧ (t.strandAt c y).pc = (s.strandAt c y).pc) ∧
        (t.coreAt c).ptr = kc.ptr ∧ (t.coreAt c).acc = kc.acc ∧ (t.coreAt c).bars = kc.bars ∧ (t.coreAt c).ecs = kc.ecs ∧
        (t.coreAt c).deque = kc.deque) ∧
    (fget [] s.fwd p = c :: rest → s.net.any (fun f => f.dst == c && f.hops.contains p) = false → rest ≠ [] →
      exec (.forwardingEntryFree p) s = .next { s with fwd := fset s.fwd p rest }) ∧
    (fget [] s.fwd p = c :: rest → s.net.any (fun f => f.dst == c && f.hops.contains p) = true → exec (.forwardingEntryFree p) s = .next s) ∧
    (let q := sparePlace (4 * p) / 4
     let v := (s.spireAt p).carve
     let u := s.modSpire q fun k => { k with carve := v, carved := (s.spireAt p).carved,
                                             slots := v.slots.zipIdx.map fun e => (e.2, { base := e.1.base, size := e.1.size }) }
     s.numAt (4 * p) = some c → s.numAt (4 * p + 2) = some d → c ≠ d →
      ((s.spireAt p).orphans ≠ [] → exec (.spireReplace p) s = .next s) ∧
      ((s.spireAt p).orphans = [] → (s.valleyAt (p / 16)).spareUsed = false → u.canMove [c, d] q true = true →
        ∃ t, exec (.spireReplace p) s = .next t ∧
        t.placeOf c = sparePlace (s.placeOf c) ∧ t.placeOf d = sparePlace (s.placeOf d) ∧ (t.valleyAt (p / 16)).spareUsed = true ∧
        (t.coreAt c).frozen = false ∧ t.henud.spareMap = s.henud.spareMap ++ [(2 * 2 ^ 56 + p, q)]) ∧
      ((s.spireAt p).orphans = [] → (s.valleyAt (p / 16)).spareUsed = true → s.freeSpireFor c = some b → s.canMove [c, d] (s.spireOf b) true = true →
        ∃ t, exec (.spireReplace p) s = .next t ∧ (t.coreAt b).oos = true ∧ (t.coreAt (s.sibOf b)).oos = true ∧
          t.henud.spareMap = s.henud.spareMap ++ [(2 * 2 ^ 56 + p, s.spireOf b)])) ∧
    (kc.lost = false → kc.leader = none → kc.launchesOn = [] → s.movesOf c = [] → (∀ e ∈ kc.ctxs, e.2.left = []) →
      (∀ e ∈ kc.parked, e.strand.left = []) → ∃ t, exec (.coreLost c) s = .next t ∧
      t.coreAt c = { lost := true, txSeq := kc.txSeq, rxSeq := kc.rxSeq } ∧ (∀ e, e ≠ c → t.coreAt e = s.coreAt e) ∧ kept t) ∧
    (kc.lost = false → kc.leader = none → kc.launchesOn = [(l, pc)] → s.movesOf c = [] → (s.launchAt l).st = .placed → (s.launchAt l).why = none →
      ∃ t, exec (.coreLost c) s = .next t ∧ (t.coreAt c).lost = true ∧ (t.coreAt c).ctxs = [] ∧ (t.launchAt l).st = .ended ∧
        (t.launchAt l).why = some (0x53, w64 c, pc, 2) ∧ kept t) ∧
    ((s.plainAt plain).spareFor = none → ∃ t, exec (.channelSaddleReplace plain d) s = .next t ∧ (t.plainAt plain).spareFor = some d ∧
      t.badSaddle (plain * 4096 + 2048 + 48 * 32) = true ∧ kept t) ∧
    (16 ≤ fget 0 s.corrLine line → ∃ t, exec (.lineSpare line) s = .next t ∧ fget 0 t.corrLine line = 0 ∧
      t.henud.spareMap = s.henud.spareMap ++ [(2 ^ 56 + line, 0)] ∧ kept t)

/-- R246, R247, R394, R395, R397 to R405: coll.cfg registers a participant under a free handle; coll.rdy readies a tile; a tile whose
peers are all ready runs (unless the island of a saddle it needs is off, R420), behind the high-priority ones of its tower, and then its
flags clear and the peers' counters rise; the lines of a contribution are read one by one, each once (log 36, as the firing order). A link
takes flits in the order of their numbers and has failed ones sent again; a lane that fails is replaced while spares last (its entry of
the spare map is log 39). -/
def Obligations.CollectivesAndLinks : Prop :=
  ∀ (rd ra rb : BitVec 4) (s : State) (gs ts : List Seg) (tiles : List (Nat × TileEnt)) (c : Coll) (lix group tile sq : Nat) (link : Nat)
    (e e' : TileEnt) (peers : List Coll) (order : List Nat) (a b : Seg) (rank chunk : Nat),
    let t := towerOf s.core
    let d := parseColl (gs.flatMap fun g => s.bytes g.ga g.n)
    let opts := s.g rb
    let size (c : Coll) := 4096 * 2 ^ c.chk
    let all := s.collOf lix group
        let run := fget 0 s.runs (runKey lix group tile)
    let ready (u : State) : Prop := ∀ x ∈ u.colls, x.lix = lixOf lix → x.group = group → tile ∉ x.ready
    let k : Link := fget {} s.links link
    (s.ReadyUnit (.collCfg 0 rd ra rb) → opts.toNat < 4 → inSp (s.g ra) 64 = true → s.segsOf (s.g ra).toNat 64 .rd = .ok gs → s.bad = [] →
      s.soft = [] → (∃ h, h < 256 ∧ ∀ x ∈ s.colls, x.tower = t → x.handle ≠ h) → d.ok = true → (∀ g ∈ ts, s.readDown s.core g.ga = false) →
        s.launchCore d.ecore = true → s.ownTowerDown = false →
      d.tab + 32 * d.nt ≤ 2 ^ 37 → s.segsOf d.tab (32 * d.nt) .rd = .ok ts →
      s.parseTiles d (opts.getLsbD 0) 0 d.nt (ts.flatMap fun g => s.bytes g.ga g.n) = .ok tiles →
      (∀ x ∈ s.colls, x.lix = s.st.lix → x.group = d.group → x.np = d.np ∧ x.nt = d.nt ∧ x.chk = d.chk ∧ x.rank ≠ d.rank) →
      ∃ v h, exec (.collCfg 0 rd ra rb) s = .next v ∧ h < 256 ∧ (∀ x ∈ s.colls, x.tower = t → x.handle ≠ h) ∧
        v.colls = s.colls ++ [{ tower := t, handle := h, lix := s.st.lix, group := d.group, rank := d.rank, np := d.np, nt := d.nt, chk := d.chk,
                                ec := d.ec, ecore := d.ecore, prio := opts.getLsbD 0, det := opts.getLsbD 1, ents := tiles, ready := [] }] ∧
        (rd ≠ 0 → v.g rd = w64 h) ∧ (∀ r, r ≠ rd → v.g r = s.g r) ∧ v.st.pc = s.st.pc + 4 ∧ ∀ y, v.byte y = s.byte y) ∧
    (s.ReadyUnit (.collRdy 0 ra rb) → s.colls.find? (fun x => x.tower == t && x.handle == (s.g ra).toNat) = some c → (s.g rb).toNat < c.nt →
      c.ents.any (fun p => p.1 == (s.g rb).toNat) = true → s.ownTowerDown = false →
      (c.ready.contains (s.g rb).toNat = false → s.writing s.me.seqNo (c.reads (s.g rb).toNat) = true →
        exec (.collRdy 0 ra rb) s = .next (s.stall false)) ∧
      (c.ready.contains (s.g rb).toNat = false → s.writing s.me.seqNo (c.reads (s.g rb).toNat) = false →
        exec (.collRdy 0 ra rb) s = .next (State.noteFired { s with colls := s.colls.map fun x =>
        if x.tower == t && x.handle == (s.g ra).toNat then { x with ready := x.ready ++ [(s.g rb).toNat] } else x } c.lix c.group).advance) ∧
      (c.ready.contains (s.g rb).toNat = true → exec (.collRdy 0 ra rb) s = .next (s.raise
        { code := 0x36, info := w64 ((s.g rb).toNat * 2 ^ 32 + (s.g ra).toNat % 65536 * 65536 + 0x08) }))) ∧
    (s.fires lix group tile = none → exec (.collTileFire lix group tile order) s = .next s) ∧
    (s.fires lix group tile = some (e, peers) → s.mayRun lix group tile = false → exec (.collTileFire lix group tile order) s = .next s) ∧
    (s.fires lix group tile = some (e, peers) → s.mayRun lix group tile = true → agree e tile peers = false →
      (∀ x ∈ peers, (s.coreAt x.ecore).armed = []) → peers = [c] →
      ∃ v, exec (.collTileFire lix group tile order) s = .next v ∧ ready v ∧ (∀ y, v.byte y = s.byte y) ∧
        v.ec c.ecore c.ec = s.ec c.ecore c.ec + 0x100000000) ∧
    (s.fires lix group tile = some (e, [c]) → s.mayRun lix group tile = true → all = [c] → agree e tile [c] = true → e.op = 0 → e.pn = 1 →
      e.p0 = 0 → c.rank = 0 →
      c.ent tile = some e' → e'.src = [a] → e'.dst = [b] → a.n = e.bytes → b.n = e.bytes → e'.bytes = e.bytes → 0 < e.bytes →
      e.bytes ≤ size c → s.contribs = [] → s.links = [] → (∀ n, s.islandOff n = false) → s.bad = [] → s.soft = [] → (s.coreAt c.ecore).armed = [] →
      ∃ v, exec (.collTileFire lix group tile order) s = .next v ∧ ready v ∧ v.bytes b.ga e.bytes = s.bytes a.ga e.bytes ∧
        (∀ y, y < b.ga ∨ b.ga + e.bytes ≤ y → v.byte y = s.byte y) ∧ v.ec c.ecore c.ec = s.ec c.ecore c.ec + 1 ∧
        fget 0 v.runs (runKey lix group tile) = run + 1) ∧
    (let had := s.staged c tile run chunk
     let all' := Nat.min (size c) (e.bytes - chunk * size c)
     let m := Nat.min 64 (all' - had.length)
     s.fires lix group tile = some (e, peers) → agree e tile peers = true →
      peers.find? (fun x => x.rank == rank && (e.contributors all.length).contains rank) = some c →
      (all' ≤ had.length → exec (.collContribution lix group tile rank run chunk) s = .next s) ∧
      (had.length < all' → c.ent tile = some e' → e'.src = [a] → a.n = e'.bytes → e'.bytes = e.bytes → s.links = [] →
        (∀ n, s.islandOff n = false) → s.bad = [] →
        s.soft = [] → ∃ v, exec (.collContribution lix group tile rank run chunk) s = .next v ∧ (∀ y, v.byte y = s.byte y) ∧
          v.contribs = (s.contribs.filter fun x => !Contrib.of c tile run chunk x) ++
            [{ lix := lixOf lix, group := group, tile := tile, rank := rank, run := run, chunk := chunk
               data := had ++ s.bytes (a.ga + (chunk * size c + had.length)) m }])) ∧
    (k.failed < 2 → sq < 65536 →
      (sq = k.expect.toNat → exec (.deleusFlitReceive link sq true) s =
        .next { s with links := fset s.links link { k with expect := k.expect + 1, replay := k.replay.filter (· != sq) } }) ∧
      (sq ∉ k.replay → k.replay.length < 2048 → exec (.deleusFlitReceive link sq false) s =
        .next { s with links := fset s.links link { k with replay := k.replay ++ [sq] } }) ∧
      (sq ∉ k.replay → k.replay.length < 2048 → (k.expect - BitVec.ofNat 16 sq).toNat ≤ 2048 → exec (.linkLevelRetry link sq) s =
        .next { s with links := fset s.links link { k with replay := k.replay ++ [sq] } })) ∧
    (∃ v, exec (.laneFailure link) s = .next v ∧ v.links = fset s.links link { k with failed := k.failed + 1 } ∧
      v.henud.spareMap = s.henud.spareMap ++ (if k.failed < (if link < 1024 then 1 else 2) then
        [((if link < 1024 then 5 else 4) * 2 ^ 56 + link, k.failed + 1)] else []) ∧ ∀ y, v.byte y = s.byte y)

/-- R369, R372 to R375, R378: a cache message is served whole: what a home does for each op, by the entry it holds for the key, and what
it sends; parts are kept until the last has come; a message for a moving key waits and one for a moved key goes on; a RELEASE that ends a
block deletes the stub it came through, and a QUERY that meets an error, finds the send queue full, or names no core to answer aborts its
handler, whose message stays at the head of its queue (R220). (That one step serves a message, what an abort has stored by then, the
messages kept and passed on, and the descriptor the handler uses are log 40.) -/
def Obligations.CacheMessages : Prop :=
  ∀ (s u v : State) (c desc h ix j : Nat) (m : CacheHeld) (ms : List CacheHeld) (e e' : CEnt) (r : RMsg)
    (p : CacheHeld),
    let d := s.cacheDesc c desc
    let sent (t : State) (xs : List (Nat × Nat × List Word)) : State := t.modCore c fun k => { k with sendq := k.sendq ++ xs.map fun x =>
      { held := false, ctx := 1000, dst := x.1, net := 0, lix := m.lix, tag := 0, pay := .prog x.2.1 x.2.2 } }
    let acks (t : State) (status : Nat) : State :=
      sent t [(m.rcore, m.rhnd, [cacheW0 0x04 0 m.b (if status = 4 then m.addressed else m.seq), m.w 1, m.w2With status])]
    let roomIn (t : State) (n : Nat) : Prop := (t.coreAt c).sqCount + n ≤ (t.coreAt c).sqDepth
    let room (n : Nat) : Prop := roomIn u n
    let to' (dst hnd : Nat) : Prop := State.sendChk { s with core := c } (w64 dst) (w64 hnd) = none
    let back : Prop := to' m.rcore m.rhnd
    let turn (op : Nat) : Prop := s.CacheTurn c desc op m ms u
    let noStub : Prop := (u.coreAt m.src).passed.find? (fun x => x.ws == m.ws) = none
    let found (o : Option CEnt) : Prop := u.lookupKey c d m.seq m.b = o
    let row (i : Nat) : List Byte :=
      let bs := (partElems d i ms).flatMap fun x => leBytes 2 x
      bs ++ List.replicate (d.row - bs.length) 0
    let put (e : CEnt) : State :=
      let o := d.slotOff e.slot
      State.putCent (((u.spWrite c (o + e.fill * d.row) (row 5)).spWrite c (o + (64 + e.fill) * d.row) (row 17)).spWrite c
        (o + 128 * d.row + 8 * e.fill) (leBytes 8 (m.w 4).toNat)) c d { e.withFill (e.fill + 1) with d1 := liveD1 m.rcore m.tag e.slot e.ref }
    let handles : Prop := bitsOf (s.coreAt c).tvec 47 2 ≠ 0 ∧ s.over m.lix = false
    let aborted (t : State) (code : Nat) (info : Word) : Prop := ∃ (x : Nat) (r : RMsg), r.cache = m ∧ s.freeCtxOf c = some x ∧
      (t.strandAt c x).tCode = BitVec.ofNat 8 code ∧ (t.strandAt c x).tInfo = info ∧ (t.strandAt c x).tAct = true ∧
      (t.strandAt c x).hnd = false ∧ ((t.coreAt c).queue 0).msgs.head? = some { r with held := true } ∧ ∀ y, t.byte y = s.byte y
    -- parts that are not the last; a key that moves, and one that has moved
    (∀ t, s.nextCache c d 1 = some (r, t) → r.cache = m → s.CacheCalm c → m.part + 1 < d.parts →
      exec (.query c desc) s = .next (t.modCore c fun k => { k with cacheParts := k.cacheParts ++ [m] })) ∧
    (∀ t, s.nextCache c d 3 = some (r, t) → r.cache = m → s.CacheCalm c → m.part + 1 < d.parts →
      exec (.append c desc) s = .next (t.modCore c fun k => { k with cacheParts := k.cacheParts ++ [m] })) ∧
    (turn 6 → found (some e) → (e.st = 2 ∨ e.st = 6) →
      exec (.release c desc) s = .next (u.modCore c fun k => { k with cacheHeld := k.cacheHeld ++ ms })) ∧
    (turn 6 → found (some e) → e.st = 3 → ms = [m] → room 1 → to' e.nhome d.hnd → exec (.release c desc) s = .next
      ((sent u [(e.nhome, d.hnd, m.ws)]).modCore c fun k => { k with passed := k.passed ++ [m] })) ∧
    -- QUERY and PARTIAL
    (turn 1 → found none → back →
      (room 1 → exec (.query c desc) s = .next (acks u 4)) ∧
      ((u.coreAt c).sqDepth ≤ (u.coreAt c).sqCount → handles → ∃ t, exec (.query c desc) s = .next t ∧
        aborted t 0x30 (w64 ((u.coreAt c).sqDepth + (u.coreAt c).sqCount * 256)))) ∧
    (turn 1 → found none → State.destOk { s with core := c } (w64 m.rcore) = false → handles → ∃ t, exec (.query c desc) s = .next t ∧
      aborted t 0x32 (w64 m.rcore)) ∧
    (turn 1 → found (some e) → e.st = 1 → room d.parts → back → 0 < d.parts →
      exec (.query c desc) s = .next (sent u ((partialParts d m (blockState d e.fill (u.bytes (u.spAt c (d.slotOff e.slot)) d.sz)
        (m.w 3).toNat (bitsOf (m.w 4) 6 0) (bitsOf (m.w 4) 63 32) (partElems d 5 ms))).map fun ws => (m.rcore, m.rhnd, ws)))) ∧
    (let o := d.slotOff e.slot
     ∀ t a, s.nextCache c d 1 = some (r, t) → r.cache = m → d.parts ≤ m.part + 1 → s.soft = [] → (s.spireAt (s.spireOf c)).up = 0xFF →
      s.badIn (s.spAt c desc) 32 = none → (∀ i, i < 256 → s.badIn (s.spAt c (d.tbl + 16 * i)) 16 = none) → s.lookupKey c d m.seq m.b = some e →
      e.st = 1 → s.badIn (s.spAt c o) (e.fill * d.row) = some a → handles → ∃ t, exec (.query c desc) s = .next t ∧
        aborted t 0x13 (w64 (0xFF0000000000 + o % 2 ^ 20 + a - s.spAt c o))) ∧
    (s.cacheHead c = some r → r.cache = m → m.op = 2 → exec (.partialMsg c) s = .next (s.modCore c fun k => { k.popMsg 0 with
      parts := (k.popMsg 0).parts ++ [{ seq := m.seq, b := m.b, part := m.part, tag := m.tag, status := m.status, ws := m.ws }] })) ∧
    -- APPEND
    (turn 3 → found none → bitsOf (m.w 3) 15 0 = 64 * m.b → u.insertIx c d m.seq m.b = some ix → u.freeSlot c d = some j → room 1 → back →
      exec (.append c desc) s = .next (acks (put (CEnt.new ix 1 0 m.seq m.b (liveD1 0 0 j 1))) 0)) ∧
    (turn 3 → found (some e) → e.st = 1 → room 1 → back →
      (e.lsrc = m.rcore → e.ltag = m.tag → exec (.append c desc) s = .next (acks u 0)) ∧
      (¬(e.lsrc = m.rcore ∧ e.ltag = m.tag) →
        (1 < e.ref → exec (.append c desc) s = .next (acks u 3)) ∧
        (e.ref ≤ 1 → bitsOf (m.w 3) 15 0 ≠ 64 * m.b + e.fill → exec (.append c desc) s = .next (acks u 2)) ∧
        (e.ref ≤ 1 → bitsOf (m.w 3) 15 0 = 64 * m.b + e.fill → e.fill < 64 → exec (.append c desc) s = .next (acks (put e) 0)))) ∧
    -- ACK
    (let note (t : State) : State := t.modCore c fun k => { k with acks := k.acks ++ [(m.seq * 65536 + m.b, m.tag, m.status)] }
     s.cacheHead c = some r → r.cache.op = 4 →
      (r.cache = m → r.hdr1.toNat ≠ d.hnd → exec (.ack c desc) s = .next (note (s.modCore c fun k => k.popMsg 0))) ∧
      (r.hdr1.toNat = d.hnd → turn 4 → found none → exec (.ack c desc) s = .next (note u)) ∧
      (r.hdr1.toNat = d.hnd → turn 4 → found (some e) →
        ((m.status = 1 ∨ m.status = 5) → (e.st = 2 ∨ e.st = 6) →
          exec (.ack c desc) s = .next (u.putCent c d (e.withSt (if e.st = 2 then 1 else 5)))) ∧
        (m.status ≠ 1 → m.status ≠ 5 → exec (.ack c desc) s = .next (note u)))) ∧
    -- SHARE and RELEASE
    (turn 5 → found (some e) → e.st = 1 →
      (e.fill < bitsOf (m.w 4) 6 0 → room 1 → back → exec (.share c desc) s = .next (acks u 2)) ∧
      (bitsOf (m.w 4) 6 0 = 64 → 64 ≤ e.fill → room 1 → to' (u.keyHome c d (bitsOf (m.w 3) 31 0) m.b) d.hnd →
        exec (.share c desc) s = .next ((sent u [(u.keyHome c d (bitsOf (m.w 3) 31 0) m.b, d.hnd,
          [cacheW0 0x0A 0 m.b (bitsOf (m.w 3) 31 0), m.w 1, w64 m.rcore, w64 (c * 2 ^ 32 + m.seq)])]).putCent c d
            (e.withRef (Nat.min (e.ref + 1) 0xFFFF)))) ∧
      (0 < bitsOf (m.w 4) 6 0 → bitsOf (m.w 4) 6 0 < 64 → bitsOf (m.w 4) 6 0 ≤ e.fill →
        u.stageOut c d m.lix e.slot (m.w 5).toNat (d.ranges (bitsOf (m.w 4) 6 0)) = .done v →
        roomIn v 1 → to' (u.keyHome c d (bitsOf (m.w 3) 31 0) m.b) d.hnd → exec (.share c desc) s = .next
        (sent v [(u.keyHome c d (bitsOf (m.w 3) 31 0) m.b, d.hnd, [cacheW0 0x08 0 m.b (bitsOf (m.w 3) 31 0), m.w 1, w64 m.rcore, m.w 5,
          w64 (2 ^ 32 + 2 ^ 16 + bitsOf (m.w 4) 6 0)])]))) ∧
    (turn 6 → found none → noStub → exec (.release c desc) s = .next u) ∧
    (turn 6 → found (some e) → e.st = 1 → noStub →
      (1 < e.ref → exec (.release c desc) s = .next (u.putCent c d (e.withRef (e.ref - 1)))) ∧
      (e.ref ≤ 1 → exec (.release c desc) s = .next (u.putCent c d ((e.withRef 0).withSt 4)))) ∧
    (let w := (u.putCent c d ((e.withRef 0).withSt 4)).modCore m.src fun k => { k with passed := k.passed.erase p }
     turn 6 → found (some e) → e.st = 1 → e.ref ≤ 1 → (u.coreAt m.src).passed.find? (fun x => x.ws == m.ws) = some p →
      w.lookupKey m.src d m.seq m.b = some e' → e'.st = 3 → e'.nhome = c → (w.coreAt p.src).passed = [] →
      exec (.release c desc) s = .next (w.putCent m.src d (e'.withSt 4))) ∧
    (turn 6 → found (some e) → e.st = 5 → ms = [m] → noStub → room 1 → to' e.thome d.hnd → exec (.release c desc) s =
      .next ((sent u [(e.thome, d.hnd, (m.through e.tseq).ws)]).putCent c d (e.withSt 4))) ∧
    -- REHOME, INSTALL, INSTALLED
    (turn 7 → found (some e) → e.st = 5 → room 1 → to' (bitsOf (m.w 3) 19 0) d.hnd → exec (.rehome c desc) s = .next ((sent u
      [(bitsOf (m.w 3) 19 0, d.hnd, [cacheW0 0x08 0 m.b m.seq, w64 (m.tag * 2 ^ 48 + d.hnd), w64 c, w64 (e.thome * 2 ^ 32 + e.tseq),
        w64 (2 * 2 ^ 32 + 2 ^ 16)])]).putCent c d (e.withSt 6))) ∧
    (turn 7 → found (some e) → e.st = 1 → u.stageOut c d m.lix e.slot (m.w 4).toNat [(0, d.sz)] = .done v →
      roomIn v 1 → to' (bitsOf (m.w 3) 19 0) d.hnd → exec (.rehome c desc) s = .next ((sent v
      [(bitsOf (m.w 3) 19 0, d.hnd, [cacheW0 0x08 0 m.b m.seq, w64 (m.tag * 2 ^ 48 + d.hnd), w64 c, m.w 4,
        w64 (e.ref * 2 ^ 16 + e.fill)])]).putCent c d (e.withSt 2))) ∧
    (let live := CEnt.new ix 1 (bitsOf (m.w 4) 6 0) m.seq m.b (liveD1 0 0 j (bitsOf (m.w 4) 31 16))
     let installed (t : State) : State := sent t [(m.rcore, m.rhnd, [cacheW0 0x09 0 m.b m.seq, m.w 1, w64 c])]
     turn 8 → found none → u.insertIx c d m.seq m.b = some ix → u.freeSlot c d = some j → back →
      (bitsOf (m.w 4) 33 32 = 0 → u.stageIn c d m.lix j (m.w 3).toNat [(0, d.sz)] = .done v → roomIn v 1 →
        exec (.install c desc) s = .next ((installed v).putCent c d live)) ∧
      (bitsOf (m.w 4) 33 32 = 1 → u.stageIn c d m.lix j (m.w 3).toNat (d.ranges (bitsOf (m.w 4) 6 0)) = .done v → roomIn v 1 →
        exec (.install c desc) s = .next ((acks v 0).putCent c d live)) ∧
      (bitsOf (m.w 4) 33 32 = 2 → room 1 → exec (.install c desc) s = .next ((installed u).putCent c d
        (CEnt.new ix 5 0 m.seq m.b (fld (m.w 3).toNat 31 0 * 2 ^ 20 + fld (m.w 3).toNat 51 32))))) ∧
    (let mine (x : CacheHeld) : Bool := x.seq == m.seq && x.b == m.b
     let held := (u.coreAt c).cacheHeld.filter mine
     turn 9 → found (some e) → (e.st = 2 ∨ e.st = 6) → room held.length → to' m.src d.hnd → ∃ t, exec (.installed c desc) s = .next t ∧
      (∀ y, t.byte y = (u.putCent c d { e.withSt 3 with d1 := m.src }).byte y) ∧
      (t.coreAt c).cacheHeld = (u.coreAt c).cacheHeld.filter (fun x => !mine x) ∧
      (t.coreAt c).sendq = (u.coreAt c).sendq ++ held.map fun x => { held := false, ctx := 1000, dst := m.src, net := 0
                                                                     lix := m.lix, tag := 0, pay := .prog d.hnd x.ws }) ∧
    -- ALIAS
    (turn 10 → found none → u.insertIx c d m.seq m.b = some ix → room 1 → back → exec (.aliasMsg c desc) s = .next
      ((acks u 0).putCent c d (CEnt.new ix 5 0 m.seq m.b (bitsOf (m.w 3) 31 0 * 2 ^ 20 + bitsOf (m.w 3) 51 32)))) ∧
    (turn 10 → found (some e) → (e.st = 1 ∨ e.st = 5) → room 2 → back → to' (bitsOf (m.w 3) 51 32) d.hnd → exec (.aliasMsg c desc) s = .next
      (sent (acks u 5) [(bitsOf (m.w 3) 51 32, d.hnd, [cacheW0 0x06 0 m.b (bitsOf (m.w 3) 31 0), m.w 1, m.w 2])]))

/-! ### Host and controller -/

/-- R408 to R416: a host register write of a booted device; a tail is checked against the ring; an active queue takes the entry behind the
last one when its sequence number is there, and stops with err when it is not; a bad entry is answered at once, as a refused move is; the
queues of a package trade their active places; a record that waits is written when it finds room, also after a register write (R414). What
the host writes to a queue that is inactive waits in its shadow; a read of it gives the values saved. A write of GDDR whose channel's
island is off does nothing (R420). (Where the bytes of a host's ring stand, hostGa, and the key of an MSI-X vector, 2048 a package, are
log 21; which of the four statuses a refused move gets is log 14.) -/
def Obligations.HostQueues : Prop :=
  ∀ (q off addr target : Nat) (v : BitVec 32) (x : BitVec 64) (s : State) (t : Taken),
    let h := s.queueAt q
    let seq := h.cons + 1
    let pkg := queuePkg q
    let vec := pkg * 2048 + q % 1024
    let ws := s.entryAt pkg h seq
    let kind := bitsOf (ws.getD 0 0) 7 0
    let roomy : Prop := h.recs = [] ∧ (h.cprod - h.chead).toNat ≠ h.size
    let taking : Prop := h.act = true ∧ h.en = true ∧ h.err = false ∧ h.taken.length < 256 ∧ h.tail ≠ h.cons
    let posted (u : State) (r : CRec) : Prop := u.bytes (hostGa pkg (h.cbase.toNat * 4096 + (h.cprod + 1).toNat % h.size * 32)) 32 =
        r.bytes (h.cprod + 1) ∧ (u.queueAt q).cprod = h.cprod + 1 ∧ (u.queueAt q).recs = [] ∧ fget 0 u.msix vec = fget 0 s.msix vec + 1 ∧
      ∀ e ∈ (u.queueAt q).taken, e.seq.toNat ≠ r.eseq
    let wrote (g : HQueue → HQueue) : State := (s.modQueue q g).drainRecs q 257
    let since (k : HQueue) : HQueue :=
      { k with since := if h.act = false ∧ k.untaken = true ∧ h.untaken = false then s.tick else h.since }
    (h.read 0x18 = some 0 ∧ h.read 0x30 = some 0 ∧
      (h.act = true → h.read 0x28 = some (w64 h.cprod.toNat) ∧
        h.read 0x20 = some (w64 (2 ^ 62 + (if h.err then 2 ^ 61 else 0) + h.cons.toNat)) ∧
        (h.taken = [] → h.read 0x38 = some (w64 seq.toNat))) ∧
      (h.act = false → h.read 0x28 = some (w64 (2 ^ 63 + h.savedCprod.toNat)))) ∧
    (∀ (u : State) (r : CRec), let k := u.queueAt q
      let full : Prop := (k.cprod - k.chead).toNat = k.size
      (k.recs = [] ∨ full → u.drainRecs q 257 = u) ∧
      (k.recs = [r] → ¬full → (u.drainRecs q 257).bytes (hostGa pkg (k.cbase.toNat * 4096 + (k.cprod + 1).toNat % k.size * 32)) 32 =
        r.bytes (k.cprod + 1) ∧ ((u.drainRecs q 257).queueAt q).cprod = k.cprod + 1 ∧ ((u.drainRecs q 257).queueAt q).recs = [])) ∧
    (s.henud.booted = false → ∀ e ∈ ([.queueTailWrite q v, .queueCtlWrite q x, .queueErrClear q, .completionHeadWrite q v,
      .hostRegisterWrite q off x, .hostBar2Write addr x] : List Instr), exec e s = .next s) ∧
    (s.henud.booted = true →
      (h.act = true → ((v - (h.cons + 1)).toNat ≤ h.size → exec (.queueTailWrite q v) s =
          .next (s.modQueue q fun h => { h with tail := v })) ∧
        (h.size < (v - (h.cons + 1)).toNat → exec (.queueTailWrite q v) s = .next (s.modQueue q fun h => { h with err := true })) ∧
        (h.recs = [] → ∃ u, exec (.completionHeadWrite q v) s = .next u ∧ u.queueAt q = { h with chead := v } ∧
          (∀ p, p ≠ q → u.queueAt p = s.queueAt p) ∧ ∀ y, u.byte y = s.byte y)) ∧
      (h.act = false → exec (.completionHeadWrite q v) s = .next (s.modQueue q fun h => { h with shChead := some v }) ∧
        exec (.queueTailWrite q v) s = .next (s.modQueue q fun h => since { h with shTail := some v })) ∧
      exec (.queueCtlWrite q x) s = .next (s.modQueue q fun h => since { h with cls := x.extractLsb' 1 2, en := x.getLsbD 0 }) ∧
      exec (.queueErrClear q) s = .next (s.modQueue q fun h => { h with err := false }) ∧
      (h.en = true → (off = 0x00 ∨ off = 0x08) → exec (.hostRegisterWrite q off x) s =
        .next (wrote fun h => { h with err := true })) ∧
      (h.en = false → bitsOf x 3 0 ≤ 12 → exec (.hostRegisterWrite q 0x00 x) s =
        .next (wrote fun h => { h with base := x.extractLsb' 12 52, lsz := x.extractLsb' 0 4 })) ∧
      (h.en = false → exec (.hostRegisterWrite q 0x08 x) s = .next (wrote fun h => { h with cbase := x.extractLsb' 12 52 })) ∧
      exec (.hostRegisterWrite q 0x20 x) s = .next (wrote fun h => { h with err := h.err && !x.getLsbD 61 }) ∧
      (¬(addr % 8 = 0 ∧ addr % 2 ^ 52 < 2 ^ 37) → exec (.hostBar2Write addr x) s = .next s) ∧
      (s.gaOff addr = true → exec (.hostBar2Write addr x) s = .next s) ∧
      (s.bad = [] → s.gaOff addr = false → addr % 8 = 0 → addr % 2 ^ 52 < 2 ^ 37 → ∃ u, exec (.hostBar2Write addr x) s = .next u ∧
        u.bytes addr 8 = leBytes 8 x.toNat ∧ ∀ y, y < addr ∨ addr + 8 ≤ y → u.byte y = s.byte y)) ∧
    (taking → bitsOf (ws.getD 0 0) 63 32 ≠ seq.toNat → exec (.queueEntryTake q) s = .next (s.modQueue q fun h => { h with err := true })) ∧
    (taking → bitsOf (ws.getD 0 0) 63 32 = seq.toNat → entryBad ws = false → exec (.queueEntryTake q) s =
      .next (s.modQueue q fun h => { h with cons := seq, taken := h.taken ++ [{ seq := seq, kind := kind, ws := ws }] })) ∧
    (taking → bitsOf (ws.getD 0 0) 63 32 = seq.toNat → entryBad ws = true → roomy → ∃ u, exec (.queueEntryTake q) s = .next u ∧
      posted u { eseq := seq.toNat, kind := kind, status := 1 } ∧ (u.queueAt q).cons = seq) ∧
    (h.act = false → h.untaken = true → (s.queues.filter fun e => queuePkg e.1 == pkg && e.2.act).length < 64 → s.waitsBefore q = false →
      h.shTail = some v →
      h.shChead = none → ∃ u, exec (.queueSwitchIn q) s = .next u ∧ (u.queueAt q).act = true ∧ (u.queueAt q).stale = false ∧
        (u.queueAt q).shTail = none ∧ (u.queueAt q).tail = (if (v - (h.cons + 1)).toNat ≤ h.size then v else h.tail) ∧
        (∀ p, p ≠ q → u.queueAt p = s.queueAt p) ∧ ∀ y, u.byte y = s.byte y) ∧
    (h.act = true → h.tail = h.cons → (s.queues.any fun e => e.1 != q && queuePkg e.1 == pkg && !e.2.act && e.2.untaken) = true →
      exec (.queueSwitchOut q) s = .next (s.modQueue q fun h =>
        { h with act := false, stale := true, savedCons := h.cons, savedCprod := h.cprod, savedCnt := h.pendCnt, savedSeq := h.pendSeq,
                 since := s.tick })) ∧
    (h.next? 3 = some t →
      (s.targetOk (bitsOf (t.ws.getD 1 0) 19 0) target = true → exec (.queueMove q target) s = .next (s.modQueue q fun h =>
        { h with taken := h.taken.map fun u => if u.seq = t.seq then { u with busy := true } else u })) ∧
      (s.targetOk (bitsOf (t.ws.getD 1 0) 19 0) target = false → roomy → ∃ u st, exec (.queueMove q target) s = .next u ∧ 1 ≤ st ∧ st ≤ 4 ∧
        posted u { eseq := t.seq.toNat, kind := 3, status := st }))

/-- R305, R325 to R332, R351, R414: the front checks a launch entry, gives it an index or answers its refusal; it is placed when all its
groups fit together, and its records are pushed; it is done once nothing of it is live and every write is performed; an invalidation is
answered when nothing accepted holds an address of its range, and the caches have dropped it. An id and an index are those of a domain
(R327, R328, R396). (Where the bytes of a host's ring stand and the numbers of the indexes are log 21, the order of the refusals and the
launch id 0 of a record that is not read log 37, what makes a spire qualify beyond R329 log 22; that a launch is not done while a tile of
it is in flight, though it writes nothing, is log 43; that the instruction cache drops the lines of no launch too is log 13.) -/
def Obligations.LaunchSteps : Prop :=
  ∀ (q lix g l : Nat) (s : State) (t : Taken) (code : Nat) (info : Word) (pc reason : Nat) (b : Launch) (gs : List Nat),
    let ring (q : Nat) (u : State) (r : CRec) : Prop :=
      let h := s.queueAt q
      u.bytes (hostGa (queuePkg q) (h.cbase.toNat * 4096 + (h.cprod + 1).toNat % h.size * 32)) 32 = r.bytes (h.cprod + 1) ∧
        (u.queueAt q).cprod = h.cprod + 1 ∧ (u.queueAt q).recs = [] ∧ ∀ e ∈ (u.queueAt q).taken, e.seq.toNat ≠ r.eseq
    let roomy (q : Nat) : Prop := (s.queueAt q).recs = [] ∧ ((s.queueAt q).cprod - (s.queueAt q).chead).toNat ≠ (s.queueAt q).size
    let at' := bitsOf (t.ws.getD 1 0) 51 0
    let root := bitsOf (t.ws.getD 2 0) 51 0
    let pkg := queuePkg q
    let p := s.parseLaunch pkg (wordsOf 8 (s.bytes (pkg * 2 ^ 52 + at') 64))
    let readable : Prop := at' % 64 = 0 ∧ at' + 64 ≤ 2 ^ 37 ∧ s.badIn (pkg * 2 ^ 52 + at') 64 = none ∧ s.gaOff (pkg * 2 ^ 52 + at') = false
    let plain : Prop := bitsOf (t.ws.getD 3 0) 47 0 = 0
    let fresh : Prop := s.launchOf pkg p.1.id.toNat = none
    let a := s.launchAt lix
    let gone : Prop := s.cores.all (fun e => e.2.without lix) = true ∧ s.recWaits lix = false ∧ s.writesOut lix = false ∧
      s.tileFlying (some lix) = false
    let left (u : State) : Prop := u.launchAt lix = { a with st := .done, cores := [] } ∧ (∀ c ∈ u.colls, c.lix ≠ some lix) ∧
      (∀ c, ∀ e ∈ (u.coreAt c).binds, e.lix ≠ some lix) ∧ (∀ c, ∀ e ∈ (u.coreAt c).filter, e.1 ≠ some lix) ∧
      ∀ k, k ≠ lix → (s.launchAt k).st = .waiting → (u.launchAt k).preds = (s.launchAt k).preds.filter fun p => p.1 != lix
    let id := bitsOf (t.ws.getD 1 0) 31 0
    let lo := bitsOf (t.ws.getD 2 0) 51 0
    let len := bitsOf (t.ws.getD 3 0) 47 0
    ((s.queueAt q).next? 1 = some t → s.freeLix pkg = some lix →
      (at' % 64 ≠ 0 → roomy q → ∃ u, exec (.queueLaunch q) s = .next u ∧ ring q u { eseq := t.seq.toNat, kind := 1, status := 1 }) ∧
      (readable → p.2 = false → roomy q → ∃ u, exec (.queueLaunch q) s = .next u ∧
        ring q u { eseq := t.seq.toNat, kind := 1, status := 1, launch := p.1.id.toNat }) ∧
      (readable → p.2 = true → plain → fresh → root % 4096 ≠ 0 → roomy q → ∃ u, exec (.queueLaunch q) s = .next u ∧
        ring q u { eseq := t.seq.toNat, kind := 1, status := 4, launch := p.1.id.toNat }) ∧
      (readable → p.2 = true → plain → ¬fresh → roomy q → ∃ u, exec (.queueLaunch q) s = .next u ∧
        ring q u { eseq := t.seq.toNat, kind := 1, status := 3, launch := p.1.id.toNat }) ∧
      (readable → p.2 = true → plain → fresh → root % 4096 = 0 → root + 4096 ≤ 2 ^ 37 → ∃ u, exec (.queueLaunch q) s = .next u ∧
        u.launchAt lix = { p.1 with root := root, preds := s.predsIn pkg (predsOf t.ws), queue := q, eseq := t.seq.toNat, carve := {} } ∧
        (∀ k, k ≠ lix → u.launchAt k = s.launchAt k) ∧ (∀ c, ∀ e ∈ (u.coreAt c).tlb ++ u.sharedTlb c, e.lix ≠ lix) ∧ ∀ y, u.byte y = s.byte y)) ∧
    (s.launches.any (fun e => e.1 == lix) = true → a.st = .waiting → a.preds.all (s.predOk) = true →
      (s.fitLaunch lix a = none → exec (.launchPlace lix) s = .next s) ∧
      (s.fitLaunch lix a = some gs → ∃ u, exec (.launchPlace lix) s = .next u ∧
        u.launchAt lix = { a with st := .placed, cores := gs.flatMap a.coresOf } ∧ ∀ y, u.byte y = s.byte y) ∧
      (s.fitLaunch lix a = some [g] → a.sg = 1 → a.c = 1 → ∃ u, exec (.launchPlace lix) s = .next u ∧
        (u.coreAt (4 * g + 2)).deque = a.recFor lix (4 * g + 2) :: (s.coreAt (4 * g + 2)).deque ∧
        (u.spireAt (s.spireOf (4 * g + 2))).carve = a.carve ∧ (u.spireAt (s.spireOf (4 * g + 2))).carved = true)) ∧
    (s.launches.any (fun e => e.1 == lix) = true → a.preds.all (s.predOk) = false → exec (.launchPlace lix) s = .next s) ∧
    (a.st = .placed → gone → roomy a.queue → ∃ u, exec (.launchDone lix) s = .next u ∧ left u ∧
      ring a.queue u { eseq := a.eseq, kind := 1, status := 0, launch := a.id.toNat }) ∧
    (a.st = .ended → a.why = some (code, info, pc, reason) → s.msgWaits lix = false → gone → roomy a.queue →
      ∃ u, exec (.launchDone lix) s = .next u ∧ left u ∧
        ring a.queue u { eseq := a.eseq, kind := 1, status := 0x10, reason := reason, code := code, launch := a.id.toNat, info := info, pc := pc }) ∧
    (¬gone → exec (.launchDone lix) s = .next s) ∧
    ((s.queueAt q).next? 2 = some t →
      (s.launchOf pkg id = none → roomy q → ∃ u, exec (.queueInvalidate q) s = .next u ∧
        ring q u { eseq := t.seq.toNat, kind := 2, status := 0, launch := id }) ∧
      (s.launchOf pkg id = some (l, b) → s.holdsRange l lo len = true → exec (.queueInvalidate q) s = .next s) ∧
      (s.launchOf pkg id = some (l, b) → s.holdsRange l lo len = false → roomy q →
        ∃ u, exec (.queueInvalidate q) s = .next u ∧ ring q u { eseq := t.seq.toNat, kind := 2, status := 0, launch := id } ∧
          (∀ c, ∀ e ∈ (u.coreAt c).tlb ++ u.sharedTlb c,
            ¬(e.lix = l ∧ Seg.inRange lo len { va := e.page * e.size, ga := 0, n := e.size } = true)) ∧
          ∀ v, ∀ i ∈ (u.valleyAt v).icache, i.lix ≠ some l ∧ i.lix ≠ none))

/-- R315, R346, R387, R412, R417 to R421: the ROM boots an image that its header and version allow; each mailbox command of a booted
device answers with its result and its MSI-X message, and does nothing before; the host writes a command, its arguments and the doorbell
into the mailbox, which runs it, and reads nothing over a link held in reset (R417); the limits lower an island's step. (The layouts of
results and arguments, and that a route table replaces those of the packages its entries name, are the model's, log 41, as are the header
and the signatures, log 16, the numbers of the islands, log 20, and the spares a boot brings in, log 52.) -/
def Obligations.ControllerCommands : Prop :=
  ∀ (tag : BitVec 32) (nonce : BitVec 256) (routes : List (Nat × Nat × Nat × Nat)) (core q island state x : Nat) (pc : BitVec 48)
    (header : BitVec 2048) (digestOk set clear : Bool) (s : State) (off : Nat) (v : BitVec 64),
    let h := s.henud
    let version := Config.headerVersion header
    let cmd (op len : Nat) (h : Henud) : Henud := { h with mbCmd := w64 (tag.toNat * 2 ^ 32 + len * 2 ^ 8 + op), mbTag := tag }
    let rung : List (Nat × Nat) := fset s.msix 1024 (fget 0 s.msix 1024 + 1)
    let answer (op len : Nat) (ok : Bool) (res : List Byte) : State :=
      { s with henud := { cmd op len h with mbOk := ok, mbResult := res.take 4096 }, msix := rung }
    let args (o n : Nat) : Nat := ofLe (((h.mbResult.take (bitsOf h.mbCmd 23 8)).drop o).take n)
    let bell : State → Host.Outcome State Fault Refusal := exec (.hostRegisterWrite q 0x10008 v)
    let mt : BitVec 32 := h.mbCmd.extractLsb' 32 32
    let merged := h.routes.filter (fun r => !(routes.any fun w => w.1 == r.1)) ++ routes
    let refuse (w : BootFail) : State := { s with henud := { h with refused := some w } }
    (h.booted = true → s.mailboxRead 0 8 = some h.mbCmd ∧
      s.mailboxRead 0x10 8 = some (w64 (h.mbTag.toNat * 2 ^ 32 + (if h.mbOk then 1 else 0))) ∧
      (0x1000 ≤ off → off < 0x2000 → off % 8 = 0 → s.mailboxRead off 8 = some (w64 (ofLe ((h.mbResult.drop (off - 0x1000)).take 8))))) ∧
    (h.booted = false → s.mailboxRead off 8 = none ∧ exec (.hostRegisterWrite q (0x10000 + off) v) s = .next s) ∧
    -- the mailbox as the host writes it: the command, the area, the doorbell
    (h.booted = true →
      exec (.hostRegisterWrite q 0x10000 v) s = .next { s with henud := { h with mbCmd := v } } ∧
      (0x1000 ≤ off → off < 0x2000 → off % 8 = 0 → h.mbResult.length ≤ 4096 → ∃ t, exec (.hostRegisterWrite q (0x10000 + off) v) s = .next t ∧
        t = { s with henud := { h with mbResult := t.henud.mbResult } } ∧
        (t.henud.mbResult.drop (off - 0x1000)).take 8 = leBytes 8 v.toNat ∧ t.henud.mbResult.length ≤ 4096 ∧
        ∀ i, i < off - 0x1000 ∨ off - 0x1000 + 8 ≤ i → t.henud.mbResult.getD i 0 = h.mbResult.getD i 0) ∧
      (bitsOf h.mbCmd 7 0 ∉ [0x01, 0x02, 0x10, 0x11, 0x12, 0x13, 0x20, 0x21] → bell s =
        .next { s with henud := { h with mbTag := mt, mbOk := false, mbResult := [] }, msix := rung }) ∧
      (h.mbCmd = w64 (mt.toNat * 2 ^ 32 + 0x01) → bell s = exec (.ident mt) s) ∧
      (h.mbCmd = w64 (mt.toNat * 2 ^ 32 + 32 * 2 ^ 8 + 0x02) → bell s = exec (.attest mt (BitVec.ofNat 256 (args 0 32))) s) ∧
      (h.mbCmd = w64 (mt.toNat * 2 ^ 32 + 8 * 2 ^ 8 + 0x10) → bell s = exec (.readErrorLogs mt (args 0 8 % 2 == 1)) s) ∧
      (h.mbCmd = w64 (mt.toNat * 2 ^ 32 + 16 * 2 ^ 8 + 0x12) → bell s =
        exec (.startSystemStrand mt (args 0 8) (BitVec.ofNat 48 (args 8 8))) s) ∧
      (h.mbCmd = w64 (mt.toNat * 2 ^ 32 + 8 * 2 ^ 8 + 0x13) → bell s = exec (.readPendingSeq mt (args 0 8)) s) ∧
      (h.mbCmd = w64 (mt.toNat * 2 ^ 32 + 16 * 2 ^ 8 + 0x20) → bell s =
        exec (.islandStates mt (args 0 8 / 2 ^ 32 % 2 == 1) (args 0 8 % 2 ^ 32) (args 8 8)) s) ∧
      (h.mbCmd = w64 (mt.toNat * 2 ^ 32 + 0x21) → bell s = exec (.readSpareMap mt) s)) ∧
    (h.booted = false → ∀ e ∈ ([.ident tag, .attest tag nonce, .readErrorLogs tag clear, .writeRouteTable tag routes,
      .startSystemStrand tag core pc, .readPendingSeq tag q, .islandStates tag set island state, .readSpareMap tag] : List Instr),
      exec e s = .next s) ∧
    (h.booted = false →
      (Config.headerSigned header = false → exec (.powerOnBoot version header digestOk) s = .next (refuse .signature)) ∧
      (Config.headerSigned header = true → exec (.powerOnBoot version header false) s = .next (refuse .digest)) ∧
      (Config.headerSigned header = true → version < h.rollback → exec (.powerOnBoot version header true) s = .next (refuse .version)) ∧
      (Config.headerSigned header = true → h.rollback ≤ version → exec (.powerOnBoot version header true) s = .next { s with
        henud := { h with booted := true, refused := none, version := version, digest := Config.headerDigest header
                          spareMap := h.spareMap ++ Config.bootSpares } })) ∧
    (∀ v, v ≠ version → exec (.powerOnBoot v header digestOk) s = .next s) ∧
    (h.booted = true →
      exec (.powerOnBoot version header digestOk) s = .next s ∧
      exec (.ident tag) s = .next (answer 0x01 0 true Config.identityCertificate) ∧
      exec (.attest tag nonce) s = .next (answer 0x02 32 true (leBytes 32 nonce.toNat ++ leBytes 32 h.digest.toNat ++ leBytes 8 h.version ++
        leBytes 8 h.rollback ++ leBytes 32 (Config.mapDigest h.spareMap h.routes).toNat ++
        Config.attestSignature nonce h.digest h.version h.rollback (Config.mapDigest h.spareMap h.routes))) ∧
      (∃ t, exec (.readErrorLogs tag clear) s = .next t ∧ t.henud.mbTag = tag ∧ t.henud.mbOk = true ∧
        t.henud.mbResult = ((s.valleys.flatMap fun e => ErrLog.bytes e.1 e.2.log) ++
          (s.plains.flatMap fun e => ErrLog.bytes e.1 e.2.log) ++ h.log.flatMap LogEnt.bytes).take 4096 ∧ t.msix = rung ∧
            t.henud.log = (if clear then [] else h.log) ∧ (∀ y, t.byte y = s.byte y) ∧
        ∀ v, (t.valleyAt v).log = (if clear then { (s.valleyAt v).log with ents := [], lost := 0 } else (s.valleyAt v).log) ∧
          (t.plainAt v).log = (if clear then { (s.plainAt v).log with ents := [], lost := 0 } else (s.plainAt v).log)) ∧
      ((routes.all routeRange && routesUnique routes && merged.all (routeOk merged)) = true → exec (.writeRouteTable tag routes) s =
        .next { s with henud := { cmd 0x11 (8 * routes.length) h with routes := merged, mbOk := true, mbResult := [] }, msix := rung }) ∧
      ((routes.all routeRange && routesUnique routes && merged.all (routeOk merged)) = false → exec (.writeRouteTable tag routes) s =
        .next (answer 0x11 (8 * routes.length) false [])) ∧
      (s.away core = false → (s.coreAt core).frozen = false → (s.coreAt core).leader = none →
        (s.freeCtxOf core = some x → ∃ t, exec (.startSystemStrand tag core pc) s = .next t ∧
          t.strandAt core x = { life := .ready, sys := true, pc := pc, since := s.tick } ∧ t.henud.mbOk = true ∧ t.henud.mbTag = tag ∧
          (∀ c y, ¬(c = core ∧ y = x) → t.strandAt c y = s.strandAt c y) ∧ ∀ y, t.byte y = s.byte y) ∧
        (s.freeCtxOf core = none → exec (.startSystemStrand tag core pc) s = .next (answer 0x12 16 false []))) ∧
      exec (.readPendingSeq tag q) s = .next (answer 0x13 8 true ((s.queueAt q).taken.flatMap fun t => leBytes 4 t.seq.toNat)) ∧
      exec (.islandStates tag false island state) s = .next (answer 0x20 16 true ((List.range 28).map fun i =>
        BitVec.ofNat 8 (s.island (island / 32 * 32 + i)))) ∧
      ((state = 0 ∨ state = 1 ∨ (4 ≤ state ∧ state ≤ 8)) → (state = 0 → s.admitsIn island = false) →
        ∃ t, exec (.islandStates tag true island state) s = .next t ∧ t.island island = state ∧ t.henud.mbOk = true ∧ t.henud.mbTag = tag ∧
          (∀ i, i ≠ island → t.island i = s.island i) ∧ ∀ y, t.byte y = s.byte y) ∧
      (s.admitsIn island = true → exec (.islandStates tag true island 0) s = .next (answer 0x20 16 false [])) ∧
      exec (.readSpareMap tag) s = .next (answer 0x21 0 true ((h.spareMap.flatMap fun e => leBytes 8 e.1 ++ leBytes 8 e.2) ++
        s.valleys.flatMap fun e => leBytes 8 e.1 ++ leBytes 8 e.2.corr))) ∧
    (4 ≤ state → state < s.island island → ∃ t, exec (.powerThrottle island state) s = .next t ∧ t.island island = state ∧
      (∀ i, i ≠ island → t.island i = s.island i) ∧ ∀ y, t.byte y = s.byte y) ∧
    (s.island island ≤ state → exec (.powerThrottle island state) s = .next s)

/-! ### Encoding, step, memory -/

/-- R77 to R87: every well-formed instruction has one word, which decodes to it. -/
def Obligations.EncodeDecode : Prop :=
  ∀ i : Instr, i.isEvent = false → i.wf = true → ∃ w, encode i = some w ∧ decode w = .ok i

/-- R77 to R87: a word that decodes is the word of the instruction it gives, which is well formed: no bit is ignored, and no two words
stand for one instruction. -/
def Obligations.WordsHaveOneMeaning : Prop :=
  ∀ (w : BitVec 32) (i : Instr), decode w = .ok i → i.wf = true ∧ i.isEvent = false ∧ encode i = some w

/-- Words that the chapters of the spec write out (R80 to R85, R154, R185): each decodes to the instruction it stands for; the all-zero
word is none. -/
def Obligations.WordsOfTheSpec : Prop :=
  decode 0x04C48100 = .ok (.add 3 1 2) ∧ decode 0x04C49B03 = .ok (.sadd 3 1 2 3) ∧ decode 0x0CC480C0 = .ok (.bfx 3 1 8 3) ∧
  decode 0x54590C10 = .ok (.div 1 6 4 3) ∧ decode 0x5C90A004 = .ok (.ldw 2 4 2 4) ∧ decode 0x4883FFFD = .ok (.dbnz 2 0x3FFFD) ∧
  decode 0xF8142030 = .ok (.crw 0 5 48) ∧ decode 0xF800500C = .ok (.svc 12) ∧ decode 0x84080400 = .ok (.vadd 0 2 0 1 0) ∧
  decode 0x844C4A8C = .ok (.vfma 1 3 1 2 10) ∧ decode 0x88042401 = .ok (.vcvtS 0 1 0 1 1 0) ∧ decode 0x80005800 = .ok (.ptrset 0 0 1 6) ∧
  decode 0xC40100A0 = .ok (.mma 0 0 1 0 0 1 0 1 0) ∧ decode 0xC0000003 = .ok .mwait ∧ decode 0xC80300D0 = .ok (.mldb 0 3 1 5) ∧
  decode 0xE0091580 = .ok (.send 0 2 4 5 6) ∧ decode 0xE4000098 = .ok (.fence 2) ∧ decode 0xEC010080 = .ok (.itreq 0 4 2) ∧
  decode 0xF0020000 = .ok (.spawn 0 8 0) ∧ decode 0 = .error .illegalOp

/-- R76, R88, R339, R340, R345, R420: the first ready strand of the core that acts runs the instruction its word decodes to, or takes the
trap of the fetch or of decoding (a failed fetch is logged, a single-bit error in the word corrected: R313, R315); when it cannot issue,
the next one does; a core whose island is off issues nothing. A word that the valley's instruction cache holds is the line's, whatever
memory holds; else the fetch brings its line in from device memory, where the line can be read (the 64-byte lines of the cache are log 13,
where a failed fetch is logged log 26). A fetch from the scratchpad powers its bank up (R289). A step of the device is what its row says,
behind the conditions that have come to hold by then; an input the machine has no agent for changes nothing. The schedule that says who
acts is the model's (log 1). -/
def Obligations.StepRunsDecodedInstruction : Prop :=
  ∀ (s t : State) (c x n v : Nat) (slow priv : Bool) (acts : List Act) (st : Strand) (rest : List (Nat × Strand)) (i e : Instr) (tp : Trap)
    (cls : CoreClass),
    let b := State.begun { s with acts := acts, core := c, split := slow }
    let u : State := { b with ctx := x, stalled := false }
    let f := State.begun { s with split := false }
    (s.soft = [] → ∃ vs ps, s.fetched = { s with valleys := vs, spires := ps } ∧
      (∀ v, { s.fetched.valleyAt v with icache := (s.valleyAt v).icache } = s.valleyAt v) ∧
      ∀ p, { s.fetched.spireAt p with up := (s.spireAt p).up } = s.spireAt p) ∧
    (∀ pa, s.xlate s.st.pc.toNat 4 .fx = .ok pa → s.soft = [] → isSpPa pa = true →
      (s.fetched.spireAt s.mySpire).up.getLsbD ((pa - 0xFF0000000000) / 0x20000) = true) ∧
    (∀ pa, s.core < 2 ^ 20 → s.xlate s.st.pc.toNat 4 .fx = .ok pa → s.soft = [] → s.icLine (s.globalOf s.core pa) = none →
      s.icOf s.core = some v → pa < 2 ^ 37 →
      (s.badIn (s.globalOf s.core pa / 64 * 64) 64 = none → (s.fetched.valleyAt v).icache.head? =
        some { lix := s.st.lix, ga := s.globalOf s.core pa / 64 * 64, data := s.bytes (s.globalOf s.core pa / 64 * 64) 64 }) ∧
      (s.badIn (s.globalOf s.core pa / 64 * 64) 64 ≠ none → s.fetched = s)) ∧
    (∀ pa l, s.xlate s.st.pc.toNat 4 .fx = .ok pa → isHostPa pa = false → s.icLine (s.globalOf s.core pa) = some l →
      s.fetch = .ok (ofLe ((l.data.drop (s.globalOf s.core pa % 64)).take 4)) ∧ s.fetched = s.fetchWalked) ∧
    (s.acts = .core c slow :: acts → coreOk c = true → s.islandOff c = true → step s = .next b) ∧
    (s.acts = .core c slow :: acts → coreOk c = true → s.islandOff c = false →
      (b.me.ranked = [] → step s = .next b) ∧
      (b.me.ranked = (x, st) :: rest →
        (u.fetch = .ok n → decodeNat n = .ok i → exec i u.fetched = .next t →
          ((t.stalled = false ∨ rest = []) → step s = .next t) ∧ (t.stalled = true → rest ≠ [] → step s = issueFirst rest t)) ∧
        (u.gate = true →
          (u.fetch = .error tp → step s = .next ((u.fetchWalked.logErr (u.fetchResp tp) tp).raise tp)) ∧
          (u.fetch = .ok n → decodeNat n = .error .illegalOp → step s = .next (u.fetched.raise { code := 0x01, info := w64 n })) ∧
          (u.fetch = .ok n → decodeNat n = .error (.reservedField cls priv) → clsTrap cls c = none → (priv = true → u.st.sys = true) →
            step s = .next (u.fetched.raise { code := 0x02, info := w64 n })) ∧
          (u.fetch = .ok n → decodeNat n = .error (.reservedField cls priv) → clsTrap cls c = none → priv = true → u.st.sys = false →
            step s = .next (u.fetched.raise { code := 0x04, info := w64 n }))))) ∧
    (s.acts = .core c slow :: acts → coreOk c = false → step s = .next { s with acts := acts }) ∧
    (s.acts = .event e :: acts → (e.isEvent && e.wf) = true → step s =
      exec e (State.noted { s with acts := acts, split := false, tick := s.tick + 1 })) ∧
    (s.acts = .event e :: acts → (e.isEvent && e.wf) = false → step s = .next { s with acts := acts }) ∧
    (s.acts = [] → s.tick / 2 % 16 ≠ 15 → s.islandOff s.core = false → f.me.ranked = (x, st) :: rest →
      State.fetch { f with ctx := x, stalled := false } = .ok n →
      decodeNat n = .ok i → exec i (State.fetched { f with ctx := x, stalled := false }) = .next t → t.stalled = false → step s = .next t)

/-- R16, R17, R21, R23, R27 to R36, R39 to R42, R268, R346, R410: after reset every context is free, every register holds the value of its
map, trap registers, predicates, accumulators, operand buffers, macros and pattern included, every object is free or zero, nothing is
under way, and the memory is canonical. Values of general registers and of memory that nothing has written are the model's (logs 3 and 9).
-/
def Obligations.ResetState : Prop :=
  let s := State.reset
  (∀ c x, (s.strandAt c x).life = .free ∧ (s.strandAt c x).sw = 0 ∧ ∀ r, gread (s.strandAt c x).g r = 0) ∧
  (∀ c k, ptrOf (s.coreAt c).ptr k = { base := 0, s1 := 64, c1 := 1, s2 := 0, c2 := 1, i1 := 0, i2 := 0 }) ∧
  (∀ c, let k := s.coreAt c
    k.fmt = 0x22 ∧ k.tsc = 0x3F803F80 ∧ k.mstep = 0 ∧ k.dflt = 0xA1000FA0 ∧ k.rngs = 0x2545F491 ∧ k.tshape = 0x08800000 ∧ k.mxsat = 0 ∧
    k.mxsub = 0 ∧ k.mxmrow = 0 ∧ k.mxnan = 0 ∧ k.sqcfg = 32 ∧ k.wdog = 21 ∧ k.tvec = 0 ∧ k.tcount = 0 ∧ k.deque = [] ∧ k.sendq = [] ∧
    (∀ l, fget 0 k.va l = 0) ∧ (∀ q, fget 0 k.q q = 0) ∧ (∀ b, fget 0 k.fb b = 0) ∧
    (∀ w, fget 0 k.cm w = 0) ∧ (∀ m, fget false k.cmTern m = false) ∧ k.patA = 0 ∧ k.patB = 0 ∧
    (∀ a i, k.maxOf a i = 0xFF800000 ∧ k.denOf a i = 0) ∧ (∀ a i n, k.accGet 1 a i n = 0)) ∧
  (∀ c n, s.ec c n = 0 ∧ fget ({} : Bar) (s.coreAt c).bars n = { target := 0, arrived := 0, xbytes := 0, phase := false, broken := false, flags := 0 }) ∧
  (∀ c x n, 0x50 ≤ n → n ≤ 0x59 → State.crGet { s with core := c, ctx := x } n = 0) ∧
  (∀ p n, (s.slotAt p n).state = .free ∧ (s.slotAt p n).base = 0 ∧ (s.slotAt p n).size = 0 ∧ (s.slotAt p n).tile = 0 ∧
    (s.slotAt p n).missed = 0 ∧ (s.slotAt p n).timer = 0 ∧ fget 0 (s.spireAt p).hs n = 0 ∧ (s.spireAt p).up = 0) ∧
  (∀ q, (s.queueAt q).en = false ∧ (s.queueAt q).act = false ∧ (s.queueAt q).cls = 1 ∧ (s.queueAt q).cons = 0xFFFFFFFF) ∧
  s.net = [] ∧ s.launches = [] ∧ s.henud.booted = false ∧ s.memOk ∧ ∀ a, s.byte a = 0

/-- R287, R298 and log 3: memory keeps its canonical form (addresses strictly rising, no entry equal to what an unlisted address reads as)
through every step: equal memories are equal data. -/
def Obligations.MemoryStaysCanonical : Prop := ∀ s t : State, s.memOk → step s = .next t → t.memOk
end

