-- ==== Sys2Proof/Laws/Maps.lean ====
section
/-! SUPPORT. Maps held as lists, and memory in its canonical form. -/

namespace Sys2Proof
open Sys2Proof

variable {α : Type}

theorem fget_fins_self (d v : α) (m : List (Nat × α)) (k : Nat) (h : ∀ e ∈ m, e.1 ≠ k) : fget d (fins k v m) k = v := by
  induction m with
  | nil => simp [fins, fget]
  | cons e r ih =>
    obtain ⟨j, w⟩ := e
    have hj : j ≠ k := h (j, w) (by simp)
    simp only [fins]
    split
    · simp [fget]
    · simp only [fget, if_neg hj]
      exact ih fun e he => h e (by simp [he])

theorem fget_fins_ne (d v : α) (m : List (Nat × α)) (k j : Nat) (h : j ≠ k) : fget d (fins k v m) j = fget d m j := by
  induction m with
  | nil => simp [fins, fget, Ne.symm h]
  | cons e r ih =>
    obtain ⟨i, w⟩ := e
    simp only [fins]
    split
    · simp [fget, Ne.symm h]
    · simp only [fget]; split <;> simp_all

theorem fdel_keys (k : Nat) (m : List (Nat × α)) : ∀ e ∈ fdel k m, e.1 ≠ k := by
  induction m with
  | nil => simp [fdel]
  | cons e r ih =>
    obtain ⟨i, w⟩ := e
    simp only [fdel]
    split
    · exact ih
    · intro e he
      rcases List.mem_cons.1 he with rfl | h
      · assumption
      · exact ih e h

theorem fget_none (d : α) (m : List (Nat × α)) (k : Nat) (h : ∀ e ∈ m, e.1 ≠ k) : fget d m k = d := by
  induction m with
  | nil => rfl
  | cons e r ih =>
    obtain ⟨i, w⟩ := e
    simp only [fget, if_neg (h (i, w) (by simp))]
    exact ih fun e he => h e (by simp [he])

theorem fget_fdel_self (d : α) (m : List (Nat × α)) (k : Nat) : fget d (fdel k m) k = d := fget_none d _ k (fdel_keys k m)

theorem fget_fdel_ne (d : α) (m : List (Nat × α)) (k j : Nat) (h : j ≠ k) : fget d (fdel k m) j = fget d m j := by
  induction m with
  | nil => rfl
  | cons e r ih =>
    obtain ⟨i, w⟩ := e
    simp only [fdel]
    split
    · next hi => subst hi; simp [fget, Ne.symm h, ih]
    · simp only [fget]; split <;> simp_all

/-- Reading after writing a map: the key written reads as what was written, every other key as before. -/
theorem fget_fset (d v : α) (m : List (Nat × α)) (k j : Nat) : fget d (fset m k v) j = if j = k then v else fget d m j := by
  unfold fset
  split
  · next h => subst h; exact fget_fins_self d v _ j (fdel_keys j m)
  · next h => rw [fget_fins_ne d v _ k j h, fget_fdel_ne d m k j h]

@[simp] theorem fget_fset_self (d v : α) (m : List (Nat × α)) (k : Nat) : fget d (fset m k v) k = v := by simp [fget_fset]

theorem fget_fset_ne (d v : α) (m : List (Nat × α)) (k j : Nat) (h : j ≠ k) : fget d (fset m k v) j = fget d m j := by
  simp [fget_fset, h]

/-- The same of the write that leaves out a value equal to what an unlisted key reads as. -/
theorem fget_fsetD [DecidableEq α] (d v : α) (m : List (Nat × α)) (k j : Nat) :
    fget d (fsetD d m k v) j = if j = k then v else fget d m j := by
  unfold fsetD
  split
  · next hv =>
    split
    · next h => subst h; rw [fget_fdel_self, hv]
    · next h => exact fget_fdel_ne d m k j h
  · exact fget_fset d v m k j

@[simp] theorem fget_fsetD_self [DecidableEq α] (d v : α) (m : List (Nat × α)) (k : Nat) : fget d (fsetD d m k v) k = v := by
  simp [fget_fsetD]

theorem fdel_fdel (k : Nat) (m : List (Nat × α)) : fdel k (fdel k m) = fdel k m := by
  induction m with
  | nil => rfl
  | cons e r ih =>
    obtain ⟨i, w⟩ := e
    simp only [fdel]
    split
    · exact ih
    · next h => simp [fdel, h, ih]

theorem fdel_fins (k : Nat) (v : α) (m : List (Nat × α)) (h : ∀ e ∈ m, e.1 ≠ k) : fdel k (fins k v m) = m := by
  induction m with
  | nil => simp [fins, fdel]
  | cons e r ih =>
    obtain ⟨i, w⟩ := e
    have hi : i ≠ k := h (i, w) (by simp)
    have hr : ∀ e ∈ r, e.1 ≠ k := fun e he => h e (by simp [he])
    have hd : fdel k r = r := by
      clear ih h
      induction r with
      | nil => rfl
      | cons e t ih =>
        obtain ⟨j, u⟩ := e
        have : j ≠ k := hr (j, u) (by simp)
        simp only [fdel, if_neg this]
        rw [ih fun e he => hr e (by simp [he])]
    simp only [fins]
    split
    · simp [fdel, hi, hd]
    · simp [fdel, hi, ih hr]

/-- The last of two writes of one key counts. -/
@[simp] theorem fset_fset (m : List (Nat × α)) (k : Nat) (v w : α) : fset (fset m k v) k w = fset m k w := by
  unfold fset
  rw [fdel_fins k v _ (fdel_keys k m)]

end Sys2Proof

namespace Sys2Proof.Machine
open Sys2Proof

/-! ### Memory -/

theorem memWf_mono (m : List Host.Cell) (a b : Nat) (h : b ≤ a) (hm : memWfFrom a m = true) : memWfFrom b m = true := by
  cases m with
  | nil => rfl
  | cons e r =>
    obtain ⟨k, v⟩ := e
    simp only [memWfFrom, Bool.and_eq_true, decide_eq_true_eq] at hm ⊢
    exact ⟨⟨Nat.le_trans h hm.1.1, hm.1.2⟩, hm.2⟩

theorem memWf_keys (m : List Host.Cell) (a : Nat) (hm : memWfFrom a m = true) : ∀ e ∈ m, a ≤ e.1 := by
  induction m generalizing a with
  | nil => simp
  | cons e r ih =>
    obtain ⟨k, v⟩ := e
    simp only [memWfFrom, Bool.and_eq_true, decide_eq_true_eq] at hm
    intro x hx
    rcases List.mem_cons.1 hx with rfl | h
    · exact hm.1.1
    · exact Nat.le_trans (Nat.le_succ_of_le hm.1.1) (ih (k + 1) hm.2 x h)

/-- Dropping cells keeps the canonical form. -/
theorem memWf_filter (m : List Host.Cell) (p : Host.Cell → Bool) (a : Nat) (hm : memWfFrom a m = true) :
    memWfFrom a (m.filter p) = true := by
  induction m generalizing a with
  | nil => rfl
  | cons e r ih =>
    obtain ⟨k, v⟩ := e
    simp only [memWfFrom, Bool.and_eq_true, decide_eq_true_eq] at hm
    simp only [List.filter_cons]
    split
    · simp only [memWfFrom, Bool.and_eq_true, decide_eq_true_eq]
      exact ⟨hm.1, ih (k + 1) hm.2⟩
    · exact ih a (memWf_mono r (k + 1) a (Nat.le_succ_of_le hm.1.1) hm.2)

theorem memWf_fdel (m : List Host.Cell) (k a : Nat) (hm : memWfFrom a m = true) : memWfFrom a (fdel k m) = true := by
  induction m generalizing a with
  | nil => rfl
  | cons e r ih =>
    obtain ⟨j, v⟩ := e
    simp only [memWfFrom, Bool.and_eq_true, decide_eq_true_eq] at hm
    simp only [fdel]
    split
    · exact ih a (memWf_mono r (j + 1) a (Nat.le_succ_of_le hm.1.1) hm.2)
    · simp only [memWfFrom, Bool.and_eq_true, decide_eq_true_eq]
      exact ⟨hm.1, ih (j + 1) hm.2⟩

theorem memWf_fins (m : List Host.Cell) (k a : Nat) (v : Byte) (ha : a ≤ k) (hv : v ≠ memDefault)
    (hk : ∀ e ∈ m, e.1 ≠ k) (hm : memWfFrom a m = true) : memWfFrom a (fins k v m) = true := by
  induction m generalizing a with
  | nil => simp [fins, memWfFrom, ha, hv]
  | cons e r ih =>
    obtain ⟨j, w⟩ := e
    have hj : j ≠ k := hk (j, w) (by simp)
    simp only [memWfFrom, Bool.and_eq_true, decide_eq_true_eq] at hm
    simp only [fins]
    split
    · next h =>
      simp only [memWfFrom, Bool.and_eq_true, decide_eq_true_eq]
      exact ⟨⟨ha, hv⟩, ⟨h, hm.1.2⟩, hm.2⟩
    · next h =>
      simp only [memWfFrom, Bool.and_eq_true, decide_eq_true_eq]
      exact ⟨hm.1, ih (j + 1) (by omega) (fun e he => hk e (by simp [he])) hm.2⟩

/-- Writing one byte keeps the canonical form. -/
theorem memWf_fsetD (m : List Host.Cell) (k : Nat) (v : Byte) (hm : Memory.wf m) : Memory.wf (fsetD memDefault m k v) := by
  show memWfFrom 0 (fsetD memDefault m k v) = true
  unfold fsetD
  split
  · exact memWf_fdel m k 0 hm
  · next hv => exact memWf_fins _ k 0 v (Nat.zero_le _) hv (fdel_keys k m) (memWf_fdel m k 0 hm)

/-- Writing bytes keeps the canonical form. -/
theorem memWf_memWrite (m : List Host.Cell) (a : Nat) (bs : List Byte) (hm : Memory.wf m) : Memory.wf (memWrite m a bs) := by
  induction bs generalizing m a with
  | nil => exact hm
  | cons b r ih => exact ih _ _ (memWf_fsetD m a b hm)

theorem fget_memWrite (m : List Host.Cell) (a : Nat) (bs : List Byte) (j : Nat) :
    fget memDefault (memWrite m a bs) j =
      if a ≤ j ∧ j < a + bs.length then bs.getD (j - a) memDefault else fget memDefault m j := by
  induction bs generalizing m a with
  | nil =>
    rw [if_neg (by simp only [List.length_nil]; omega)]
    rfl
  | cons b r ih =>
    simp only [memWrite, ih, fget_fsetD, List.length_cons]
    by_cases h1 : a + 1 ≤ j ∧ j < a + 1 + r.length
    · have h2 : a ≤ j ∧ j < a + (r.length + 1) := by omega
      rw [if_pos h1, if_pos h2]
      have : j - a = (j - (a + 1)) + 1 := by omega
      rw [this, List.getD_cons_succ]
    · rw [if_neg h1]
      by_cases h3 : j = a
      · subst h3
        have h2 : j ≤ j ∧ j < j + (r.length + 1) := by omega
        rw [if_pos rfl, if_pos h2]
        simp
      · have h2 : ¬(a ≤ j ∧ j < a + (r.length + 1)) := by omega
        rw [if_neg h3, if_neg h2]

/-- Reading a byte after writing bytes (R9): the bytes written read as written, every other byte as before. -/
theorem byte_poke (s : State) (a : Nat) (bs : List Byte) (j : Nat) :
    (s.poke a bs).byte j = if a ≤ j ∧ j < a + bs.length then bs.getD (j - a) memDefault else s.byte j :=
  fget_memWrite s.mem a bs j

theorem byte_poke_out (s : State) (a : Nat) (bs : List Byte) (j : Nat) (h : j < a ∨ a + bs.length ≤ j) :
    (s.poke a bs).byte j = s.byte j := by
  rw [byte_poke, if_neg (by omega)]

/-- Writing bytes keeps the memory's canonical form. -/
theorem memOk_poke (s : State) (a : Nat) (bs : List Byte) (h : Memory.wf s.mem) : Memory.wf (s.poke a bs).mem :=
  memWf_memWrite s.mem a bs h

theorem length_leBytes (n v : Nat) : (leBytes n v).length = n := by
  induction n generalizing v with
  | zero => rfl
  | succ n ih => simp [leBytes, ih]

theorem length_bytes (s : State) (a n : Nat) : (s.bytes a n).length = n := by
  induction n generalizing a with
  | zero => rfl
  | succ n ih => simp [State.bytes, ih]

/-- Bytes read where they were written. -/
theorem bytes_poke_self (s : State) (a : Nat) (bs : List Byte) : (s.poke a bs).bytes a bs.length = bs := by
  have : ∀ (n k : Nat), k + n = bs.length → (s.poke a bs).bytes (a + k) n = bs.drop k := by
    intro n
    induction n with
    | zero => intro k hk; simp [State.bytes]; omega
    | succ n ih =>
      intro k hk
      have hk' : k < bs.length := by omega
      rw [State.bytes, byte_poke, if_pos (by omega), Nat.add_assoc, ih (k + 1) (by omega)]
      rw [List.drop_eq_getElem_cons hk']
      simp only [Nat.add_sub_cancel_left]
      rw [List.getD_eq_getElem?_getD, List.getElem?_eq_getElem hk']; rfl
  simpa using this bs.length 0 (by omega)

/-- Bytes read away from the bytes written. -/
theorem bytes_poke_out (s : State) (a : Nat) (bs : List Byte) (b n : Nat) (h : b + n ≤ a ∨ a + bs.length ≤ b) :
    (s.poke a bs).bytes b n = s.bytes b n := by
  induction n generalizing b with
  | zero => rfl
  | succ n ih =>
    rw [State.bytes, State.bytes, byte_poke_out _ _ _ _ (by omega), ih (b + 1) (by omega)]

theorem ofLe_leBytes (n v : Nat) : ofLe (leBytes n v) = v % 256 ^ n := by
  induction n generalizing v with
  | zero => simp [leBytes, ofLe, Nat.mod_one]
  | succ n ih =>
    have h : v % 256 ^ (n + 1) = v % 256 + 256 * (v / 256 % 256 ^ n) := by
      rw [Nat.pow_succ, Nat.mul_comm (256 ^ n), Nat.mod_mul]
    rw [h, leBytes, ofLe, ih, BitVec.toNat_ofNat]

end Sys2Proof.Machine
end

