-- ==== Sys2Proof/Laws/State.lean ====
section
/-! SUPPORT. What each update of the state leaves as it was, and what it makes of the part it names. -/

namespace Sys2Proof.Machine
open Sys2Proof

@[simp] theorem State.setCore_spires (s : State) (c : Nat) (k : Core) : (s.setCore c k).spires = s.spires := rfl
@[simp] theorem State.setCore_valleys (s : State) (c : Nat) (k : Core) : (s.setCore c k).valleys = s.valleys := rfl
@[simp] theorem State.setCore_plains (s : State) (c : Nat) (k : Core) : (s.setCore c k).plains = s.plains := rfl
@[simp] theorem State.setCore_mem (s : State) (c : Nat) (k : Core) : (s.setCore c k).mem = s.mem := rfl
@[simp] theorem State.setCore_bad (s : State) (c : Nat) (k : Core) : (s.setCore c k).bad = s.bad := rfl
@[simp] theorem State.setCore_soft (s : State) (c : Nat) (k : Core) : (s.setCore c k).soft = s.soft := rfl
@[simp] theorem State.setCore_corrLine (s : State) (c : Nat) (k : Core) : (s.setCore c k).corrLine = s.corrLine := rfl
@[simp] theorem State.setCore_net (s : State) (c : Nat) (k : Core) : (s.setCore c k).net = s.net := rfl
@[simp] theorem State.setCore_place (s : State) (c : Nat) (k : Core) : (s.setCore c k).place = s.place := rfl
@[simp] theorem State.setCore_fwd (s : State) (c : Nat) (k : Core) : (s.setCore c k).fwd = s.fwd := rfl
@[simp] theorem State.setCore_launches (s : State) (c : Nat) (k : Core) : (s.setCore c k).launches = s.launches := rfl
@[simp] theorem State.setCore_colls (s : State) (c : Nat) (k : Core) : (s.setCore c k).colls = s.colls := rfl
@[simp] theorem State.setCore_runs (s : State) (c : Nat) (k : Core) : (s.setCore c k).runs = s.runs := rfl
@[simp] theorem State.setCore_fired (s : State) (c : Nat) (k : Core) : (s.setCore c k).fired = s.fired := rfl
@[simp] theorem State.setCore_contribs (s : State) (c : Nat) (k : Core) : (s.setCore c k).contribs = s.contribs := rfl
@[simp] theorem State.setCore_queues (s : State) (c : Nat) (k : Core) : (s.setCore c k).queues = s.queues := rfl
@[simp] theorem State.setCore_links (s : State) (c : Nat) (k : Core) : (s.setCore c k).links = s.links := rfl
@[simp] theorem State.setCore_henud (s : State) (c : Nat) (k : Core) : (s.setCore c k).henud = s.henud := rfl
@[simp] theorem State.setCore_acts (s : State) (c : Nat) (k : Core) : (s.setCore c k).acts = s.acts := rfl
@[simp] theorem State.setCore_core (s : State) (c : Nat) (k : Core) : (s.setCore c k).core = s.core := rfl
@[simp] theorem State.setCore_ctx (s : State) (c : Nat) (k : Core) : (s.setCore c k).ctx = s.ctx := rfl
@[simp] theorem State.setCore_tick (s : State) (c : Nat) (k : Core) : (s.setCore c k).tick = s.tick := rfl
@[simp] theorem State.setCore_split (s : State) (c : Nat) (k : Core) : (s.setCore c k).split = s.split := rfl
@[simp] theorem State.setCore_free (s : State) (c : Nat) (k : Core) : (s.setCore c k).free = s.free := rfl
@[simp] theorem State.setCore_stalled (s : State) (c : Nat) (k : Core) : (s.setCore c k).stalled = s.stalled := rfl

@[simp] theorem State.modCore_spires (s : State) (c : Nat) (f : Core → Core) : (s.modCore c f).spires = s.spires := rfl
@[simp] theorem State.modCore_valleys (s : State) (c : Nat) (f : Core → Core) : (s.modCore c f).valleys = s.valleys := rfl
@[simp] theorem State.modCore_plains (s : State) (c : Nat) (f : Core → Core) : (s.modCore c f).plains = s.plains := rfl
@[simp] theorem State.modCore_mem (s : State) (c : Nat) (f : Core → Core) : (s.modCore c f).mem = s.mem := rfl
@[simp] theorem State.modCore_bad (s : State) (c : Nat) (f : Core → Core) : (s.modCore c f).bad = s.bad := rfl
@[simp] theorem State.modCore_soft (s : State) (c : Nat) (f : Core → Core) : (s.modCore c f).soft = s.soft := rfl
@[simp] theorem State.modCore_corrLine (s : State) (c : Nat) (f : Core → Core) : (s.modCore c f).corrLine = s.corrLine := rfl
@[simp] theorem State.modCore_net (s : State) (c : Nat) (f : Core → Core) : (s.modCore c f).net = s.net := rfl
@[simp] theorem State.modCore_place (s : State) (c : Nat) (f : Core → Core) : (s.modCore c f).place = s.place := rfl
@[simp] theorem State.modCore_fwd (s : State) (c : Nat) (f : Core → Core) : (s.modCore c f).fwd = s.fwd := rfl
@[simp] theorem State.modCore_launches (s : State) (c : Nat) (f : Core → Core) : (s.modCore c f).launches = s.launches := rfl
@[simp] theorem State.modCore_colls (s : State) (c : Nat) (f : Core → Core) : (s.modCore c f).colls = s.colls := rfl
@[simp] theorem State.modCore_runs (s : State) (c : Nat) (f : Core → Core) : (s.modCore c f).runs = s.runs := rfl
@[simp] theorem State.modCore_fired (s : State) (c : Nat) (f : Core → Core) : (s.modCore c f).fired = s.fired := rfl
@[simp] theorem State.modCore_contribs (s : State) (c : Nat) (f : Core → Core) : (s.modCore c f).contribs = s.contribs := rfl
@[simp] theorem State.modCore_queues (s : State) (c : Nat) (f : Core → Core) : (s.modCore c f).queues = s.queues := rfl
@[simp] theorem State.modCore_links (s : State) (c : Nat) (f : Core → Core) : (s.modCore c f).links = s.links := rfl
@[simp] theorem State.modCore_henud (s : State) (c : Nat) (f : Core → Core) : (s.modCore c f).henud = s.henud := rfl
@[simp] theorem State.modCore_acts (s : State) (c : Nat) (f : Core → Core) : (s.modCore c f).acts = s.acts := rfl
@[simp] theorem State.modCore_core (s : State) (c : Nat) (f : Core → Core) : (s.modCore c f).core = s.core := rfl
@[simp] theorem State.modCore_ctx (s : State) (c : Nat) (f : Core → Core) : (s.modCore c f).ctx = s.ctx := rfl
@[simp] theorem State.modCore_tick (s : State) (c : Nat) (f : Core → Core) : (s.modCore c f).tick = s.tick := rfl
@[simp] theorem State.modCore_split (s : State) (c : Nat) (f : Core → Core) : (s.modCore c f).split = s.split := rfl
@[simp] theorem State.modCore_free (s : State) (c : Nat) (f : Core → Core) : (s.modCore c f).free = s.free := rfl
@[simp] theorem State.modCore_stalled (s : State) (c : Nat) (f : Core → Core) : (s.modCore c f).stalled = s.stalled := rfl

@[simp] theorem State.setSpire_cores (s : State) (p : Nat) (k : Spire) : (s.setSpire p k).cores = s.cores := rfl
@[simp] theorem State.setSpire_valleys (s : State) (p : Nat) (k : Spire) : (s.setSpire p k).valleys = s.valleys := rfl
@[simp] theorem State.setSpire_plains (s : State) (p : Nat) (k : Spire) : (s.setSpire p k).plains = s.plains := rfl
@[simp] theorem State.setSpire_mem (s : State) (p : Nat) (k : Spire) : (s.setSpire p k).mem = s.mem := rfl
@[simp] theorem State.setSpire_bad (s : State) (p : Nat) (k : Spire) : (s.setSpire p k).bad = s.bad := rfl
@[simp] theorem State.setSpire_soft (s : State) (p : Nat) (k : Spire) : (s.setSpire p k).soft = s.soft := rfl
@[simp] theorem State.setSpire_corrLine (s : State) (p : Nat) (k : Spire) : (s.setSpire p k).corrLine = s.corrLine := rfl
@[simp] theorem State.setSpire_net (s : State) (p : Nat) (k : Spire) : (s.setSpire p k).net = s.net := rfl
@[simp] theorem State.setSpire_place (s : State) (p : Nat) (k : Spire) : (s.setSpire p k).place = s.place := rfl
@[simp] theorem State.setSpire_fwd (s : State) (p : Nat) (k : Spire) : (s.setSpire p k).fwd = s.fwd := rfl
@[simp] theorem State.setSpire_launches (s : State) (p : Nat) (k : Spire) : (s.setSpire p k).launches = s.launches := rfl
@[simp] theorem State.setSpire_colls (s : State) (p : Nat) (k : Spire) : (s.setSpire p k).colls = s.colls := rfl
@[simp] theorem State.setSpire_runs (s : State) (p : Nat) (k : Spire) : (s.setSpire p k).runs = s.runs := rfl
@[simp] theorem State.setSpire_fired (s : State) (p : Nat) (k : Spire) : (s.setSpire p k).fired = s.fired := rfl
@[simp] theorem State.setSpire_contribs (s : State) (p : Nat) (k : Spire) : (s.setSpire p k).contribs = s.contribs := rfl
@[simp] theorem State.setSpire_queues (s : State) (p : Nat) (k : Spire) : (s.setSpire p k).queues = s.queues := rfl
@[simp] theorem State.setSpire_links (s : State) (p : Nat) (k : Spire) : (s.setSpire p k).links = s.links := rfl
@[simp] theorem State.setSpire_henud (s : State) (p : Nat) (k : Spire) : (s.setSpire p k).henud = s.henud := rfl
@[simp] theorem State.setSpire_acts (s : State) (p : Nat) (k : Spire) : (s.setSpire p k).acts = s.acts := rfl
@[simp] theorem State.setSpire_core (s : State) (p : Nat) (k : Spire) : (s.setSpire p k).core = s.core := rfl
@[simp] theorem State.setSpire_ctx (s : State) (p : Nat) (k : Spire) : (s.setSpire p k).ctx = s.ctx := rfl
@[simp] theorem State.setSpire_tick (s : State) (p : Nat) (k : Spire) : (s.setSpire p k).tick = s.tick := rfl
@[simp] theorem State.setSpire_split (s : State) (p : Nat) (k : Spire) : (s.setSpire p k).split = s.split := rfl
@[simp] theorem State.setSpire_free (s : State) (p : Nat) (k : Spire) : (s.setSpire p k).free = s.free := rfl
@[simp] theorem State.setSpire_stalled (s : State) (p : Nat) (k : Spire) : (s.setSpire p k).stalled = s.stalled := rfl

@[simp] theorem State.modSpire_cores (s : State) (p : Nat) (f : Spire → Spire) : (s.modSpire p f).cores = s.cores := rfl
@[simp] theorem State.modSpire_valleys (s : State) (p : Nat) (f : Spire → Spire) : (s.modSpire p f).valleys = s.valleys := rfl
@[simp] theorem State.modSpire_plains (s : State) (p : Nat) (f : Spire → Spire) : (s.modSpire p f).plains = s.plains := rfl
@[simp] theorem State.modSpire_mem (s : State) (p : Nat) (f : Spire → Spire) : (s.modSpire p f).mem = s.mem := rfl
@[simp] theorem State.modSpire_bad (s : State) (p : Nat) (f : Spire → Spire) : (s.modSpire p f).bad = s.bad := rfl
@[simp] theorem State.modSpire_soft (s : State) (p : Nat) (f : Spire → Spire) : (s.modSpire p f).soft = s.soft := rfl
@[simp] theorem State.modSpire_corrLine (s : State) (p : Nat) (f : Spire → Spire) : (s.modSpire p f).corrLine = s.corrLine := rfl
@[simp] theorem State.modSpire_net (s : State) (p : Nat) (f : Spire → Spire) : (s.modSpire p f).net = s.net := rfl
@[simp] theorem State.modSpire_place (s : State) (p : Nat) (f : Spire → Spire) : (s.modSpire p f).place = s.place := rfl
@[simp] theorem State.modSpire_fwd (s : State) (p : Nat) (f : Spire → Spire) : (s.modSpire p f).fwd = s.fwd := rfl
@[simp] theorem State.modSpire_launches (s : State) (p : Nat) (f : Spire → Spire) : (s.modSpire p f).launches = s.launches := rfl
@[simp] theorem State.modSpire_colls (s : State) (p : Nat) (f : Spire → Spire) : (s.modSpire p f).colls = s.colls := rfl
@[simp] theorem State.modSpire_runs (s : State) (p : Nat) (f : Spire → Spire) : (s.modSpire p f).runs = s.runs := rfl
@[simp] theorem State.modSpire_fired (s : State) (p : Nat) (f : Spire → Spire) : (s.modSpire p f).fired = s.fired := rfl
@[simp] theorem State.modSpire_contribs (s : State) (p : Nat) (f : Spire → Spire) : (s.modSpire p f).contribs = s.contribs := rfl
@[simp] theorem State.modSpire_queues (s : State) (p : Nat) (f : Spire → Spire) : (s.modSpire p f).queues = s.queues := rfl
@[simp] theorem State.modSpire_links (s : State) (p : Nat) (f : Spire → Spire) : (s.modSpire p f).links = s.links := rfl
@[simp] theorem State.modSpire_henud (s : State) (p : Nat) (f : Spire → Spire) : (s.modSpire p f).henud = s.henud := rfl
@[simp] theorem State.modSpire_acts (s : State) (p : Nat) (f : Spire → Spire) : (s.modSpire p f).acts = s.acts := rfl
@[simp] theorem State.modSpire_core (s : State) (p : Nat) (f : Spire → Spire) : (s.modSpire p f).core = s.core := rfl
@[simp] theorem State.modSpire_ctx (s : State) (p : Nat) (f : Spire → Spire) : (s.modSpire p f).ctx = s.ctx := rfl
@[simp] theorem State.modSpire_tick (s : State) (p : Nat) (f : Spire → Spire) : (s.modSpire p f).tick = s.tick := rfl
@[simp] theorem State.modSpire_split (s : State) (p : Nat) (f : Spire → Spire) : (s.modSpire p f).split = s.split := rfl
@[simp] theorem State.modSpire_free (s : State) (p : Nat) (f : Spire → Spire) : (s.modSpire p f).free = s.free := rfl
@[simp] theorem State.modSpire_stalled (s : State) (p : Nat) (f : Spire → Spire) : (s.modSpire p f).stalled = s.stalled := rfl

@[simp] theorem State.modValley_cores (s : State) (v : Nat) (f : Valley → Valley) : (s.modValley v f).cores = s.cores := rfl
@[simp] theorem State.modValley_spires (s : State) (v : Nat) (f : Valley → Valley) : (s.modValley v f).spires = s.spires := rfl
@[simp] theorem State.modValley_plains (s : State) (v : Nat) (f : Valley → Valley) : (s.modValley v f).plains = s.plains := rfl
@[simp] theorem State.modValley_mem (s : State) (v : Nat) (f : Valley → Valley) : (s.modValley v f).mem = s.mem := rfl
@[simp] theorem State.modValley_bad (s : State) (v : Nat) (f : Valley → Valley) : (s.modValley v f).bad = s.bad := rfl
@[simp] theorem State.modValley_soft (s : State) (v : Nat) (f : Valley → Valley) : (s.modValley v f).soft = s.soft := rfl
@[simp] theorem State.modValley_corrLine (s : State) (v : Nat) (f : Valley → Valley) : (s.modValley v f).corrLine = s.corrLine := rfl
@[simp] theorem State.modValley_net (s : State) (v : Nat) (f : Valley → Valley) : (s.modValley v f).net = s.net := rfl
@[simp] theorem State.modValley_place (s : State) (v : Nat) (f : Valley → Valley) : (s.modValley v f).place = s.place := rfl
@[simp] theorem State.modValley_fwd (s : State) (v : Nat) (f : Valley → Valley) : (s.modValley v f).fwd = s.fwd := rfl
@[simp] theorem State.modValley_launches (s : State) (v : Nat) (f : Valley → Valley) : (s.modValley v f).launches = s.launches := rfl
@[simp] theorem State.modValley_colls (s : State) (v : Nat) (f : Valley → Valley) : (s.modValley v f).colls = s.colls := rfl
@[simp] theorem State.modValley_runs (s : State) (v : Nat) (f : Valley → Valley) : (s.modValley v f).runs = s.runs := rfl
@[simp] theorem State.modValley_fired (s : State) (v : Nat) (f : Valley → Valley) : (s.modValley v f).fired = s.fired := rfl
@[simp] theorem State.modValley_contribs (s : State) (v : Nat) (f : Valley → Valley) : (s.modValley v f).contribs = s.contribs := rfl
@[simp] theorem State.modValley_queues (s : State) (v : Nat) (f : Valley → Valley) : (s.modValley v f).queues = s.queues := rfl
@[simp] theorem State.modValley_links (s : State) (v : Nat) (f : Valley → Valley) : (s.modValley v f).links = s.links := rfl
@[simp] theorem State.modValley_henud (s : State) (v : Nat) (f : Valley → Valley) : (s.modValley v f).henud = s.henud := rfl
@[simp] theorem State.modValley_acts (s : State) (v : Nat) (f : Valley → Valley) : (s.modValley v f).acts = s.acts := rfl
@[simp] theorem State.modValley_core (s : State) (v : Nat) (f : Valley → Valley) : (s.modValley v f).core = s.core := rfl
@[simp] theorem State.modValley_ctx (s : State) (v : Nat) (f : Valley → Valley) : (s.modValley v f).ctx = s.ctx := rfl
@[simp] theorem State.modValley_tick (s : State) (v : Nat) (f : Valley → Valley) : (s.modValley v f).tick = s.tick := rfl
@[simp] theorem State.modValley_split (s : State) (v : Nat) (f : Valley → Valley) : (s.modValley v f).split = s.split := rfl
@[simp] theorem State.modValley_free (s : State) (v : Nat) (f : Valley → Valley) : (s.modValley v f).free = s.free := rfl
@[simp] theorem State.modValley_stalled (s : State) (v : Nat) (f : Valley → Valley) : (s.modValley v f).stalled = s.stalled := rfl

@[simp] theorem State.modPlain_cores (s : State) (p : Nat) (f : Plain → Plain) : (s.modPlain p f).cores = s.cores := rfl
@[simp] theorem State.modPlain_spires (s : State) (p : Nat) (f : Plain → Plain) : (s.modPlain p f).spires = s.spires := rfl
@[simp] theorem State.modPlain_valleys (s : State) (p : Nat) (f : Plain → Plain) : (s.modPlain p f).valleys = s.valleys := rfl
@[simp] theorem State.modPlain_mem (s : State) (p : Nat) (f : Plain → Plain) : (s.modPlain p f).mem = s.mem := rfl
@[simp] theorem State.modPlain_bad (s : State) (p : Nat) (f : Plain → Plain) : (s.modPlain p f).bad = s.bad := rfl
@[simp] theorem State.modPlain_soft (s : State) (p : Nat) (f : Plain → Plain) : (s.modPlain p f).soft = s.soft := rfl
@[simp] theorem State.modPlain_corrLine (s : State) (p : Nat) (f : Plain → Plain) : (s.modPlain p f).corrLine = s.corrLine := rfl
@[simp] theorem State.modPlain_net (s : State) (p : Nat) (f : Plain → Plain) : (s.modPlain p f).net = s.net := rfl
@[simp] theorem State.modPlain_place (s : State) (p : Nat) (f : Plain → Plain) : (s.modPlain p f).place = s.place := rfl
@[simp] theorem State.modPlain_fwd (s : State) (p : Nat) (f : Plain → Plain) : (s.modPlain p f).fwd = s.fwd := rfl
@[simp] theorem State.modPlain_launches (s : State) (p : Nat) (f : Plain → Plain) : (s.modPlain p f).launches = s.launches := rfl
@[simp] theorem State.modPlain_colls (s : State) (p : Nat) (f : Plain → Plain) : (s.modPlain p f).colls = s.colls := rfl
@[simp] theorem State.modPlain_runs (s : State) (p : Nat) (f : Plain → Plain) : (s.modPlain p f).runs = s.runs := rfl
@[simp] theorem State.modPlain_fired (s : State) (p : Nat) (f : Plain → Plain) : (s.modPlain p f).fired = s.fired := rfl
@[simp] theorem State.modPlain_contribs (s : State) (p : Nat) (f : Plain → Plain) : (s.modPlain p f).contribs = s.contribs := rfl
@[simp] theorem State.modPlain_queues (s : State) (p : Nat) (f : Plain → Plain) : (s.modPlain p f).queues = s.queues := rfl
@[simp] theorem State.modPlain_links (s : State) (p : Nat) (f : Plain → Plain) : (s.modPlain p f).links = s.links := rfl
@[simp] theorem State.modPlain_henud (s : State) (p : Nat) (f : Plain → Plain) : (s.modPlain p f).henud = s.henud := rfl
@[simp] theorem State.modPlain_acts (s : State) (p : Nat) (f : Plain → Plain) : (s.modPlain p f).acts = s.acts := rfl
@[simp] theorem State.modPlain_core (s : State) (p : Nat) (f : Plain → Plain) : (s.modPlain p f).core = s.core := rfl
@[simp] theorem State.modPlain_ctx (s : State) (p : Nat) (f : Plain → Plain) : (s.modPlain p f).ctx = s.ctx := rfl
@[simp] theorem State.modPlain_tick (s : State) (p : Nat) (f : Plain → Plain) : (s.modPlain p f).tick = s.tick := rfl
@[simp] theorem State.modPlain_split (s : State) (p : Nat) (f : Plain → Plain) : (s.modPlain p f).split = s.split := rfl
@[simp] theorem State.modPlain_free (s : State) (p : Nat) (f : Plain → Plain) : (s.modPlain p f).free = s.free := rfl
@[simp] theorem State.modPlain_stalled (s : State) (p : Nat) (f : Plain → Plain) : (s.modPlain p f).stalled = s.stalled := rfl

@[simp] theorem State.modLaunch_cores (s : State) (l : Nat) (f : Launch → Launch) : (s.modLaunch l f).cores = s.cores := rfl
@[simp] theorem State.modLaunch_spires (s : State) (l : Nat) (f : Launch → Launch) : (s.modLaunch l f).spires = s.spires := rfl
@[simp] theorem State.modLaunch_valleys (s : State) (l : Nat) (f : Launch → Launch) : (s.modLaunch l f).valleys = s.valleys := rfl
@[simp] theorem State.modLaunch_plains (s : State) (l : Nat) (f : Launch → Launch) : (s.modLaunch l f).plains = s.plains := rfl
@[simp] theorem State.modLaunch_mem (s : State) (l : Nat) (f : Launch → Launch) : (s.modLaunch l f).mem = s.mem := rfl
@[simp] theorem State.modLaunch_bad (s : State) (l : Nat) (f : Launch → Launch) : (s.modLaunch l f).bad = s.bad := rfl
@[simp] theorem State.modLaunch_soft (s : State) (l : Nat) (f : Launch → Launch) : (s.modLaunch l f).soft = s.soft := rfl
@[simp] theorem State.modLaunch_corrLine (s : State) (l : Nat) (f : Launch → Launch) : (s.modLaunch l f).corrLine = s.corrLine := rfl
@[simp] theorem State.modLaunch_net (s : State) (l : Nat) (f : Launch → Launch) : (s.modLaunch l f).net = s.net := rfl
@[simp] theorem State.modLaunch_place (s : State) (l : Nat) (f : Launch → Launch) : (s.modLaunch l f).place = s.place := rfl
@[simp] theorem State.modLaunch_fwd (s : State) (l : Nat) (f : Launch → Launch) : (s.modLaunch l f).fwd = s.fwd := rfl
@[simp] theorem State.modLaunch_colls (s : State) (l : Nat) (f : Launch → Launch) : (s.modLaunch l f).colls = s.colls := rfl
@[simp] theorem State.modLaunch_runs (s : State) (l : Nat) (f : Launch → Launch) : (s.modLaunch l f).runs = s.runs := rfl
@[simp] theorem State.modLaunch_fired (s : State) (l : Nat) (f : Launch → Launch) : (s.modLaunch l f).fired = s.fired := rfl
@[simp] theorem State.modLaunch_contribs (s : State) (l : Nat) (f : Launch → Launch) : (s.modLaunch l f).contribs = s.contribs := rfl
@[simp] theorem State.modLaunch_queues (s : State) (l : Nat) (f : Launch → Launch) : (s.modLaunch l f).queues = s.queues := rfl
@[simp] theorem State.modLaunch_links (s : State) (l : Nat) (f : Launch → Launch) : (s.modLaunch l f).links = s.links := rfl
@[simp] theorem State.modLaunch_henud (s : State) (l : Nat) (f : Launch → Launch) : (s.modLaunch l f).henud = s.henud := rfl
@[simp] theorem State.modLaunch_acts (s : State) (l : Nat) (f : Launch → Launch) : (s.modLaunch l f).acts = s.acts := rfl
@[simp] theorem State.modLaunch_core (s : State) (l : Nat) (f : Launch → Launch) : (s.modLaunch l f).core = s.core := rfl
@[simp] theorem State.modLaunch_ctx (s : State) (l : Nat) (f : Launch → Launch) : (s.modLaunch l f).ctx = s.ctx := rfl
@[simp] theorem State.modLaunch_tick (s : State) (l : Nat) (f : Launch → Launch) : (s.modLaunch l f).tick = s.tick := rfl
@[simp] theorem State.modLaunch_split (s : State) (l : Nat) (f : Launch → Launch) : (s.modLaunch l f).split = s.split := rfl
@[simp] theorem State.modLaunch_free (s : State) (l : Nat) (f : Launch → Launch) : (s.modLaunch l f).free = s.free := rfl
@[simp] theorem State.modLaunch_stalled (s : State) (l : Nat) (f : Launch → Launch) : (s.modLaunch l f).stalled = s.stalled := rfl

@[simp] theorem State.setStrand_spires (s : State) (c x : Nat) (t : Strand) : (s.setStrand c x t).spires = s.spires := rfl
@[simp] theorem State.setStrand_valleys (s : State) (c x : Nat) (t : Strand) : (s.setStrand c x t).valleys = s.valleys := rfl
@[simp] theorem State.setStrand_plains (s : State) (c x : Nat) (t : Strand) : (s.setStrand c x t).plains = s.plains := rfl
@[simp] theorem State.setStrand_mem (s : State) (c x : Nat) (t : Strand) : (s.setStrand c x t).mem = s.mem := rfl
@[simp] theorem State.setStrand_bad (s : State) (c x : Nat) (t : Strand) : (s.setStrand c x t).bad = s.bad := rfl
@[simp] theorem State.setStrand_soft (s : State) (c x : Nat) (t : Strand) : (s.setStrand c x t).soft = s.soft := rfl
@[simp] theorem State.setStrand_corrLine (s : State) (c x : Nat) (t : Strand) : (s.setStrand c x t).corrLine = s.corrLine := rfl
@[simp] theorem State.setStrand_net (s : State) (c x : Nat) (t : Strand) : (s.setStrand c x t).net = s.net := rfl
@[simp] theorem State.setStrand_place (s : State) (c x : Nat) (t : Strand) : (s.setStrand c x t).place = s.place := rfl
@[simp] theorem State.setStrand_fwd (s : State) (c x : Nat) (t : Strand) : (s.setStrand c x t).fwd = s.fwd := rfl
@[simp] theorem State.setStrand_launches (s : State) (c x : Nat) (t : Strand) : (s.setStrand c x t).launches = s.launches := rfl
@[simp] theorem State.setStrand_colls (s : State) (c x : Nat) (t : Strand) : (s.setStrand c x t).colls = s.colls := rfl
@[simp] theorem State.setStrand_runs (s : State) (c x : Nat) (t : Strand) : (s.setStrand c x t).runs = s.runs := rfl
@[simp] theorem State.setStrand_fired (s : State) (c x : Nat) (t : Strand) : (s.setStrand c x t).fired = s.fired := rfl
@[simp] theorem State.setStrand_contribs (s : State) (c x : Nat) (t : Strand) : (s.setStrand c x t).contribs = s.contribs := rfl
@[simp] theorem State.setStrand_queues (s : State) (c x : Nat) (t : Strand) : (s.setStrand c x t).queues = s.queues := rfl
@[simp] theorem State.setStrand_links (s : State) (c x : Nat) (t : Strand) : (s.setStrand c x t).links = s.links := rfl
@[simp] theorem State.setStrand_henud (s : State) (c x : Nat) (t : Strand) : (s.setStrand c x t).henud = s.henud := rfl
@[simp] theorem State.setStrand_acts (s : State) (c x : Nat) (t : Strand) : (s.setStrand c x t).acts = s.acts := rfl
@[simp] theorem State.setStrand_core (s : State) (c x : Nat) (t : Strand) : (s.setStrand c x t).core = s.core := rfl
@[simp] theorem State.setStrand_ctx (s : State) (c x : Nat) (t : Strand) : (s.setStrand c x t).ctx = s.ctx := rfl
@[simp] theorem State.setStrand_tick (s : State) (c x : Nat) (t : Strand) : (s.setStrand c x t).tick = s.tick := rfl
@[simp] theorem State.setStrand_split (s : State) (c x : Nat) (t : Strand) : (s.setStrand c x t).split = s.split := rfl
@[simp] theorem State.setStrand_free (s : State) (c x : Nat) (t : Strand) : (s.setStrand c x t).free = s.free := rfl
@[simp] theorem State.setStrand_stalled (s : State) (c x : Nat) (t : Strand) : (s.setStrand c x t).stalled = s.stalled := rfl

@[simp] theorem State.modStrand_spires (s : State) (c x : Nat) (f : Strand → Strand) : (s.modStrand c x f).spires = s.spires := rfl
@[simp] theorem State.modStrand_valleys (s : State) (c x : Nat) (f : Strand → Strand) : (s.modStrand c x f).valleys = s.valleys := rfl
@[simp] theorem State.modStrand_plains (s : State) (c x : Nat) (f : Strand → Strand) : (s.modStrand c x f).plains = s.plains := rfl
@[simp] theorem State.modStrand_mem (s : State) (c x : Nat) (f : Strand → Strand) : (s.modStrand c x f).mem = s.mem := rfl
@[simp] theorem State.modStrand_bad (s : State) (c x : Nat) (f : Strand → Strand) : (s.modStrand c x f).bad = s.bad := rfl
@[simp] theorem State.modStrand_soft (s : State) (c x : Nat) (f : Strand → Strand) : (s.modStrand c x f).soft = s.soft := rfl
@[simp] theorem State.modStrand_corrLine (s : State) (c x : Nat) (f : Strand → Strand) : (s.modStrand c x f).corrLine = s.corrLine := rfl
@[simp] theorem State.modStrand_net (s : State) (c x : Nat) (f : Strand → Strand) : (s.modStrand c x f).net = s.net := rfl
@[simp] theorem State.modStrand_place (s : State) (c x : Nat) (f : Strand → Strand) : (s.modStrand c x f).place = s.place := rfl
@[simp] theorem State.modStrand_fwd (s : State) (c x : Nat) (f : Strand → Strand) : (s.modStrand c x f).fwd = s.fwd := rfl
@[simp] theorem State.modStrand_launches (s : State) (c x : Nat) (f : Strand → Strand) : (s.modStrand c x f).launches = s.launches := rfl
@[simp] theorem State.modStrand_colls (s : State) (c x : Nat) (f : Strand → Strand) : (s.modStrand c x f).colls = s.colls := rfl
@[simp] theorem State.modStrand_runs (s : State) (c x : Nat) (f : Strand → Strand) : (s.modStrand c x f).runs = s.runs := rfl
@[simp] theorem State.modStrand_fired (s : State) (c x : Nat) (f : Strand → Strand) : (s.modStrand c x f).fired = s.fired := rfl
@[simp] theorem State.modStrand_contribs (s : State) (c x : Nat) (f : Strand → Strand) : (s.modStrand c x f).contribs = s.contribs := rfl
@[simp] theorem State.modStrand_queues (s : State) (c x : Nat) (f : Strand → Strand) : (s.modStrand c x f).queues = s.queues := rfl
@[simp] theorem State.modStrand_links (s : State) (c x : Nat) (f : Strand → Strand) : (s.modStrand c x f).links = s.links := rfl
@[simp] theorem State.modStrand_henud (s : State) (c x : Nat) (f : Strand → Strand) : (s.modStrand c x f).henud = s.henud := rfl
@[simp] theorem State.modStrand_acts (s : State) (c x : Nat) (f : Strand → Strand) : (s.modStrand c x f).acts = s.acts := rfl
@[simp] theorem State.modStrand_core (s : State) (c x : Nat) (f : Strand → Strand) : (s.modStrand c x f).core = s.core := rfl
@[simp] theorem State.modStrand_ctx (s : State) (c x : Nat) (f : Strand → Strand) : (s.modStrand c x f).ctx = s.ctx := rfl
@[simp] theorem State.modStrand_tick (s : State) (c x : Nat) (f : Strand → Strand) : (s.modStrand c x f).tick = s.tick := rfl
@[simp] theorem State.modStrand_split (s : State) (c x : Nat) (f : Strand → Strand) : (s.modStrand c x f).split = s.split := rfl
@[simp] theorem State.modStrand_free (s : State) (c x : Nat) (f : Strand → Strand) : (s.modStrand c x f).free = s.free := rfl
@[simp] theorem State.modStrand_stalled (s : State) (c x : Nat) (f : Strand → Strand) : (s.modStrand c x f).stalled = s.stalled := rfl

@[simp] theorem State.modMe_spires (s : State) (f : Core → Core) : (s.modMe f).spires = s.spires := rfl
@[simp] theorem State.modMe_valleys (s : State) (f : Core → Core) : (s.modMe f).valleys = s.valleys := rfl
@[simp] theorem State.modMe_plains (s : State) (f : Core → Core) : (s.modMe f).plains = s.plains := rfl
@[simp] theorem State.modMe_mem (s : State) (f : Core → Core) : (s.modMe f).mem = s.mem := rfl
@[simp] theorem State.modMe_bad (s : State) (f : Core → Core) : (s.modMe f).bad = s.bad := rfl
@[simp] theorem State.modMe_soft (s : State) (f : Core → Core) : (s.modMe f).soft = s.soft := rfl
@[simp] theorem State.modMe_corrLine (s : State) (f : Core → Core) : (s.modMe f).corrLine = s.corrLine := rfl
@[simp] theorem State.modMe_net (s : State) (f : Core → Core) : (s.modMe f).net = s.net := rfl
@[simp] theorem State.modMe_place (s : State) (f : Core → Core) : (s.modMe f).place = s.place := rfl
@[simp] theorem State.modMe_fwd (s : State) (f : Core → Core) : (s.modMe f).fwd = s.fwd := rfl
@[simp] theorem State.modMe_launches (s : State) (f : Core → Core) : (s.modMe f).launches = s.launches := rfl
@[simp] theorem State.modMe_colls (s : State) (f : Core → Core) : (s.modMe f).colls = s.colls := rfl
@[simp] theorem State.modMe_runs (s : State) (f : Core → Core) : (s.modMe f).runs = s.runs := rfl
@[simp] theorem State.modMe_fired (s : State) (f : Core → Core) : (s.modMe f).fired = s.fired := rfl
@[simp] theorem State.modMe_contribs (s : State) (f : Core → Core) : (s.modMe f).contribs = s.contribs := rfl
@[simp] theorem State.modMe_queues (s : State) (f : Core → Core) : (s.modMe f).queues = s.queues := rfl
@[simp] theorem State.modMe_links (s : State) (f : Core → Core) : (s.modMe f).links = s.links := rfl
@[simp] theorem State.modMe_henud (s : State) (f : Core → Core) : (s.modMe f).henud = s.henud := rfl
@[simp] theorem State.modMe_acts (s : State) (f : Core → Core) : (s.modMe f).acts = s.acts := rfl
@[simp] theorem State.modMe_core (s : State) (f : Core → Core) : (s.modMe f).core = s.core := rfl
@[simp] theorem State.modMe_ctx (s : State) (f : Core → Core) : (s.modMe f).ctx = s.ctx := rfl
@[simp] theorem State.modMe_tick (s : State) (f : Core → Core) : (s.modMe f).tick = s.tick := rfl
@[simp] theorem State.modMe_split (s : State) (f : Core → Core) : (s.modMe f).split = s.split := rfl
@[simp] theorem State.modMe_free (s : State) (f : Core → Core) : (s.modMe f).free = s.free := rfl
@[simp] theorem State.modMe_stalled (s : State) (f : Core → Core) : (s.modMe f).stalled = s.stalled := rfl

@[simp] theorem State.modSt_spires (s : State) (f : Strand → Strand) : (s.modSt f).spires = s.spires := rfl
@[simp] theorem State.modSt_valleys (s : State) (f : Strand → Strand) : (s.modSt f).valleys = s.valleys := rfl
@[simp] theorem State.modSt_plains (s : State) (f : Strand → Strand) : (s.modSt f).plains = s.plains := rfl
@[simp] theorem State.modSt_mem (s : State) (f : Strand → Strand) : (s.modSt f).mem = s.mem := rfl
@[simp] theorem State.modSt_bad (s : State) (f : Strand → Strand) : (s.modSt f).bad = s.bad := rfl
@[simp] theorem State.modSt_soft (s : State) (f : Strand → Strand) : (s.modSt f).soft = s.soft := rfl
@[simp] theorem State.modSt_corrLine (s : State) (f : Strand → Strand) : (s.modSt f).corrLine = s.corrLine := rfl
@[simp] theorem State.modSt_net (s : State) (f : Strand → Strand) : (s.modSt f).net = s.net := rfl
@[simp] theorem State.modSt_place (s : State) (f : Strand → Strand) : (s.modSt f).place = s.place := rfl
@[simp] theorem State.modSt_fwd (s : State) (f : Strand → Strand) : (s.modSt f).fwd = s.fwd := rfl
@[simp] theorem State.modSt_launches (s : State) (f : Strand → Strand) : (s.modSt f).launches = s.launches := rfl
@[simp] theorem State.modSt_colls (s : State) (f : Strand → Strand) : (s.modSt f).colls = s.colls := rfl
@[simp] theorem State.modSt_runs (s : State) (f : Strand → Strand) : (s.modSt f).runs = s.runs := rfl
@[simp] theorem State.modSt_fired (s : State) (f : Strand → Strand) : (s.modSt f).fired = s.fired := rfl
@[simp] theorem State.modSt_contribs (s : State) (f : Strand → Strand) : (s.modSt f).contribs = s.contribs := rfl
@[simp] theorem State.modSt_queues (s : State) (f : Strand → Strand) : (s.modSt f).queues = s.queues := rfl
@[simp] theorem State.modSt_links (s : State) (f : Strand → Strand) : (s.modSt f).links = s.links := rfl
@[simp] theorem State.modSt_henud (s : State) (f : Strand → Strand) : (s.modSt f).henud = s.henud := rfl
@[simp] theorem State.modSt_acts (s : State) (f : Strand → Strand) : (s.modSt f).acts = s.acts := rfl
@[simp] theorem State.modSt_core (s : State) (f : Strand → Strand) : (s.modSt f).core = s.core := rfl
@[simp] theorem State.modSt_ctx (s : State) (f : Strand → Strand) : (s.modSt f).ctx = s.ctx := rfl
@[simp] theorem State.modSt_tick (s : State) (f : Strand → Strand) : (s.modSt f).tick = s.tick := rfl
@[simp] theorem State.modSt_split (s : State) (f : Strand → Strand) : (s.modSt f).split = s.split := rfl
@[simp] theorem State.modSt_free (s : State) (f : Strand → Strand) : (s.modSt f).free = s.free := rfl
@[simp] theorem State.modSt_stalled (s : State) (f : Strand → Strand) : (s.modSt f).stalled = s.stalled := rfl

@[simp] theorem State.modSp_cores (s : State) (f : Spire → Spire) : (s.modSp f).cores = s.cores := rfl
@[simp] theorem State.modSp_valleys (s : State) (f : Spire → Spire) : (s.modSp f).valleys = s.valleys := rfl
@[simp] theorem State.modSp_plains (s : State) (f : Spire → Spire) : (s.modSp f).plains = s.plains := rfl
@[simp] theorem State.modSp_mem (s : State) (f : Spire → Spire) : (s.modSp f).mem = s.mem := rfl
@[simp] theorem State.modSp_bad (s : State) (f : Spire → Spire) : (s.modSp f).bad = s.bad := rfl
@[simp] theorem State.modSp_soft (s : State) (f : Spire → Spire) : (s.modSp f).soft = s.soft := rfl
@[simp] theorem State.modSp_corrLine (s : State) (f : Spire → Spire) : (s.modSp f).corrLine = s.corrLine := rfl
@[simp] theorem State.modSp_net (s : State) (f : Spire → Spire) : (s.modSp f).net = s.net := rfl
@[simp] theorem State.modSp_place (s : State) (f : Spire → Spire) : (s.modSp f).place = s.place := rfl
@[simp] theorem State.modSp_fwd (s : State) (f : Spire → Spire) : (s.modSp f).fwd = s.fwd := rfl
@[simp] theorem State.modSp_launches (s : State) (f : Spire → Spire) : (s.modSp f).launches = s.launches := rfl
@[simp] theorem State.modSp_colls (s : State) (f : Spire → Spire) : (s.modSp f).colls = s.colls := rfl
@[simp] theorem State.modSp_runs (s : State) (f : Spire → Spire) : (s.modSp f).runs = s.runs := rfl
@[simp] theorem State.modSp_fired (s : State) (f : Spire → Spire) : (s.modSp f).fired = s.fired := rfl
@[simp] theorem State.modSp_contribs (s : State) (f : Spire → Spire) : (s.modSp f).contribs = s.contribs := rfl
@[simp] theorem State.modSp_queues (s : State) (f : Spire → Spire) : (s.modSp f).queues = s.queues := rfl
@[simp] theorem State.modSp_links (s : State) (f : Spire → Spire) : (s.modSp f).links = s.links := rfl
@[simp] theorem State.modSp_henud (s : State) (f : Spire → Spire) : (s.modSp f).henud = s.henud := rfl
@[simp] theorem State.modSp_acts (s : State) (f : Spire → Spire) : (s.modSp f).acts = s.acts := rfl
@[simp] theorem State.modSp_core (s : State) (f : Spire → Spire) : (s.modSp f).core = s.core := rfl
@[simp] theorem State.modSp_ctx (s : State) (f : Spire → Spire) : (s.modSp f).ctx = s.ctx := rfl
@[simp] theorem State.modSp_tick (s : State) (f : Spire → Spire) : (s.modSp f).tick = s.tick := rfl
@[simp] theorem State.modSp_split (s : State) (f : Spire → Spire) : (s.modSp f).split = s.split := rfl
@[simp] theorem State.modSp_free (s : State) (f : Spire → Spire) : (s.modSp f).free = s.free := rfl
@[simp] theorem State.modSp_stalled (s : State) (f : Spire → Spire) : (s.modSp f).stalled = s.stalled := rfl

@[simp] theorem State.poke_cores (s : State) (a : Nat) (bs : List Byte) : (s.poke a bs).cores = s.cores := rfl
@[simp] theorem State.poke_spires (s : State) (a : Nat) (bs : List Byte) : (s.poke a bs).spires = s.spires := rfl
@[simp] theorem State.poke_valleys (s : State) (a : Nat) (bs : List Byte) : (s.poke a bs).valleys = s.valleys := rfl
@[simp] theorem State.poke_plains (s : State) (a : Nat) (bs : List Byte) : (s.poke a bs).plains = s.plains := rfl
@[simp] theorem State.poke_bad (s : State) (a : Nat) (bs : List Byte) : (s.poke a bs).bad = s.bad := rfl
@[simp] theorem State.poke_soft (s : State) (a : Nat) (bs : List Byte) : (s.poke a bs).soft = s.soft := rfl
@[simp] theorem State.poke_corrLine (s : State) (a : Nat) (bs : List Byte) : (s.poke a bs).corrLine = s.corrLine := rfl
@[simp] theorem State.poke_net (s : State) (a : Nat) (bs : List Byte) : (s.poke a bs).net = s.net := rfl
@[simp] theorem State.poke_place (s : State) (a : Nat) (bs : List Byte) : (s.poke a bs).place = s.place := rfl
@[simp] theorem State.poke_fwd (s : State) (a : Nat) (bs : List Byte) : (s.poke a bs).fwd = s.fwd := rfl
@[simp] theorem State.poke_launches (s : State) (a : Nat) (bs : List Byte) : (s.poke a bs).launches = s.launches := rfl
@[simp] theorem State.poke_colls (s : State) (a : Nat) (bs : List Byte) : (s.poke a bs).colls = s.colls := rfl
@[simp] theorem State.poke_runs (s : State) (a : Nat) (bs : List Byte) : (s.poke a bs).runs = s.runs := rfl
@[simp] theorem State.poke_fired (s : State) (a : Nat) (bs : List Byte) : (s.poke a bs).fired = s.fired := rfl
@[simp] theorem State.poke_contribs (s : State) (a : Nat) (bs : List Byte) : (s.poke a bs).contribs = s.contribs := rfl
@[simp] theorem State.poke_queues (s : State) (a : Nat) (bs : List Byte) : (s.poke a bs).queues = s.queues := rfl
@[simp] theorem State.poke_links (s : State) (a : Nat) (bs : List Byte) : (s.poke a bs).links = s.links := rfl
@[simp] theorem State.poke_henud (s : State) (a : Nat) (bs : List Byte) : (s.poke a bs).henud = s.henud := rfl
@[simp] theorem State.poke_acts (s : State) (a : Nat) (bs : List Byte) : (s.poke a bs).acts = s.acts := rfl
@[simp] theorem State.poke_core (s : State) (a : Nat) (bs : List Byte) : (s.poke a bs).core = s.core := rfl
@[simp] theorem State.poke_ctx (s : State) (a : Nat) (bs : List Byte) : (s.poke a bs).ctx = s.ctx := rfl
@[simp] theorem State.poke_tick (s : State) (a : Nat) (bs : List Byte) : (s.poke a bs).tick = s.tick := rfl
@[simp] theorem State.poke_split (s : State) (a : Nat) (bs : List Byte) : (s.poke a bs).split = s.split := rfl
@[simp] theorem State.poke_free (s : State) (a : Nat) (bs : List Byte) : (s.poke a bs).free = s.free := rfl
@[simp] theorem State.poke_stalled (s : State) (a : Nat) (bs : List Byte) : (s.poke a bs).stalled = s.stalled := rfl

@[simp] theorem State.setG_spires (s : State) (r : BitVec 4) (v : Word) : (s.setG r v).spires = s.spires := by unfold State.setG; split <;> rfl
@[simp] theorem State.setG_valleys (s : State) (r : BitVec 4) (v : Word) : (s.setG r v).valleys = s.valleys := by unfold State.setG; split <;> rfl
@[simp] theorem State.setG_plains (s : State) (r : BitVec 4) (v : Word) : (s.setG r v).plains = s.plains := by unfold State.setG; split <;> rfl
@[simp] theorem State.setG_mem (s : State) (r : BitVec 4) (v : Word) : (s.setG r v).mem = s.mem := by unfold State.setG; split <;> rfl
@[simp] theorem State.setG_bad (s : State) (r : BitVec 4) (v : Word) : (s.setG r v).bad = s.bad := by unfold State.setG; split <;> rfl
@[simp] theorem State.setG_soft (s : State) (r : BitVec 4) (v : Word) : (s.setG r v).soft = s.soft := by unfold State.setG; split <;> rfl
@[simp] theorem State.setG_corrLine (s : State) (r : BitVec 4) (v : Word) : (s.setG r v).corrLine = s.corrLine := by unfold State.setG; split <;> rfl
@[simp] theorem State.setG_net (s : State) (r : BitVec 4) (v : Word) : (s.setG r v).net = s.net := by unfold State.setG; split <;> rfl
@[simp] theorem State.setG_place (s : State) (r : BitVec 4) (v : Word) : (s.setG r v).place = s.place := by unfold State.setG; split <;> rfl
@[simp] theorem State.setG_fwd (s : State) (r : BitVec 4) (v : Word) : (s.setG r v).fwd = s.fwd := by unfold State.setG; split <;> rfl
@[simp] theorem State.setG_launches (s : State) (r : BitVec 4) (v : Word) : (s.setG r v).launches = s.launches := by unfold State.setG; split <;> rfl
@[simp] theorem State.setG_colls (s : State) (r : BitVec 4) (v : Word) : (s.setG r v).colls = s.colls := by unfold State.setG; split <;> rfl
@[simp] theorem State.setG_runs (s : State) (r : BitVec 4) (v : Word) : (s.setG r v).runs = s.runs := by unfold State.setG; split <;> rfl
@[simp] theorem State.setG_fired (s : State) (r : BitVec 4) (v : Word) : (s.setG r v).fired = s.fired := by unfold State.setG; split <;> rfl
@[simp] theorem State.setG_contribs (s : State) (r : BitVec 4) (v : Word) : (s.setG r v).contribs = s.contribs := by unfold State.setG; split <;> rfl
@[simp] theorem State.setG_queues (s : State) (r : BitVec 4) (v : Word) : (s.setG r v).queues = s.queues := by unfold State.setG; split <;> rfl
@[simp] theorem State.setG_links (s : State) (r : BitVec 4) (v : Word) : (s.setG r v).links = s.links := by unfold State.setG; split <;> rfl
@[simp] theorem State.setG_henud (s : State) (r : BitVec 4) (v : Word) : (s.setG r v).henud = s.henud := by unfold State.setG; split <;> rfl
@[simp] theorem State.setG_acts (s : State) (r : BitVec 4) (v : Word) : (s.setG r v).acts = s.acts := by unfold State.setG; split <;> rfl
@[simp] theorem State.setG_core (s : State) (r : BitVec 4) (v : Word) : (s.setG r v).core = s.core := by unfold State.setG; split <;> rfl
@[simp] theorem State.setG_ctx (s : State) (r : BitVec 4) (v : Word) : (s.setG r v).ctx = s.ctx := by unfold State.setG; split <;> rfl
@[simp] theorem State.setG_tick (s : State) (r : BitVec 4) (v : Word) : (s.setG r v).tick = s.tick := by unfold State.setG; split <;> rfl
@[simp] theorem State.setG_split (s : State) (r : BitVec 4) (v : Word) : (s.setG r v).split = s.split := by unfold State.setG; split <;> rfl
@[simp] theorem State.setG_free (s : State) (r : BitVec 4) (v : Word) : (s.setG r v).free = s.free := by unfold State.setG; split <;> rfl
@[simp] theorem State.setG_stalled (s : State) (r : BitVec 4) (v : Word) : (s.setG r v).stalled = s.stalled := by unfold State.setG; split <;> rfl

@[simp] theorem State.mergeFlags_spires (s : State) (f : BitVec 5) : (s.mergeFlags f).spires = s.spires := by unfold State.mergeFlags; split <;> rfl
@[simp] theorem State.mergeFlags_valleys (s : State) (f : BitVec 5) : (s.mergeFlags f).valleys = s.valleys := by unfold State.mergeFlags; split <;> rfl
@[simp] theorem State.mergeFlags_plains (s : State) (f : BitVec 5) : (s.mergeFlags f).plains = s.plains := by unfold State.mergeFlags; split <;> rfl
@[simp] theorem State.mergeFlags_mem (s : State) (f : BitVec 5) : (s.mergeFlags f).mem = s.mem := by unfold State.mergeFlags; split <;> rfl
@[simp] theorem State.mergeFlags_bad (s : State) (f : BitVec 5) : (s.mergeFlags f).bad = s.bad := by unfold State.mergeFlags; split <;> rfl
@[simp] theorem State.mergeFlags_soft (s : State) (f : BitVec 5) : (s.mergeFlags f).soft = s.soft := by unfold State.mergeFlags; split <;> rfl
@[simp] theorem State.mergeFlags_corrLine (s : State) (f : BitVec 5) : (s.mergeFlags f).corrLine = s.corrLine := by unfold State.mergeFlags; split <;> rfl
@[simp] theorem State.mergeFlags_net (s : State) (f : BitVec 5) : (s.mergeFlags f).net = s.net := by unfold State.mergeFlags; split <;> rfl
@[simp] theorem State.mergeFlags_place (s : State) (f : BitVec 5) : (s.mergeFlags f).place = s.place := by unfold State.mergeFlags; split <;> rfl
@[simp] theorem State.mergeFlags_fwd (s : State) (f : BitVec 5) : (s.mergeFlags f).fwd = s.fwd := by unfold State.mergeFlags; split <;> rfl
@[simp] theorem State.mergeFlags_launches (s : State) (f : BitVec 5) : (s.mergeFlags f).launches = s.launches := by unfold State.mergeFlags; split <;> rfl
@[simp] theorem State.mergeFlags_colls (s : State) (f : BitVec 5) : (s.mergeFlags f).colls = s.colls := by unfold State.mergeFlags; split <;> rfl
@[simp] theorem State.mergeFlags_runs (s : State) (f : BitVec 5) : (s.mergeFlags f).runs = s.runs := by unfold State.mergeFlags; split <;> rfl
@[simp] theorem State.mergeFlags_fired (s : State) (f : BitVec 5) : (s.mergeFlags f).fired = s.fired := by unfold State.mergeFlags; split <;> rfl
@[simp] theorem State.mergeFlags_contribs (s : State) (f : BitVec 5) : (s.mergeFlags f).contribs = s.contribs := by unfold State.mergeFlags; split <;> rfl
@[simp] theorem State.mergeFlags_queues (s : State) (f : BitVec 5) : (s.mergeFlags f).queues = s.queues := by unfold State.mergeFlags; split <;> rfl
@[simp] theorem State.mergeFlags_links (s : State) (f : BitVec 5) : (s.mergeFlags f).links = s.links := by unfold State.mergeFlags; split <;> rfl
@[simp] theorem State.mergeFlags_henud (s : State) (f : BitVec 5) : (s.mergeFlags f).henud = s.henud := by unfold State.mergeFlags; split <;> rfl
@[simp] theorem State.mergeFlags_acts (s : State) (f : BitVec 5) : (s.mergeFlags f).acts = s.acts := by unfold State.mergeFlags; split <;> rfl
@[simp] theorem State.mergeFlags_core (s : State) (f : BitVec 5) : (s.mergeFlags f).core = s.core := by unfold State.mergeFlags; split <;> rfl
@[simp] theorem State.mergeFlags_ctx (s : State) (f : BitVec 5) : (s.mergeFlags f).ctx = s.ctx := by unfold State.mergeFlags; split <;> rfl
@[simp] theorem State.mergeFlags_tick (s : State) (f : BitVec 5) : (s.mergeFlags f).tick = s.tick := by unfold State.mergeFlags; split <;> rfl
@[simp] theorem State.mergeFlags_split (s : State) (f : BitVec 5) : (s.mergeFlags f).split = s.split := by unfold State.mergeFlags; split <;> rfl
@[simp] theorem State.mergeFlags_free (s : State) (f : BitVec 5) : (s.mergeFlags f).free = s.free := by unfold State.mergeFlags; split <;> rfl
@[simp] theorem State.mergeFlags_stalled (s : State) (f : BitVec 5) : (s.mergeFlags f).stalled = s.stalled := by unfold State.mergeFlags; split <;> rfl

/-! ### Reading a part after an update -/

theorem State.coreAt_setCore (s : State) (c d : Nat) (k : Core) :
    (s.setCore c k).coreAt d = if d = c then k else s.coreAt d := by
  unfold State.coreAt State.setCore; exact fget_fset _ _ _ _ _

theorem State.coreAt_modCore (s : State) (c d : Nat) (f : Core → Core) :
    (s.modCore c f).coreAt d = if d = c then f (s.coreAt c) else s.coreAt d := State.coreAt_setCore s c d _

@[simp] theorem State.coreAt_modCore_self (s : State) (c : Nat) (f : Core → Core) :
    (s.modCore c f).coreAt c = f (s.coreAt c) := by simp [State.coreAt_modCore]

theorem State.coreAt_modCore_ne (s : State) (c d : Nat) (f : Core → Core) (h : d ≠ c) :
    (s.modCore c f).coreAt d = s.coreAt d := by simp [State.coreAt_modCore, h]

@[simp] theorem State.me_modMe (s : State) (f : Core → Core) : (s.modMe f).me = f s.me := State.coreAt_modCore_self s s.core f

theorem State.spireAt_modSpire (s : State) (p q : Nat) (f : Spire → Spire) :
    (s.modSpire p f).spireAt q = if q = p then f (s.spireAt p) else s.spireAt q := by
  unfold State.spireAt State.modSpire State.setSpire; exact fget_fset _ _ _ _ _

theorem State.valleyAt_modValley (s : State) (v w : Nat) (f : Valley → Valley) :
    (s.modValley v f).valleyAt w = if w = v then f (s.valleyAt v) else s.valleyAt w := by
  unfold State.valleyAt State.modValley; exact fget_fset _ _ _ _ _

theorem State.plainAt_modPlain (s : State) (p q : Nat) (f : Plain → Plain) :
    (s.modPlain p f).plainAt q = if q = p then f (s.plainAt p) else s.plainAt q := by
  unfold State.plainAt State.modPlain; exact fget_fset _ _ _ _ _

theorem State.launchAt_modLaunch (s : State) (l m : Nat) (f : Launch → Launch) :
    (s.modLaunch l f).launchAt m = if m = l then f (s.launchAt l) else s.launchAt m := by
  unfold State.launchAt State.modLaunch; exact fget_fset _ _ _ _ _

theorem State.strandAt_setStrand (s : State) (c x d y : Nat) (t : Strand) :
    (s.setStrand c x t).strandAt d y = if d = c ∧ y = x then t else s.strandAt d y := by
  unfold State.strandAt State.setStrand
  rw [State.coreAt_modCore]
  by_cases h : d = c
  · subst h
    simp [fget_fset]
  · simp [h]

theorem State.strandAt_modStrand (s : State) (c x d y : Nat) (f : Strand → Strand) :
    (s.modStrand c x f).strandAt d y = if d = c ∧ y = x then f (s.strandAt c x) else s.strandAt d y :=
  State.strandAt_setStrand s c x d y _

@[simp] theorem State.st_modSt (s : State) (f : Strand → Strand) : (s.modSt f).st = f s.st := by
  unfold State.st State.modSt
  simp [State.strandAt_modStrand]

/-- An update of the acting strand leaves every other strand as it was. -/
theorem State.strandAt_modSt_ne (s : State) (f : Strand → Strand) (d y : Nat) (h : ¬(d = s.core ∧ y = s.ctx)) :
    (s.modSt f).strandAt d y = s.strandAt d y := by
  unfold State.modSt
  rw [State.strandAt_modStrand, if_neg h]

/-- An update of the acting strand leaves its core as it was, but for the contexts. -/
@[simp] theorem State.me_modSt (s : State) (f : Strand → Strand) :
    (s.modSt f).me = { s.me with ctxs := fset s.me.ctxs s.ctx (f s.st) } := by
  unfold State.me State.modSt State.modStrand State.setStrand
  simp
  rfl

/-- Two updates of the acting strand are one. -/
theorem State.modSt_modSt (s : State) (f g : Strand → Strand) : (s.modSt f).modSt g = s.modSt fun t => g (f t) := by
  simp [State.modSt, State.modStrand, State.setStrand, State.modCore, State.setCore, State.strandAt, State.coreAt]

/-- A register reads as written, g0 as zero (R13, R16). -/
theorem State.g_setG (s : State) (r q : BitVec 4) (v : Word) :
    (s.setG r v).g q = if q = r then (if r = 0 then 0 else v) else s.g q := by
  unfold State.g State.setG gread
  by_cases hr : r = 0
  · simp only [if_pos hr]
    by_cases hq : q = r
    · simp [hq, hr]
    · simp [hq]
  · simp only [if_neg hr, State.st_modSt]
    by_cases hq : q = r
    · subst hq
      simp only [if_neg hr, if_pos trivial, fget_fsetD_self]
    · by_cases h0 : q = 0
      · simp only [if_pos h0, if_neg hq]
      · have : q.toNat ≠ r.toNat := fun h => hq (BitVec.eq_of_toNat_eq h)
        simp only [if_neg h0, if_neg hq, fget_fsetD, if_neg this]

@[simp] theorem State.byte_modMe (s : State) (f : Core → Core) (a : Nat) : (s.modMe f).byte a = s.byte a := rfl
@[simp] theorem State.byte_modSt (s : State) (f : Strand → Strand) (a : Nat) : (s.modSt f).byte a = s.byte a := rfl
@[simp] theorem State.byte_setG (s : State) (r : BitVec 4) (v : Word) (a : Nat) : (s.setG r v).byte a = s.byte a := by
  unfold State.byte; simp
@[simp] theorem State.byte_mergeFlags (s : State) (f : BitVec 5) (a : Nat) : (s.mergeFlags f).byte a = s.byte a := by
  unfold State.byte; simp

end Sys2Proof.Machine
end

