-- ==== Sys2Proof/Laws/Issue.lean ====
section
/-! SUPPORT. Everything issuing an instruction can do, said once: an instruction of a ready strand completes, waits, or traps. -/

namespace Sys2Proof.Machine
open Sys2Proof

theorem State.Clear.gate {s : State} (h : s.Clear) : s.gate = true := by
  simp [State.gate, h.pend, h.found, h.live, h.awake, h.moving, h.seen]

theorem State.Ready.decode {s : State} {i : Instr} (h : s.Ready i) : s.decodeTrap i = none := by
  have hp : (i.priv && !s.st.sys) = false := by
    cases hi : i.priv
    · rfl
    · simp [h.mode hi]
  simp only [State.decodeTrap, h.assigned, h.core, hp, h.pend, List.isEmpty_nil]
  rfl

/-- What a retired instruction leaves of a strand that had nothing pending and re-executes nothing. -/
theorem State.retire_clear {s : State} (hp : s.st.pend = []) (hr : s.st.replay = none) (ha : s.st.awaiting = false) :
    s.retire true = s.advance := by
  have h : (s.modSt fun t => { t with pc := t.pc + 4, life := if t.awaiting then .waiting else .ready, waitBar := none, waitEv := none, cond := false, waitSq := false, pend := t.pend.map fun p => { p with win := p.win - 1, w := p.w + 1 } }) = s.advance := by
    unfold State.advance State.modSt State.modStrand
    congr 1
    show Strand.mk .. = Strand.mk ..
    simp only [State.st] at hp hr ha
    simp [hp, ha]
  unfold State.retire
  simp only [if_true]
  rw [h]
  have hr' : (s.advance.strandAt s.core s.ctx).replay = none := by
    have : s.advance.strandAt s.core s.ctx = _ := State.st_modSt s _
    rw [this]; exact hr
  unfold State.replayed
  show (match (s.advance.strandAt s.core s.ctx).replay with | none => s.advance | some r => _) = _
  rw [hr']

/-- The same of an instruction that has set the pc itself. -/
theorem State.retire_goto {s : State} (hp : s.st.pend = []) (hr : s.st.replay = none) (ha : s.st.awaiting = false) :
    s.retire false = s.goto s.st.pc := by
  have h : (s.modSt fun t => { t with pc := t.pc, life := if t.awaiting then .waiting else .ready, waitBar := none, waitEv := none, cond := false, waitSq := false, pend := t.pend.map fun p => { p with win := p.win - 1, w := p.w + 1 } }) = s.goto s.st.pc := by
    unfold State.goto State.modSt State.modStrand
    congr 1
    show Strand.mk .. = Strand.mk ..
    simp only [State.st] at hp hr ha ⊢
    simp [hp, ha]
  unfold State.retire
  simp only [if_false, Bool.false_eq_true]
  rw [h]
  have hr' : ((s.goto s.st.pc).strandAt s.core s.ctx).replay = none := by
    have : (s.goto s.st.pc).strandAt s.core s.ctx = _ := State.st_modSt s _
    rw [this]; exact hr
  unfold State.replayed
  show (match ((s.goto s.st.pc).strandAt s.core s.ctx).replay with | none => s.goto s.st.pc | some r => _) = _
  rw [hr']

/-- A body that completes retires the instruction. -/
theorem issueNow_done {i : Instr} {adv : Bool} {body : State → Res} {s t : State} (h : s.Ready i) (hb : body s = .done t) :
    issueNow i adv body s = t.retire adv := by
  simp [issueNow, h.gate, h.pend, h.decode, hb]

theorem issueNow_trap {i : Instr} {adv : Bool} {body : State → Res} {s t : State} {x : Trap} (h : s.Ready i)
    (hb : body s = .trap x t) : issueNow i adv body s = t.raise x := by
  simp [issueNow, h.gate, h.pend, h.decode, hb]

theorem issueNow_gone {i : Instr} {adv : Bool} {body : State → Res} {s t : State} (h : s.Ready i) (hb : body s = .gone t) :
    issueNow i adv body s = t := by
  simp [issueNow, h.gate, h.pend, h.decode, hb]

theorem issueNow_wait {i : Instr} {adv y : Bool} {body : State → Res} {s t : State} (h : s.Ready i) (hb : body s = .wait y t) :
    issueNow i adv body s = t.stall y := by
  simp [issueNow, h.gate, h.pend, h.decode, hb]

/-- A trap of R88 is raised before anything else happens. -/
theorem issueNow_decodeTrap {i : Instr} {adv : Bool} {body : State → Res} {s : State} {x : Trap} (h : s.Clear)
    (hd : s.decodeTrap i = some x) : issueNow i adv body s = s.raise x := by
  simp [issueNow, h.gate, h.pend, hd]

theorem longPrep_decodeTrap {i : Instr} {prep : Prepare} {fin : Eff} {s : State} {x : Trap} (h : s.Clear) (hu : s.unitBusy i.unit = false)
    (hd : s.decodeTrap i = some x) : longPrep i prep fin s = s.raise x := by
  simp [longPrep, h.gate, h.pend, hd, hu]

@[simp] theorem State.envOf_r (s : State) (r : BitVec 4) : s.envOf.r r = s.g r := rfl

theorem State.start_st (s : State) (i : Instr) : (s.start i).st = { s.st with pin := i.pins || s.st.pin } := by
  unfold State.start State.pinned
  by_cases h : i.pins = true
  · simp [h]
  · simp [h]

theorem pins_unit {i : Instr} : i.pins = (i.unit == 3 || i.unit == 4) := rfl

theorem State.unitBusy_pinned (s : State) (u : Nat) : s.pinned.unitBusy u = s.unitBusy u := by
  have e : s.pinned.me.ctxs = fset s.me.ctxs s.ctx s.pinned.st := by
    unfold State.pinned; rw [State.me_modSt, State.st_modSt]
  have ec : s.pinned.ctx = s.ctx := rfl
  unfold State.unitBusy
  rw [e, ec]
  unfold fset
  have hins : ∀ (m : List (Nat × Strand)) (v : Strand) (p : Strand → Bool),
      (fins s.ctx v m).any (fun e => e.1 != s.ctx && p e.2) = m.any (fun e => e.1 != s.ctx && p e.2) := by
    intro m v p
    induction m with
    | nil => simp [fins]
    | cons e r ih =>
      obtain ⟨j, w⟩ := e
      simp only [fins]
      split <;> simp [ih]
  have hdel : ∀ (m : List (Nat × Strand)) (p : Strand → Bool),
      (fdel s.ctx m).any (fun e => e.1 != s.ctx && p e.2) = m.any (fun e => e.1 != s.ctx && p e.2) := by
    intro m p
    induction m with
    | nil => rfl
    | cons e r ih =>
      obtain ⟨j, w⟩ := e
      simp only [fdel]
      split
      · next h => simp [h, ih]
      · simp [ih]
  rw [hins _ _ fun t => t.pend.any fun p => p.unit == u && p.trap.isNone && (u != 5 || (!p.started && p.tag.isNone))]
  exact hdel _ fun t => t.pend.any fun p => p.unit == u && p.trap.isNone && (u != 5 || (!p.started && p.tag.isNone))

/-- Everything issuing an instruction of a unit can do when its strand has nothing pending and the unit is idle: a check made at issue
traps, or what it keeps goes with the effect. -/
theorem longPrep_ready {i : Instr} {prep : Prepare} {fin : Eff} {s : State} (h : s.ReadyUnit i) :
    longPrep i prep fin s = match prep s.envOf (s.start i) with
      | .error (t, u) => u.raise t
      | .ok (.full, u) => (u.modSt fun t => { t with waitSq := true }).stall true
      | .ok (p, u) =>
        if u.st.pend.any fun q => q.unit == i.unit then u.accept i 0 false false false p
        else if u.unitBusy i.unit || (u.split && !waitsAll i && u.st.replay.isNone) then u.accept i 0 true false false p
        else match fin { s.envOf with prep := p } u with
          | .done t => t.retire true
          | .wait y t => t.stall y
          | .trap x t => t.raise x
          | .sent y t => t.accept i 0 true true y p
          | .gone t => t := by
  have hsr : s.pinned.st.replay = none := by simp [State.pinned, h.replay]
  have hg : s.pinned.st.g = s.st.g := by simp [State.pinned]
  have hpc : s.pinned.st.pc = s.st.pc := by simp [State.pinned]
  have hq : s.pinned.me.seqNo = s.me.seqNo := by simp [State.pinned]
  have hpin : (s.modSt fun t => { t with pin := true }) = s.pinned := rfl
  unfold longPrep State.start State.envOf
  simp only [h.gate, h.pend, h.decode, h.idle, List.isEmpty_nil, Bool.not_true, Bool.or_false, Bool.and_false, if_false, Bool.false_eq_true]
  by_cases hi : i.pins = true
  · simp only [hi, if_true, hpin, hsr, hg, hpc, hq, h.alone, Option.isSome_none, if_false, Bool.false_eq_true, Nat.lt_irrefl,
      decide_false, Bool.or_false, if_true]
    all_goals rfl
  · simp only [hi, if_false, h.replay, h.alone, Option.isSome_none, Bool.false_eq_true, Nat.lt_irrefl, decide_false, Bool.or_false, if_true]
    all_goals rfl

/-- The strand as its instruction starts: still with nothing pending, the unit idle, the step fast. -/
theorem State.start_fast {i : Instr} {s : State} (h : s.ReadyUnit i) :
    (s.start i).st.pend = [] ∧ (s.start i).unitBusy i.unit = false ∧ (s.start i).split = false := by
  rw [State.start_st]
  refine ⟨h.pend, ?_, ?_⟩ <;> unfold State.start <;> split
  · rw [State.unitBusy_pinned, h.idle]
  · exact h.idle
  · exact h.fast
  · exact h.fast

/-- What an instruction checks and keeps at issue (p) goes with its effect. -/
theorem longPrep_ok {i : Instr} {prep : Prepare} {fin : Eff} {s : State} {p : Prep} (h : s.ReadyUnit i) (hf : p ≠ .full)
    (hp : prep s.envOf (s.start i) = .ok (p, s.start i)) :
    longPrep i prep fin s = match fin { s.envOf with prep := p } (s.start i) with
      | .done t => t.retire true
      | .wait y t => t.stall y
      | .trap x t => t.raise x
      | .sent y t => t.accept i 0 true true y p
      | .gone t => t := by
  obtain ⟨h1, h2, h3⟩ := State.start_fast h
  rw [longPrep_ready h, hp]
  cases p <;> first
    | exact absurd rfl hf
    | simp only [h1, h2, h3, List.any_nil, Bool.false_and, Bool.or_self, Bool.false_eq_true, if_false]

/-- The queue that a send must enter at issue is full: the instruction waits (R214). -/
theorem longPrep_full {i : Instr} {prep : Prepare} {fin : Eff} {s t : State} (h : s.ReadyUnit i)
    (hp : prep s.envOf (s.start i) = .ok (.full, t)) :
    longPrep i prep fin s = (t.modSt fun u => { u with waitSq := true }).stall true := by
  rw [longPrep_ready h, hp]

/-- The trap of a check made at issue. -/
theorem longPrep_error {i : Instr} {prep : Prepare} {fin : Eff} {s t : State} {x : Trap} (h : s.ReadyUnit i)
    (hp : prep s.envOf (s.start i) = .error (x, t)) : longPrep i prep fin s = t.raise x := by
  rw [longPrep_ready h, hp]

theorem longOp_ready {i : Instr} {eff : Eff} {s : State} (h : s.ReadyUnit i) :
    longOp i eff s = match eff s.envOf (s.start i) with
      | .done t => t.retire true
      | .wait y t => t.stall y
      | .trap x t => t.raise x
      | .sent y t => t.accept i 0 true true y
      | .gone t => t := longPrep_ok h (by simp) rfl

theorem State.setG_st_eq (s : State) (r : BitVec 4) (v : Word) : ∃ g, (s.setG r v).st = { s.st with g := g } := by
  unfold State.setG
  split
  · exact ⟨s.st.g, rfl⟩
  · exact ⟨fsetD 0 s.st.g r.toNat v, by simp⟩

/-- A write to a register changes no field of the strand but its registers. -/
theorem State.setG_st (s : State) (r : BitVec 4) (v : Word) : (s.setG r v).st = { s.st with g := (s.setG r v).st.g } := by
  obtain ⟨g, hg⟩ := State.setG_st_eq s r v
  rw [hg]

theorem State.retire_setG {s : State} (h : s.Clear) (r : BitVec 4) (v : Word) : (s.setG r v).retire true = (s.setG r v).advance := by
  apply State.retire_clear <;> rw [State.setG_st]
  · exact h.pend
  · exact h.replay
  · exact h.awake

/-- What an effect may not touch if the instruction is to retire as it stands: nothing pending, no replay, no await. -/
theorem State.retire_keep {s t : State} (h : s.Clear) (hp : t.st.pend = s.st.pend) (hr : t.st.replay = s.st.replay)
    (ha : t.st.awaiting = s.st.awaiting) : t.retire true = t.advance :=
  State.retire_clear (hp.trans h.pend) (hr.trans h.replay) (ha.trans h.awake)

/-- A register operation of a ready strand: rd is written and execution goes on. -/
theorem scalar_ready {i : Instr} {rd : BitVec 4} {f : State → Word} {s : State} (h : s.Ready i) :
    scalar i rd f s = (s.setG rd (f s)).advance := by
  exact (issueNow_done (t := s.setG rd (f s)) h rfl).trans (State.retire_setG h.toClear rd (f s))

/-- A branch of a ready strand. -/
theorem branch_ready {i : Instr} {off : BitVec 18} {c : State → Bool} {s : State} (h : s.Ready i) :
    branch i off c s = s.goto (if c s then s.st.pc + off.signExtend 48 * 4 else s.st.pc + 4) := by
  refine (issueNow_done (t := s.modSt _) h rfl).trans ?_
  rw [State.retire_goto]
  · unfold State.goto
    rw [State.modSt_modSt, State.st_modSt]
  all_goals rw [State.st_modSt]
  · exact h.pend
  · exact h.replay
  · exact h.awake

/-- An instruction of a unit whose effect is done at once, and leaves what the strand has pending, replays and awaits alone. -/
theorem longOp_done {i : Instr} {eff : Eff} {s t : State} (h : s.ReadyUnit i) (he : eff s.envOf (s.start i) = .done t)
    (hp : t.st.pend = s.st.pend) (hr : t.st.replay = s.st.replay) (ha : t.st.awaiting = s.st.awaiting) :
    longOp i eff s = t.advance := by
  rw [longOp_ready h]
  simp only [he]
  exact State.retire_keep h.toClear hp hr ha

/-- An instruction of a unit whose whole effect is one register: rd is written and execution goes on. -/
theorem longOp_setG {i : Instr} {eff : Eff} {rd : BitVec 4} {v : Word} {s : State} (h : s.ReadyUnit i) (hp : i.pins = false)
    (he : eff s.envOf s = .done (s.setG rd v)) : longOp i eff s = (s.setG rd v).advance := by
  rw [longOp_ready h]
  simp only [State.start, hp, Bool.false_eq_true, if_false, he]
  exact State.retire_setG h.toClear rd v

end Sys2Proof.Machine
end

