-- ==== Sys2Proof/Tests/Slice0.lean ====
section
/-! SUPPORT. Tests: words of the spec decoded, ill-formed terms refused, single steps with results from the spec, and for every
statement of Certificates a state and operands that meet its hypotheses. -/

namespace Sys2Proof.Tests
open Sys2Proof Sys2Proof.Machine
set_option Elab.async false

/-! ### Helpers -/

/-- A machine whose core 2 holds one strand, in context 0, and whose memory holds the cells given. -/
def mk (k : Core) (t : Strand) (m : List Host.Cell := []) : State :=
  { State.reset with cores := [(2, { k with ctxs := [(0, { t with life := .ready })] })], mem := m }
/-- The same on another core. -/
def mkOn (c : Nat) (k : Core) (t : Strand) (m : List Host.Cell := []) : State :=
  { State.reset with cores := [(c, { k with ctxs := [(0, { t with life := .ready })] })], mem := m, core := c }
/-- A system strand at 0x1000 with small values in g1 to g4, and scratchpad addresses in g8 and g9. -/
def demoSt : Strand := { pc := 0x1000, sys := true, g := [(1, 5), (2, 3), (3, 7), (4, 0xFFFFFFFFFFFFFFFF), (8, 0xFF0000000100), (9, 0xFF0000000200)] }
def demo : State := mk { tvec := 0x2000 } demoSt

def readyB (s : State) (i : Instr) : Bool :=
  s.st.pend.isEmpty && s.st.found.isNone && !s.st.ended && !s.st.awaiting && s.st.replay.isNone && !s.me.frozen && s.pushSeen s.st.after &&
    !i.unassigned && (clsTrap i.cls s.core).isNone && (!i.priv || s.st.sys)
def readyUB (s : State) (i : Instr) : Bool := readyB s i && !s.split && !s.unitBusy i.unit && i.la == 0

theorem clear_of {s : State} {i : Instr} (h : readyB s i = true) : s.Clear := by
  simp only [readyB, Bool.and_eq_true, Bool.not_eq_true', List.isEmpty_iff, Option.isNone_iff_eq_none] at h
  obtain ⟨⟨⟨⟨⟨⟨⟨⟨⟨a, b⟩, c⟩, d⟩, e⟩, f⟩, g⟩, _⟩, _⟩, _⟩ := h
  exact ⟨a, b, c, d, e, f, g⟩
theorem ready_of {s : State} {i : Instr} (h : readyB s i = true) : s.Ready i := by
  refine ⟨clear_of h, ?_⟩
  simp only [readyB, Bool.and_eq_true, Bool.not_eq_true', Bool.or_eq_true, Option.isNone_iff_eq_none] at h
  exact ⟨h.1.1.2, h.1.2, fun p => h.2.resolve_left (by simp [p])⟩
theorem unit_of {s : State} {i : Instr} (h : readyUB s i = true) : s.ReadyUnit i := by
  simp only [readyUB, Bool.and_eq_true, Bool.not_eq_true', beq_iff_eq] at h
  exact ⟨ready_of h.1.1.1, h.1.1.2, h.1.2, h.2⟩
theorem ready_all {s : State} {l : List Instr} (h : l.all (readyB s) = true) : ∀ i ∈ l, s.Ready i := fun i m =>
  ready_of (List.all_eq_true.mp h i m)
theorem unit_all {s : State} {l : List Instr} (h : l.all (readyUB s) = true) : ∀ i ∈ l, s.ReadyUnit i := fun i m =>
  unit_of (List.all_eq_true.mp h i m)

/-- The words of a list decode to their instructions, which are well formed. -/
def reads (l : List (Nat × Instr)) : Bool := l.all fun p => match decodeNat p.1 with
  | .ok i => i == p.2 && i.wf
  | .error _ => false


/-! ### Decoding: a word of every instruction, put together from the encodings of spec/opcode_table.json, and what it stands for -/

theorem test_decode_register : reads [
  (0x057C8100, .add 5 15 2), (0x07610200, .sub 13 8 4), (0x06B54300, .and 10 13 5), (0x05C5C400, .or 7 1 7), (0x056B4500, .xor 5 10 13),
  (0x04914600, .andn 2 4 5), (0x047CC700, .orn 1 15 3), (0x07400800, .sll 13 0 0), (0x06EF0900, .srl 11 11 12),
  (0x07BF8A00, .sra 14 15 14), (0x07A40B00, .rol 14 9 0), (0x04A94C00, .ror 2 10 5), (0x06C80D0A, .slli 11 2 10),
  (0x07940E0C, .srli 14 5 12), (0x04900F27, .srai 2 4 39), (0x07441012, .rori 13 1 18), (0x040B9100, .slt 0 2 14),
  (0x04C61200, .sltu 3 1 8), (0x04F71300, .seq 3 13 12), (0x0576D400, .min 5 13 11), (0x04C55500, .max 3 1 5),
  (0x07999600, .minu 14 6 6), (0x067B5700, .maxu 9 14 13), (0x06901800, .clz 10 4), (0x07381900, .ctz 12 14), (0x04DC1A00, .pop 3 7),
  (0x04451B02, .sadd 1 1 4 2)] = true := by decide
theorem test_decode_field_immediate : reads [
  (0x0CF97480, .bfx 3 14 23 18), (0x0C380590, .bfxu 0 14 0 22), (0x0F5089A0, .bfi 13 4 8 38), (0x13597725, .addi 13 6 96037),
  (0x17760B2E, .andi 13 13 133934), (0x189C31F1, .ori 2 7 12785), (0x1CDA5C6C, .xori 3 6 154732), (0x2292465B, .slti 10 4 149083),
  (0x26267DB3, .sltiu 8 9 163251), (0x29844E47, .lui 6 282183), (0x2CAE4AD7, .apc 2 3033815)] = true := by decide
theorem test_decode_branch_jump : reads [
  (0x30629725, .beq 1 8 169765), (0x36707488, .bne 9 12 29832), (0x380908B1, .blt 0 2 67761), (0x3D44C6E2, .bge 5 1 50914),
  (0x410DBF73, .bltu 4 3 114547), (0x44FAD4A4, .bgeu 3 14 185508), (0x4A43BA51, .dbnz 9 244305), (0x4D1FAD00, .jal 4 2075904),
  (0x51B194CD, .jalr 6 12 103629)] = true := by decide
theorem test_decode_muldiv : reads [
  (0x57EE3000, .mul 15 11 8 12), (0x5788C804, .mulh 14 2 3 2), (0x55071808, .mulhu 4 1 12 6), (0x5535400C, .mulhsu 4 13 5 0),
  (0x549F4C10, .div 2 7 13 3), (0x54859014, .divu 2 1 6 4), (0x5454EC18, .rem 1 5 3 11), (0x54C9601C, .remu 3 2 5 8),
  (0x55F050A0, .madd 7 12 1 4 2)] = true := by decide
theorem test_decode_float : reads [
  (0x58CC6401, .fadd 3 3 1 9 1), (0x599F8405, .fsub 6 7 14 1 1), (0x5A84F00B, .fmul 10 1 3 12 3), (0x5ACDF80F, .fdiv 11 3 7 14 3),
  (0x5B098012, .fsqrt 12 2 6 2), (0x58E01416, .fmin 3 8 0 5 2), (0x5AE7EC18, .fmax 11 9 15 11 0), (0x5AE4159E, .fma 11 9 0 5 6 2),
  (0x59507023, .feq 5 4 1 12 3), (0x5AFB8424, .flt 11 14 14 1 0), (0x5AC3C429, .fle 11 0 15 1 1), (0x581CC26E, .fcvti 0 7 3 1 1 2),
  (0x5B3E4233, .fcvtf 12 15 9 1 0 3), (0x59020037, .fcvt 4 0 8 0 3), (0x5A76D038, .fsgnj 9 13 11 4 0 0),
  (0x5B6B403C, .fclass 13 10 13 0)] = true := by decide
theorem test_decode_load_store : reads [
  (0x5EBF44B6, .ldb 10 15 13 1206), (0x5E060F49, .ldbu 8 1 8 1865), (0x5F83904E, .ldh 14 0 14 78), (0x5FBDDB54, .ldhu 14 15 7 852),
  (0x5E67E196, .ldw 9 9 15 406), (0x5F83A992, .ldwu 14 0 14 402), (0x5F4DF795, .ldd 13 3 7 1941), (0x6110C0B8, .stb 4 4 3 184),
  (0x60D491DD, .sth 3 5 2 477), (0x62DBE231, .stw 11 6 15 561), (0x62ACB1EF, .std 10 11 2 495)] = true := by decide
theorem test_decode_pointer_vector : reads [
  (0x83904000, .ptrset 14 4 1 0), (0x8310C001, .ptrdim 12 4 3), (0x83D94802, .ptrget 15 6 5 2)] = true := by decide
theorem test_decode_vector_select : reads [
  (0x85915340, .vadd 6 4 5 4 13), (0x86419741, .vsub 9 0 6 5 13), (0x870D9A42, .vmul 12 3 6 6 9), (0x86511643, .vmin 9 4 4 5 9),
  (0x865D9C04, .vmax 9 7 6 7 0), (0x84154285, .vabs 0 5 5 10), (0x84084306, .vneg 0 2 1 12), (0x86C59F07, .vand 11 1 6 7 12),
  (0x85440348, .vor 5 1 0 0 13), (0x85141349, .vxor 4 5 0 4 13), (0x845D924A, .vshl 1 7 6 4 9), (0x85048E8B, .vshr 4 1 2 3 10),
  (0x86885E0C, .vfma 10 2 1 7 8), (0x84DD434D, .vsel 3 7 5 0 13), (0x87DC9F0E, .vcmpEq 15 7 2 7 12), (0x85458ACF, .vcmpNe 5 1 6 2 11),
  (0x86084FD0, .vcmpLt 8 2 1 3 15), (0x87CD5411, .vcmpLe 15 3 5 5 0), (0x870013D2, .vperm 12 0 0 4 15), (0x86C68353, .vbcast 11 1 10 13)] = true := by decide
theorem test_decode_vector_convert : reads [
  (0x8955F240, .vcvt 5 5 7 12 9), (0x8B0C8681, .vcvtS 12 3 2 0 1 10), (0x898C4002, .vpack 6 3 1), (0x895C4003, .vunpack 5 7 1)] = true := by decide
theorem test_decode_vector_reduce : reads [
  (0x8E418B00, .vdot 9 6 2 12), (0x8ED81B81, .vdotS 11 6 0 6 14), (0x8E414342, .vsum 9 5 13), (0x8F814003, .vredMax 14 5 0),
  (0x8F81C2C4, .vredMin 14 7 11), (0x8C824005, .vaccClr 2 9), (0x8D440386, .vaccSt 5 1 14), (0x8FF24007, .vaccRd 15 12 9 0)] = true := by decide
theorem test_decode_vector_approx : reads [
  (0x93014240, .vexp2 12 0 5 9), (0x9195C281, .vrcp 6 5 7 10), (0x92D94202, .vrsqrt 11 6 5 8)] = true := by decide
theorem test_decode_vector_gather : reads [
  (0x968CD780, .vgath 10 3 3 5 14), (0x96D51701, .vscat 11 5 4 5 12), (0x95DD1A42, .vcprs 7 7 4 6 9), (0x97BC4E83, .vhamf 14 15 1 3 10)] = true := by decide
theorem test_decode_matrix_config : reads [
  (0xC0004000, .tcfg 4), (0xC000F001, .tcfgD 15), (0xC1800002, .mzero 6 0), (0xC0000003, .mwait), (0xC300F014, .mexc 12 15 1),
  (0xC0070015, .mscale 0 0 7 0 1)] = true := by decide
theorem test_decode_matrix_product : reads [
  (0xC770E7F0, .mma 13 3 0 14 7 1 1 1 1), (0xC673D531, .mmaCo 9 3 3 13 5 0 0 1 1), (0xC7935882, .mmi 14 1 3 5 8 1 0 0),
  (0xC735C903, .mmt 12 3 5 12 9 0 0 0), (0xC7D50024, .msig 15 1 5 1)] = true := by decide
theorem test_decode_matrix_move : reads [
  (0xC8010090, .mldb 0 1 1 1), (0xCA730061, .mrd 9 3 3 6), (0xC9B20062, .mwr 6 3 2 6), (0xC8305003, .mdrain 0 3 5 0),
  (0xCAC02004, .mdrainAdd 11 0 2 0), (0xC8D00015, .mmov 3 1 1), (0xCB770006, .mrowRd 13 3 7 0), (0xCAE30007, .mrowWr 11 2 3 0)] = true := by decide
theorem test_decode_matrix_softmax : reads [
  (0xCC615090, .msmx 1 2 1 5 2 0 1), (0xCCD00031, .mmrg 3 1 3), (0xCF700002, .mfin 13 3)] = true := by decide
theorem test_decode_message : reads [
  (0xE20FCA40, .send 8 3 15 2 9), (0xE02B6A01, .sendl 0 10 13 10 8), (0xE1440482, .reply 5 1 1 2), (0xE0000003, .hret),
  (0xE3680004, .mpoll 13 10 0 0), (0xE25B6505, .rsend 9 1 2 13 9 4)] = true := by decide
theorem test_decode_sync : reads [
  (0xE7019700, .barInit 12 6 92), (0xE6FA4381, .barArr 11 14 9 14), (0xE6820E02, .barExp 10 8 56), (0xE4033D03, .barWait 12 244),
  (0xE53C3404, .barTest 4 15 208), (0xE41C16C5, .barFlags 0 7 91), (0xE5410448, .ecSet 5 4 17), (0xE5424CC9, .ecInc 5 9 51),
  (0xE500448A, .ecArm 4 0 1 18), (0xE484044B, .ecRd 2 1 17), (0xE7C20350, .semPost 15 8 13), (0xE68283D1, .semTake 10 10 15),
  (0xE4000098, .fence 2)] = true := by decide
theorem test_decode_lock_copy : reads [
  (0xEB7B0DC0, .atom 13 14 12 3 7), (0xEB05A541, .atomRet 12 1 6 9 5), (0xE83C4008, .acq 15 1), (0xE800CC09, .rel 3 3),
  (0xE9811ACA, .bind 6 4 6 11), (0xE942000B, .unbind 5 8), (0xE8C9E610, .copy 3 2 7 9 8), (0xEA8E8818, .collCfg 10 3 10 2),
  (0xEB01C419, .collRdy 12 7 1), (0xE9C2C01C, .strmOpen 7 11), (0xEB03401D, .strmClose 12 13)] = true := by decide
theorem test_decode_tile : reads [
  (0xEE81C1C0, .itreq 10 7 7), (0xEC8189C1, .itreqX 2 6 2 7), (0xEC260182, .ithold 0 9 8 6), (0xEEC00083, .itrel 11 2),
  (0xEC480144, .itstat 1 2 5), (0xED00C145, .itland 4 3 5), (0xEFD9A408, .bdeal 15 6 6 9), (0xEC830409, .bdpat 2 12 1)] = true := by decide
theorem test_decode_task : reads [
  (0xF0820040, .spawn 2 8 1), (0xF3C28841, .spawnR 15 10 2 1), (0xF0000002, .yield), (0xF0018003, .halt 6 0), (0xF1800004, .trig 6),
  (0xF0028405, .awaitEv 10 1), (0xF0028008, .cmp 10), (0xF0000009, .dcmp)] = true := by decide
theorem test_decode_system : reads [
  (0xF8000000, .nop), (0xFA8017A1, .crr 10 1953), (0xF9042DE5, .crw 4 1 3557), (0xF8483232, .crs 1 2 562), (0xFA204E87, .crc 8 8 3719),
  (0xF80057D1, .svc 2001), (0xF8006C92, .trap 3218), (0xF8007000, .tret), (0xF8008F8D, .brk 3981), (0xF8009000, .await),
  (0xF800A000, .pin), (0xF800B000, .unpin)] = true := by decide

/-! ### Helpers: blocks -/

def blksB (s : State) (k : Acc) (vas : List Nat) : Bool :=
  match s.blks k vas with
  | .ok bs => !bs.any s.blkBusy && decide (bs.Pairwise fun a b => a.ga + 64 ≤ b.ga ∨ b.ga + 64 ≤ a.ga)
  | .error _ => false
def srcsB (s : State) (vas : List (List Nat)) : Bool :=
  match s.srcBlks vas with
  | .ok bs => !bs.flatten.any s.blkBusy
  | .error _ => false
def setB (srcs : List Src) (d : BitVec 4) (nd : Nat) (k : Acc) (s : State) (i : Instr) : Bool :=
  readyUB s i && s.bad.isEmpty && s.soft.isEmpty && srcsB s (planSrcs s.me.ptr srcs).1 &&
    blksB s k ((ptrOf (planSrcs s.me.ptr srcs).2 d).run nd).1
def vecB (srcs : List Src) (d : BitVec 4) (nd : Nat) (k : Acc) (s : State) (i : Instr) : Bool := setB srcs d nd k s i && !s.me.fmt.getLsbD 15
theorem set_of {s : State} {i : Instr} {srcs : List Src} {d : BitVec 4} {nd : Nat} {k : Acc} (h : setB srcs d nd k s i = true) :
    ∃ bs ds, s.VecSet i srcs d nd k bs ds := by
  simp only [setB, Bool.and_eq_true, Bool.not_eq_true', List.isEmpty_iff] at h
  obtain ⟨⟨⟨⟨h1, h2⟩, h3⟩, h5⟩, h6⟩ := h
  unfold srcsB at h5
  unfold blksB at h6
  split at h5
  next bs e5 =>
    split at h6
    next ds e6 =>
      simp only [Bool.and_eq_true, Bool.not_eq_true', decide_eq_true_eq] at h5 h6
      exact ⟨bs, ds, { unit_of h1 with noBad := h2, noSoft := h3, src := e5, dst := e6, quiet := h5, quietDst := h6.1, disjoint := h6.2 }⟩
    next => exact absurd h6 (by simp)
  next => exact absurd h5 (by simp)
theorem vec_of {s : State} {i : Instr} {srcs : List Src} {d : BitVec 4} {nd : Nat} {k : Acc} (h : vecB srcs d nd k s i = true) :
    ∃ bs ds, s.VecReady i srcs d nd k bs ds := by
  simp only [vecB, Bool.and_eq_true, Bool.not_eq_true'] at h
  obtain ⟨bs, ds, x⟩ := set_of h.1
  exact ⟨bs, ds, { x with noTags := h.2 }⟩
theorem vec_all {s : State} {l : List Instr} {srcs : List Src} {d : BitVec 4} {nd : Nat} {k : Acc}
    (h : l.all (vecB srcs d nd k s) = true) : ∀ i ∈ l, ∃ bs ds, s.VecReady i srcs d nd k bs ds := fun i m =>
  vec_of (List.all_eq_true.mp h i m)
def matB (s : State) (i : Instr) : Bool :=
  readyB s i && !s.split && !s.unitBusy 4 && i.la == 0 && !mstepAct s.me.mstep && s.bad.isEmpty && s.soft.isEmpty && !s.me.fmt.getLsbD 15 &&
    (isDome s.me.tshape || isMacro s.me.tshape)
theorem mat_of {s : State} {i : Instr} (h : matB s i = true) : s.MatReady i := by
  simp only [matB, Bool.and_eq_true, Bool.not_eq_true', List.isEmpty_iff, beq_iff_eq] at h
  obtain ⟨⟨⟨⟨⟨⟨⟨⟨a, b⟩, c⟩, d⟩, e⟩, f⟩, g⟩, j⟩, k⟩ := h
  exact ⟨ready_of a, b, c, d, e, f, g, j, k⟩
def throughB (p : BitVec 4) (n : Nat) (k : Acc) (s : State) (i : Instr) : Bool := matB s i && blksB s k ((ptrOf s.me.ptr p).run n).1
theorem through_of {s : State} {i : Instr} {p : BitVec 4} {n : Nat} {k : Acc} (h : throughB p n k s i = true) :
    ∃ bs, s.MatThrough i p n k bs := by
  simp only [throughB, Bool.and_eq_true] at h
  obtain ⟨h1, h2⟩ := h
  unfold blksB at h2
  split at h2
  next bs e =>
    simp only [Bool.and_eq_true, Bool.not_eq_true', decide_eq_true_eq] at h2
    exact ⟨bs, { mat_of h1 with blks := e, quiet := h2.1, disjoint := h2.2 }⟩
  next => exact absurd h2 (by simp)


/-! ### Witnesses: scalar -/

theorem witness_AluResults : ∀ i ∈ ([.add 3 1 2, .sub 3 1 2, .and 3 1 2, .or 3 1 2, .xor 3 1 2, .andn 3 1 2, .orn 3 1 2, .sll 3 1 2,
    .srl 3 1 2, .sra 3 1 2, .rol 3 1 2, .ror 3 1 2, .slli 3 1 63, .srli 3 1 0, .srai 3 1 63, .rori 3 1 0, .slt 3 1 2, .sltu 0 1 2,
    .seq 3 1 2, .min 3 1 2, .max 3 1 2, .minu 3 1 2, .maxu 3 1 2, .clz 3 0, .ctz 3 0, .pop 3 4, .sadd 15 1 2 3] : List Instr), demo.Ready i :=
  ready_all (by decide)
theorem witness_FieldAndImmediateResults : ∀ i ∈ ([.bfx 3 1 63 0, .bfxu 3 1 0 63, .bfi 3 1 32 31, .addi 3 1 0x20000, .andi 3 1 0x3FFFF,
    .ori 3 1 1, .xori 3 1 1, .slti 3 1 0x3FFFF, .sltiu 3 1 0x3FFFF, .lui 3 0x200000, .apc 0 1] : List Instr), demo.Ready i :=
  ready_all (by decide)
theorem witness_BranchesAndJumps : ∀ i ∈ ([.beq 1 2 1, .bne 1 2 1, .blt 1 2 1, .bge 1 2 1, .bltu 1 2 1, .bgeu 1 2 1, .dbnz 1 0x3FFFF,
    .jal 1 1, .jalr 1 0 4, .jalr 1 0 5, .jalr 1 4 0x3FFFD] : List Instr), demo.Ready i := ready_all (by decide)
theorem witness_DivisionResults : ∀ i ∈ ([.mul 0 3 1 2, .mulh 0 3 4 4, .mulhu 0 3 4 4, .mulhsu 0 3 4 4, .div 0 3 1 0, .divu 0 3 1 0,
    .rem 0 3 1 0, .remu 0 3 1 2, .madd 0 3 1 2 4] : List Instr), demo.ReadyUnit i := unit_all (by decide)
theorem witness_FpArithmetic : ∀ i ∈ ([.fadd 0 3 1 2 0, .fsub 0 3 1 2 1, .fmul 0 3 1 2 2, .fma 0 3 1 2 4 3, .fdiv 0 3 1 0 0,
    .fsqrt 0 3 1 1] : List Instr), demo.ReadyUnit i := unit_all (by decide)
theorem witness_FpExactValues : (∃ i j : Nat, i ≠ 0 ∧ j ≠ 0) ∧ (∃ i j : Nat, i ≠ 0 ∧ j = 0) ∧ (∃ i j : Nat, i = 0 ∧ j = 0) ∧
    (∃ (c : Fv) (k : Nat), c = .fin true k 0) := ⟨⟨1, 1, by decide⟩, ⟨1, 0, by decide⟩, ⟨0, 0, by decide⟩, ⟨_, 0, rfl⟩⟩
theorem witness_RoundingModes : (∃ (e q : Int) (t : Rat), 0 ≤ t ∧ t < 1 ∧ e < q ∧ t = 0) ∧ ∃ (e q : Int) (t : Rat), 0 ≤ t ∧ t < 1 ∧ e < q ∧ t ≠ 0 :=
  ⟨⟨0, 1, 0, by norm_num⟩, ⟨0, 1, 1 / 2, by norm_num⟩⟩
theorem witness_FormatRounding : (∃ (f : FpFmt) (m : Nat) (e top : Int) (t : Rat), f ∈ [fp64, fp32, bf16, fp16, e4m3, e5m2, fp4] ∧ m ≠ 0 ∧
      0 ≤ t ∧ t < 1 ∧ (2 : Rat) ^ top ≤ (m + t) * 2 ^ e ∧ (m + t) * (2 : Rat) ^ e < 2 ^ (top + 1) ∧ e < max top (1 - f.bias) - f.fbits) ∧
    (∃ (m : Nat) (e top : Int), m ≠ 0 ∧ (2 : Rat) ^ top ≤ m * 2 ^ e ∧ (m : Rat) * (2 : Rat) ^ e < 2 ^ (top + 1)) ∧
    fp32.kind = .ieee ∧ e4m3.kind = .e4m3 ∧ fp4.kind = .fp4 ∧ e5m2.kind ≠ .fp4 := by
  refine ⟨⟨bf16, 1025, 0, 10, 1 / 2, by decide, by decide, by norm_num, by norm_num, by norm_num, by norm_num, by decide⟩,
    ⟨3, 0, 1, by decide, by norm_num, by norm_num⟩, by decide, by decide, by decide, by decide⟩
theorem witness_StochasticRounding : ∃ (m : Nat) (e top : Int) (t : Rat), m ≠ 0 ∧ 0 ≤ t ∧ t < 1 ∧ (2 : Rat) ^ top ≤ (m + t) * 2 ^ e ∧
    (m + t) * (2 : Rat) ^ e < 2 ^ (top + 1) ∧ e + 16 ≤ max top (-126) - 7 ∧ (m + t) * (2 : Rat) ^ e < 2 ^ (128 : Int) :=
  ⟨2 ^ 24, 0, 24, 1 / 2, by decide, by norm_num, by norm_num, by norm_num, by norm_num, by decide, by norm_num⟩
theorem witness_FpDelivery : (mk {} { demoSt with sr := true }).st.sr = true ∧ isCompute (mk {} demoSt).core = true ∧ demo.st.sr = false := by
  decide
theorem witness_FpComparesAndConversions : ∀ i ∈ ([.fmin 0 3 1 2 0, .fmax 0 3 1 2 1, .feq 0 3 1 2 2, .flt 0 3 1 2 3, .fle 0 3 1 1 0,
    .fsgnj 0 3 1 2 2 0, .fclass 0 3 0 0, .fcvti 0 3 1 1 3 0, .fcvtf 0 3 4 0 0 3, .fcvt 0 3 1 0 3] : List Instr), demo.ReadyUnit i :=
  unit_all (by decide)
theorem witness_ScalarFrame : demo.Ready (.add 0 1 2) ∧ demo.ReadyUnit (.fadd 0 3 1 2 3) ∧ Instr.target (.add 0 1 2) = some 0 ∧
    Instr.target (.fadd 0 3 1 2 3) = some 3 := ⟨ready_of (by decide), unit_of (by decide), rfl, rfl⟩

/-! ### Witnesses: loads, stores, system -/

theorem okEq {ε α : Type} [DecidableEq α] {r : Except ε α} {a : α} (h : (match r with | .ok b => decide (b = a) | .error _ => false) = true) :
    r = .ok a := by
  cases r <;> simp_all

theorem witness_LocalAccesses : (∀ i ∈ ([.ldb 0 3 8 0x7FF, .ldbu 0 3 8 0, .ldh 0 3 8 0x400, .ldhu 0 3 8 0, .ldw 0 3 8 0x3FF, .ldwu 0 3 8 0,
      .ldd 0 0 8 0, .stb 0 3 8 0, .sth 0 3 8 0, .stw 0 3 8 0, .std 0 3 8 0x400] : List Instr), demo.ReadyUnit i) ∧
    demo.accPhys (((demo.g 8).toNat : Int) + (0 : BitVec 11).toInt * 8) 8 .rd = .ok 0xFF0000000100 ∧
    demo.isLocal 2 0xFF0000000100 = true ∧ demo.badIn (demo.globalOf 2 0xFF0000000100) 8 = none ∧
    demo.badPart (demo.globalOf 2 0xFF0000000100) 8 = none ∧ isSpPa 0xFF0000000100 = true :=
  ⟨unit_all (by decide), okEq (by decide), by decide, by decide, by decide, by decide⟩
/-- A strand of core 2 with the first address of its own valley store in g8. -/
def storeSt : State := mk {} { demoSt with g := [(8, 0x8000000000)] }
theorem witness_LocalAccesses_store : storeSt.ReadyUnit (.std 0 3 8 0) ∧ storeSt.accPhys (0x8000000000 : Int) 8 .wr = .ok 0x8000000000 ∧
    storeSt.isLocal 2 0x8000000000 = true ∧ isSpPa 0x8000000000 = false ∧ isSaddle storeSt.core = false ∧
    storeSt.queuedTo (saddleOf 0 0x8000000000) = false ∧ storeSt.flyingTo (saddleOf 0 0x8000000000) storeSt.me.seqNo = false ∧
    (storeSt.post 2 (saddleOf 0 0x8000000000) 0 0 none 0 (.store 0x8000000000 8 0x8000000000 1)).flyingTo (saddleOf 0 0x8000000000) 0 = true :=
  ⟨unit_of (by decide), okEq (by decide), by decide, by decide, by decide, by decide, by decide, by decide⟩
theorem witness_LoadStoreFrame : demo.ReadyUnit (.ldd 0 3 8 0) ∧ Instr.access (.ldd 0 3 8 0) = some (8, 0, 8, .rd) ∧
    demo.ReadyUnit (.std 0 3 8 0) ∧ Instr.access (.std 0 3 8 0) = some (8, 0, 8, .wr) ∧
    demo.accPhys (accAddr demo.st.g 8 0 8) 8 .wr = .ok 0xFF0000000100 ∧ demo.isLocal 2 0xFF0000000100 = true ∧
    demo.badIn (demo.globalOf 2 0xFF0000000100) 8 = none :=
  ⟨unit_of (by decide), rfl, unit_of (by decide), rfl, okEq (by decide), by decide, by decide⟩
/-- A strand of core 2 with addresses in g8 and g9: of GDDR, and above the address space. -/
def farSt : State := mk {} { demoSt with g := [(8, 0x10000), (9, 0x1000000000000)] }
theorem witness_RemoteAndBadAddresses : farSt.Ready (.ldd 0 3 8 0) ∧ farSt.accPhys (accAddr farSt.st.g 8 0 8) 8 .rd = .ok 0x10000 ∧
    farSt.isLocal 2 0x10000 = false ∧ farSt.st.hnd = false ∧ farSt.st.pin = false ∧ farSt.linkDown 2 (saddleOf 0 0x10000) = false ∧
    farSt.away (saddleOf 0 0x10000) = false ∧ (farSt.places.any fun e => farSt.unacked e.1 e.2) = false ∧ (farSt.report fun q => q == 0).isNone = true ∧
    farSt.pinned.Ready (.ldd 0 3 8 0) ∧ farSt.pinned.st.pin = true ∧ farSt.pinned.accPhys (accAddr farSt.pinned.st.g 8 0 8) 8 .rd = .ok 0x10000 ∧
    farSt.ReadyUnit (.ldd 0 3 8 0) ∧ farSt.ReadyUnit (.ldd 0 3 9 0) ∧ accAddr farSt.st.g 9 0 8 = 2 ^ 48 ∧
    farSt.ReadyUnit (.ldb 0 3 0 0x7FF) ∧ accAddr farSt.st.g 0 0x7FF 1 = -1 :=
  ⟨ready_of (by decide), okEq (by decide), by decide, by decide, by decide, by decide, by decide, by decide, by decide, ready_of (by decide),
   by decide, okEq (by decide), unit_of (by decide), unit_of (by decide), by decide, unit_of (by decide), by decide⟩
/-- A strand with a value for fmt in g1, a reserved one in g2. -/
def crSt : State := mk {} { demoSt with g := [(1, 0x12), (2, 0x80)] }
theorem witness_ControlRegisters : (∀ i ∈ ([.crr 3 2, .crw 3 1 2, .crs 3 1 2, .crc 3 1 2, .crw 0 2 2] : List Instr), crSt.Ready i) ∧
    crSt.g 1 &&& crReserved 2 = 0 ∧ crRange 2 (crSt.g 1) = true ∧ crSt.g 2 &&& crReserved 2 ≠ 0 ∧ isCompute crSt.core = true ∧
    crSt.vecBusy = false ∧ crSt.drawBusy = false ∧ (mkOn 0 {} demoSt).Ready (.crw 3 1 2) ∧ crCompute 2 = true ∧ isCompute 0 = false ∧
    crAssigned 2 = true ∧ crSt.crGet 2 &&& crReserved 2 = 0 :=
  ⟨ready_all (by decide), by decide, by decide, by decide, by decide, by decide, by decide, ready_of (by decide), by decide, by decide,
   by decide, by decide⟩
theorem witness_TrapsTaken : (∀ i ∈ ([.svc 0, .trap 4095, .brk 7] : List Instr), demo.Ready i) ∧ bitsOf demo.me.tvec 47 2 ≠ 0 ∧
    demo.st.tAct = false ∧ (∀ i ∈ ([.svc 0, .trap 4095, .brk 7] : List Instr), (mk {} { demoSt with lix := some 3 }).Ready i) ∧
    bitsOf (mk {} { demoSt with lix := some 3 }).me.tvec 47 2 = 0 ∧ (mk {} { demoSt with lix := some 3 }).st.cmp = false ∧
    ((mk {} { demoSt with lix := some 3 }).launchAt 3).why = none ∧ ((mk {} { demoSt with lix := some 3 }).launchAt 3).st ≠ .done ∧
    (mk { tvec := 0x2000 } { demoSt with hnd := true, lix := some 3 }).Ready (.svc 0) ∧
    (mk { tvec := 0x2000 } { demoSt with hnd := true, lix := some 3 }).over (some 3) = false :=
  ⟨ready_all (by decide), by decide, by decide, ready_all (by decide), by decide, by decide, by decide, by decide, ready_of (by decide),
   by decide⟩
theorem witness_TrapReturns : demo.Ready .tret ∧ demo.st.tAct = false ∧ (mk {} { demoSt with tAct := true, tRe := true, tW := 2 }).Ready .tret ∧
    (mk { mstep := mstepWord 0 0 1 } { demoSt with tAct := true }).Ready .tret ∧ (mk {} { demoSt with tAct := true }).st.tHab = false ∧
    mstepAct (mstepWord 0 0 1) = true ∧ mstepCtx (mstepWord 0 0 1) = 0 :=
  ⟨ready_of (by decide), by decide, ready_of (by decide), ready_of (by decide), by decide, by decide, by decide⟩
theorem witness_NopPinAwait : (∀ i ∈ ([.nop, .pin, .unpin, .await] : List Instr), demo.Ready i) ∧ demo.st.hnd = false ∧
    (mk {} { demoSt with hnd := true }).Ready .await ∧ ((mk {} { demoSt with awaiting := true }).strandAt 2 0).awaiting = true ∧
    ¬(mstepAct demo.me.mstep = true ∧ mstepCtx demo.me.mstep = demo.ctx) ∧ (mk { mstep := mstepWord 0 0 1 } demoSt).Ready .unpin ∧
    mstepAct (mk { mstep := mstepWord 0 0 1 } demoSt).me.mstep = true ∧ mstepCtx (mk { mstep := mstepWord 0 0 1 } demoSt).me.mstep = 0 :=
  ⟨ready_all (by decide), by decide, ready_of (by decide), by decide, by decide, ready_of (by decide), by decide, by decide⟩
theorem witness_DecodeTraps : demo.Clear ∧ Instr.unassigned (.crr 1 0xFFF) = true ∧ (mkOn 0 {} demoSt).Clear ∧
    clsTrap (Instr.cls (.vadd 0 0 0 0 0)) 0 = some 0x05 ∧ (mkOn 2048 {} demoSt).Clear ∧ clsTrap (Instr.cls (.cmp 1)) 2048 = some 0x06 ∧
    clsTrap (Instr.cls (.bdpat 0 1 2)) 2 = some 0x07 ∧ Instr.priv .tret = true ∧ (mk {} { demoSt with sys := false }).st.sys = false ∧
    demo.unitBusy (Instr.unit .tret) = false ∧ (mkOn 0 {} demoSt).unitBusy (Instr.unit (.vadd 0 0 0 0 0)) = false :=
  by and_intros <;> first | exact clear_of (i := .nop) (by decide) | decide
theorem witness_LookaheadWindows : demo.Ready (.mul 15 3 1 2) ∧ Instr.unit (.mul 15 3 1 2) = 1 ∧ Instr.la (.mul 15 3 1 2) = 15 ∧
    Instr.target (.mul 15 3 1 2) = some 3 ∧
    (∀ j ∈ ([.add 3 1 2, .addi 1 1 0, .vaccRd 0 3 1 0] : List Instr), j.isEvent = false ∧ waitsAll j = false ∧ j.access = none ∧ j.unit ≠ 1 ∧
      demo.Accepts j ∧ ((j.regs 0x22 0).2.any fun r => ((Instr.mul 15 3 1 2).regs 0x22 0).1.contains r ||
        ((Instr.mul 15 3 1 2).regs 0x22 0).2.contains r) = true) ∧
    demo.Ready (.vadd 1 0 0 1 0) ∧ Instr.unit (.vadd 1 0 0 1 0) ≠ 2 ∧ 0 < Instr.la (.vadd 1 0 0 1 0) :=
  ⟨ready_of (by decide), by decide, by decide, rfl, fun j m => by
    have h := (by decide : ∀ j ∈ ([.add 3 1 2, .addi 1 1 0, .vaccRd 0 3 1 0] : List Instr), j.isEvent = false ∧ waitsAll j = false ∧
      j.access = none ∧ j.unit ≠ 1 ∧ readyB demo j = true ∧ ((j.regs 0x22 0).2.any fun r => ((Instr.mul 15 3 1 2).regs 0x22 0).1.contains r ||
        ((Instr.mul 15 3 1 2).regs 0x22 0).2.contains r) = true) j m
    exact ⟨h.1, h.2.1, h.2.2.1, h.2.2.2.1, (ready_of h.2.2.2.2.1).toAccepts, h.2.2.2.2.2⟩, ready_of (by decide), by decide, by decide⟩
/-- A strand with a multiplication pending. -/
def pendSt : State := mk {} { demoSt with pend := [{ pc := 0xFFC, instr := .mul 1 3 1 2, win := 1, unit := 1, g := demoSt.g, order := 0 }] }
theorem witness_LongLatencyCompletes : ∃ (p : Pend) (f : Eff) (u : State), matOf p.instr = none ∧ effOf p.instr = some f ∧
    pendSt.me.turn 1 = [(pendSt.ctx, p)] ∧ f { g := p.g, tag := p.order, pc := p.pc, prep := p.prep }
      (pendSt.modMe fun k => { k with dflt := p.dflt, sqcfg := p.sqcfg, rngs := p.rngs }) = .done u ∧ p.com = true ∧ u.core = pendSt.core ∧ u.ctx = pendSt.ctx ∧
    u.st.pend = [p] ∧ u.st.replay = none ∧ u.st.found = none ∧ u.st.ended = false :=
  ⟨{ pc := 0xFFC, instr := .mul 1 3 1 2, win := 1, unit := 1, g := demoSt.g, order := 0 }, _, _, rfl, rfl, rfl, rfl, rfl, by decide, by decide,
   by decide, by decide, by decide, by decide⟩

/-! ### Witnesses: vector -/

def ptrs4 : List (Nat × Ptr) := [(0, { base := 0xFF0000000000, c1 := 64 }), (1, { base := 0xFF0000001000, c1 := 64 }), (2, { base := 0xFF0000002000, c1 := 64 })]
/-- A compute core with its pointers in the scratchpad and fmt as given. -/
def vecSt (fmt : Word) : State := mk { tvec := 0x2000, fmt := fmt, ptr := ptrs4 } demoSt
def src1 (x : Nat) (dis : Bool := true) : List Src := [{ k := 0, n := 1, fmt := some x, dis := dis }]
def src2 (x : Nat) (dis : Bool := true) : List Src := [{ k := 0, n := 1, fmt := some x, dis := dis }, { k := 1, n := 1, fmt := some x, dis := dis }]

theorem witness_PointerRegisters :
    (∀ i ∈ ([.ptrset 0 0 1 2, .ptrset 0 7 1 2, .ptrdim 0 0 1, .ptrget 0 3 0 0, .ptrget 0 3 7 3] : List Instr), demo.ReadyUnit i) ∧
    (let a : Word := 0xFF0000000040; let v : Word := 0x0000000100000040; let i : Word := 0x0001000100000040
     a.toNat < 2 ^ 48 ∧ a.toNat % 64 = 0 ∧ v.toNat % 64 = 0 ∧ (v.extractLsb' 48 16).toNat < (v.extractLsb' 32 16).toNat ∧
     (i.extractLsb' 32 16).toNat ≤ (i.extractLsb' 48 16).toNat ∧ (0x41 : Word).toNat % 64 ≠ 0 ∧ 2 ^ 48 ≤ (0x1000000000000 : Word).toNat) :=
  ⟨unit_all (by decide), by decide⟩
theorem witness_VectorElementwise : bitsOf (vecSt 0x22).me.fmt 3 0 = 2 ∧ isFI 2 = true ∧ bitsOf (vecSt 7).me.fmt 3 0 = 7 ∧ isI 7 = true ∧
    (∀ i ∈ ([.vadd 0 2 0 1 0, .vsub 0 2 0 1 8, .vmul 0 2 0 1 15, .vmin 0 2 0 1 0, .vmax 0 2 0 1 0, .vand 0 2 0 1 0, .vor 0 2 0 1 0,
      .vxor 0 2 0 1 0] : List Instr), ∃ bs ds, (vecSt 0x22).VecReady i (src2 2) 2 1 .wr bs ds) ∧
    (∃ bs ds, (vecSt 0x22).VecReady (.vfma 0 2 0 1 9) (src2 2) 2 1 .rw bs ds) ∧
    (∀ i ∈ ([.vabs 0 2 0 0, .vneg 0 2 0 0] : List Instr), ∃ bs ds, (vecSt 0x22).VecReady i (src1 2) 2 1 .wr bs ds) ∧
    (∀ i ∈ ([.vshl 0 2 0 1 0, .vshr 0 2 0 1 0] : List Instr), ∃ bs ds, (vecSt 7).VecReady i (src2 7) 2 1 .wr bs ds) :=
  ⟨by decide, by decide, by decide, by decide, vec_all (by decide), vec_of (by decide), vec_all (by decide), vec_all (by decide)⟩
theorem witness_VectorSelectsAndCompares : isFI 2 = true ∧ isW8 2 = true ∧
    (∃ bs ds, (vecSt 0x22).VecReady (.vsel 0 2 0 1 8) (src2 2 false) 2 1 .wr bs ds) ∧
    (∃ bs ds, (vecSt 0x22).VecReady (.vperm 0 2 0 1 0) [{ k := 0, n := 1, fmt := some 2, dis := false }, { k := 1, n := 1, fmt := none }]
      2 1 .wr bs ds) ∧
    (∃ bs ds, (vecSt 0x22).VecReady (.vbcast 0 2 1 0) [] 2 1 .wr bs ds) ∧
    (∀ i ∈ ([.vcmpEq 0 7 0 1 0, .vcmpNe 0 0 0 1 0, .vcmpLt 0 0 0 1 0, .vcmpLe 0 0 0 1 8] : List Instr),
      ∃ bs ds, (vecSt 0x22).VecReady i (src2 2) 0 0 .wr bs ds) :=
  ⟨by decide, by decide, vec_of (by decide), vec_of (by decide), vec_of (by decide), vec_all (by decide)⟩
/-- Tagged mode: the lines of two sources carry the tag of reset, BF16; the banks are powered. -/
def tagSt (fmt : Word) : State := { vecSt fmt with spires := [(0, { up := 0xFF })] }
def tb0 : Blk := { va := 0xFF0000000000, ga := 2 ^ 60 }
def tb1 : Blk := { va := 0xFF0000001000, ga := 2 ^ 60 + 0x1000 }
theorem tag_of {s : State} {i : Instr} {x : Nat} (h : setB (src2 x) 2 1 .wr s i = true)
    (q : s.srcBlks (planSrcs s.me.ptr (src2 x)).1 = .ok [[tb0], [tb1]]) :
    ∃ ds, s.VecSet i (src2 x) 2 1 .wr [[tb0], [tb1]] ds := by
  obtain ⟨bs, ds, r⟩ := set_of h
  rw [r.src] at q
  injection q with q
  subst q
  exact ⟨ds, r⟩
theorem power_up {s : State} {a : Nat} (h : ¬ a < 2 ^ 60)
    (u : (s.spireAt ((a - 2 ^ 60) / 2 ^ 20)).up.getLsbD ((a - 2 ^ 60) % 2 ^ 20 / 0x20000) = true) : s.power a = s := by
  unfold State.power; exact (if_neg h).trans (if_pos u)
theorem witness_TaggedReads : (∃ ds, (tagSt 0x8022).VecSet (.vadd 0 2 0 1 0) (src2 2) 2 1 .wr [[tb0], [tb1]] ds) ∧
    (∃ ds, (tagSt 0x8003).VecSet (.vsub 0 2 0 1 8) (src2 3) 2 1 .wr [[tb0], [tb1]] ds) ∧
    (∃ ds, (tagSt 0xC003).VecSet (.vmul 0 2 0 1 0) (src2 3) 2 1 .wr [[tb0], [tb1]] ds) ∧
    (tagSt 0x8022).power tb0.ga = tagSt 0x8022 ∧ (tagSt 0x8003).power tb1.ga = tagSt 0x8003 ∧ (tagSt 0x8022).me.fmt.getLsbD 15 = true ∧
    (tagSt 0x8003).tagAt tb0.ga = 2 ∧ fmtWidth 2 = fmtWidth 3 ∧
    (tagSt 0x8003).me.fmt.getLsbD 14 = false ∧ (tagSt 0xC003).me.fmt.getLsbD 14 = true :=
  ⟨tag_of (by decide) (okEq (by decide)), tag_of (by decide) (okEq (by decide)), tag_of (by decide) (okEq (by decide)), power_up (by decide) (by decide), power_up (by decide) (by decide), by decide, by decide, by decide, by decide, by decide⟩
theorem witness_VectorConversions : isFI 1 = true ∧ isScl 4 = true ∧ isF (accCode 4) = true ∧ isPack 8 = true ∧ isPack 9 = true ∧
    (scaleOf (bitsOf (vecSt 4).me.fmt 9 8) [(vecSt 4).g 8, (vecSt 4).g 9] 0).isNaN = false ∧
    (scaleOf (bitsOf (vecSt 4).me.fmt 9 8) [(vecSt 4).g 8, (vecSt 4).g 9] 5).isNaN = true ∧ vecNb 4 ≤ 8 ∧ 8 < vecNb 6 ∧ isScl 6 = true ∧
    (∃ bs ds, (vecSt 0x22).VecReady (.vcvt 0 2 0 1 0) [{ k := 0, n := 2, fmt := some 1 }] 2 1 .wr bs ds) ∧
    (∃ bs ds, (vecSt 4).VecReady (.vcvtS 0 2 0 1 0 0) [{ k := 0, n := 4, fmt := some 1 }] 2 1 .wr bs ds) ∧
    (∃ bs ds, (vecSt 4).VecReady (.vcvtS 0 2 0 0 6 0) [{ k := 0, n := 1, fmt := some 4 }] 2 4 .wr bs ds) ∧
    (∃ bs ds, (vecSt 8).VecReady (.vpack 0 2 0) [{ k := 0, n := 2, fmt := some 7 }] 2 1 .wr bs ds) ∧
    (∃ bs ds, (vecSt 9).VecReady (.vunpack 0 2 0) [{ k := 0, n := 1, fmt := some 9 }] 2 4 .wr bs ds) :=
  by and_intros <;> first | exact vec_of (by decide) | decide
theorem witness_VectorReductions : isFI 2 = true ∧ isF 2 = isF (accCode 0x22) ∧ isFI 7 = true ∧ isF 7 = isF (accCode 0x807) ∧
    (∃ bs ds, (vecSt 0x22).VecReady (.vdot 0 0 1 0) (src2 2) 0 0 .wr bs ds) ∧
    (∀ i ∈ ([.vsum 0 0 0, .vredMax 0 0 8, .vredMin 0 0 0] : List Instr), ∃ bs ds, (vecSt 0x807).VecReady i (src1 7) 0 0 .wr bs ds) ∧
    (∃ bs ds, (vecSt 4).VecReady (.vdotS 0 12 0 1 0) (src2 4) 0 0 .wr bs ds) ∧
    (∃ bs ds, (vecSt 0x10).VecReady (.vsum 0 0 0) (src1 0) 0 0 .wr bs ds) :=
  ⟨by decide, by decide, by decide, by decide, vec_of (by decide), vec_all (by decide), vec_of (by decide), vec_of (by decide)⟩
theorem witness_VectorAccumulator : (vecSt 0x22).ReadyUnit (.vaccClr 0 1) ∧ (vecSt 0x22).ReadyUnit (.vaccRd 0 3 1 0) ∧
    (vecSt 0x22).ReadyUnit (.vaccRd 0 3 0 3) ∧ (∃ bs ds, (vecSt 0x22).VecReady (.vaccSt 0 2 0) [] 2 2 .wr bs ds) ∧
    (∀ i ∈ ([.vaccRd 0 3 0 1, .vaccRd 0 0 0 2] : List Instr), (vecSt 0x807).ReadyUnit i ∧ (vecSt 0xC07).ReadyUnit i) ∧
    elemOf (accCode 0x22) = some (.f fp32) ∧ accCode 0x807 = 11 ∧ accCode 0xC07 = 12 ∧ isF 11 = false :=
  ⟨unit_of (by decide), unit_of (by decide), unit_of (by decide), vec_of (by decide), fun i m =>
    ⟨unit_all (by decide) i m, unit_all (by decide) i m⟩, by decide, by decide, by decide, by decide⟩
theorem witness_VectorApproximations :
    (∀ i ∈ ([.vexp2 0 2 0 0, .vrcp 0 2 0 0, .vrsqrt 0 2 0 8] : List Instr), ∃ bs ds, (vecSt 0x21).VecReady i (src1 1) 2 1 .wr bs ds) ∧
    (∃ bs ds, (vecSt 3).VecReady (.vexp2 0 2 0 0) (src1 3) 2 1 .wr bs ds) :=
  ⟨vec_all (by decide), vec_of (by decide)⟩
/-- A compute core with a list address in g8, a base in g9 and a signature and parameters in g10 and g11. -/
def filtSt (fmt : Word) : State := mk { fmt := fmt, ptr := ptrs4, q := [(0, 5)] }
  { demoSt with g := [(8, 0xFF0000004000), (9, 0xFF0000005000), (10, 0), (11, 64)] }
def elemsB (s : State) (k : Acc) (n : Nat) (at' : List (Nat × Nat)) : Bool :=
  match s.spElems k n at' with
  | .ok es => decide (es.Pairwise fun a b => a.2.ga + n ≤ b.2.ga ∨ b.2.ga + n ≤ a.2.ga)
  | .error _ => false
theorem elems_of {s : State} {k : Acc} {n : Nat} {at' : List (Nat × Nat)} (h : elemsB s k n at' = true) :
    ∃ es, s.spElems k n at' = .ok es ∧ es.Pairwise fun a b => a.2.ga + n ≤ b.2.ga ∨ b.2.ga + n ≤ a.2.ga := by
  unfold elemsB at h
  split at h
  next es e => exact ⟨es, e, by simpa using h⟩
  next => exact absurd h (by simp)
theorem witness_VectorGatherAndFilter : isW8 11 = true ∧ (filtSt 0x2B).on 8 0 = true ∧ (filtSt 0x2B).on 8 1 = false ∧
    ((filtSt 0x2B).g 9).toNat % 4 = 0 ∧ (∃ es, (filtSt 0x2B).spElems .rd 4 [(0, 0xFF0000005000), (2, 0xFF0000005004)] = .ok es) ∧
    (∃ bs ds, (filtSt 0x2B).VecReady (.vgath 0 2 9 1 8) [{ k := 1, n := 1, fmt := some 11, uns := true }] 2 1 .wr bs ds) ∧
    (∃ es, (filtSt 0x2B).spElems .wr 4 [(0, 0xFF0000005000), (2, 0xFF0000005FFC)] = .ok es ∧
      es.Pairwise fun a b => a.2.ga + 4 ≤ b.2.ga ∨ b.2.ga + 4 ≤ a.2.ga) ∧
    (∃ bs ds, (filtSt 0x2B).VecReady (.vscat 0 9 0 1 8) [{ k := 0, n := 1, fmt := some 11, uns := true }, { k := 1, n := 1, fmt := some 11, uns := true }] 0 0 .wr bs ds) ∧
    (∃ bs ds, (filtSt 0x22).VecReady (.vcprs 0 2 0 3 8) (src1 2) 2 1 .wr bs ds) ∧
    (∃ bs ds, (filtSt 0x22).VecReady (.vhamf 0 8 0 10 8) [{ k := 0, n := 1, fmt := none }] 0 0 .wr bs ds) ∧
    ((filtSt 0x22).g 8).toNat % 4 = 0 ∧ (∃ es, (filtSt 0x22).spElems .wr 4 [(0, 0xFF0000004000), (1, 0xFF0000004004)] = .ok es ∧
      es.Pairwise fun a b => a.2.ga + 4 ≤ b.2.ga ∨ b.2.ga + 4 ≤ a.2.ga) :=
  ⟨by decide, by decide, by decide, by decide, (elems_of (by decide)).imp fun _ h => h.1, vec_of (by decide), elems_of (by decide),
   vec_of (by decide), vec_of (by decide), vec_of (by decide), by decide, elems_of (by decide)⟩

/-! ### Witnesses: matrix -/

/-- tshape of formats and sizes. -/
def tsh (cf bf af m n k : Nat) : Word := w64 (cf * 2 ^ 30 + bf * 2 ^ 26 + af * 2 ^ 22 + (m - 1) * 2 ^ 15 + (n - 1) * 2 ^ 8 + (k - 1))
/-- A compute core with a tile shape; g5 names another, g6 one that R175 does not allow. -/
def matSt (t : Word) : State := mk { tvec := 0x2000, tshape := t, ptr := ptrs4 } { demoSt with g := [(5, tsh 0 2 2 16 16 16), (6, tsh 3 2 2 1 1 1), (8, 0xFF0000000100)] }
theorem witness_MatrixConfigurationAndMoves : (∀ i ∈ ([.tcfg 5, .tcfgD 5, .tcfg 6, .tcfgD 6, .mwait] : List Instr), (matSt (tsh 0 2 2 2 2 2)).Ready i) ∧
    (matSt (tsh 0 2 2 2 2 2)).unitBusy 4 = false ∧ mstepAct (matSt (tsh 0 2 2 2 2 2)).me.mstep = false ∧
    (isDome ((matSt 0).g 5) || isMacro ((matSt 0).g 5)) = true ∧ ((matSt 0).g 5).extractLsb' 32 32 = 0 ∧
    (isDome ((matSt 0).g 6) || isMacro ((matSt 0).g 6)) = false ∧ (tsh 0 2 2 2 2 2).extractLsb' 32 4 = 0 ∧
    (putBit (tsh 0 2 2 2 2 2) 35 true).extractLsb' 32 4 ≠ 0 ∧ (matSt (putBit (tsh 0 2 2 2 2 2) 35 true)).Ready (.tcfg 5) ∧
    (∀ i ∈ ([.mzero 0 3, .mmov 0 3 0, .mmov 0 1 1, .mexc 0 3 1, .mexc 0 0 0] : List Instr), (matSt (tsh 0 2 2 2 2 2)).MatReady i) :=
  ⟨ready_all (by decide), by decide, by decide, by decide, by decide, by decide, by decide, by decide, ready_of (by decide),
   fun i m => mat_of (List.all_eq_true.mp (by decide : List.all _ (matB _) = true) i m)⟩
/-- The same with a descriptor of one member in g13. -/
def coSt (t : Word) (d : Word) : State := mk { tvec := 0x2000, tshape := t, ptr := ptrs4 } { demoSt with g := [(13, d), (2, 0)] }
theorem witness_MatrixProducts : isDome (tsh 0 2 2 2 2 20) = true ∧ isDome (tsh 1 0 0 2 2 2) = true ∧ isDome (tsh 0 4 4 2 2 2) = true ∧
    (∃ bs, (matSt (tsh 0 2 2 2 2 20)).MatThrough (.mma 0 3 0 0 0 1 1 1 0) 0 (2 * rowBlks 20 2) .rd bs) ∧
    (∃ bs, (matSt (tsh 1 0 0 2 2 2)).MatThrough (.mma 0 0 1 0 0 0 0 0 0) 1 (2 * rowBlks 2 0) .rd bs) ∧
    (∃ bs, (matSt (tsh 0 4 4 2 2 2)).MatThrough (.mma 0 0 1 14 0 0 0 0 1) 1 (2 * rowBlks 2 4) .rd bs) ∧ ceilDiv 2 (blkLen 0x22) ≤ 16 ∧
    (∃ bs, (coSt (tsh 0 2 2 2 2 2) 0).MatThrough (.mmaCo 0 0 1 0 0 0 0 0 0) 1 (2 * rowBlks 2 2) .rd bs) ∧ coOk 0 2 = true ∧
    (∃ bs, (coSt (tsh 0 2 2 2 2 2) 0x200).MatThrough (.mmaCo 0 0 1 0 0 0 0 0 0) 1 (2 * rowBlks 2 2) .rd bs) ∧ coOk 0x200 2 = true ∧
    coX 2 = coX0 0x200 ∧ coRow 0x200 2 = [6] ∧ ((coSt (tsh 0 2 2 2 2 2) 0x200).coreAt 6).rowBuf.length + (coSt (tsh 0 2 2 2 2 2) 0x200).rowsTo 2 6 +
      (2 + 15) / 16 * ((2 + 15) / 16) ≤ 2 :=
  ⟨by decide, by decide, by decide, through_of (by decide), through_of (by decide), through_of (by decide), by decide, through_of (by decide),
   by decide, through_of (by decide), by decide, by decide, by decide, by decide⟩
theorem witness_MacroProductsAndLoads : isMacro (tsh 2 7 7 2 2 2) = true ∧ tCf (tsh 2 7 7 2 2 2) = 2 ∧ (matSt 0).me.isTern 3 = false ∧
    (∃ bs, (matSt (tsh 2 7 7 2 2 2)).MatThrough (.mmi 0 3 0 0 0 0 0 3) 0 (2 * rowBlks 2 7) .rd bs) ∧
    (∃ bs, (matSt (tsh 0 7 8 2 2 2)).MatThrough (.mmi 0 3 0 14 0 0 0 3) 0 (2 * rowBlks 2 8) .rd bs) ∧ isMacro (tsh 0 7 8 2 2 2) = true ∧
    (mk { tshape := tsh 2 7 7 2 2 2, cmTern := [(1, true)] } demoSt).me.isTern 1 = true ∧
    (mk { tshape := tsh 2 7 7 2 2 2, cmTern := [(1, true)] } demoSt).MatReady (.mmt 0 0 0 0 0 0 0 1) ∧
    (∃ bs, (matSt (tsh 0 2 2 2 64 2)).MatThrough (.msig 0 1 0 1) 0 (2 * rowBlks 2 2) .rd bs) ∧ tN (tsh 0 2 2 2 64 2) = 64 ∧
    (∃ bs, (matSt (tsh 0 2 2 2 2 2)).MatThrough (.mldb 0 0 0 1) 0 (2 * rowBlks 2 2) .rd bs) ∧ tBf (tsh 0 2 2 2 2 2) ≤ 6 ∧
    (∃ bs, (matSt (tsh 2 9 7 2 2 2)).MatThrough (.mldb 0 0 0 7) 0 (2 * rowBlks 2 9) .rd bs) ∧ tBf (tsh 2 9 7 2 2 2) = 9 :=
  ⟨by decide, by decide, by decide, through_of (by decide), through_of (by decide), by decide, by decide, mat_of (by decide),
   through_of (by decide), by decide, through_of (by decide), by decide, through_of (by decide), by decide⟩
/-- A core that holds a tile at its last stop in slot 0, at the start of the scratchpad, where a0 points. -/
def heldSt : State := { matSt (tsh 0 2 2 2 2 2) with spires := [(0, { slots := [(0, { base := 0, size := 4096, state := .held, owner := some 2, itin := { bytes := 64, stops := [parseStop 2] } })] })] }
theorem witness_MacroProductsAndLoads_last : (matSt (tsh 0 2 2 2 2 2)).MatReady (.mldb 0 0 1 0) ∧ (matSt 0).heldSlot 0xFF0000000000 = none ∧ (∀ y ∈ (matSt (tsh 0 2 2 2 2 2)).me.ctxs, y.2.pend = []) ∧
    (∃ bs, heldSt.MatThrough (.mldb 0 0 1 0) 0 (2 * rowBlks 2 2) .rd bs) ∧ heldSt.heldSlot ((ptrOf heldSt.me.ptr 0).addr) = some 0 ∧
    (heldSt.slotAt heldSt.mySpire 0).state = .held ∧ (heldSt.slotAt heldSt.mySpire 0).owner = some heldSt.core ∧
    (heldSt.slotAt heldSt.mySpire 0).gone = false ∧ (heldSt.slotAt heldSt.mySpire 0).itin.land = false ∧
    (heldSt.slotAt heldSt.mySpire 0).itin.stops.length = (heldSt.slotAt heldSt.mySpire 0).stop + 1 ∧
    heldSt.writing heldSt.me.seqNo (slotHit heldSt.mySpire (heldSt.slotAt heldSt.mySpire 0)) = false :=
  ⟨mat_of (by decide), by decide, by decide, through_of (by decide), by and_intros <;> decide⟩
theorem witness_AccumulatorTransfers : moveOk (tsh 0 2 2 2 2 2) 1 = true ∧ moveOk (tsh 2 7 7 2 2 2) 11 = true ∧
    (∃ bs, (matSt (tsh 0 2 2 2 2 2)).MatThrough (.mrd 0 0 0 1) 0 (2 * rowBlks 2 1) .wr bs) ∧
    (∃ bs, (matSt (tsh 0 2 2 2 2 2)).MatThrough (.mwr 0 0 0 1) 0 (2 * rowBlks 2 1) .rd bs) ∧
    (∃ bs, (matSt (tsh 0 2 2 17 2 2)).MatThrough (.mrowRd 0 0 0 1) 0 2 .wr bs) ∧
    (∃ bs, (matSt (tsh 0 2 2 17 2 2)).MatThrough (.mrowWr 0 0 0 0) 0 2 .rd bs) ∧ tCf (tsh 0 2 2 2 2 2) ≠ 2 ∧
    (matSt (tsh 0 2 2 2 2 2)).MatReady (.mscale 0 0 0 1 0) ∧ (∃ bs, (matSt (tsh 0 2 2 2 2 2)).MatThrough (.mscale 0 0 1 0 1) 1 1 .rd bs) :=
  ⟨by decide, by decide, through_of (by decide), through_of (by decide), through_of (by decide), through_of (by decide), by decide,
   mat_of (by decide), through_of (by decide)⟩
/-- A shape of 2 by 2 FP32 elements at 0xFF0000000400, at 0xFF0000000100. -/
def shapeMem : List Host.Cell := ([(1, 4), (5, 0xFF), (8, 1), (16, 2), (20, 4), (24, 2), (28, 64), (32, 1), (36, 4), (40, 1), (44, 4),
  (48, 2), (52, 2), (56, 2), (60, 2)] : List Host.Cell).map fun c => (2 ^ 60 + 0x100 + c.1, c.2)
def drainSt : State := { matSt (tsh 0 2 2 2 2 2) with mem := shapeMem }
def drainB (s : State) : Bool :=
  match s.segsOf 0xFF0000000100 64 .rd with
  | .ok gs =>
    let h := parseShape (gs.flatMap fun g => s.bytes g.ga g.n)
    h.ok && h.fmt == 1 && h.total == 4 && fmtBytes 1 == 4 && (match s.drainDsts h 4 .rw 0 4, s.drainDsts h 4 .wr 0 4 with
      | .ok _, .ok _ => true
      | _, _ => false)
  | .error _ => false
theorem witness_AccumulatorDrains : drainSt.MatReady (.mdrain 0 0 8 1) ∧ drainSt.MatReady (.mdrainAdd 0 3 8 0) ∧
    (drainSt.g 8).toNat % 64 = 0 ∧ inSp (drainSt.g 8) 64 = true ∧ drainB drainSt = true ∧ accFmt (tsh 0 2 2 2 2 2) = 1 ∧
    moveOk (tsh 0 2 2 2 2 2) 1 = true ∧ drainSt.me.eng.length + (2 + 15) / 16 ≤ 16 :=
  ⟨mat_of (by decide), mat_of (by decide), by decide, by decide, by decide, by decide, by decide, by decide⟩
theorem witness_StreamingSoftmax : (matSt (tsh 0 2 2 2 2 2)).MatReady (.msmx 0 0 0 1 1 0 0) ∧ (matSt (tsh 0 2 2 2 2 2)).MatReady (.msmx 0 0 2 1 1 1 1) ∧
    tAf (tsh 0 2 2 2 2 2) = 2 ∧ tBf (tsh 0 2 2 2 2 2) = 2 ∧ tCf (tsh 0 2 2 2 2 2) = 0 ∧ tK (tsh 0 2 2 2 2 2) ≤ 128 ∧
    (matSt (tsh 0 2 2 2 2 2)).MatReady (.mmrg 0 0 1) ∧ (matSt (tsh 0 2 2 2 2 2)).MatReady (.mfin 0 3) :=
  ⟨mat_of (by decide), mat_of (by decide), by decide, by decide, by decide, by decide, mat_of (by decide), mat_of (by decide)⟩

/-! A macro-operation under way: three steps of a product over 40 columns, on a first member (core 2) and on another (core 6). -/

def macP (i : Instr) (step : Nat) (rows : List Nat) : Pend :=
  { pc := 0x1000, instr := i, win := 0, unit := 4, g := [(13, 0x200)], order := 9, step := step, started := true, rows := rows, rngs := 0x2545F491 }
/-- Rows of a product: its descriptor, its number, K, the step. -/
def coRows (d : Word) (ord k st : Nat) : CoRows := { desc := d, ord := ord, k := k, af := 2, step := st, rows := [] }
def macSt (c : Nat) (p : Pend) (buf : List CoRows := []) : State :=
  mkOn c { tvec := 0x2000, tshape := tsh 0 2 2 2 2 40, ptr := ptrs4, rowBuf := buf, coCnt := [(0x200, 1)] } { demoSt with pend := [p] }
def pMma (step : Nat) : Pend := macP (.mma 0 0 0 0 0 0 1 0 0) step [0, 0]
def pCo (step : Nat) : Pend := macP (.mmaCo 0 0 0 0 0 0 1 0 0) step [0, 0]
/-- The step of a pending operation: with how it ends, 0 done and 1 waiting, and that it leaves the strand as it was. -/
def macB (s : State) (p : Pend) (last : Bool) (out : Nat) : Bool :=
  match matOf p.instr with
  | none => false
  | some op =>
    let o := op { g := p.g, tag := p.order, pc := p.pc, prep := p.prep } s
    s.me.turn 4 == [(s.ctx, p)] && p.started && p.com && !s.me.frozen && p.rngs == s.me.rngs && !s.mstepOther && s.pendAt p.order == some p && !o.lr && (decide (p.step + 1 = o.n) == last) &&
      decide (p.step + 1 ≤ o.n) &&
      (match o.step p.step p.rows s with
        | .ok _ u => out == 0 && u.st.pend == [p] && u.core == s.core && u.ctx == s.ctx && !mstepAct u.me.mstep && u.st.replay.isNone &&
            u.st.found.isNone && !u.st.ended
        | .stall u => out == 1 && u == s
        | _ => false)
/-- Strand 0 owns an operation interrupted at step 1, whose generator state is kept; the replay begins it again. -/
def againSt : State := mkOn 2 { tvec := 0x2000, tshape := tsh 0 2 2 2 2 40, ptr := ptrs4, mstep := mstepWord 0 0 1, mrngs := some 7 }
  { demoSt with pend := [pMma 0] }
theorem witness_MacroOperationSteps_again : mstepAct againSt.me.mstep = true ∧ mstepCtx againSt.me.mstep = againSt.ctx ∧
    againSt.me.turn 4 = [(0, pMma 0)] ∧ againSt.mstepOther = false ∧ againSt.pendAt 9 = some (pMma 0) ∧
    (match (matOf (pMma 0).instr).map fun op => againSt.beginMat (pMma 0) (op { g := (pMma 0).g, tag := 9, pc := 0x1000, prep := .none } againSt) with
      | some (.ok _ v) => v.me.mrngs == some 7 && v.st.pend.all fun q => q.order == 9 && q.rngs == 7 && q.step == 1
      | _ => false) = true := by and_intros <;> decide
/-- A step at which the rows of another K are met traps. -/
theorem witness_MacroOperationSteps_trap :
    (match matOf (pCo 1).instr with
      | some op => let o := op { g := (pCo 1).g, tag := 9, pc := 0x1000, prep := .none } (macSt 6 (pCo 1) [coRows 0x200 1 41 1])
        decide (2 < o.n) && match o.step 1 (pCo 1).rows (macSt 6 (pCo 1) [coRows 0x200 1 41 1]) with
          | .trap _ u => u.core == 6 && u.ctx == 0
          | _ => false
      | none => false) = true := by decide
theorem witness_MacroOperationSteps : macB (macSt 2 (pMma 1)) (pMma 1) false 0 = true ∧ macB (macSt 2 (pMma 2)) (pMma 2) true 0 = true ∧
    macB (macSt 6 (pCo 1)) (pCo 1) false 1 = true := by and_intros <;> decide
theorem blks_of {s : State} {k : Acc} {vas : List Nat} (h : blksB s k vas = true) : ∃ bs, s.blks k vas = .ok bs ∧ bs.any s.blkBusy = false := by
  unfold blksB at h
  split at h
  next bs e =>
    simp only [Bool.and_eq_true, Bool.not_eq_true'] at h
    exact ⟨bs, e, h.1⟩
  next => exact absurd h (by simp)
/-- Rows of another descriptor stand first, while rows of the own product are on their way. -/
def owedSt : State :=
  { macSt 6 (pCo 1) [coRows 0x400 1 40 0, coRows 0x200 2 40 0] with
    net := [{ src := 2, dst := 6, net := 2, seq := 0, ctx := 0, lix := none, tag := 0, pay := .rows 0x200 1 40 2 1 [] }] }
theorem witness_CooperativeSteps_waits : macB owedSt (pCo 1) false 1 = true ∧ owedSt.coOwed 6 0x200 = true ∧
    (macSt 6 (pCo 1) [coRows 0x400 1 40 0]).coOwed 6 0x200 = false ∧
    (∀ e ∈ [coRows 0x200 2 40 0], e.desc = 0x200 ∧ (macSt 6 (pCo 1)).me.coOrd 0x200 < e.ord) ∧
    macB (macSt 6 (pCo 1) [coRows 0x200 2 40 0]) (pCo 1) false 1 = true ∧
    macB (macSt 6 (pCo 1) [coRows 0x200 1 40 1, coRows 0x200 1 40 2]) (pCo 1) false 0 = true ∧
    (coRows 0x200 1 40 1).step = (pCo 1).step ∧ (coRows 0x200 1 41 1).k ≠ tK (tsh 0 2 2 2 2 40) := by and_intros <;> decide
theorem witness_CooperativeSteps : macB (macSt 2 (pCo 1)) (pCo 1) false 0 = true ∧
    macB (macSt 6 (pCo 1) [coRows 0x200 1 40 1, coRows 0x200 2 40 0]) (pCo 1) false 0 = true ∧ isDome (tsh 0 2 2 2 2 40) = true ∧
    coX 6 ≠ coX0 (gread (pCo 1).g 13) ∧ coX 2 = coX0 (gread (pCo 1).g 13) ∧ gread (pCo 1).g 13 = 0x200 ∧
    tK (tsh 0 2 2 2 2 40) = 40 ∧ tAf (tsh 0 2 2 2 2 40) = 2 ∧ (1 : Nat) % ((40 + 15) / 16) ≠ 0 ∧ (pCo 1).rows ≠ [] ∧
    ((coRow 0x200 2).any fun c => (macSt 2 (pCo 1)).rowsFull 2 c) = false ∧ (coRow 0x200 2) = [6] ∧
    (macSt 2 (pCo 1)).me.coOrd 0x200 = 1 ∧ (macSt 2 (pCo 1)).me.coOrd 0x400 < 1 ∧ (macSt 2 (pCo 1)).me.fmt.getLsbD 15 = false ∧
    (∃ bs, (macSt 2 (pCo 0)).blks .rd ((ptrOf ptrs4 0).run (2 * 2)).1 = .ok bs ∧ bs.any (macSt 2 (pCo 0)).blkBusy = false) ∧
    bitsOf (macSt 6 (pCo 1)).me.tvec 47 2 ≠ 0 ∧ (macSt 6 (pCo 1)).st.tAct = false ∧ (macSt 6 (pCo 1)).st.held = [] ∧
    (macSt 6 (pCo 1)).st.cmp = false ∧ (macSt 6 (pCo 1)).st.hnd = false ∧ (macSt 6 (pCo 1)).st.replay = none ∧
    (macSt 6 (pCo 1)).st.ended = false :=
  by and_intros <;> first | exact blks_of (by decide) | decide
/-- What core 2 keeps of the one product that it has begun. -/
def coopRec : Coop :=
  { desc := 0x200, ord := 1, ptr := { base := 0xFF0000000000, c1 := 64 }, tsh := tsh 0 2 2 2 2 40, fmt := 0x22, scl := false, lix := none,
    sys := true, ctx := 0 }
/-- Messages of a cooperative product: rows for core 6, and a request of core 6 to core 2, whose product is the one asked for. -/
def coopSt (pay : Pay) (src dst : Nat) (buf : List CoRows := []) (n : Nat := 0) (x : List (Nat × Strand) := []) : State :=
  let f : Flight := { src := src, dst := dst, net := 2, seq := 0, ctx := 0, lix := none, tag := 0, pay := pay }
  { State.reset with net := [f], cores := [(2, { coops := [coopRec] }), (6, { rowBuf := buf, coCnt := [(0x200, n)], ctxs := x })] }
def coopB (s : State) (dst : Nat) : Bool :=
  match s.arriving 0 with
  | some f => f.dst == dst
  | none => false
def rowPas : List Nat := (({ base := 0xFF0000000000, c1 := 64 } : Ptr).run (2 * rowBlks 40 2)).1.map fun va =>
  match (coopSt (.rowReq 0x200 1 1) 6 2).physOf 2 none true va 64 .rd with
  | .ok a => a
  | .error _ => 0
/-- A strand in the second step of the product. -/
def inCo : Strand := { demoSt with pend := [pCo 1] }
theorem witness_CooperativeRows : coopB (coopSt (.rows 0x200 1 40 2 0 []) 2 6) 6 = true ∧
    ((coopSt (.rows 0x200 1 40 2 0 []) 2 6).coreAt 6).coOrd 0x200 < 1 ∧
    ((coopSt (.rows 0x200 1 40 2 0 []) 2 6 [coRows 0x200 1 40 0, coRows 0x200 1 40 1]).coreAt 6).rowBuf.length = 2 ∧
    ((coopSt (.rows 0x200 1 40 2 1 []) 2 6 [] 1 [(0, inCo)]).coreAt 6).coOrd 0x200 = 1 ∧
    ((coopSt (.rows 0x200 1 40 2 1 []) 2 6 [] 1 [(0, inCo)]).coreAt 6).ctxs = [(0, inCo)] ∧ inCo.pend = [pCo 1] ∧ (pCo 1).trap = none ∧
    (pCo 1).started = true ∧ gread (pCo 1).g 13 = 0x200 ∧ 0 < (pCo 1).step ∧
    ((coopSt (.rows 0x200 1 40 2 1 []) 2 6 [] 2).coreAt 6).coOrd 0x200 = 2 ∧
    mstepAct ((coopSt (.rows 0x200 1 40 2 1 []) 2 6 [] 1).coreAt 6).mstep = false ∧
    ((coopSt (.rows 0x200 1 40 2 1 []) 2 6 [] 1).coreAt 6).ctxs = [] ∧ coopB (coopSt (.rowReq 0x200 1 1) 6 2) 2 = true ∧
    (∀ c ∈ ((coopSt (.rowReq 0x400 1 1) 6 2).coreAt 2).coops, ¬(c.desc = 0x400 ∧ c.ord = 1)) ∧
    (∀ c ∈ ((coopSt (.rowReq 0x200 2 1) 6 2).coreAt 2).coops, ¬(c.desc = 0x200 ∧ c.ord = 2)) ∧
    (((coopSt (.rowReq 0x200 1 1) 6 2).coreAt 2).coops.find? fun c => c.desc == 0x200 && c.ord == 1) = some coopRec ∧
    ((coopSt (.rowReq 0x200 1 1) 6 2).coreAt 2).fmt.getLsbD 15 = false ∧
    (∃ pas : List Nat, (({ base := 0xFF0000000000, c1 := 64 } : Ptr).run (2 * rowBlks 40 2)).1.map
      (fun va => (coopSt (.rowReq 0x200 1 1) 6 2).physOf 2 none true va 64 .rd) = pas.map .ok) ∧ coopRec.scl = false ∧ (1 : Nat) < (tM (tsh 0 2 2 2 2 40) + 15) / 16 * ((tK (tsh 0 2 2 2 2 40) + 15) / 16) :=
  by and_intros <;> first | exact ⟨rowPas, by decide⟩ | decide

/-! ### Witnesses: messages and synchronization -/

def okB {ε α : Type} : Except ε α → Bool
  | .ok _ => true
  | .error _ => false
theorem ok_of {ε α : Type} {r : Except ε α} (h : okB r = true) : ∃ a, r = .ok a := by
  cases r with
  | ok a => exact ⟨a, rfl⟩
  | error _ => exact absurd h (by simp [okB])
/-- A message in flight. -/
def fl (src dst net : Nat) (pay : Pay) (tag : Nat := 0) : Flight := { src := src, dst := dst, net := net, seq := 0, ctx := 0, lix := none, tag := tag, pay := pay }
/-- Strands of core 2 that send: destination core 6 in g1, handler address in g2, payload address in g8, length in g5; a saddle's number in
g6, a misaligned handler address in g7. -/
def sendSt : Strand := { demoSt with g := [(1, 6), (2, 0x4000), (5, 256), (6, 2048), (7, 0x4001), (8, 0xFF0000000100)] }
def one : List SqEnt := [{ held := false, ctx := 0, dst := 6, net := 0, lix := none, tag := 0, pay := .repAck 0 }]
/-- A send queue limited to one entry (R35). -/
def sendM (t : Strand) (q : List SqEnt := []) : State := mk { tvec := 0x2000, sendq := q, sqcfg := 0x101 } t
theorem witness_MessagesSentAndRead_sends : (∀ i ∈ ([.send 0 0 1 2 8, .send 0 8 1 2 8, .rsend 0 1 2 1 2 3, .sendl 0 5 1 2 8, .reply 0 8 2 8, .send 0 1 6 2 8,
      .send 0 1 1 7 8] : List Instr), (sendM sendSt).ReadyUnit i) ∧
    ((6 : Nat) < 2 ^ 20 ∧ 6 % 2 = 0 ∧ isSaddle 6 = false ∧ (sendM sendSt).inDomain (pkgOf 6) = true) ∧ (0x4000 % 4 = 0 ∧ 0x4000 < 2 ^ 48) ∧
    (sendM sendSt).me.sqCount < (sendM sendSt).me.sqDepth ∧ (sendM sendSt one).ReadyUnit (.send 0 1 1 2 8) ∧
    ¬ (sendM sendSt one).me.sqCount < (sendM sendSt one).me.sqDepth ∧
    (sendM { sendSt with hnd := true } one).ReadyUnit (.rsend 0 0 0 1 2 3) ∧ isSaddle 2048 = true ∧ 0x4001 % 4 ≠ 0 ∧
    (sendM { sendSt with hnd := true }).ReadyUnit (.reply 0 1 2 8) ∧ (sendM { sendSt with hnd := true }).st.hnd = true ∧
    inSp ((sendM sendSt).g 8) 256 = true ∧ (∃ gs, (sendM sendSt).segsOf ((sendM sendSt).g 8).toNat 256 .rd = .ok gs) ∧
    (sendM sendSt).bad = [] ∧ (sendM sendSt).soft = [] :=
  ⟨unit_all (by decide), by decide, by decide, by decide, unit_of (by decide), by decide, unit_of (by decide), by decide, by decide,
   unit_of (by decide), by decide, by decide, ok_of (by decide), rfl, rfl⟩
def msg8 : RMsg := { line := 0, n := 1, hdr0 := 0, hdr1 := 0x4000, ws := [7], held := false, lix := none }
/-- A core with one message in its request queue, and a handler of it in context 0. -/
def recvSt (t : Strand) : State := mk { tvec := 0x2000, rq := [(0, { next := 1, msgs := [msg8] })] } t
theorem witness_MessagesSentAndRead_receipt : (∀ i ∈ ([.mpoll 0 3 8 0, .mpoll 0 3 8 1, .mpoll 0 0 1 0, .hret] : List Instr), (recvSt demoSt).ReadyUnit i) ∧
    ((recvSt demoSt).g 8).toNat % 16 = 0 ∧ ((recvSt demoSt).me.queue 1).msgs = [] ∧ ((recvSt demoSt).g 1).toNat % 16 ≠ 0 ∧
    ((recvSt demoSt).me.queue 0).msgs = [msg8] ∧ (recvSt demoSt).me.handling 0 = false ∧ inSp ((recvSt demoSt).g 8) 24 = true ∧
    (∃ g, (recvSt demoSt).segsOf ((recvSt demoSt).g 8).toNat 24 .wr = .ok [g]) ∧ (recvSt { demoSt with hnd := true }).ReadyUnit .hret ∧
    (recvSt { demoSt with hnd := true }).st.hnd = true ∧
    (recvSt { demoSt with hnd := true }).st.kept.any (fun k => k.kind == 0) = false ∧
    (recvSt { demoSt with hnd := true }).unacked 2 0 = false ∧ (recvSt { demoSt with hnd := true }).me.sendq = [] ∧
    (recvSt demoSt).st.hnd = false :=
  ⟨unit_all (by decide), by decide, by decide, by decide, by decide, by decide, by decide, ⟨_, rfl⟩, unit_of (by decide),
   by and_intros <;> decide⟩
/-- A queue whose head has a handler: mpoll finds nothing. -/
theorem witness_MessagesSentAndRead_handled :
    let s : State := { recvSt demoSt with cores := [(2, { rq := [(0, { next := 1, msgs := [msg8] })], ctxs := [(0, { demoSt with life := .ready }), (1, { hnd := true, life := .ready })] })] }
    s.ReadyUnit (.mpoll 0 3 8 0) ∧ s.me.handling 0 = true := ⟨unit_of (by decide), by decide⟩
/-- Core 2 with a held and a free entry in its send queue; a message and two packets of a reduction on their way to core 6. -/
def netSt : State := { sendM demoSt [{ held := true, ctx := 0, dst := 6, net := 0, lix := none, tag := 0, pay := .repAck 0 },
  { held := false, ctx := 0, dst := 6, net := 0, lix := none, tag := 0, pay := .prog 0x4000 [] }] with
  net := [fl 2 6 0 (.prog 0x4000 [1, 2]), fl 2 6 0 (.red 0x4000 5 0 false 1 1), fl 10 6 0 (.red 0x4000 5 0 false 2 1), { fl 14 6 0 (.repAck 0) with hops := [6] }, { fl 14 6 0 (.prog 0x4000 []) with seq := 1 }], fwd := [(6, [6])] }
theorem witness_MessageSteps : (∃ e, netSt.me.sendq[0]? = some e ∧ e.held = true) ∧ (∃ e, netSt.me.sendq[1]? = some e ∧ e.held = false) ∧
    netSt.me.frozen = false ∧ netSt.net[0]? = some (fl 2 6 0 (.prog 0x4000 [1, 2])) ∧ netSt.inOrder (fl 2 6 0 (.prog 0x4000 [1, 2])) = true ∧
    netSt.unreachable (fl 2 6 0 (.prog 0x4000 [1, 2])) = false ∧ netSt.badSaddle 6 = false ∧
    ((netSt.coreAt 6).queue 0).slot ((netSt.queueRegion 6 0).size / 64) 1 = some 0 ∧
    netSt.inOrder { fl 14 6 0 (.prog 0x4000 []) with seq := 1 } = false ∧ (fget [] netSt.fwd 6).contains 6 = true ∧
    ((recvSt demoSt).me.queue 0).msgs = [msg8] ∧ msg8.hdr1 ≠ 0 ∧ (recvSt demoSt).me.handling 0 = false ∧
    ((recvSt demoSt).strandAt 2 5).life = .free ∧ (recvSt demoSt).me.leader = none :=
  ⟨⟨_, rfl, rfl⟩, ⟨_, rfl, rfl⟩, rfl, rfl, by and_intros <;> decide⟩
theorem witness_MessageSteps_merge : netSt.net[1]? = some (fl 2 6 0 (.red 0x4000 5 0 false 1 1)) ∧
    netSt.net[2]? = some (fl 10 6 0 (.red 0x4000 5 0 false 2 1)) ∧ (1 : Nat) ≠ 2 ∧ pkgOf 2 = pkgOf 10 := ⟨rfl, rfl, by decide⟩
/-- Core 2 with barrier 0 as given; g1 holds a value for bar.init, g6 a core's number, g7 an odd one. -/
def barSt (b : Bar) (t : Strand := demoSt) : State := mk { tvec := 0x2000, bars := [(0, b)] } { t with g := [(1, 65535), (2, 0), (4, 65536), (5, 1), (6, 6), (7, 7)] }
theorem witness_BarrierInstructions : (∀ i ∈ ([.barInit 0 1 0, .barInit 0 2 0, .barInit 0 4 0, .barArr 0 3 0 0, .barArr 0 3 6 0, .barArr 0 3 7 0,
      .barTest 0 0 0, .barFlags 0 3 255] : List Instr), (barSt {}).ReadyUnit i) ∧ (barSt {}).boundPending 2 0 = false ∧
    (barSt {}).me.waitsOn 0 = false ∧ (barSt {}).st.left = [] ∧ ((barSt {}).bar 2 0).arrived = 0 ∧ (barSt {}).st.kept.any (fun k => k.kind == 0) = false ∧ (barSt {}).unacked 2 0 = false ∧ (barSt {}).releaseWaits 0 (barObj 2 0) = false ∧
    ((barSt {}).bar 2 0).target = 0 ∧ (barSt { target := 2 }).ReadyUnit (.barArr 0 3 0 0) ∧
    (0 : BitVec 16).toNat + 1 < (2 : BitVec 16).toNat ∧ (barSt { target := 1 }).ReadyUnit (.barArr 0 3 0 0) ∧ (0 : BitVec 16) + 1 = 1 ∧
    (barSt { target := 1, arrived := 1 }).ReadyUnit (.barArr 0 3 0 0) ∧ (barSt { target := 1, broken := true }).ReadyUnit (.barArr 0 3 0 0) ∧
    (isSaddle 2 = false ∧ isSaddle 6 = false ∧ valleyOf 6 = valleyOf 2) ∧ (barSt {}).releaseWaits 0 (barObj 6 0) = false ∧
    (barSt {}).me.sqFull = false ∧ 7 % 2 ≠ 0 ∧ (barSt { target := 2 }).ReadyUnit (.barExp 0 1 0) ∧
    (barSt { target := 2 }).ReadyUnit (.barWait 5 0) ∧ (barSt { target := 2 }).ReadyUnit (.barWait 2 0) ∧
    (barSt {} { demoSt with cond := true }).ReadyUnit (.barWait 2 0) ∧ (barSt {} { demoSt with cond := true }).st.cond = true ∧
    b2w ((barSt { target := 2 }).bar 2 0).phase ≠ (barSt {}).g 5 ∧ b2w ((barSt { target := 2 }).bar 2 0).phase = (barSt {}).g 2 ∧
    ((barSt { target := 1 }).bar 2 0).heldArr = [] ∧ ((barSt {}).g 5).toNat < 2 ∧ (barSt {}).st.hnd = false :=
  by and_intros <;> first | exact unit_all (by decide) | exact unit_of (by decide) | decide
/-- An arrival of context 7 is held, pending, for the next phase of barrier 0. -/
def arrP : Pend := { pc := 0x1000, instr := .barArr 0 4 0 0, win := 0, unit := 5, g := [], order := 9, tag := some 9 }
def arrSt : State :=
  { barSt {} with cores := [(2, { bars := [(0, { target := 2, arrived := 1, heldArr := [{ flags := 0, who := some (7, 9) }] })], seqNo := 10,
                                  ctxs := [(0, { demoSt with life := .ready }), (7, { life := .waiting, pend := [arrP] })] })] }
theorem witness_BarrierInstructions_held : arrSt.ReadyUnit (.barArr 0 3 0 0) ∧ (arrSt.bar 2 0).heldArr = [{ flags := 0, who := some (7, 9) }] ∧
    (arrSt.bar 2 0).arrived + 1 = (arrSt.bar 2 0).target ∧ 1 < (arrSt.bar 2 0).target.toNat ∧ (7 : Nat) ≠ arrSt.ctx ∧
    (arrSt.strandAt 2 7).pend = [arrP] ∧ arrP.tag = some 9 ∧ arrP.instr = .barArr 0 4 0 0 ∧ arrP.re = false ∧
    (arrSt.strandAt 2 7).found = none ∧ (arrSt.strandAt 2 7).ended = false ∧ arrSt.releaseWaits 10 (barObj 2 0) = false ∧
    (barSt { target := 1, arrived := 1 }).ReadyUnit (.barArr 0 3 0 0) ∧
    (barSt { target := 1, arrived := 1 } { demoSt with hnd := true }).ReadyUnit (.barArr 0 3 0 0) :=
  by and_intros <;> first | exact unit_of (by decide) | decide
theorem witness_BarrierInstructions_remote : ∀ b ∈ ([{}, { target := 2 }, { target := 1, broken := true }] : List Bar),
    ({ barSt b with net := [fl 6 2 4 (.barArr 0 0)] } : State).arriving 0 = some (fl 6 2 4 (.barArr 0 0)) := by
  intro b h
  simp only [List.mem_cons, List.not_mem_nil, or_false] at h
  rcases h with rfl | rfl | rfl <;> rfl
def armW (n : Nat) : List Armed := List.replicate n { ec := 0, thr := 5, kind := 0, arg := 0 }
def ecSt (a : List Armed) (v : Word := 0) : State := mk { tvec := 0x2000, armed := a, ecs := [(0, v)] } { demoSt with g := [(1, 5), (2, 0), (3, 16)] }
theorem witness_EventCounters : (∀ i ∈ ([.ecSet 0 1 0, .ecInc 0 1 63, .ecRd 0 0 0, .ecArm 0 2 1 0, .ecArm 0 3 1 0] : List Instr), (ecSt []).ReadyUnit i) ∧
    (∀ a ∈ (ecSt []).me.armed, a.ec ≠ 0) ∧ (ecSt (armW 1)).ReadyUnit (.ecInc 0 1 0) ∧ (ecSt (armW 1)).me.armed = [{ ec := 0, thr := 5, kind := 0, arg := 0 }] ∧
    ((ecSt (armW 1)).ec 2 0).toNat < 5 ∧ 5 ≤ ((ecSt (armW 1)).ec 2 0).toNat + ((ecSt []).g 1).toNat ∧ armOk ((ecSt []).g 3) false = false ∧
    armOk ((ecSt []).g 2) false = true ∧ (ecSt (armW 16)).ReadyUnit (.ecArm 0 2 1 0) ∧ 16 ≤ (ecSt (armW 16)).me.armed.length ∧
    (ecSt [] 5).ReadyUnit (.ecArm 0 2 1 0) ∧ ((ecSt []).g 1).toNat ≤ ((ecSt [] 5).ec 2 0).toNat ∧ ((ecSt []).ec 2 0).toNat < ((ecSt []).g 1).toNat ∧
    (∀ e ∈ (ecSt []).me.ctxs, e.2.waitEv = none) ∧ (ecSt []).me.parked = [] :=
  ⟨unit_all (by decide), by decide, unit_of (by decide), rfl, by decide, by decide, by decide, by decide, unit_of (by decide), by decide,
   unit_of (by decide), by and_intros <;> decide⟩
/-- Another strand of the core waits for counter 0 to come to 5. -/
theorem witness_EventCounters_waiter :
    let s : State := { ecSt [] with cores := [(2, { ctxs := [(0, { demoSt with life := .ready, g := [(1, 5)] }), (7, { life := .waiting, waitEv := some (0, 5) })] })] }
    s.ReadyUnit (.ecInc 0 1 0) ∧ (7 : Nat) ≠ s.ctx ∧ (s.strandAt s.core 7).waitEv = some (0, 5) ∧
      (5 : Word).toNat ≤ (s.ec s.core 0 + s.g 1).toNat ∧ s.ReadyUnit (.ecInc 0 2 0) ∧ (s.ec s.core 0 + s.g 2).toNat < (5 : Word).toNat :=
  ⟨unit_of (by decide), by decide, by decide, by decide, unit_of (by decide), by decide⟩
def syncSt (k : Core) (t : Strand := {}) (h : BitVec 16 := 0) : State :=
  { mk { k with tvec := 0x2000 } { t with pc := 0x1000, sys := true, g := [(1, 65535), (2, 64), (3, 0), (8, 0x10000), (9, 0x20000)] } with spires := [(0, { hs := [(0, h)] })] }
/-- A posted store of the strand to its scratchpad is under way. -/
def postSt : State := { syncSt { seqNo := 1 } with net := [fl 2 2 0 (.store 0x100 8 0xFF0000000100 7)] }
theorem witness_SemaphoresFenceBind : (∀ i ∈ ([.semPost 0 1 0, .semTake 0 1 0, .fence 0, .bind 0 8 2 3, .unbind 0 8] : List Instr), (syncSt {}).ReadyUnit i) ∧
    (syncSt {} {} 65535).ReadyUnit (.semTake 0 1 0) ∧ ((syncSt {}).g 1).toNat ≤ (fget (0 : BitVec 16) (syncSt {} {} 65535).sp.hs 0).toNat ∧
    (fget (0 : BitVec 16) (syncSt {}).sp.hs 0).toNat < ((syncSt {}).g 1).toNat ∧ (syncSt {}).sp.semq = [] ∧ (syncSt {}).unacked 2 0 = false ∧
    (∀ b, (syncSt {}).msgBusy 2 0 b = false ∧ (syncSt {}).fenceBusy 2 0 b = false) ∧ (syncSt {}).st.left = [] ∧ (syncSt {}).writing 0 (fun g => isSpVa g.va) = false ∧
    (syncSt {} { kept := [{ kind := 0, order := 0, code := 0x13, addr := 8 }] }).ReadyUnit (.fence 3) ∧
    (syncSt {} { kept := [{ kind := 3, order := 0, code := 0x13, addr := 8 }] }).ReadyUnit (.fence 5) ∧
    (syncSt {}).ReadyUnit (.fence 255) ∧
    (syncSt { sendq := one }).ReadyUnit (.fence 2) ∧ (syncSt { sendq := one }).msgBusy 2 0 false = true ∧ (postSt.ReadyUnit (.semPost 0 1 0) ∧ postSt.writing 1 (fun g => isSpVa g.va) = true) ∧
    0 < ((syncSt {}).g 2).toNat ∧ objOk ((syncSt {}).g 3) = true ∧
    (syncSt { binds := List.replicate 32 { base := 0x20000, len := 8, obj := 0, lix := none } }).ReadyUnit (.bind 0 8 2 3) ∧
    (syncSt { binds := [{ base := 0x10000, len := 64, obj := 0, lix := none }] }).ReadyUnit (.unbind 0 8) :=
  ⟨unit_all (by decide), unit_of (by decide), by decide, by decide, by decide, by decide, by decide, by decide, by decide, unit_of (by decide),
   unit_of (by decide), unit_of (by decide), unit_of (by decide), by decide, ⟨unit_of (by decide), by decide⟩, by decide, by decide, unit_of (by decide), unit_of (by decide)⟩

/-- Strands that use scratchpad (g8) and GDDR (g1) words, and a misaligned address (g2); g5 holds 0, g6 the lock value's ticket. -/
def atSt (t : Strand := {}) (m : List Host.Cell := []) (h : Home := {}) : State :=
  { mk { tvec := 0x2000 } { t with pc := 0x1000, sys := true, g := [(1, 0x10000), (2, 0x10001), (6, 3), (8, 0xFF0000000100)] } m with spires := [(0, { home := h })] }
def lockedMem : List Host.Cell := [(2 ^ 60 + 0x100, 3), (2 ^ 60 + 0x107, 0x80)]
/-- The send queue is full. -/
def atFull : State := mk { tvec := 0x2000, sendq := one, sqcfg := 0x101 } { pc := 0x1000, sys := true, g := [(1, 0x10000)] }
theorem witness_AtomicsAndLocks : (∀ i ∈ ([.atom 0 3 8 6 0, .atomRet 0 3 8 6 8, .atom 0 0 1 6 7, .atomRet 0 0 1 6 7, .atom 0 0 2 6 0, .acq 3 8,
      .acq 3 1, .rel 8 6, .rel 1 6] : List Instr), atSt.ReadyUnit i) ∧
    (atSt.g 8).toNat % 8 = 0 ∧ atSt.xlate (atSt.g 8).toNat 8 .rw = .ok 0xFF0000000100 ∧ isHostPa 0xFF0000000100 = false ∧ isSpPa 0xFF0000000100 = true ∧
    atSt.xlate (atSt.g 1).toNat 8 .rw = .ok 0x10000 ∧ isHostPa 0x10000 = false ∧ isSpPa 0x10000 = false ∧ atSt.me.sqFull = false ∧
    (atSt.g 2).toNat % 8 ≠ 0 ∧ (∀ i ∈ ([.atom 0 0 8 6 0, .atomRet 0 3 8 6 0] : List Instr), (atSt { hnd := true }).ReadyUnit i) ∧
    ofLe (atSt.bytes (atSt.globalOf 2 0xFF0000000100) 8) = 0 ∧ (atSt {} lockedMem).ReadyUnit (.acq 3 8) ∧
    w64 (ofLe ((atSt {} lockedMem).bytes (atSt.globalOf 2 0xFF0000000100) 8)) = 0x8000000000000000 ||| atSt.g 6 ∧
    (atSt {} lockedMem).sp.home.lockq.length < 64 ∧ (atSt {} lockedMem).ReadyUnit (.rel 8 6) ∧ atSt.unacked 2 0 = false ∧ atSt.st.kept.any (fun k => k.kind == 0) = false ∧
    atSt.releaseWaits 0 (atSt.g 8) = false ∧ (atSt.g 6).toNat < 65536 ∧ atSt.st.left = [] ∧ (atSt {} lockedMem).sp.home.lockq.any (fun q => q.pa == 2 ^ 60 + 0x100) = false ∧
    (∀ i ∈ ([.atom 0 0 1 6 7, .atomRet 0 0 1 6 7] : List Instr), atFull.ReadyUnit i) ∧ atFull.me.sqFull = true ∧
    atFull.xlate (atFull.g 1).toNat 8 .rw = .ok 0x10000 ∧ atSt.releaseWaits 0 (atSt.g 1) = false :=
  ⟨unit_all (by decide), by decide, okEq (by decide), by decide, by decide, okEq (by decide), by decide, by decide, by decide, by decide,
   unit_all (by decide), by decide, unit_of (by decide), by decide, by decide, unit_of (by decide), by decide, by decide,
   by decide, by decide, by decide, by decide, unit_all (by decide), by decide, okEq (by decide), by decide⟩
/-- A saddle (2048) with a message for it from core 2; its word 0x10000 as the memory has it. -/
def homeSt (p : Pay) (m : List Host.Cell := []) (h : Home := {}) : State :=
  { State.reset with cores := [(2048, { home := h })], mem := m, net := [fl 2 2048 0 p 7] }
/-- Core 2 with an instruction pending for the answer of tag 7, and that answer from saddle 2048. -/
def answSt (i : Instr) (p : Pay) : State :=
  { mk { outst := [{ flight := fl 2 2048 0 (.atomReq 0x10000 0x10000 0 1 0 true) 7 }] }
    { demoSt with life := .waiting, pend := [{ pc := 0xFFC, instr := i, win := 0, unit := 5, g := [], order := 7, tag := some 7 }] } with net := [fl 2048 2 1 p 7] }
def repE : RepEnt := { src := 2, seq := 0, ctx := 0, tag := 7, old := 0, ret := true, code := 0, addr := 0x10000 }
def heldMem : List Host.Cell := [(0x10000, 5), (0x10007, 0x80)]
theorem witness_AtomicAndLockSteps :
    (let s := homeSt (.atomReq 0x10000 0x10000 0 1 0 true)
     s.net[0]? = some (fl 2 2048 0 (.atomReq 0x10000 0x10000 0 1 0 true) 7) ∧ (s.coreAt 2048).frozen = false ∧
     (s.coreAt 2048).home.cache.find? (fun e => e.src == 2 && e.seq == 0) = none ∧ (s.coreAt 2048).home.cache.length < 256 ∧ s.inOrder (fl 2 2048 0 (.atomReq 0x10000 0x10000 0 1 0 true) 7) = true ∧
     s.nodeWaits (fl 2 2048 0 (.atomReq 0x10000 0x10000 0 1 0 true) 7) = false ∧
     s.unreachable (fl 2 2048 0 (.atomReq 0x10000 0x10000 0 1 0 true) 7) = false ∧ s.bad = [] ∧ s.soft = []) ∧
    ((homeSt (.atomReq 0x10000 0x10000 0 1 0 true) [] { cache := [repE] }).coreAt 2048).home.cache.find? (fun e => e.src == 2 && e.seq == 0) = some repE ∧
    (∀ q ∈ ([(.atomRet 0 3 1 2 0, .atomRep 5 true 0 0x10000 0), (.acq 3 1, .lockGrant 5 0 0), (.rel 1 2, .lockRelAck 0 0x10000)] : List (Instr × Pay)),
      (answSt q.1 q.2).arriving 0 = some (fl 2048 2 1 q.2 7) ∧ (answSt q.1 q.2).st.pend.map (fun p => (p.tag, p.order)) = [(some 7, 7)] ∧
      (answSt q.1 q.2).st.replay = none ∧ (answSt q.1 q.2).st.found = none ∧ (answSt q.1 q.2).st.ended = false ∧
      ((answSt q.1 q.2).me.outst.find? fun o => o.flight.tag == 7).map (·.flight.ctx) = some 0) ∧
    (∀ p ∈ ([.repAck 0, .lockReq 0x10000 0x10000, .lockRel 0x10000 0x10000 5, .store 0x10000 8 0x10000 1] : List Pay),
      (homeSt p).arriving 0 = some (fl 2 2048 0 p 7)) ∧ ofLe ((homeSt (.repAck 0)).bytes 0x10000 8) = 0 ∧
    ofLe ((homeSt (.repAck 0) heldMem).bytes 0x10000 8) = 0x8000000000000005 ∧
    ((homeSt (.repAck 0) heldMem { lockq := [{ core := 6, ctx := 0, tag := 1, pa := 0x10000 }] }).coreAt 2048).home.lockq.length < 64 ∧
    (answSt .nop (.ack 0 0)).arriving 0 = some (fl 2048 2 1 (.ack 0 0) 7) ∧ (answSt .nop (.ack 0x13 8)).arriving 0 = some (fl 2048 2 1 (.ack 0x13 8) 7) ∧
    (answSt .nop (.ack 0 0)).st.kept = [] := by
  refine ⟨⟨rfl, by decide, by decide, by decide, by decide, by decide, by decide, rfl, rfl⟩, rfl, ?_, ?_, by decide, by decide, by decide, rfl, rfl, rfl⟩
  · intro q h
    simp only [List.mem_cons, List.not_mem_nil, or_false] at h
    rcases h with rfl | rfl | rfl <;> exact ⟨rfl, rfl, rfl, rfl, rfl, rfl⟩
  · intro p h
    simp only [List.mem_cons, List.not_mem_nil, or_false] at h
    rcases h with rfl | rfl | rfl | rfl <;> rfl
/-- The request of answSt without a reply: with resends left, and with none. -/
theorem witness_AtomicAndLockSteps_timeout : ∀ n ∈ ([0, 3] : List Nat), ∃ x : Outst, x.flight.tag = 7 ∧ x.resends = n ∧
    ((mk { outst := [x] } demoSt).coreAt 2).outst = [x] ∧ x.flight.pay = .atomReq 0x10000 0x10000 0 1 0 false ∧
    ((mk { outst := [x] } demoSt).strandAt 2 x.flight.ctx).life ≠ .free ∧ x.flight.ctx < 64 ∧ ((mk { outst := [x] } demoSt).strandAt 2 x.flight.ctx).kept = [] := by
  intro n _
  exact ⟨{ flight := fl 2 2048 0 (.atomReq 0x10000 0x10000 0 1 0 false) 7, resends := n }, rfl, rfl, rfl, rfl, by show Life.ready ≠ Life.free; decide, by show 0 < 64; decide, rfl⟩

/-! ### Witnesses: copies, streams, deals, the engine -/

/-- A strand with addresses of GDDR in g1 and g2 and lengths in g3 (64), g4 (2^32) and g5 (0), control words in g6 (plain), g7 (reserved bit)
and g8 (shaped at the source), a shape in g9, a length of its 16 bytes in g10, a core in g11, patterns in g12 and g13. -/
def copySt (e : List EngOp := []) (k : Core := {}) : State :=
  { mk { k with tvec := 0x2000, eng := e } { pc := 0x1000, sys := true, g := [(1, 0x10000), (2, 0x20000), (3, 64), (4, 2 ^ 32), (7, 0x4000), (8, 0xC00), (9, 0xFF0000000100), (10, 16), (11, 6), (12, 1024), (13, 0)] } with mem := shapeMem }
/-- The saddle that holds address 0, with a pattern for one spire. -/
def dealSt : State := mkOn 3072 { tvec := 0x2000, patA := 1024 } { pc := 0x1000, sys := true, g := [(1, 0x10000), (3, 64), (12, 1024), (13, 0)] }
def eng16 : List EngOp := List.replicate 16 { ctx := 0, order := 0, lix := none, job := .itland [] [] }
theorem witness_CopiesStreamsDeals : (∀ i ∈ ([.copy 0 6 1 2 3, .copy 0 6 1 2 4, .copy 0 6 1 2 5, .copy 0 7 1 2 3, .copy 0 8 9 2 10, .strmOpen 0 11,
      .strmClose 0 11] : List Instr), copySt.ReadyUnit i) ∧
    (∀ i ∈ ([.bdpat 0 12 13, .bdpat 0 13 13, .bdpat 0 12 1, .bdeal 0 6 14 3] : List Instr), dealSt.ReadyUnit i) ∧
    ctlOk (copySt.g 6) = true ∧ (copySt.g 6).getLsbD 12 = false ∧ ctlOk (copySt.g 7) = false ∧ 2 ^ 32 ≤ (copySt.g 4).toNat ∧ (copySt.g 5).toNat = 0 ∧
    (∃ gs, (copySt.xlated (copySt.g 1).toNat 64).segsOf (copySt.g 1).toNat 64 .rd = .ok gs) ∧
    (∃ gs, ((copySt.xlated (copySt.g 1).toNat 64).xlated (copySt.g 2).toNat 64).segsOf (copySt.g 2).toNat 64 .wr = .ok gs) ∧ copySt.me.eng.length < 16 ∧
    (copySt eng16).ReadyUnit (.copy 0 6 1 2 3) ∧ ¬ (copySt eng16).me.eng.length < 16 ∧
    ctlOk (copySt.g 8) = true ∧ (copySt.g 8).getLsbD 12 = false ∧ (copySt.g 8).getLsbD 10 = true ∧ (copySt.g 8).getLsbD 11 = true ∧
    inSp (copySt.g 9) 64 = true ∧ (∃ gs, copySt.segsOf (copySt.g 9).toNat 64 .rd = .ok gs) ∧
    (let h := parseShape (copySt.bytes (2 ^ 60 + 0x100) 64)
     h.ok = true ∧ fmtBytes h.fmt = 4 ∧ h.total * 4 = 16 ∧ ∃ el, copySt.elems h 4 .rd 0 h.total = .ok el) ∧
    copySt.destOk (copySt.g 11) = true ∧ copySt.me.ports.length < 2 ∧ copySt.me.ports.contains 6 = false ∧ (copySt.g 11).toNat < 2 ^ 20 ∧
    (copySt [] { ports := [6, 10] }).ReadyUnit (.strmOpen 0 11) ∧ (copySt [] { ports := [6, 10] }).ReadyUnit (.strmClose 0 11) ∧
    (copySt [] { ports := [6, 10] }).me.ports.contains 6 = true ∧ (dealSt.g 12).extractLsb' 10 10 ≠ 0 ∧ (dealSt.g 13).extractLsb' 10 10 = 0 ∧
    bitsOf (dealSt.g 1) 15 0 ≤ 1023 ∧ bitsOf (dealSt.g 12) 51 32 % 64 = 0 ∧ bitsOf dealSt.me.patA 19 10 ≠ 0 ∧
    64 % (64 * (bitsOf dealSt.me.patB 15 0 + 1)) = 0 ∧ (∃ gs, (dealSt.xlated (dealSt.g 14).toNat 64).segsOf (dealSt.g 14).toNat 64 .rd = .ok gs ∧
      ∀ g ∈ gs, (dealSt.xlated (dealSt.g 14).toNat 64).isLocal 3072 (g.ga % 2 ^ 52) = true) ∧
    (∀ k, k < 1 → bitsOf dealSt.me.patB 51 32 + k / (bitsOf dealSt.me.patA 29 20 + 1) * (64 * bitsOf dealSt.me.patB 31 16) + 64 ≤ 2 ^ 20) ∧
    dealSt.me.eng.length < 16 :=
  ⟨unit_all (by decide), unit_all (by decide), by decide, by decide, by decide, by decide, by decide, ok_of (by decide), ok_of (by decide), by decide, unit_of (by decide),
   by decide, by decide, by decide, by decide, by decide, by decide, ok_of (by decide), ⟨by decide, by decide, by decide, ok_of (by decide)⟩,
   by decide, by decide, by decide, by decide, unit_of (by decide), unit_of (by decide), by decide, by decide, by decide, by decide, by decide,
   by decide, by decide, ⟨[{ va := 0, ga := 0, n := 64 }], okEq (by decide), by decide⟩, by decide, by decide⟩
def segA : Seg := { va := 0x10000, ga := 0x10000, n := 64 }
def segB : Seg := { va := 0x20000, ga := 0x20000, n := 64 }
def barO : Obj := { bk := 1, num := 0, core := 2 }
def segH : Seg := { va := 2 ^ 47 + 64, ga := 2 ^ 51 + 64, n := 64 }
/-- An operation of the strand in context 0. -/
def opOf (j : EngJob) : EngOp := { ctx := 0, order := 0, lix := none, job := j }
/-- Core 2 with one operation in its engine queue and barrier 0 expecting 64 bytes. -/
def engSt (j : EngJob) (bad : List (Nat × Bool) := []) : State := { mk { eng := [opOf j], bars := [(0, { target := 1, xbytes := 64 })] } demoSt with bad := bad, spires := [(0, { engTurn := 1 })] }
def cpA (b : Seg) (o : Obj) : EngJob := .copy (.mem [segA]) [b] o 0 true false
def del4 : DrainEl := { pa := 0x20000, va := 0x20000, n := 4, v := 7 }
/-- The last piece of a copy from a scratchpad. -/
def cpA8 : EngJob := .copy (.mem [{ va := 0xFF0000000100, ga := 2 ^ 60 + 0x100, n := 8 }]) [segB.part 0 8] barO 56 true false
/-- The engine operations that EngineSteps speaks of. -/
def engJobs : List EngJob := [cpA segB {}, cpA segB barO, cpA segH {}, cpA8, .copy (.line (List.replicate 64 1) []) [segB] {} 0 true false, .drain false 1 [del4], .drain true 11 [del4],
  .drain true 1 [{ del4 with v := 0x3F800000 }], .landing (.bytes (List.replicate 64 1) none) [segB] 0 0, .itland [segA] [segB],
  .deal [segA] 1024 0 64 {} 0]
/-- A job does not set what the hypotheses ask about. -/
theorem down_engSt (j : EngJob) (e ga : Nat) : (engSt j).readDown e ga = false := by
  simp [State.readDown, State.backDown, State.gaDown, State.linkDown, State.islandOff, engSt, mk, State.reset, fget]
/-- Two elements of a drain in one line of a saddle, and one in the next: the first two are one piece. -/
def del8 : List DrainEl := [{ del4 with pa := 0x20004, va := 0x20004 }, { del4 with pa := 0x20040, va := 0x20040 }]
theorem witness_EngineSteps_drain : ((engSt (.drain false 1 (del4 :: del8))).coreAt 2).eng = [opOf (.drain false 1 (del4 :: ([del8[0]] ++ [del8[1]])))] ∧
    (sadOf del4.pa).isSome = true ∧ (∀ x ∈ [del8[0]], x.pa / 64 = del4.pa / 64) ∧ (∀ x ∈ [del8[1]].head?, x.pa / 64 ≠ del4.pa / 64) ∧
    (engSt (.drain false 1 (del4 :: del8))).engMay 2 = true ∧ (∀ x ∈ ([] : List DrainEl).head?, x.pa / 64 ≠ del4.pa / 64) ∧
    (sadOf (2 ^ 60)).isSome = false := by and_intros <;> decide
/-- An atomic to a region bound to barrier 0 waits in the send queue. -/
def bndCore : Core :=
  { binds := [{ base := 0x10000, len := 64, obj := barObj 2 0, lix := none }]
    sendq := [{ held := false, ctx := 0, dst := 3104, net := 0, lix := none, tag := 0, pay := .atomReq 0x10000 0x10000 0 1 0 false }] }
theorem witness_EngineSteps : (∀ j ∈ engJobs, ((engSt j).coreAt 2).eng = [opOf j] ∧ (engSt j).bad = [] ∧ (engSt j).soft = [] ∧
      (engSt j).engMay 2 = true ∧ (engSt j).storeAhead 2 0 [segA, segB.part 0 8] = false) ∧ (sadOf segA.ga).isSome = true ∧ (sadOf (2 ^ 60 + 0x100)).isSome = false ∧
    (engSt cpA8).objWaits 2 (opOf cpA8) barO = false ∧ ({ engSt cpA8 with net := [], cores := [(2, bndCore)] } : State).objWaits 2 { opOf cpA8 with order := 1 } barO = true ∧ (∀ j e ga, (engSt j).readDown e ga = false) ∧
    hostAt segB.ga = false ∧ hostAt segH.ga = true ∧ ((engSt (cpA segB barO)).bar 2 0).broken = false ∧ ((engSt (cpA segB barO)).bar 2 0).heldArr = [] ∧
    ((engSt (cpA segB barO)).bar 2 0).arrived ≠ ((engSt (cpA segB barO)).bar 2 0).target ∧
    (let s := engSt (cpA segB barO) [(0x10000, true)]
     s.badIn 0x10000 8 = some 0x10000 ∧ s.readDown 2 0x10000 = false ∧ s.writable 2 [segB.part 0 8] = (8, none) ∧ hostAt segA.ga = false ∧
     (s.bar 2 0).arrived ≠ (s.bar 2 0).target) ∧
    ((engSt (cpA segB {}) [(0x10000, true)]).strandAt 2 0).kept = [] ∧
    segA.n = 64 ∧ 64 % (64 * (bitsOf (0 : Word) 15 0 + 1)) = 0 ∧ (engSt (.deal [segA] 1024 0 64 {} 0)).linkDown 2 0 = false ∧
    (engSt (.deal [segA] 1024 0 64 {} 0)).away 0 = false := by
  refine ⟨by decide, by decide, by decide, by decide, by decide, down_engSt, ?_⟩
  and_intros <;> decide
/-- Out of its turn, and behind a posted store of its core. -/
theorem witness_EngineSteps_waits : ({ engSt (cpA segB {}) with spires := [] } : State).engMay 6 = false ∨
    ({ engSt (cpA segB {}) with net := [fl 2 2048 0 (.store 0x20000 8 0x20000 1)] } : State).storeAhead 2 1 [segB.part 0 8] = true := by decide
/-- Behind an atomic that is still in the send queue of its core. -/
theorem witness_EngineSteps_queued :
    ({ engSt (cpA segB {}) with cores := [(2, bndCore)] } : State).storeAhead 2 1 [segA.part 0 8] = true := by decide
theorem witness_EngineSteps_post :
    let f := fl 2 0 0 (.hostWr (2 ^ 51) (2 ^ 47) [1] 0 0 0 true)
    ({ State.reset with net := [f] } : State).net[0]? = some f ∧ ({ State.reset with net := [f] } : State).net.take 0 = [] := by decide

/-! ### Witnesses: tiles -/

/-- A stop: core 2, posting its semaphore, with a limit of 5. -/
def stop2 : Stop := { any := false, post := true, pol := 0, hold := 5, alt := 2, core := 2 }
def itin1 : Itin := { base := 0x10000, bytes := 64, tile := 9, stops := [stop2], segs := [segA] }
/-- A slot of core 2's spire with a tile that names it. -/
def slotIn (st : SlotSt) (it : Itin := itin1) : Slot := { base := 0xE0000, size := 4096, state := st, tile := 9, itin := it, owner := if st = .held then some 2 else none }
/-- Core 2 with slot 0 as given; g1 holds the tile's id, g2 an address in GDDR, g8 a record: header in g8's memory. -/
def tileSt (t : Slot) (m : List Host.Cell := []) : State :=
  { mk { tvec := 0x2000 } { pc := 0x1000, sys := true, g := [(1, 9), (2, 0x20000), (8, 0xFF0000000100)] } m with spires := [(0, { slots := [(0, t)] })] }
/-- A record: base 0x10000, 64 bytes, tile id 9, one stop at core 2; and one with a reserved bit set. -/
def recMem : List Host.Cell := [(2 ^ 60 + 0x102, 1), (2 ^ 60 + 0x10C, 9), (2 ^ 60 + 0x110, 2), (2 ^ 60 + 0x112, 0x20)]
def recMemBad : List Host.Cell := [(2 ^ 60 + 0x102, 1), (2 ^ 60 + 0x107, 0x80), (2 ^ 60 + 0x110, 2)]
/-- The same record with land = 1. -/
def recMemLand : List Host.Cell := [(2 ^ 60 + 0x102, 1), (2 ^ 60 + 0x108, 0x20), (2 ^ 60 + 0x10C, 9), (2 ^ 60 + 0x110, 2), (2 ^ 60 + 0x112, 0x20)]
def recB (s : State) (ok : Bool) : Bool :=
  match s.segsOf 0xFF0000000100 16 .rd, s.segsOf 0xFF0000000110 8 .rd with
  | .ok hb, .ok sb =>
    let raw (gs : List Seg) : List Byte := gs.flatMap fun g => s.bytes g.ga g.n
    let h0 := ofLe ((raw hb).take 8)
    let h1 := ofLe ((raw hb).drop 8)
    let ws := (wordsOf 1 (raw sb)).map (·.toNat)
    fld h1 3 0 == 0 && s.recordOk h0 h1 ws == ok && (!ok || (match s.segsOf (fld h0 47 0) (64 * (fld h0 57 48 + 1)) (if fld h1 5 5 == 1 then .rw else .rd) with
      | .ok gs => (match oneSaddle (granules (gs ++ gs)) with
        | some d => !s.queuedTo d
        | none => false)
      | .error _ => false))
  | _, _ => false
theorem witness_TileInstructions : (∀ i ∈ ([.itstat 0 3 0, .itstat 0 3 15, .ithold 0 3 1 0, .itrel 0 0, .itland 0 2 0, .itland 0 0 0, .itreq 0 8 0,
      .itreqX 0 8 3 0] : List Instr), (tileSt (slotIn .arrived)).ReadyUnit i) ∧
    (∀ t ∈ [SlotSt.free, .filling, .arrived, .held, .forwarding], (slotIn t).size ≠ 0 ∧ (tileSt (slotIn t)).slotAt 0 0 = slotIn t) ∧
    (tileSt (slotIn .held)).mySpire = 0 ∧ (slotIn .held).tile = ((tileSt (slotIn .held)).g 1).setWidth 32 ∧
    (tileSt (slotIn .arrived)).mayClaim 2 (slotIn .arrived) = true ∧ (slotIn .arrived).itin.stops[0]? = some stop2 ∧
    (slotIn .held).owner = some 2 ∧ (slotIn .held).gone = false ∧ (slotIn .held).itin.land = false ∧ (slotIn .held).itin.stops.length = 0 + 1 ∧
    (let t := slotIn .held { itin1 with stops := [stop2, stop2] }; let s := tileSt t
     t.itin.stops[0 + 1]? = some stop2 ∧ s.tileEnded none = false ∧ s.stopFails 2 0 64 = false ∧ s.linkDown 2 2 = false) ∧
    (∀ dest ∈ ([0x20000, 0x10000] : List Nat), dest % 64 = 0 ∧ isSpVa dest = false ∧ isHostVa dest = false ∧ dest < 2 ^ 48 ∧
      okB ((tileSt (slotIn .held)).segsOf dest 64 .wr) = true) ∧ okB ((tileSt (slotIn .held)).rewrite itin1.segs) = true ∧
    (tileSt (slotIn .held)).writing 0 (slotHit 0 (slotIn .held)) = false ∧ (tileSt (slotIn .held)).lrBusy 0 0 = false ∧
    (slotIn .held).stop < 16 ∧ okB (((tileSt (slotIn .held)).xlatedSegs itin1.segs).rewrite itin1.segs) = true ∧
    okB (((tileSt (slotIn .held)).xlated 0x20000 64).segsOf 0x20000 64 .wr) = true ∧ recB (tileSt (slotIn .free) recMemLand) true = true ∧ (tileSt (slotIn .held)).me.eng.length < 16 ∧
    inSp ((tileSt (slotIn .free)).g 8) (16 + 8 * 1) = true ∧ recB (tileSt (slotIn .free) recMem) true = true ∧
    recB (tileSt (slotIn .free) recMemBad) false = true :=
  ⟨unit_all (by decide), by and_intros <;> decide⟩
theorem witness_TileInstructions_gone : (tileSt { slotIn .held with gone := true }).ReadyUnit (.itrel 0 0) ∧
    ({ slotIn .held with gone := true } : Slot).gone = true ∧ ((tileSt (slotIn .held)).slotAt 0 15).size = 0 ∧
    (tileSt { slotIn .held with size := 0 }).ReadyUnit (.itstat 0 3 0) := ⟨unit_of (by decide), rfl, by decide, unit_of (by decide)⟩
/-- A copy of the strand into the slot stands in the engine queue. -/
theorem witness_TileInstructions_writing :
    let s : State := { tileSt (slotIn .held) with cores := [(2, { tvec := 0x2000, seqNo := 1, ctxs := [(0, { demoSt with life := .ready })]
                                                                  eng := [opOf (cpA { va := 0xFF00000E0000, ga := 2 ^ 60 + 0xE0000, n := 64 } {})] })] }
    s.ReadyUnit (.itrel 0 0) ∧ s.writing 1 (slotHit s.mySpire (s.slotAt s.mySpire 0)) = true := ⟨unit_of (by decide), by decide⟩
/-- A message to core c, with slot 0 of spire 0 as given. -/
def moveSt (c src : Nat) (p : Pay) (t : Slot := slotIn .free) (k : Core := {}) : State :=
  { State.reset with cores := [(c, k)], spires := [(0, { slots := [(0, t)] })], net := [fl src c 0 p 7] }
theorem down_moveSt (c src : Nat) (p : Pay) (t : Slot) (k : Core) (e ga : Nat) : (moveSt c src p t k).readDown e ga = false := by
  simp [State.readDown, State.backDown, State.gaDown, State.linkDown, State.islandOff, moveSt, State.reset, fget]
theorem witness_TileSteps : (moveSt 3104 2 (.tileReq itin1 [])).arriving 0 = some (fl 2 3104 0 (.tileReq itin1 []) 7) ∧
    ((moveSt 3104 2 (.tileReq itin1 []) (slotIn .free) { filter := [(none, 9)] }).coreAt 3104).filter.contains (itin1.lix, itin1.tile) = true ∧
    ¬ ((moveSt 3104 2 (.tileReq itin1 [])).coreAt 3104).filter.contains (itin1.lix, itin1.tile) = true ∧ itin1.segs = [segA] ∧ segA.n = itin1.bytes ∧
    (∀ e ga, (moveSt 3104 2 (.tileReq itin1 [])).readDown e ga = false) ∧ (moveSt 3104 2 (.tileReq itin1 [])).stopFails 2 0 64 = false ∧ (moveSt 3104 2 (.tileReq itin1 [])).linkDown 3104 2 = false ∧
    (answSt (.itreq 0 8 0) (.tileAns 0 0)).arriving 0 = some (fl 2048 2 1 (.tileAns 0 0) 7) ∧
    (∀ st ∈ [SlotSt.free, .filling, .held], (moveSt 2 3104 (.tile itin1 0 0 false [1, 2]) (slotIn st)).arriving 0 =
      some (fl 3104 2 0 (.tile itin1 0 0 false [1, 2]) 7) ∧ (moveSt 2 3104 (.tile itin1 0 0 false [1, 2]) (slotIn st)).slotAt 0 0 = slotIn st) ∧
    (moveSt 2 3104 (.repAck 0)).spireOf 2 = 0 ∧ (slotIn .filling).itin = itin1 ∧ (slotIn .filling).stop = 0 ∧ (slotIn .filling).divert = false ∧ (slotIn .filling).filledBy itin1 0 false = true ∧
    ({ slotIn .held with armed := true } : Slot).itin.stops[0]? = some stop2 ∧ stop2.pol = 0 ∧
    (slotIn .held { itin1 with stops := [{ stop2 with pol := 1 }] }).itin.stops.length = 0 + 1 ∧
    ((moveSt 2 2 (.repAck 0) (slotIn .forwarding)).spireAt 0).orphans = [] ∧
    (∀ e ∈ (moveSt 2 2 (.repAck 0) (slotIn .forwarding)).cores, e.2.eng = []) := by
  refine ⟨by rfl, by decide, by decide, rfl, rfl, down_moveSt _ _ _ _ _, by decide, by decide, by rfl, ?_, by decide, rfl, rfl, rfl, by decide, rfl, rfl, rfl, rfl, by decide⟩
  intro st h
  simp only [List.mem_cons, List.not_mem_nil, or_false] at h
  rcases h with rfl | rfl | rfl <;> exact ⟨rfl, rfl⟩
theorem witness_TileSteps_node :
    let f := fl 2 3104 0 (.tileReq itin1 []) 7
    let g := fl 6 3104 0 (.tileReq itin1 []) 1
    let s := { State.reset with net := [f], valleys := [(0, { node := [.tiles [g]] })] }
    s.nodeWaits f = false ∧ s.net[0]? = some f ∧ f.hops = [] ∧ (State.reset.valleyAt (State.reset.valleyAtPlace 2)).node = [] ∧ g.lix = f.lix ∧
    (s.valleyAt (s.valleyAtPlace 2)).node = [.tiles [g]] ∧
    (({ s with valleys := [(0, { node := [.tiles [f, g]] })] } : State).valleyAt 0).node = [.tiles [f, g]] := ⟨by decide, rfl, rfl, rfl, rfl, rfl, rfl⟩

/-! ### Witnesses: tasks and the scheduler -/

/-- g1 holds the first word of a record for 0x4000, g2 a reserved bit, g5 and g6 small numbers, g7 0x10000, g9 a core set. -/
def taskSt (k : Core := {}) (t : Strand := {}) : State :=
  mk { k with tvec := 0x2000 } { t with pc := 0x1000, sys := true, g := [(1, 0x4000), (2, 1), (5, 6), (6, 0), (7, 0x10000), (8, 0x1000000000004000), (9, 3), (10, 0x100000), (11, 63), (12, 2048), (13, 2050)] }
def rec0 : TaskRec := { succ := false, cmpt := false, prio := 1, banks := 0, lix := none, entry := 0x4000, a1 := 1, a2 := 2, a3 := 3 }
theorem witness_TaskInstructions : (∀ i ∈ ([.spawn 0 1 0, .spawn 0 8 1, .spawn 0 2 0, .spawnR 0 1 5 0, .spawnR 0 1 10 0, .trig 0, .awaitEv 11 6, .awaitEv 11 5,
      .awaitEv 7 6] : List Instr), taskSt.ReadyUnit i) ∧ (∀ i ∈ ([.yield, .halt 0 0, .halt 1 1, .halt 8 0, .cmp 9, .dcmp] : List Instr), taskSt.ReadyUnit i) ∧
    (∀ r ∈ ([1, 8] : List (BitVec 4)), (taskSt.g r).extractLsb' 62 2 = 0 ∧ (taskSt.g r).extractLsb' 37 5 = 0 ∧ (taskSt.g r).extractLsb' 0 2 = 0) ∧
    isCompute taskSt.core = true ∧ (taskSt.g 8).getLsbD 60 = true ∧ (taskSt.g 2).extractLsb' 0 2 ≠ 0 ∧ taskSt.me.deque.length < 128 ∧
    ((taskSt.g 5).toNat < 2 ^ 20 ∧ taskSt.inDomain (pkgOf 6) = true ∧ isSaddle 6 = false ∧ isCompute 6 = true) ∧ 2 ^ 20 ≤ (taskSt.g 10).toNat ∧
    (fget ([] : List TaskRec) (taskSt.plainAt 0).shadows 6).length < 64 ∧ taskSt.unacked 2 0 = false ∧ taskSt.writing 0 (fun _ => true) = false ∧ (postSt.ReadyUnit (.trig 0) ∧ postSt.writing 1 (fun _ => true) = true) ∧
    (taskSt.ReadyUnit (.spawnR 0 1 12 0) ∧ isSaddle (taskSt.g 12).toNat = true ∧ taskSt.badSaddle (taskSt.g 12).toNat = false) ∧
    ((taskSt.g 13).toNat < 2 ^ 20 ∧ isSaddle (taskSt.g 13).toNat = true ∧ taskSt.badSaddle (taskSt.g 13).toNat = true) ∧ taskSt.st.left = [] ∧
    ((taskSt { steal := .back, deque := [rec0] }).me.steal = .back ∧ taskSt.me.steal ≠ .back) ∧
    taskSt.st.kept.any (fun k => k.kind == 0) = false ∧ (taskSt {} { cond := true }).ReadyUnit (.awaitEv 11 5) ∧ taskSt.st.tHab = false ∧ taskSt.st.cmp = false ∧ (taskSt {} { hnd := true }).ReadyUnit (.halt 0 0) ∧
    (taskSt.g 11).toNat < 64 ∧ (taskSt.ec 2 63).toNat < (taskSt.g 5).toNat ∧ (taskSt.g 6).toNat ≤ (taskSt.ec 2 63).toNat ∧ 64 ≤ (taskSt.g 7).toNat ∧
    (taskSt.g 9).extractLsb' 16 48 = 0 ∧ (taskSt.g 9).getLsbD 0 = true ∧ taskSt.memberBusy 2 = false ∧ taskSt.memberBusy 6 = false ∧
    ({ taskSt with cores := taskSt.cores ++ [(6, { leader := some 10 })] } : State).memberBusy 6 = true ∧
    (taskSt { members := [2, 6], leader := some 2 } { cmp := true }).ReadyUnit .dcmp :=
  by and_intros <;> first | exact unit_all (by decide) | exact unit_of (by decide) | decide
/-- Full: a deque of 128 records (by the length of a list of copies), a shadow of 64. -/
theorem witness_TaskInstructions_full : 128 ≤ (mk { deque := List.replicate 128 rec0 } demoSt).me.deque.length ∧
    64 ≤ (fget ([] : List TaskRec) (({ State.reset with plains := [(0, { shadows := [(6, List.replicate 64 rec0)] })] } : State).plainAt 0).shadows 6).length :=
  ⟨by rw [show (mk { deque := List.replicate 128 rec0 } demoSt).me.deque = List.replicate 128 rec0 from rfl, List.length_replicate],
   by rw [show fget ([] : List TaskRec) (({ State.reset with plains := [(0, { shadows := [(6, List.replicate 64 rec0)] })] } : State).plainAt 0).shadows 6 =
        List.replicate 64 rec0 from rfl, List.length_replicate]⟩
/-- Core 2 idle with a record, core 6 with one that may be stolen. -/
def schedSt (a b : Core) : State := { State.reset with cores := [(2, a), (6, b)], launches := [(0, { st := .placed, cores := [2, 6] })] }
def recL : TaskRec := { rec0 with lix := some 0 }
theorem witness_SchedulerSteps : fget ([] : List TaskRec) (({ State.reset with plains := [(0, { shadows := [(2, [rec0])] })] } : State).plainAt 0).shadows 2 = [rec0] ∧
    ((schedSt { deque := [recL] } {}).strandAt 2 0).life = .free ∧ (schedSt { deque := [recL] } {}).startable 2 = true ∧
    (schedSt { deque := [recL] } {}).pickRec 2 = some 0 ∧ rec0.ret = 0 ∧ (schedSt {} { deque := [recL, recL] }).idle 2 = true ∧
    (schedSt {} { deque := [recL, recL] }).victim 2 = some (6, true) ∧ (schedSt { steal := .back } { deque := [recL, recL] }).victim 2 = some (6, true) ∧
    stealIx true [0] [recL, recL] = some 1 ∧ stealIx false [1] [recL] = none ∧ (schedSt {} {}).recEnded recL = false ∧
    (let s := mk { wdog := 2 } { demoSt with wd := 3 }
     s.me.ranked = [(0, s.st)] ∧ s.st.wd + 0 < 2 ^ bitsOf s.me.wdog 4 0 ∧ 2 ^ bitsOf s.me.wdog 4 0 ≤ s.st.wd + 1 ∧ s.st.life = .ready) ∧
    (let s := mk { tvec := 0x2000 } { demoSt with found := some ({ code := 0x10, info := 0 }, 0x1000) }
     s.st.found = some ({ code := 0x10, info := 0 }, s.st.pc) ∧ s.st.pend = [] ∧ s.st.tAct = false ∧ bitsOf s.me.tvec 47 2 ≠ 0) :=
  ⟨rfl, by decide, by decide, by decide, rfl, by decide, by decide, by decide, by decide, by decide, by decide, ⟨by rfl, by decide, by decide, by rfl⟩,
   ⟨rfl, rfl, rfl, by decide⟩⟩
theorem witness_SchedulerSteps_steal : (fl 6 2 5 (.steal true [0])).pay = .steal true [0] ∧ (schedSt { deque := [recL] } {}).net = [] ∧
    ((schedSt {} {}).coreAt 2).lost = false ∧ ((schedSt {} {}).coreAt 2).leader = none ∧ ((schedSt { refusals := 3 } {}).coreAt 2).refusals = 3 ∧
    (let s := schedSt { steal := .askv } {}
     let u := s.modCore 2 fun c => { c with steal := .run, refusals := 0 }
     s.recEnded recL = false ∧ 5 < ctxCount 2 ∧ (s.strandAt 2 5).life = .free ∧ u.startable 2 = true ∧ u.mayStart 2 1000 recL = true) ∧
    (schedSt { deque := [recL], steal := .back } {}).mayStart 2 0 recL = true :=
  ⟨rfl, rfl, rfl, rfl, rfl, by decide, by decide⟩
/-- A core whose contexts all wait, while a message waits for a handler: a strand parks; and a core with one parked strand. -/
def parkSt : State := { State.reset with cores := [(2, { ctxs := (List.range 8).map fun x => (x, { life := .waiting }), rq := [(0, { next := 1, msgs := [msg8] })] })] }
theorem witness_SchedulerSteps_park : parkSt.me.handlerWaits = true ∧ parkSt.hasFree 2 = false ∧ parkSt.freeCtxOf 2 = none ∧ parkSt.me.frozen = false ∧
    parkSt.me.parkPick = some (0, parkSt.strandAt 2 0) ∧ parkSt.freeImage 2 (parkSt.strandAt 2 0) = some (2 ^ 60 + 0xF8000, 0xFF00000F8000, true) ∧ parkSt.bad = [] :=
  ⟨by decide, by decide, by decide, by decide, by rfl, by decide, rfl⟩
def backSt : State := { State.reset with cores := [(2, { parked := [{ image := 2 ^ 60 + 0xF8000, va := 0xFF00000F8000, inSpill := true, order := 0, strand := {} }] })] }
theorem witness_SchedulerSteps_restore : (backSt.strandAt 2 0).life = .free ∧ backSt.me.handlerWaits = false ∧ backSt.me.leader = none ∧
    backSt.parkedReady 2 { image := 2 ^ 60 + 0xF8000, va := 0xFF00000F8000, inSpill := true, order := 0, strand := {} } = true ∧
    backSt.readDown 2 (2 ^ 60 + 0xF8000) = false ∧ backSt.bytes (2 ^ 60 + 0xF8000) 128 = Strand.image {} := ⟨by decide, by decide, by decide, by decide, by decide, by decide⟩

/-! ### Witnesses: migration, collectives, links -/

/-- A page table at 0x10000 whose every level maps address 0: directory entries at level 0 to 2, a 64 KiB page at level 3. -/
def ptMem : List Host.Cell := [(0x10000, 1), (0x10002, 2), (0x20000, 1), (0x20002, 3), (0x30000, 1), (0x30002, 4), (0x40000, 0x1F), (0x40002, 5)]
def walkSt : State := { mk { tvec := 0x2000 } { demoSt with lix := some 0 } ptMem with launches := [(0, { st := .placed, root := 0x10000 })] }
def ent1 : TlbEnt := { lix := 0, size := 65536, page := 0, base := 0x50000, perm := 7 }
def endedSt : Strand := { demoSt with lix := some 0 }
theorem witness_MigrationSteps : (moveSt 3104 2 (.migr demoSt)).arriving 0 = some (fl 2 3104 0 (.migr demoSt) 7) ∧
    (moveSt 3104 2 (.migr demoSt)).freeCtxOf 3104 = some 0 ∧
    (moveSt 3104 2 (.migr demoSt) (slotIn .free) { ctxs := (List.range 64).map fun x => (x, { demoSt with life := .ready }) }).arriving 0 = some (fl 2 3104 0 (.migr demoSt) 7) ∧
    (moveSt 3104 2 (.migr demoSt) (slotIn .free) { ctxs := (List.range 64).map fun x => (x, { demoSt with life := .ready }) }).freeCtxOf 3104 = none ∧
    walkSt.st.lix = some 0 ∧ walkSt.walk 2 0x1234 4 0 (walkSt.launchAt 0).root = .ok (0x50000, 65536, 7) ∧
    tlbFind 0 0x1234 (walkSt.sharedTlb 2) = none ∧ walkSt.soft = [] ∧
    tlbFind 0 0x1234 (({ walkSt with valleys := [(0, { tlb := [ent1] })] } : State).sharedTlb 2) = some ent1 ∧
    (moveSt 3104 2 (.migr demoSt)).over none = false ∧ ({ moveSt 3104 2 (.migr endedSt) with launches := [(0, { st := .ended })] } : State).over endedSt.lix = true ∧
    demo.noFill 2 = true ∧ demo.movesOf 2 = [] ∧
    isSaddle 2 = false ∧ demo.me.frozen = false ∧ demo.me.lost = false ∧ demo.me.leader = none ∧ demo.me.ctxs.any (fun e => e.2.hnd) = false ∧
    (∀ e ∈ demo.me.ctxs, e.2.pend = [] ∧ e.2.left = []) ∧ demo.me.parked = [] ∧ demo.freezeReason 2 = true ∧
    (mk { leader := some 2, members := [2, 6] } { demoSt with pc := 0x1004, cmp := true }).me.atBlock = false ∧ (State.reset.plainAt 0).spareFor = none ∧
    16 ≤ fget 0 ({ State.reset with corrLine := [(0x40, 16)] } : State).corrLine 0x40 :=
  ⟨by rfl, by decide, by decide +kernel, by decide +kernel, rfl, okEq (by decide), by decide, rfl, by decide, by decide, by decide, by decide,
   by decide, by decide, rfl, rfl, rfl, by decide, by decide, rfl, by decide +kernel, by decide, rfl, by decide⟩
/-- Core 2 frozen and settled, its move asked for by the host; core 6 free. -/
def frozenSt : State :=
  { mk { frozen := true } demoSt with queues := [(0, { taken := [{ seq := 0, kind := 3, ws := [0, 2], busy := true }] })] }
theorem witness_MigrationSteps_switch : frozenSt.targetOk 2 6 = true ∧ frozenSt.moveReason [2] 2 6 = true ∧
    frozenSt.wholeSpire 2 = false ∧ frozenSt.canMove [2] (frozenSt.spireOf 6) false = true ∧
    frozenSt.spireOf 6 ≠ frozenSt.spireOf 2 ∧ (∀ y, (demo.strandAt 2 y).pend = []) :=
  ⟨by decide +kernel, by decide, by decide +kernel, by decide +kernel, by decide, fun y => by
    by_cases h : (0 : Nat) = y <;> simp [demo, mk, State.strandAt, State.coreAt, State.reset, fget, demoSt, h]⟩
/-- A forwarding entry of place 2, with a message that must still pass it and without one; the two cores of spire 0 frozen. -/
theorem witness_MigrationSteps_rest : fget ([] : List Nat) ({ State.reset with fwd := [(2, [2, 6])] } : State).fwd 2 = 2 :: [6] ∧
    State.reset.net.any (fun f => f.dst == 2 && f.hops.contains 2) = false ∧
    ([{ fl 6 2 0 (.repAck 0) with hops := [2] }] : List Flight).any (fun f => f.dst == 2 && f.hops.contains 2) = true ∧
    (let s : State := { State.reset with cores := [(0, { frozen := true }), (2, { frozen := true })] }
     s.numAt 0 = some 0 ∧ s.numAt 2 = some 2 ∧ (s.spireAt 0).orphans = [] ∧ (s.valleyAt 0).spareUsed = false ∧
     (s.modSpire (sparePlace 0 / 4) fun k => { k with carve := {}, carved := false, slots := ({} : Carve).slots.zipIdx.map fun e =>
       (e.2, { base := e.1.base, size := e.1.size }) }).canMove [0, 2] (sparePlace 0 / 4) true = true ∧
     ({ s with valleys := [(0, { spareUsed := true })] } : State).freeSpireFor 0 = some 4 ∧ s.canMove [0, 2] (s.spireOf 4) true = true) ∧
    (({ State.reset with spires := [(0, { orphans := [{ op := opOf (.itland [segA] []), stage := 0, comp := 0 }] })] } : State).spireAt 0).orphans ≠ [] ∧
    demo.me.launchesOn = [] ∧ walkSt.me.launchesOn = [(0, 0x1000)] ∧ (walkSt.launchAt 0).st = .placed ∧ (walkSt.launchAt 0).why = none :=
  ⟨rfl, rfl, by decide, by decide +kernel, by decide, rfl, rfl, rfl, rfl⟩
/-- A descriptor at 0x100 of the scratchpad: table at 0x20000, one participant, one tile, counter 0 of core 2; its table's one entry. -/
def collMem : List Host.Cell := [(0x20002, 3), (0x2000A, 4), (0x2001A, 1), (2 ^ 60 + 0x102, 2), (2 ^ 60 + 0x108, 1), (2 ^ 60 + 0x10C, 1),
  (2 ^ 60 + 0x110, 5), (2 ^ 60 + 0x118, 2)]
def collSt (cs : List Coll := []) : State :=
  { mk { tvec := 0x2000 } { pc := 0x1000, sys := true, g := [(1, 0), (2, 0), (8, 0xFF0000000100)] } collMem with colls := cs }
def ent0 : TileEnt := { src := [segA], dst := [segB], op := 0, bytes := 64, ps := 0, pn := 1, p0 := 0 }
def coll0 (ready : List Nat := []) : Coll :=
  { tower := 0, handle := 0, lix := none, group := 5, rank := 0, np := 1, nt := 1, chk := 0, ec := 0, ecore := 2, prio := false, det := false, ents := [(0, ent0)], ready := ready }
def cfgB (s : State) : Bool :=
  match s.segsOf 0xFF0000000100 64 .rd with
  | .ok gs =>
    let d := parseColl (gs.flatMap fun g => s.bytes g.ga g.n)
    d.ok && s.coreNum d.ecore && d.nt == 1 && decide (d.tab + 32 * d.nt ≤ 2 ^ 37) && (match s.segsOf d.tab (32 * d.nt) .rd with
      | .ok ts => okB (s.parseTiles d false 0 d.nt (ts.flatMap fun g => s.bytes g.ga g.n))
      | .error _ => false)
  | .error _ => false
theorem witness_CollectivesAndLinks : collSt.ReadyUnit (.collCfg 0 3 8 2) ∧ (collSt.g 2).toNat < 4 ∧ inSp (collSt.g 8) 64 = true ∧ cfgB collSt = true ∧
    collSt.bad = [] ∧ collSt.soft = [] ∧ (∃ h, h < 256 ∧ ∀ x ∈ collSt.colls, x.tower = towerOf collSt.core → x.handle ≠ h) ∧
    (collSt [coll0]).ReadyUnit (.collRdy 0 1 2) ∧ towerOf 2 = 0 ∧ (collSt [coll0]).colls.find? (fun x => x.tower == towerOf 2 && x.handle == 0) = some coll0 ∧
    coll0.ents.any (fun p => p.1 == 0) = true ∧ coll0.ready.contains 0 = false ∧ (coll0 [0]).ready.contains 0 = true ∧
    collSt.unacked 2 0 = false ∧ (collSt [coll0]).writing 0 (coll0.reads 0) = false ∧ (collSt [coll0]).me.seqNo = 0 ∧ collSt.ownTowerDown = false ∧
    collSt.launchCore 2 = true ∧ (collSt [coll0 [0]]).mayRun 20000 5 0 = true ∧
    ({ collSt [{ coll0 [0] with prio := true }] with fired := [(16384, 5, 0)] } : State).mayRun 20000 5 1 = false ∧
    (collSt [coll0]).fires 20000 5 0 = none ∧ (collSt [coll0 [0]]).fires 20000 5 0 = some (ent0, [coll0 [0]]) ∧ agree ent0 0 [coll0 [0]] = true ∧
    agree { ent0 with op := 3 } 0 [coll0 [0]] = false ∧ (collSt [coll0 [0]]).collOf 20000 5 = [coll0 [0]] ∧ (coll0 [0]).ent 0 = some ent0 ∧
    (ent0.contributors 1).contains 0 = true ∧ ((collSt [coll0 [0]]).coreAt 2).armed = [] ∧ 0 * (4096 * 2 ^ 0) < ent0.bytes ∧
    (collSt [coll0 [0]]).staged (coll0 [0]) 0 0 0 = [] ∧ Nat.min 4096 (ent0.bytes - 0) = 64 ∧
    (let s : State := { collSt [coll0 [0]] with contribs := [{ lix := none, group := 5, tile := 0, rank := 0, run := 0, chunk := 0, data := List.replicate 64 1 }] }
     (s.staged (coll0 [0]) 0 0 0).length = 64) ∧ (collSt [coll0 [0]]).links = [] ∧ (collSt [coll0 [0]]).contribs = [] :=
  ⟨unit_of (by decide), by decide, by decide, by decide, rfl, rfl, ⟨0, by decide, by decide⟩, unit_of (by decide), by and_intros <;> decide⟩
theorem witness_CollectivesAndLinks_link : (fget ({} : Link) State.reset.links 0).failed < 2 ∧ 0 = (fget ({} : Link) State.reset.links 0).expect.toNat ∧
    5 ∉ (fget ({} : Link) State.reset.links 0).replay ∧ (fget ({} : Link) State.reset.links 0).replay.length < 2048 ∧
    ((0 : BitVec 16) - BitVec.ofNat 16 0).toNat ≤ 2048 := ⟨by decide, by decide, by decide, by decide, by decide⟩
/-- A posted store to a tile's source is under way; no island is off. -/
theorem witness_CollectivesAndLinks_waits :
    (let s : State := { mk { tvec := 0x2000, seqNo := 1 } { pc := 0x1000, sys := true, g := [(1, 0), (2, 0)] } with
                        colls := [coll0], net := [fl 2 2048 0 (.store 0x10000 8 0x10000 1)] }
     s.ReadyUnit (.collRdy 0 1 2) ∧ s.writing 1 (coll0.reads 0) = true) ∧
    (∀ n, (collSt [coll0 [0]]).islandOff n = false) ∧ ∀ e ga, (collSt).readDown e ga = false :=
  ⟨⟨unit_of (by decide), by decide⟩, fun n => by simp [State.islandOff, collSt, mk, State.reset, fget],
   fun e ga => by simp [State.readDown, State.backDown, State.gaDown, State.linkDown, State.islandOff, collSt, mk, State.reset, fget]⟩

/-! ### Witnesses: the cache -/

/-- Cells of little-endian bytes at an address. -/
def cells (a : Nat) (bs : List Byte) : List Host.Cell := (bs.zipIdx.filter fun p => p.1 != 0).map fun p => (a + p.2, p.1)
/-- Descriptor at 0x100: one holder, its list at 0x200, cache handler 0x5000, table at 0x10000, slots at 0x20000, 2 slots, D = d. -/
def descMem (d : Nat) : List Host.Cell :=
  cells (2 ^ 60 + 0x100) (leBytes 8 0x200 ++ leBytes 8 0x5000 ++ leBytes 8 (0x10000 * 2 ^ 20 + 0x20000) ++ leBytes 8 (2 * 256 + d - 1)) ++
  cells (2 ^ 60 + 0x200) (leBytes 4 2)
def desc1 : Cd := { n := 1, list := 0x200, hnd := 0x5000, tbl := 0x10000, slots := 0x20000, nsl := 2, d := 1 }
/-- A message of key (1, 0) from core 6, tag 9, with words 3 and 4 given, part 0. -/
def cmsg (op w3 w4 : Nat) : CacheHeld := { ws := [cacheW0 op 0 0 1, w64 (9 * 2 ^ 48 + 0x6000), w64 6, w64 w3, w64 w4, w64 0x50000], src := 6, lix := none }
def rmsg (m : CacheHeld) : RMsg := { line := 0, n := 1, hdr0 := w64 m.src, hdr1 := 0x5000, ws := m.ws, held := false, lix := m.lix }
/-- The home with a message in its request queue, and with an entry of state st, fill and reference count for the key, if any. -/
def cacheSt (m : CacheHeld) (e : Option (Nat × Nat × Nat) := none) (k : Core := {}) (d : Nat := 1) : State :=
  let s : State := { State.reset with cores := [(2, { k with rq := [(0, { msgs := [rmsg m] })] })], mem := descMem d, spires := [(0, { up := 0xFF })] }
  match e with
  | none => s
  | some (st, fill, ref) => s.putCent 2 desc1 (CEnt.new (cacheKey 1 0 % 256) st fill 1 0 (liveD1 0 0 0 ref))
/-- The handler's turn: whether it may take the message, and the state of the entry it finds. -/
def turnB (s : State) (op : Nat) (st : Option Nat) (room : Nat) : Bool :=
  s.bad.isEmpty && s.soft.isEmpty && (s.spireAt (s.spireOf 2)).up == 0xFF &&
  match s.nextCache 2 (s.cacheDesc 2 0x100) op with
  | none => false
  | some (r, t) =>
    (!(op == 1 || op == 3) || decide ((s.cacheDesc 2 0x100).parts ≤ r.cache.part + 1)) && (t.coreAt 2).cacheParts.isEmpty &&
      ((t.lookupKey 2 (s.cacheDesc 2 0x100) r.cache.seq r.cache.b).map (·.st) == st) && decide ((t.coreAt 2).sqCount + room ≤ (t.coreAt 2).sqDepth)
theorem turn_of {s : State} {op room : Nat} {st : Option Nat} (h : turnB s op st room = true) : ∃ m u, s.CacheTurn 2 0x100 op m [m] u ∧
    (u.lookupKey 2 (s.cacheDesc 2 0x100) m.seq m.b).map (·.st) = st ∧ (u.coreAt 2).sqCount + room ≤ (u.coreAt 2).sqDepth := by
  unfold turnB at h
  split at h
  · exact absurd h (by simp)
  · next r t e =>
    simp only [Bool.and_eq_true, Bool.or_eq_true, Bool.not_eq_true', Bool.or_eq_false_iff, beq_eq_false_iff_ne, decide_eq_true_eq, List.isEmpty_iff,
      beq_iff_eq] at h
    obtain ⟨⟨⟨b1, b2⟩, b3⟩, ⟨⟨h1, h2⟩, h3⟩, h4⟩ := h
    refine ⟨r.cache, t, ⟨⟨b1, b2, b3⟩, r, t, e, rfl, ?_, ?_, ?_⟩, h3, h4⟩
    · intro o
      rcases h1 with ⟨n1, n3⟩ | h1
      · rcases o with o | o
        · exact absurd o n1
        · exact absurd o n3
      · exact h1
    · simp [h2]
    · simp [h2]
/-- The turns that CacheMessages speaks of: op, its words 3 and 4, the entry, room in the send queue. -/
def turns : List (Nat × Nat × Nat × Option (Nat × Nat × Nat) × Nat) := [
  (6, 0, 0, some (2, 0, 1), 0), (6, 0, 0, some (3, 0, 1), 1), (1, 0, 0, none, 1), (1, 0, 1, some (1, 1, 1), 1), (3, 0, 0, none, 1),
  (3, 0, 0, some (1, 0, 1), 1), (3, 0, 0, some (1, 63, 2), 1), (5, 0, 64, some (1, 64, 1), 1), (5, 2, 1, some (1, 1, 1), 1), (5, 0, 1, some (1, 0, 1), 1),
  (6, 0, 0, some (1, 0, 2), 0), (6, 0, 0, some (1, 0, 1), 0), (6, 0, 0, some (5, 0, 1), 1), (7, 10, 0, some (5, 0, 0), 1), (7, 10, 0x50000, some (1, 1, 1), 1),
  (8, 0x50000, 1, none, 1), (8, 0x50000, 2 ^ 32 + 1, none, 1), (8, 0, 2 * 2 ^ 32, none, 1), (10, 5, 0, none, 1), (10, 5, 0, some (1, 0, 1), 2)]
theorem witness_CacheMessages : ∀ q ∈ turns, ∃ m u, (cacheSt (cmsg q.1 q.2.1 q.2.2.1) q.2.2.2.1).CacheTurn 2 0x100 q.1 m [m] u ∧
    (u.lookupKey 2 ((cacheSt (cmsg q.1 q.2.1 q.2.2.1) q.2.2.2.1).cacheDesc 2 0x100) m.seq m.b).map (·.st) = q.2.2.2.1.map (·.1) ∧
    (u.coreAt 2).sqCount + q.2.2.2.2 ≤ (u.coreAt 2).sqDepth := fun q h =>
  turn_of (List.all_eq_true.mp (by decide +kernel : turns.all (fun q => turnB (cacheSt (cmsg q.1 q.2.1 q.2.2.1) q.2.2.2.1) q.1 (q.2.2.2.1.map (·.1)) q.2.2.2.2) = true) q h)
/-- The message is the head, or waits with its like for its last part; places and blocks can be read; the core it names can be answered,
core 5 cannot; a full send queue; a context that an abort can use; a slot with an uncorrectable word. -/
theorem witness_CacheMessages_rest : (cacheSt (cmsg 2 0 0)).cacheHead 2 = some (rmsg (cmsg 2 0 0)) ∧ (cmsg 2 0 0).op = 2 ∧
    (∀ o ∈ [1, 2, 4], (rmsg (cmsg o 0 0)).cache = cmsg o 0 0) ∧ (rmsg (cmsg 4 0 0)).hdr1 = 0x5000 ∧
    (cacheSt (cmsg 4 0 0)).cacheHead 2 = some (rmsg (cmsg 4 0 0)) ∧ (cacheSt (cmsg 4 0 0)).lookupKey 2 desc1 1 0 = none ∧
    ((cacheSt (cmsg 9 0 0) (some (2, 0, 1))).lookupKey 2 desc1 1 0).map (·.st) = some 2 ∧
    (cacheSt (cmsg 9 0 0)).cacheDesc 2 0x100 = desc1 ∧ (cacheSt (cmsg 1 0 0)).me.cacheHeld = [] ∧
    ((cacheSt (cmsg 1 0 0) none {} 49).nextCache 2 ((cacheSt (cmsg 1 0 0) none {} 49).cacheDesc 2 0x100) 1).map (·.1) = some (rmsg (cmsg 1 0 0)) ∧
    (cmsg 1 0 0).part + 1 < ((cacheSt (cmsg 1 0 0) none {} 49).cacheDesc 2 0x100).parts ∧
    (cacheSt (cmsg 3 0 0)).insertIx 2 desc1 1 0 = some (cacheKey 1 0 % 256) ∧ (cacheSt (cmsg 3 0 0)).freeSlot 2 desc1 = some 0 ∧
    (cacheSt (cmsg 1 0 0)).sendChk (w64 6) (w64 0x6000) = none ∧ (cacheSt (cmsg 1 0 0)).sendChk (w64 2) (w64 0x5000) = none ∧
    (cacheSt (cmsg 1 0 0)).destOk (w64 5) = false ∧ ((cacheSt (cmsg 1 0 0) none { sqcfg := 0x101, sendq := one }).coreAt 2).sqDepth ≤
      ((cacheSt (cmsg 1 0 0) none { sqcfg := 0x101, sendq := one }).coreAt 2).sqCount ∧
    (let s := cacheSt (cmsg 1 0 0) (some (1, 1, 1)) { tvec := 0x2000 }
     bitsOf (s.coreAt 2).tvec 47 2 ≠ 0 ∧ s.over none = false ∧ s.freeCtxOf 2 = some 0 ∧
     (let u : State := { s with bad := [(2 ^ 60 + 0x20000, true)] }
      u.badIn (u.spAt 2 (desc1.slotOff 0)) desc1.row = some (2 ^ 60 + 0x20000) ∧ u.badIn (u.spAt 2 0x100) 32 = none)) := by
  decide +kernel
def doneB : Served → Bool
  | .done _ => true
  | _ => false
theorem witness_CacheMessages_copies : doneB ((cacheSt (cmsg 5 2 1) (some (1, 1, 1))).stageOut 2 desc1 none 0 0x50000 (desc1.ranges 1)) = true ∧
    doneB ((cacheSt (cmsg 8 0x50000 (2 ^ 32 + 1))).stageIn 2 desc1 none 0 0x50000 (desc1.ranges 1)) = true := by decide +kernel
/-- A last RELEASE that core 6 has sent on to core 2 through its stub, and one that no stub has. -/
def stubSt : State := ((cacheSt (cmsg 6 0 0) (some (1, 0, 1))).putCent 6 desc1 (CEnt.new (cacheKey 1 0 % 256) 3 0 1 0 2)).modCore 6 fun k =>
  { k with passed := [cmsg 6 0 0] }
theorem witness_CacheMessages_stub :
    (let s := cacheSt (cmsg 6 0 0) (some (1, 0, 1))
     (s.coreAt 6).passed.find? (fun x => x.ws == (cmsg 6 0 0).ws) = none) ∧
    (match stubSt.nextCache 2 desc1 6 with
      | some (r, u) =>
        let m := r.cache
        (u.coreAt m.src).passed.find? (fun x => x.ws == m.ws) == some (cmsg 6 0 0) && (match u.lookupKey 2 desc1 m.seq m.b with
        | some e =>
          let w := (u.putCent 2 desc1 ((e.withRef 0).withSt 4)).modCore m.src fun k => { k with passed := k.passed.erase (cmsg 6 0 0) }
          e.st == 1 && decide (e.ref ≤ 1) && (w.coreAt 6).passed.isEmpty && (w.lookupKey m.src desc1 m.seq m.b).map (fun e => (e.st, e.nhome)) == some (3, 2)
        | none => false)
      | none => false) = true := by decide +kernel

/-! ### Witnesses: host queues, launches, the controller -/

/-- Queue 0 as given, of a booted device; its ring at 0x100000 and its completion ring at 0x200000 of host memory. -/
def ringQ : HQueue := { base := 0x100, cbase := 0x200, en := true, act := true, err := false, tail := 1, cons := 0, cprod := 0, chead := 0 }
def hostSt (h : HQueue) (m : List Host.Cell := []) (booted : Bool := true) : State :=
  { State.reset with queues := [(0, h)], mem := m, henud := { booted := booted } }
/-- A launch entry with sequence number 1, or another, or a reserved kind. -/
def entMem (seq kind : Byte) : List Host.Cell := [(2 ^ 51 + 0x100040, kind), (2 ^ 51 + 0x100044, seq)].filter fun c => c.2 != 0
theorem witness_HostQueues : (hostSt ringQ [] false).henud.booted = false ∧ (hostSt ringQ).henud.booted = true ∧ ringQ.act = true ∧
    ((1 : BitVec 32) - (ringQ.cons + 1)).toNat ≤ ringQ.size ∧ ringQ.size < ((0 : BitVec 32) - (ringQ.cons + 1)).toNat ∧ ringQ.recs = [] ∧
    ((hostSt { ringQ with act := false }).queueAt 0).act = false ∧ bitsOf (0x10000C : Word) 3 0 ≤ 12 ∧ 0x1000 % 8 = 0 ∧ (hostSt ringQ).bad = [] ∧
    0x1000 % 2 ^ 52 < 2 ^ 37 ∧ ¬(2 ^ 37 % 2 ^ 52 < 2 ^ 37) ∧ ¬(0x1004 % 8 = 0) ∧ (ringQ.err = false ∧ ringQ.taken.length < 256 ∧ ringQ.tail ≠ ringQ.cons) ∧
    bitsOf (((hostSt ringQ (entMem 1 1)).entryAt 0 ringQ 1).getD 0 0) 63 32 = (1 : BitVec 32).toNat ∧ entryBad ((hostSt ringQ (entMem 1 1)).entryAt 0 ringQ 1) = false ∧
    bitsOf (((hostSt ringQ (entMem 2 1)).entryAt 0 ringQ 1).getD 0 0) 63 32 ≠ (1 : BitVec 32).toNat ∧ entryBad ((hostSt ringQ (entMem 1 9)).entryAt 0 ringQ 1) = true ∧
    bitsOf (((hostSt ringQ (entMem 1 9)).entryAt 0 ringQ 1).getD 0 0) 63 32 = (1 : BitVec 32).toNat ∧ (ringQ.cprod - ringQ.chead).toNat ≠ ringQ.size ∧
    (let h := { ringQ with act := false, shTail := some 1 }
     h.untaken = true ∧ ((hostSt h).queues.filter fun e => queuePkg e.1 == queuePkg 0 && e.2.act).length < 64 ∧ (hostSt h).waitsBefore 0 = false ∧ h.shChead = none) ∧
    (let s : State := { State.reset with queues := [(0, { ringQ with tail := 0 }), (1, { ringQ with act := false })] }
     (s.queueAt 0).act = true ∧ (s.queueAt 0).tail = (s.queueAt 0).cons ∧ (s.queues.any fun e => e.1 != 0 && queuePkg e.1 == queuePkg 0 && !e.2.act && e.2.untaken) = true) ∧
    (let t : Taken := { seq := 1, kind := 3, ws := [0, 2] }
     let h := { ringQ with taken := [t] }
     h.next? 3 = some t ∧ (hostSt h).targetOk (bitsOf (t.ws.getD 1 0) 19 0) 6 = true ∧ (hostSt h).targetOk (bitsOf (t.ws.getD 1 0) 19 0) 7 = false) := by
  decide +kernel
/-- A record that waits for room, in a ring that is full and in one that is larger. -/
theorem witness_HostQueues_record :
    let r : CRec := { eseq := 1, kind := 1, status := 0 }
    (let k := ({ ringQ with recs := [r], cprod := ringQ.chead + BitVec.ofNat 32 ringQ.size } : HQueue)
     k.recs = [r] ∧ (k.cprod - k.chead).toNat = k.size) ∧
    (let k := ({ ringQ with recs := [r], cprod := ringQ.chead + BitVec.ofNat 32 ringQ.size, lsz := 12 } : HQueue)
     k.recs = [r] ∧ (k.cprod - k.chead).toNat ≠ k.size) := by decide
/-- A taken launch entry: its record at an address, its root, no carve-out. -/
def entL (at' root : Nat) : Taken := { seq := 1, kind := 1, ws := [w64 (2 ^ 32 + 1), w64 at', w64 root, 0, 0, 0, 0, 0] }
/-- A record at 0x10000 of launch 7, entry 0x4000, whole; and one with a reserved bit at 0x20000. -/
def lrecMem : List Host.Cell := [(0x10001, 0x40), (0x10010, 7), (0x20001, 0x40), (0x2000D, 0x80)]
def launchSt (t : Taken) (ls : List (Nat × Launch) := []) : State :=
  { State.reset with queues := [(0, { ringQ with taken := [t] })], mem := lrecMem, launches := ls }
theorem witness_LaunchSteps : ((launchSt (entL 0x10000 0)).queueAt 0).next? 1 = some (entL 0x10000 0) ∧ (launchSt (entL 0x10000 0)).freeLix 0 = some 0 ∧ (launchSt (entL 0x10000 0)).gaOff 0x10000 = false ∧
    bitsOf ((entL 0x10001 0).ws.getD 1 0) 51 0 % 64 ≠ 0 ∧ 0x10000 % 64 = 0 ∧ (launchSt (entL 0x10000 0)).badIn 0x10000 64 = none ∧
    ((launchSt (entL 0x10000 0)).parseLaunch 0 (wordsOf 8 ((launchSt (entL 0x10000 0)).bytes 0x10000 64))).2 = true ∧
    ((launchSt (entL 0x10000 0)).parseLaunch 0 (wordsOf 8 ((launchSt (entL 0x10000 0)).bytes 0x20000 64))).2 = false ∧
    bitsOf ((entL 0x10000 0).ws.getD 3 0) 47 0 = 0 ∧ (launchSt (entL 0x10000 0)).launchOf 0 7 = none ∧
    (launchSt (entL 0x10000 0) [(1, { id := 7 })]).launchOf 0 7 ≠ none ∧ 1 % 4096 ≠ 0 ∧
    ((launchSt (entL 0x10000 0)).queueAt 0).recs = [] ∧
    (((launchSt (entL 0x10000 0)).queueAt 0).cprod - ((launchSt (entL 0x10000 0)).queueAt 0).chead).toNat ≠ ((launchSt (entL 0x10000 0)).queueAt 0).size := by
  decide +kernel
theorem witness_LaunchSteps_place : (launchSt (entL 0x10000 0) [(0, {})]).launches.any (fun e => e.1 == 0) = true ∧
    ((launchSt (entL 0x10000 0) [(0, {})]).launchAt 0).st = .waiting ∧ ((launchSt (entL 0x10000 0) [(0, {})]).launchAt 0).preds.all (launchSt (entL 0x10000 0) [(0, {})]).predOk = true ∧
    (launchSt (entL 0x10000 0) [(0, {})]).fitLaunch 0 {} = some [0] ∧ ({ } : Launch).sg = 1 ∧ ({ } : Launch).c = 1 ∧
    (launchSt (entL 0x10000 0) [(0, { dg := 5 })]).fitLaunch 0 { dg := 5 } = none ∧
    (let s := launchSt (entL 0x10000 0) [(0, { preds := [(1, false)] }), (1, { id := 9 })]
     (s.launchAt 0).preds.all s.predOk = false) := by decide +kernel
theorem witness_LaunchSteps_done : (let s := launchSt (entL 0x10000 0) [(0, { st := .placed, queue := 1 })]
     (s.launchAt 0).st = .placed ∧ s.cores.all (fun e => e.2.without 0) = true ∧ s.recWaits 0 = false ∧ s.writesOut 0 = false ∧ s.tileFlying (some 0) = false ∧ (s.queueAt 1).recs = [] ∧
       ((s.queueAt 1).cprod - (s.queueAt 1).chead).toNat ≠ (s.queueAt 1).size) ∧
    (let s := launchSt (entL 0x10000 0) [(0, { st := .ended, why := some (0x10, 0, 0x4000, 2) })]
     (s.launchAt 0).why = some (0x10, 0, 0x4000, 2) ∧ s.msgWaits 0 = false) ∧
    ¬ ((walkSt.cores.all fun e => e.2.without 0) = true) ∧
    (let t : Taken := { seq := 1, kind := 2, ws := [0, 7, 0x10000, 0x1000] }
     let s := launchSt t [(0, { id := 7, st := .placed })]
     (s.queueAt 0).next? 2 = some t ∧ (launchSt t).launchOf 0 7 = none ∧
       (s.launchOf 0 7).map (·.1) = some 0 ∧ s.holdsRange 0 0x10000 0x1000 = false ∧
       ({ s with cores := [(2, { eng := [{ opOf (.itland [segA] []) with lix := some 0 }] })] } : State).holdsRange 0 0x10000 0x1000 = true) := by decide +kernel
theorem witness_ControllerCommands : State.reset.henud.booted = false ∧
    (hostSt ringQ).henud.booted = true ∧ ([(0, 1, 0, 0)].all routeRange && routesUnique [(0, 1, 0, 0)]) = true ∧
    (([] : List (Nat × Nat × Nat × Nat)).all routeRange && routesUnique [] && [].all (routeOk [])) = true ∧
    ([(64, 0, 0, 0)].all routeRange && routesUnique [(64, 0, 0, 0)] && [(64, 0, 0, 0)].all (routeOk [(64, 0, 0, 0)])) = false ∧
    (hostSt ringQ).away 2 = false ∧ ((hostSt ringQ).coreAt 2).frozen = false ∧ ((hostSt ringQ).coreAt 2).leader = none ∧ (hostSt ringQ).freeCtxOf 2 = some 0 ∧
    ({ hostSt ringQ with cores := [(2, { ctxs := (List.range 8).map fun x => (x, { life := .waiting }) })] } : State).freeCtxOf 2 = none ∧
    (hostSt ringQ).admitsIn 0 = false ∧ (launchSt (entL 0x10000 0) [(0, { st := .placed, cores := [2] })]).admitsIn (islandOf 2) = true ∧
    7 < (hostSt ringQ).island 0 ∧ (hostSt ringQ).island 0 ≤ 8 := by decide +kernel
/-- A command of a booted device's mailbox, with its tag and length; one that no command has; an address whose channel's island is off. -/
theorem witness_ControllerCommands_mailbox : ∀ q ∈ ([(0x01, 0), (0x02, 32), (0x10, 8), (0x12, 16), (0x13, 8), (0x20, 16), (0x21, 0)] : List (Nat × Nat)),
    let s : State := { hostSt ringQ with henud := { booted := true, mbCmd := w64 (5 * 2 ^ 32 + q.2 * 2 ^ 8 + q.1), mbResult := List.replicate 32 0 } }
    s.henud.booted = true ∧ s.henud.mbCmd.extractLsb' 32 32 = (5 : BitVec 32) ∧ bitsOf s.henud.mbCmd 23 8 = q.2 ∧ bitsOf s.henud.mbCmd 7 0 = q.1 ∧
      s.henud.mbResult.length ≤ 4096 ∧ (5 : Nat) ∉ [0x01, 0x02, 0x10, 0x11, 0x12, 0x13, 0x20, 0x21] := by decide
theorem witness_HostQueues_off : ({ hostSt ringQ with henud := { booted := true, islands := [(islandOf (saddleOf 0 0), 0)] } } : State).gaOff 0 = true ∧
    (hostSt ringQ).gaOff 0x1000 = false := by decide
/-- A signed header and one that is not may both be: Config's constant is open, so each has its own clause; and its version is below one
counter and not below another. -/
theorem witness_ControllerCommands_signed (h : BitVec 2048) : (Config.headerSigned h = true ∨ Config.headerSigned h = false) ∧
    Config.headerVersion h < ({ rollback := Config.headerVersion h + 1 } : Henud).rollback ∧
    ({ rollback := Config.headerVersion h } : Henud).rollback ≤ Config.headerVersion h ∧ Config.headerVersion h + 1 ≠ Config.headerVersion h :=
  ⟨by cases Config.headerSigned h <;> simp, Nat.lt_succ_self _, Nat.le_refl _, Nat.succ_ne_self _⟩

/-! ### Witnesses: encoding and the step -/

theorem witness_EncodeDecode : Instr.isEvent (.add 3 1 2) = false ∧ Instr.wf (.add 3 1 2) = true := by decide
theorem witness_WordsHaveOneMeaning : (match decode 0x04C48100 with | .ok i => decide (i = .add 3 1 2) | .error _ => false) = true := by decide
/-- The word of add g3, g1, g2 where the demo strand fetches; a word that is no instruction; a reserved field of a privileged one. -/
def runSt (w : Nat) (sys : Bool := true) : State :=
  { mk { tvec := 0x2000 } { demoSt with sys := sys } (cells 0x1000 (leBytes 4 w)) with acts := [.core 2 false], tick := 0 }
def begunB (s : State) (f : State → Bool) : Bool :=
  let b := State.begun { s with acts := [], core := 2, split := false }
  match b.me.ranked with
  | [(x, _)] => f { b with ctx := x, stalled := false }
  | _ => false
def fetchB (s : State) (p : Nat → Bool) : Bool := match s.fetch with
  | .ok n => p n
  | .error _ => false
theorem witness_StepRunsDecodedInstruction : coreOk 2 = true ∧ coreOk 1 = false ∧
    begunB (runSt 0x04C48100) (fun u => u.gate && fetchB u fun n => n == 0x04C48100 && match decodeNat n with
      | .ok i => i == .add 3 1 2 && (match exec i u with | .next t => !t.stalled | _ => false)
      | .error _ => false) = true ∧
    begunB (runSt 0) (fun u => u.gate && fetchB u fun n => match decodeNat n with
      | .error .illegalOp => true
      | _ => false) = true ∧
    begunB { runSt 0 with mem := [] } (fun u => u.gate) = true ∧ (Instr.isEvent .yield) = false ∧
    (Instr.isEvent (.watchdog 2 5) && Instr.wf (.watchdog 2 5)) = true ∧ State.reset.acts = [] ∧ State.reset.tick / 2 % 16 ≠ 15 ∧
    (State.begun { State.reset with acts := [], split := false }).me.ranked = [] := by decide +kernel
/-- The valley's instruction cache holds the line of the demo strand's word, which memory no longer does; an island that is off. -/
theorem witness_StepRunsDecodedInstruction_cache :
    let l : ICLine := { lix := none, ga := 0x1000, data := leBytes 4 0x04C48100 ++ List.replicate 60 0 }
    let s : State := { runSt 0 with valleys := [(0, { icache := [l] })] }
    okB (s.xlate s.st.pc.toNat 4 .fx) = true ∧ s.icLine (s.globalOf s.core 0x1000) = some l ∧ isHostPa 0x1000 = false ∧ s.soft = [] ∧
    (match step s with | .next t => t.st.pc == 0x1004 | _ => false) = true ∧
    ({ runSt 0x04C48100 with henud := { islands := [(0, 0)] } } : State).islandOff 2 = true ∧ (runSt 0x04C48100).islandOff 2 = false ∧
    (Instr.isEvent (.awaitWake 2 8) && Instr.wf (.awaitWake 2 8)) = false := by decide +kernel
/-- A pc in the scratchpad. -/
theorem witness_StepRunsDecodedInstruction_scratchpad :
    let s := mk {} { demoSt with pc := 0xFF0000020000 }
    (match s.xlate s.st.pc.toNat 4 .fx with | .ok pa => isSpPa pa && decide ((pa - 0xFF0000000000) / 0x20000 = 1) | _ => false) = true ∧
    s.soft = [] ∧ s.core < 2 ^ 20 := by decide
theorem witness_MemoryStaysCanonical : State.reset.memOk ∧ (match step (runSt 0x04C48100) with | .next _ => true | _ => false) = true :=
  ⟨rfl, by decide +kernel⟩
/-- A word that the instruction cache of the core's valley does not hold, whose line can be read; and one whose line cannot. -/
theorem witness_StepRunsDecodedInstruction_fill :
    let s := runSt 0x04C48100
    okB (s.xlate s.st.pc.toNat 4 .fx) = true ∧ s.soft = [] ∧ s.icLine (s.globalOf s.core 0x1000) = none ∧ s.icOf s.core = some 0 ∧ 0x1000 < 2 ^ 37 ∧
      s.badIn (s.globalOf s.core 0x1000 / 64 * 64) 64 = none ∧
      ({ s with bad := [(0x1000, true)] } : State).badIn (s.globalOf s.core 0x1000 / 64 * 64) 64 ≠ none := by decide +kernel

/-! ### Ill-formed terms are refused (R78, R84, R87, R37): no word decodes to one, and no schedule may name one -/

theorem test_ill_formed_scalar : List.all ([.bfx 1 2 63 1, .bfxu 1 2 1 63, .bfi 1 2 32 32, .dbnz 0 1, .fsgnj 0 1 2 3 3 0] : List Instr)
    (fun i => !i.wf) = true := by decide
theorem test_ill_formed_vector : List.all ([.ptrset 0 8 1 2, .ptrget 0 1 0 4, .vadd 0 8 0 0 0, .vadd 0 0 8 0 0, .vadd 0 0 0 8 0, .vadd 0 0 0 0 1,
    .vadd 0 0 0 0 7, .vsel 0 0 0 0 0, .vcvt 0 0 0 9 0, .vcvt 0 0 0 13 0, .vcprs 0 0 0 1 0, .vaccRd 0 1 0 4, .vaccRd 0 1 1 1, .vhamf 0 0 0 2 0,
    .vhamf 0 2 0 2 0, .vhamf 0 3 0 2 0, .vhamf 0 1 0 15 0, .vhamf 0 1 0 0 0] : List Instr) (fun i => !i.wf) = true := by decide
theorem test_ill_formed_matrix : List.all ([.mscale 0 0 1 0 0, .mscale 0 0 0 1 1, .mscale 0 0 8 0 1, .mma 0 0 8 0 0 0 0 0 1, .mma 0 0 0 1 0 0 0 0 0,
    .mmaCo 0 0 0 0 1 0 0 0 0, .mmi 0 0 8 0 0 0 0 0, .mmt 0 0 8 0 0 0 0 0, .msig 0 0 8 0, .mldb 0 0 0 2, .mldb 0 0 0 3, .mrd 0 0 0 13, .mwr 0 0 0 15,
    .mrowRd 0 0 8 0, .msmx 0 0 1 0 0 0 0, .msmx 0 0 8 0 0 0 1] : List Instr) (fun i => !i.wf) = true := by decide
theorem test_ill_formed_message : List.all ([.send 0 9 1 2 3, .send 0 8 1 2 9, .reply 0 9 2 3, .mpoll 0 1 2 2, .rsend 0 0 3 1 2 3, .rsend 0 0 0 1 2 15,
    .ecSet 0 1 64, .ecRd 0 1 255, .semPost 0 1 16, .fence 6, .fence 254, .atom 0 0 1 2 9, .atom 0 3 1 2 0, .atomRet 0 3 1 2 9, .spawn 0 0 0,
    .spawn 0 13 0, .spawnR 0 15 1 0, .halt 0 1, .halt 13 0] : List Instr) (fun i => !i.wf) = true := by decide
theorem test_ill_formed_event : List.all ([.awaitWake 2 8, .awaitWake 2048 64, .taskStart 1 0, .macroStepCommit 0, .longLatencyComplete 2 0,
    .longLatencyComplete 2 6, .handlerStart 2048 0 0, .handlerStart 2 2 0, .combiningHoldExpiry 32, .holdTimerExpiry 512 0, .holdTimerExpiry 0 16,
    .copyPerform (2 ^ 20), .copyPerform 2049, .copyPerform (2048 + 49 * 32), .launchDone 16384, .lineSpare 1, .pageWalk 2 0 (2 ^ 48),
    .proxyBatchForward 256 2, .collTileFire 16385 0 0 [], .deleusFlitReceive 1024 0 true, .query 2 1, .query 2048 0, .append 2 (2 ^ 20), .queueLaunch 65536,
    .hostRegisterWrite 0 4 0, .hostRegisterWrite 0 64 0, .hostBar2Write (2 ^ 58) 0, .startSystemStrand 0 2 2, .islandStates 0 true 28 0,
    .islandStates 0 true 0 9, .powerThrottle 0 3, .channelSaddleReplace 0 16, .stealRecordArrival 0 64] : List Instr) (fun i => !i.wf) = true := by decide
/-- Words with a reserved bit, with a reserved field of a privileged instruction, and of no instruction (R78, R79, R84). -/
theorem test_decode_refused : (match decodeNat 0x0CC480C1 with | .error (.reservedField _ false) => true | _ => false) = true ∧
    (match decodeNat 0xF8107000 with | .error (.reservedField _ true) => true | _ => false) = true ∧
    (match decodeNat 0 with | .error .illegalOp => true | _ => false) = true ∧
    (match decodeNat 0xFFFFFFFF with | .error .illegalOp => true | _ => false) = true := by decide
/-- The last witness of StepRunsDecoded: a fetch that fails, and words with reserved fields. -/
theorem witness_StepRunsDecodedInstruction_traps : begunB { runSt 0 with cores := [(2, { tvec := 0x2000, ctxs := [(0, { life := .ready, pc := 0x2000000000 })] })] }
      (fun u => u.gate && !fetchB u fun _ => true) = true ∧
    clsTrap .all 2 = none ∧ begunB (runSt 0x0CC480C1) (fun u => fetchB u fun n => n == 0x0CC480C1) = true ∧
    begunB (runSt 0xF8107000 false) (fun u => !u.st.sys && fetchB u fun n => n == 0xF8107000) = true := by decide +kernel

/-! ### Words written in the chapters of the spec (R80 to R85, R154, R185), and the encodings of the opcode table -/

theorem test_words_of_the_spec : reads [(0x04C48100, .add 3 1 2), (0x04C49B03, .sadd 3 1 2 3), (0x0CC480C0, .bfx 3 1 8 3), (0x54590C10, .div 1 6 4 3),
  (0x5C90A004, .ldw 2 4 2 4), (0x4883FFFD, .dbnz 2 0x3FFFD), (0xF8142030, .crw 0 5 48), (0xF800500C, .svc 12), (0x84080400, .vadd 0 2 0 1 0),
  (0x844C4A8C, .vfma 1 3 1 2 10), (0x88042401, .vcvtS 0 1 0 1 1 0), (0x80005800, .ptrset 0 0 1 6), (0xC40100A0, .mma 0 0 1 0 0 1 0 1 0),
  (0xC0000003, .mwait), (0xC80300D0, .mldb 0 3 1 5), (0xE0091580, .send 0 2 4 5 6), (0xE4000098, .fence 2), (0xEC010080, .itreq 0 4 2),
  (0xF0020000, .spawn 0 8 0)] = true := by decide

/-! ### One step each; results worked by hand from the rule named -/

def after (i : Instr) (s : State) (p : State → Bool) : Bool := match exec i s with
  | .next t => p t
  | _ => false
def with2 (a b : Word) : State := mk { tvec := 0x2000 } { pc := 0x1000, sys := true, g := [(1, a), (2, b), (8, 0xFF0000000100)] }
def gives (i : Instr) (a b v : Word) : Bool := after i (with2 a b) fun t => t.g 3 == v && t.st.pc == 0x1004
/-- R119: a field of 4 bits at 8, sign-extended. -/
theorem test_bfx_sign : gives (.bfx 3 1 8 3) 0xA00 0 0xFFFFFFFFFFFFFFFA = true := by decide
theorem test_sadd_scale : gives (.sadd 3 1 2 3) 5 2 21 = true := by decide
theorem test_add_wraps : gives (.add 3 1 2) 0xFFFFFFFFFFFFFFFF 2 1 = true := by decide
theorem test_sub_order : gives (.sub 3 1 2) 3 5 0xFFFFFFFFFFFFFFFE = true := by decide
theorem test_sra_count_masked : gives (.sra 3 1 2) 0x8000000000000000 65 0xC000000000000000 = true := by decide
theorem test_clz_zero : gives (.clz 3 1) 0 0 64 = true := by decide
/-- R122: bits 127 to 64 of the product, of which only a is signed. -/
theorem test_mulhsu : gives (.mulhsu 0 3 1 2) 0xFFFFFFFFFFFFFFFF 2 0xFFFFFFFFFFFFFFFF = true := by decide
/-- The table of R124. -/
theorem test_div_table : gives (.div 0 3 1 2) 7 (-2) (-3) = true ∧ gives (.rem 0 3 1 2) 7 (-2) 1 = true ∧ gives (.div 0 3 1 2) (-7) 2 (-3) = true ∧
    gives (.rem 0 3 1 2) (-7) 2 (-1) = true ∧ gives (.div 0 3 1 2) (-7) (-2) 3 = true ∧ gives (.rem 0 3 1 2) (-7) (-2) (-1) = true ∧
    gives (.div 0 3 1 2) 0x8000000000000000 (-1) 0x8000000000000000 = true ∧ gives (.rem 0 3 1 2) 0x8000000000000000 (-1) 0 = true ∧
    gives (.div 0 3 1 2) 5 0 (-1) = true ∧ gives (.rem 0 3 1 2) 5 0 5 = true := by decide
/-- R128: the link is the address behind the jump; a target that is no multiple of 4 traps with it as info. -/
theorem test_jal_back : after (.jal 3 0x3FFFFF) (with2 0 0) (fun t => t.g 3 == 0x1004 && t.st.pc == 0xFFC) = true := by decide
theorem test_jalr_misaligned : after (.jalr 3 1 1) (with2 0x4000 0) (fun t => t.g 3 == 0 && t.st.tInfo == 0x4001 && t.st.tCode == 0x10) = true := by decide
/-- R127: the branch is taken unless the count comes to 0. -/
theorem test_dbnz : after (.dbnz 1 2) (with2 2 0) (fun t => t.g 1 == 1 && t.st.pc == 0x1008) = true ∧
    after (.dbnz 1 2) (with2 1 0) (fun t => t.g 1 == 0 && t.st.pc == 0x1004) = true := by decide
/-- R130, R14: the lowest byte at the lowest address; loads sign-extend. -/
theorem test_store_byte_order : after (.stw 0 1 8 1) (with2 0x11223380 0) (fun t => t.bytes (2 ^ 60 + 0x104) 4 == [0x80, 0x33, 0x22, 0x11] &&
    t.byte (2 ^ 60 + 0x108) == 0) = true := by decide
theorem test_ldb_sign : after (.ldb 0 3 8 4) (mk {} { demoSt with g := [(8, 0xFF0000000100)] } [(2 ^ 60 + 0x104, 0x80)]) (fun t => t.g 3 == 0xFFFFFFFFFFFFFF80) = true := by
  decide
/-- R120: writing g0 changes nothing. -/
theorem test_g0_discards : after (.addi 0 1 5) (with2 1 0) (fun t => t.g 0 == 0 && t.st.pc == 0x1004) = true := by decide
/-- R138: 1 + 2^-24 in FP32 lies half-way and goes to the even neighbour, inexact. -/
theorem test_fadd_half_even : after (.fadd 0 3 1 2 1) (with2 0x3F800000 0x33800000) (fun t => t.g 3 == 0x3F800000 && t.st.flags != 0) = true := by decide +kernel
/-- R347, R348: svc saves its own code, its number and the pc, and goes to the handler in system mode. -/
theorem test_svc_entry : after (.svc 12) (mk { tvec := 0x2000 } { pc := 0x1000 }) (fun t => t.st.pc == 0x2000 && t.st.sys && t.st.tAct && t.st.tInfo == 12 &&
    t.st.tCode == 0x08) = true := by decide
/-- R146: crw writes the register and gives its old value. -/
theorem test_crw_fmt : after (.crw 3 1 2) (with2 0x12 0) (fun t => t.me.fmt == 0x12 && t.g 3 == 0x22) = true := by decide
/-- R143, R4: a privileged instruction outside system mode traps. -/
theorem test_tret_user : after .tret (mk { tvec := 0x2000 } { pc := 0x1000 }) (fun t => t.st.tCode == 0x04 && t.st.pc == 0x2000) = true := by decide
/-- R158 with BF16: 1 + 1 = 2 in every element of the block. -/
theorem test_vadd_bf16 : after (.vadd 0 2 0 1 0) ({ vecSt 0x22 with mem := cells (2 ^ 60) [0x80, 0x3F] ++ cells (2 ^ 60 + 0x1000) [0x80, 0x3F] })
    (fun t => t.bytes (2 ^ 60 + 0x2000) 4 == [0, 0x40, 0, 0] && t.st.pin) = true := by decide +kernel
/-- R227: the last arrival flips the phase, starts the count again and gives the old phase. -/
theorem test_bar_last : after (.barArr 0 3 0 0) (barSt { target := 1, phase := true }) (fun t => t.g 3 == 1 && t.bar 2 0 == { target := 1 }) = true := by decide
/-- R232: what a semaphore cannot hold is lost: it stays at 65535. -/
theorem test_sem_saturates : after (.semPost 0 1 0) (syncSt {} {} 0xFFF0) (fun t => (fget 0 t.sp.hs 0 : BitVec 16) == 0xFFFF) = true := by decide
/-- R222: the smaller of two numbers, compared signed. -/
theorem test_atom_min : after (.atomRet 0 3 8 6 1) (atSt {} (cells (2 ^ 60 + 0x100) (leBytes 8 (2 ^ 64 - 1)))) (fun t => t.g 3 == 0xFFFFFFFFFFFFFFFF &&
    t.bytes (2 ^ 60 + 0x100) 8 == List.replicate 8 0xFF) = true := by decide
/-- R221: no message: -1. -/
theorem test_mpoll_empty : after (.mpoll 0 3 8 1) (recvSt demoSt) (fun t => t.g 3 == 0xFFFFFFFFFFFFFFFF) = true := by decide
/-- R264: state held is 3 in bits 39 to 37. -/
theorem test_itstat_held : after (.itstat 0 3 0) (tileSt (slotIn .held)) (fun t => t.g 3 == w64 (3 * 2 ^ 37 + 9)) = true := by decide
/-- R184, R185: tcfg takes the shape and clears what was in use. -/
theorem test_tcfg : after (.tcfg 5) (matSt (tsh 0 2 2 2 2 2)) (fun t => t.me.tshape == tsh 0 2 2 16 16 16) = true := by decide
/-- A step fetches, decodes and runs what withFetchWord placed: add g3, g1, g2; and a saddle's bdpat on a saddle. -/
theorem test_fetch_word : (match step (State.reset.withFetchWord 32 0x04C48100) with | .next t => t.st.pc == 0x1004 | _ => false) = true ∧
    decodeTableWord 32 0x04C48100 = some (.add 3 1 2) ∧ (State.reset.withFetchWord 32 0x04C48100).core = 2 := by decide

end Sys2Proof.Tests
end

section
/-! Rounding a value that its format holds already: nothing is lost, so no flag is raised (R56, R57). -/

namespace Sys2Proof.Machine
open Sys2Proof

/-- A magnitude m * 2^e that an IEEE format holds as one of its finite values, written as FpFmt.value writes it: subnormals at the lowest
exponent, normals with their leading bit (R44). -/
structure FpFmt.Fits (f : FpFmt) (m : Nat) (e : Int) : Prop where
  width : m < 2 ^ (f.fbits + 1)
  low : 1 - (f.bias : Int) - f.fbits ≤ e
  high : e ≤ (2 ^ f.ebits : Nat) - 2 - (f.bias : Int) - f.fbits
  normal : m < 2 ^ f.fbits → e = 1 - (f.bias : Int) - f.fbits

theorem four_le_two_pow {k : Nat} (h : 2 ≤ k) : 4 ≤ 2 ^ k := (Nat.pow_le_pow_right (by decide) h : 2 ^ 2 ≤ 2 ^ k)

section
variable {f : FpFmt} (hk : f.kind = .ieee) (he : 2 ≤ f.ebits)
include hk he

/-- Every finite value of an IEEE format fits it (R44). -/
theorem FpFmt.value_fits {c : Nat} {n : Bool} {m : Nat} {e : Int} (h : f.value c = .fin n m e) : f.Fits m e := by
  have h4 := four_le_two_pow he
  have hx : c / 2 ^ f.fbits % 2 ^ f.ebits < 2 ^ f.ebits := Nat.mod_lt _ (by omega)
  have hm : c % 2 ^ f.fbits < 2 ^ f.fbits := Nat.mod_lt _ (Nat.two_pow_pos _)
  have hp : 2 ^ (f.fbits + 1) = 2 * 2 ^ f.fbits := by rw [Nat.pow_succ, Nat.mul_comm]
  simp only [FpFmt.value, hk] at h
  split at h
  · split at h <;> cases h
  · split at h
    · cases h
      constructor <;> omega
    · cases h
      constructor <;> omega

/-- The largest finite value of an IEEE format has every fraction bit set at the highest exponent (R44). -/
theorem FpFmt.value_maxCode :
    f.value f.maxCode = .fin false (2 ^ (f.fbits + 1) - 1) ((2 ^ f.ebits : Nat) - 2 - (f.bias : Int) - f.fbits) := by
  have h4 := four_le_two_pow he
  have hp : 2 ^ (f.fbits + 1) = 2 * 2 ^ f.fbits := by rw [Nat.pow_succ, Nat.mul_comm]
  have h1 := Nat.two_pow_pos f.fbits
  have hc : f.maxCode = (2 ^ f.fbits - 1) + 2 ^ f.fbits * (2 ^ f.ebits - 2) := by
    have : 2 ^ f.fbits * (2 ^ f.ebits - 1) = 2 ^ f.fbits * (2 ^ f.ebits - 2) + 2 ^ f.fbits := by
      rw [← Nat.mul_succ]; congr 1; omega
    simp only [FpFmt.maxCode, hk, Nat.mul_comm (2 ^ f.ebits - 1)]
    omega
  have hq : f.maxCode / 2 ^ f.fbits = 2 ^ f.ebits - 2 := by
    rw [hc, Nat.add_mul_div_left _ _ h1, Nat.div_eq_of_lt (by omega), Nat.zero_add]
  have hr : f.maxCode % 2 ^ f.fbits = 2 ^ f.fbits - 1 := by
    rw [hc, Nat.add_mul_mod_self_left, Nat.mod_eq_of_lt (by omega)]
  have hs : f.maxCode / 2 ^ (f.ebits + f.fbits) = 0 := by
    rw [Nat.add_comm, Nat.pow_add, ← Nat.div_div_eq_div_mul, hq]
    exact Nat.div_eq_of_lt (by omega)
  have hl : (2 ^ f.ebits - 2) % 2 ^ f.ebits = 2 ^ f.ebits - 2 := Nat.mod_eq_of_lt (by omega)
  simp only [FpFmt.value, hk, hq, hr, hs, hl]
  rw [if_neg (by omega), if_neg (by omega)]
  simp only [Fv.fin.injEq]
  refine ⟨rfl, by omega, by omega⟩

end

/-- The unit of the last place kept of a value that fits is its own: rounding has nothing to drop. -/
theorem FpFmt.Fits.unit {f : FpFmt} {m : Nat} {e : Int} (h : f.Fits m e) (hm : m ≠ 0) :
    max (e + msb m - f.fbits) (1 - (f.bias : Int) - f.fbits) = e := by
  have hlt : msb m < f.fbits + 1 := (Nat.log2_lt hm).2 h.width
  have hlow := h.low
  by_cases hs : m < 2 ^ f.fbits
  · have := h.normal hs
    omega
  · have : f.fbits ≤ msb m := (Nat.le_log2 hm).2 (by omega)
    omega

theorem roundAt_self (mode : Rm) (neg : Bool) (m : Nat) (e : Int) : roundAt mode neg m e e false = (m, false) := by
  simp [roundAt]

theorem FpFmt.Fits.roundFin_flags {f : FpFmt} {m : Nat} {e : Int} (h : f.Fits m e) (hk : f.kind = .ieee) (he : 2 ≤ f.ebits) (hm : m ≠ 0)
    (mode : Rm) (neg : Bool) : (f.roundFin mode neg m e false).2 = 0 := by
  have hbig : ¬ m > (2 ^ (f.fbits + 1) - 1) * 2 ^ ((2 ^ f.ebits : Nat) - 2 - (f.bias : Int) - f.fbits - e).toNat := by
    have hw := h.width
    have := Nat.le_mul_of_pos_right (2 ^ (f.fbits + 1) - 1)
      (Nat.two_pow_pos ((2 ^ f.ebits : Nat) - 2 - (f.bias : Int) - f.fbits - e).toNat)
    omega
  simp only [FpFmt.roundFin, h.unit hm, roundAt_self, FpFmt.value_maxCode hk he, if_pos h.high, decide_eq_false hbig]
  rfl

/-- Delivering a value of an IEEE format in that format raises nothing (R56, R57). -/
theorem FpFmt.round_value_flags {f : FpFmt} (hk : f.kind = .ieee) (he : 2 ≤ f.ebits) (mode : Rm) (c : Nat) :
    (f.round mode (f.value c)).2 = 0 := by
  cases hv : f.value c with
  | nan => simp [FpFmt.round, hk]
  | inf n => simp [FpFmt.round, hk]
  | fin n m e =>
    by_cases hm : m = 0
    · simp [FpFmt.round, hm]
    · simpa [FpFmt.round, hm] using (FpFmt.value_fits hk he hv).roundFin_flags hk he hm mode n

/-- Nor does delivering a value of BF16 stochastically (R60). -/
theorem roundStoch_value_flags (g : BitVec 32) (c : Nat) : (roundStoch g (bf16.value c)).2 = 0 := by
  cases hv : bf16.value c with
  | nan => rfl
  | inf n => rfl
  | fin n m e =>
    by_cases hm : m = 0
    · simp [roundStoch, hm]
    · have hf : bf16.Fits m e := FpFmt.value_fits rfl (by decide) hv
      have hu : max (e + msb m - 7) (-126 - 7) = e := hf.unit hm
      have htop : ¬ e + msb m ≥ 128 := by
        have hlt : msb m < 8 := (Nat.log2_lt hm).2 hf.width
        have hhi : e ≤ 120 := by simpa [bf16] using hf.high
        omega
      simp only [roundStoch, if_neg hm, if_neg htop, hu, roundAt_self, if_true]

end Sys2Proof.Machine
end

section
/-! The frame of a scalar operation (R13, R57, R60, R119): what its effect and the advance behind it leave as it was. -/

namespace Sys2Proof.Machine
open Sys2Proof

theorem State.OnlyCore.refl (s : State) (c : Nat) : s.OnlyCore s c := by constructor <;> intros <;> rfl

theorem State.OnlyCore.trans {s t u : State} {c : Nat} (h : s.OnlyCore t c) (k : t.OnlyCore u c) : s.OnlyCore u c where
  cores d hd := (k.cores d hd).trans (h.cores d hd)
  spires := k.spires.trans h.spires
  valleys := k.valleys.trans h.valleys
  plains := k.plains.trans h.plains
  mem a := (k.mem a).trans (h.mem a)
  bad := k.bad.trans h.bad
  soft := k.soft.trans h.soft
  net := k.net.trans h.net
  place := k.place.trans h.place
  launches := k.launches.trans h.launches
  colls := k.colls.trans h.colls
  queues := k.queues.trans h.queues
  links := k.links.trans h.links
  henud := k.henud.trans h.henud

theorem State.onlyCore_modCore (s : State) (c : Nat) (f : Core → Core) : s.OnlyCore (s.modCore c f) c := by
  constructor
  case cores => exact fun d hd => State.coreAt_modCore_ne s c d f hd
  all_goals intros; rfl

theorem State.onlyCore_modSt (s : State) (f : Strand → Strand) : s.OnlyCore (s.modSt f) s.core := by
  unfold State.modSt State.modStrand State.setStrand
  exact State.onlyCore_modCore s s.core _

theorem State.onlyCore_nextRng (s : State) : s.OnlyCore s.nextRng s.core := by
  unfold State.nextRng State.modMe
  exact State.onlyCore_modCore s s.core _

@[simp] theorem State.g_zero (s : State) : s.g 0 = 0 := rfl

/-- The effect of a scalar operation reaches no further than register rd and the flags of the acting strand, and the generator of its
core; flags are only added (R57). -/
structure State.OnlyScalar (s t : State) (rd : BitVec 4) : Prop extends s.OnlyCore t s.core where
  core : t.core = s.core
  ctx : t.ctx = s.ctx
  regs : ∀ r, r ≠ rd → t.g r = s.g r
  st : t.st = { s.st with g := t.st.g, flags := t.st.flags }
  merged : s.st.flags ||| t.st.flags = t.st.flags
  strands : ∀ y, y ≠ s.ctx → t.strandAt s.core y = s.strandAt s.core y
  me : t.me = { s.me with ctxs := t.me.ctxs, rngs := t.me.rngs }

theorem State.OnlyScalar.refl (s : State) (rd : BitVec 4) : s.OnlyScalar s rd where
  toOnlyCore := State.OnlyCore.refl s s.core
  core := rfl
  ctx := rfl
  regs _ _ := rfl
  st := rfl
  merged := BitVec.or_self
  strands _ _ := rfl
  me := rfl

theorem State.OnlyScalar.trans {s t u : State} {rd : BitVec 4} (h : s.OnlyScalar t rd) (k : t.OnlyScalar u rd) : s.OnlyScalar u rd where
  toOnlyCore := h.toOnlyCore.trans (h.core ▸ k.toOnlyCore)
  core := k.core.trans h.core
  ctx := k.ctx.trans h.ctx
  regs r hr := (k.regs r hr).trans (h.regs r hr)
  st := by rw [k.st, h.st]
  merged := by rw [← k.merged, ← BitVec.or_assoc, h.merged]
  strands y hy := (h.core ▸ k.strands y (h.ctx ▸ hy)).trans (h.strands y hy)
  me := by rw [k.me, h.me]

/-- An update of the acting strand that keeps to register rd and to adding flags. -/
theorem State.onlyScalar_modSt {s : State} {rd : BitVec 4} {f : Strand → Strand} (hg : ∀ r, r ≠ rd → (s.modSt f).g r = s.g r)
    (hst : f s.st = { s.st with g := (f s.st).g, flags := (f s.st).flags }) (hfl : s.st.flags ||| (f s.st).flags = (f s.st).flags) :
    s.OnlyScalar (s.modSt f) rd where
  toOnlyCore := State.onlyCore_modSt s f
  core := rfl
  ctx := rfl
  regs := hg
  st := by rw [State.st_modSt]; exact hst
  merged := by rw [State.st_modSt]; exact hfl
  strands y hy := State.strandAt_modSt_ne s f s.core y fun h => hy h.2
  me := by rw [State.me_modSt]

theorem State.onlyScalar_setG (s : State) (rd : BitVec 4) (v : Word) : s.OnlyScalar (s.setG rd v) rd := by
  have hg : ∀ r, r ≠ rd → (s.setG rd v).g r = s.g r := fun r hr => by rw [State.g_setG, if_neg hr]
  unfold State.setG at hg ⊢
  by_cases h0 : rd = 0
  · rw [if_pos h0]
    exact State.OnlyScalar.refl s rd
  · rw [if_neg h0] at hg ⊢
    exact State.onlyScalar_modSt hg rfl BitVec.or_self

theorem State.onlyScalar_mergeFlags (s : State) (rd : BitVec 4) (fl : Flags) : s.OnlyScalar (s.mergeFlags fl) rd := by
  unfold State.mergeFlags
  split
  · exact State.OnlyScalar.refl s rd
  · refine State.onlyScalar_modSt (fun r _ => ?_) rfl ?_
    · simp [State.g]
    · rw [← BitVec.or_assoc, BitVec.or_self]

theorem State.strandAt_nextRng (s : State) (y : Nat) : s.nextRng.strandAt s.core y = s.strandAt s.core y := by
  simp [State.nextRng, State.modMe, State.strandAt]

theorem State.st_nextRng (s : State) : s.nextRng.st = s.st := s.strandAt_nextRng s.ctx

theorem State.onlyScalar_nextRng (s : State) (rd : BitVec 4) : s.OnlyScalar s.nextRng rd where
  toOnlyCore := s.onlyCore_nextRng
  core := rfl
  ctx := rfl
  regs r _ := by rw [State.g, State.g, State.st_nextRng]
  st := by rw [State.st_nextRng]
  merged := by rw [State.st_nextRng, BitVec.or_self]
  strands y _ := s.strandAt_nextRng y
  me := by rw [State.nextRng, State.me_modMe]

@[simp] theorem State.flags_setG (s : State) (rd : BitVec 4) (v : Word) : (s.setG rd v).st.flags = s.st.flags := by rw [State.setG_st]

@[simp] theorem State.rngs_setG (s : State) (rd : BitVec 4) (v : Word) : (s.setG rd v).me.rngs = s.me.rngs := by
  unfold State.setG
  split
  · rfl
  · rw [State.me_modSt]

@[simp] theorem State.rngs_mergeFlags (s : State) (fl : Flags) : (s.mergeFlags fl).me.rngs = s.me.rngs := by
  unfold State.mergeFlags
  split
  · rfl
  · rw [State.me_modSt]

/-- The state after a delivery is the one before it, with the generator advanced when rounding is stochastic (R60). -/
theorem State.deliver_state (s : State) (f : FpFmt) (x : Fv) (sticky : Bool) :
    (s.deliver f x sticky).2 = if s.stoch f then s.nextRng else s := by
  unfold State.deliver
  split <;> rfl

theorem State.onlyScalar_fpOut (s : State) (f : FpFmt) (rd : BitVec 4) (x : Fv) (sticky : Bool) (fl : Flags) :
    s.OnlyScalar (s.fpOut f rd x sticky fl) rd := by
  have hd : s.OnlyScalar (s.deliver f x sticky).2 rd := by
    rw [State.deliver_state]
    split
    · exact s.onlyScalar_nextRng rd
    · exact .refl s rd
  exact (hd.trans (State.onlyScalar_setG _ rd _)).trans (State.onlyScalar_mergeFlags _ rd _)

/-- The generator advances only for a BF16 result of a strand with sw.sr = 1 on a compute core (R60). -/
theorem State.rngs_fpOut {s : State} {f : FpFmt} (h : s.stoch f = false) (rd : BitVec 4) (x : Fv) (sticky : Bool) (fl : Flags) :
    (s.fpOut f rd x sticky fl).me.rngs = s.me.rngs := by
  simp [State.fpOut, State.deliver_state, h]

theorem State.stoch_false {s : State} {f : FpFmt} (h : f ≠ bf16 ∨ s.st.sr = false ∨ isCompute s.core = false) : s.stoch f = false := by
  rcases h with h | h | h <;> simp [State.stoch, h]

/-- The format of an fs field is an IEEE one (R136). -/
theorem fsFmt_ieee (fs : BitVec 2) : (fsFmt fs).kind = .ieee ∧ 2 ≤ (fsFmt fs).ebits := by
  revert fs; decide

/-- Delivering a value of the format itself raises nothing, in either way of rounding. -/
theorem State.deliver_value_flags (s : State) (fs : BitVec 2) (c : Nat) : (s.deliver (fsFmt fs) ((fsFmt fs).value c)).1.2 = 0 := by
  obtain ⟨hk, he⟩ := fsFmt_ieee fs
  unfold State.deliver
  split
  · next h =>
    have hf : fsFmt fs = bf16 := by simp_all [State.stoch]
    rw [hf]
    exact roundStoch_value_flags _ c
  · exact FpFmt.round_value_flags hk he _ c

/-- A minimum or maximum is one of its operands or a NaN, which the format holds: a value of the format (R137). -/
theorem Fv.minmax_value (isMax : Bool) (fs : BitVec 2) (a b : Word) :
    ∃ c, Fv.minmax isMax ((fsFmt fs).ofReg a) ((fsFmt fs).ofReg b) = (fsFmt fs).value c := by
  have hnan : (fsFmt fs).value (fsFmt fs).canonNaN = .nan := by revert fs; decide
  unfold Fv.minmax
  split
  · exact ⟨_, hnan.symm⟩
  · simp only
    split <;> split <;> exact ⟨_, rfl⟩

theorem State.flags_fpOut_minmax (s : State) (isMax : Bool) (fs : BitVec 2) (rd : BitVec 4) (a b : Word) :
    (s.fpOut (fsFmt fs) rd (Fv.minmax isMax ((fsFmt fs).ofReg a) ((fsFmt fs).ofReg b)) false 0).st.flags = s.st.flags := by
  obtain ⟨c, hc⟩ := Fv.minmax_value isMax fs a b
  have hst : (s.deliver (fsFmt fs) ((fsFmt fs).value c)).2.st = s.st := by
    rw [State.deliver_state]
    split
    · exact s.st_nextRng
    · rfl
  rw [hc, State.fpOut]
  simp [State.deliver_value_flags, State.mergeFlags, hst]

/-! ### Every scalar operation -/

/-- What the effect of a scalar operation can make of the state (R119, R136, R139): it writes rd, it writes rd and merges flags, it
delivers a rounded result, or it delivers the lesser or greater of two values, which raises nothing. -/
inductive State.ScalarEffect (s : State) (i : Instr) (rd : BitVec 4) : State → Prop
  | register (v : Word) : s.ScalarEffect i rd (s.setG rd v)
  | converted (hm : i.mergesFlags = true) (v : Word) (fl : Flags) : s.ScalarEffect i rd ((s.setG rd v).mergeFlags fl)
  | rounded (hm : i.mergesFlags = true) (f : FpFmt) (hd : i.delivers = some f) (x : Fv) (sticky : Bool) (fl : Flags) :
      s.ScalarEffect i rd (s.fpOut f rd x sticky fl)
  | selected (fs : BitVec 2) (hd : i.delivers = some (fsFmt fs)) (isMax : Bool) (a b : Word) :
      s.ScalarEffect i rd (s.fpOut (fsFmt fs) rd (Fv.minmax isMax ((fsFmt fs).ofReg a) ((fsFmt fs).ofReg b)) false 0)

section
variable {s t : State} {i : Instr} {rd : BitVec 4}

theorem State.ScalarEffect.onlyScalar (h : s.ScalarEffect i rd t) : s.OnlyScalar t rd := by
  cases h with
  | register v => exact s.onlyScalar_setG rd v
  | converted _ v fl => exact (s.onlyScalar_setG rd v).trans (State.onlyScalar_mergeFlags _ rd fl)
  | rounded _ f _ x sticky fl => exact s.onlyScalar_fpOut f rd x sticky fl
  | selected fs _ isMax a b => exact s.onlyScalar_fpOut (fsFmt fs) rd _ false 0

theorem State.ScalarEffect.flags (h : s.ScalarEffect i rd t) (hm : i.mergesFlags = false) : t.st.flags = s.st.flags := by
  cases h with
  | register v => exact s.flags_setG rd v
  | converted hm' => exact absurd hm' (by simp [hm])
  | rounded hm' => exact absurd hm' (by simp [hm])
  | selected fs _ isMax a b => exact s.flags_fpOut_minmax isMax fs rd a b

theorem State.ScalarEffect.rngs (h : s.ScalarEffect i rd t) (hr : i.delivers ≠ some bf16 ∨ s.st.sr = false ∨ isCompute s.core = false) :
    t.me.rngs = s.me.rngs := by
  have hst : ∀ f, i.delivers = some f → s.stoch f = false := fun f hd =>
    State.stoch_false (hr.imp_left fun hne hf => hne (hd.trans (congrArg some hf)))
  cases h with
  | register v => exact s.rngs_setG rd v
  | converted _ v fl => rw [State.rngs_mergeFlags, State.rngs_setG]
  | rounded _ f hd => exact State.rngs_fpOut (hst f hd) ..
  | selected fs hd => exact State.rngs_fpOut (hst _ hd) ..

/-- An instruction of a unit with a scalar effect performs it at once and goes on. -/
theorem longOp_scalarEffect {eff : Eff} (h : s.ReadyUnit i) (hp : i.pins = false) (he : eff s.envOf s = .done t)
    (hs : s.ScalarEffect i rd t) : ∃ u, Host.Outcome.next (longOp i eff s) = (.next u.advance : Out) ∧ s.ScalarEffect i rd u := by
  have hst := hs.onlyScalar.st
  refine ⟨t, congrArg _ (longOp_done h ?_ (by rw [hst]) (by rw [hst]) (by rw [hst])), hs⟩
  rwa [State.start, hp, if_neg Bool.false_ne_true]

/-- The same of a register operation. -/
theorem scalar_scalarEffect {f : State → Word} (h : s.Ready i) :
    ∃ u, Host.Outcome.next (scalar i rd f s) = (.next u.advance : Out) ∧ s.ScalarEffect i rd u :=
  ⟨s.setG rd (f s), congrArg _ (scalar_ready h), .register _⟩

/-- Every scalar operation of a ready strand has its effect and goes on behind it. -/
theorem exec_scalarEffect (htgt : i.target = some rd) (hr : s.Ready i) (hu : i.unit ≠ 0 → s.ReadyUnit i) :
    ∃ u, exec i s = .next u.advance ∧ s.ScalarEffect i rd u := by
  cases i with
  | add | sub | and | or | xor | andn | orn | sll | srl | sra | rol | ror | slt | sltu | seq | min | max | minu | maxu | slli | srli
  | srai | rori | clz | ctz | pop | sadd | bfx | bfxu | bfi | addi | andi | ori | xori | slti | sltiu | lui | apc =>
    obtain rfl := Option.some.inj htgt
    exact scalar_scalarEffect hr
  | mul | mulh | mulhu | mulhsu | div | divu | rem | remu | madd | feq | flt | fle | fsgnj | fclass =>
    obtain rfl := Option.some.inj htgt
    exact longOp_scalarEffect (hu Nat.one_ne_zero) rfl rfl (.register _)
  | fcvti =>
    obtain rfl := Option.some.inj htgt
    exact longOp_scalarEffect (hu Nat.one_ne_zero) rfl rfl (.converted rfl _ _)
  | fadd | fsub | fmul | fdiv | fsqrt | fma | fcvtf | fcvt =>
    obtain rfl := Option.some.inj htgt
    exact longOp_scalarEffect (hu Nat.one_ne_zero) rfl rfl (.rounded rfl _ rfl _ _ _)
  | fmin | fmax =>
    obtain rfl := Option.some.inj htgt
    exact longOp_scalarEffect (hu Nat.one_ne_zero) rfl rfl (.selected _ rfl _ _ _)
  | _ => cases htgt

end

/-! ### Going on behind the instruction -/

theorem State.st_advance (t : State) : t.advance.st =
    { t.st with pc := t.st.pc + 4, life := .ready, waitBar := none, waitEv := none, cond := false, waitSq := false } :=
  State.st_modSt t _

@[simp] theorem State.g_advance (t : State) (r : BitVec 4) : t.advance.g r = t.g r := by rw [State.g, State.g, State.st_advance]

@[simp] theorem State.flags_advance (t : State) : t.advance.st.flags = t.st.flags := by rw [State.st_advance]

theorem State.me_advance (t : State) : t.advance.me = { t.me with ctxs := t.advance.me.ctxs } := by
  rw [State.advance, State.me_modSt]

theorem State.onlyCore_advance (t : State) : t.OnlyCore t.advance t.core := State.onlyCore_modSt t _

theorem State.strandAt_advance_ne (t : State) (y : Nat) (h : y ≠ t.ctx) : t.advance.strandAt t.core y = t.strandAt t.core y :=
  State.strandAt_modSt_ne t _ t.core y fun k => h k.2

section
variable {s t : State} {rd : BitVec 4} (h : s.OnlyScalar t rd)
include h

theorem State.OnlyScalar.pc_advance : t.advance.st.pc = s.st.pc + 4 := by rw [State.st_advance, h.st]

theorem State.OnlyScalar.sameRest_advance : s.st.SameRest t.advance.st := by
  rw [State.st_advance, h.st]
  constructor <;> rfl

theorem State.OnlyScalar.onlyCore_advance : s.OnlyCore t.advance s.core := h.toOnlyCore.trans (h.core ▸ t.onlyCore_advance)

theorem State.OnlyScalar.strandAt_advance (y : Nat) (hy : y ≠ s.ctx) : t.advance.strandAt s.core y = s.strandAt s.core y :=
  (h.core ▸ t.strandAt_advance_ne y (h.ctx ▸ hy)).trans (h.strands y hy)

theorem State.OnlyScalar.me_advance : t.advance.me = { s.me with ctxs := t.advance.me.ctxs, rngs := t.advance.me.rngs } := by
  rw [State.me_advance, h.me]

end

/-- Settles O10: the effect of a scalar operation keeps to rd, the flags and the generator, and the advance behind it to the pc. -/
theorem scalarFrame : Obligations.ScalarFrame := by
  intro i rd s htgt hr hu
  obtain ⟨t, ht, he⟩ := exec_scalarEffect htgt hr hu
  have hs := he.onlyScalar
  refine ⟨t.advance, ht, hs.pc_advance, t.advance.g_zero, ?regs, hs.sameRest_advance, ?merged, ?flags, ?rngs, hs.onlyCore_advance,
    hs.strandAt_advance, hs.me_advance⟩
  case regs => exact fun r hr => t.g_advance r ▸ hs.regs r hr
  case merged => rw [State.flags_advance, hs.merged]
  case flags => exact fun hm => t.flags_advance.trans (he.flags hm)
  case rngs => exact fun h => by rw [State.me_advance, he.rngs h]

end Sys2Proof.Machine
end

section
/-! Scalar floating-point instructions: delivery, arithmetic, comparisons and conversions (R56 to R60, R136 to R139). -/

namespace Sys2Proof.Machine
open Sys2Proof

/-- An instruction of a unit that pins nothing and has a scalar effect performs it at once and goes on. -/
theorem longOp_onlyScalar {i : Instr} {eff : Eff} {s t : State} {rd : BitVec 4} (h : s.ReadyUnit i) (hp : i.pins = false)
    (he : eff s.envOf s = .done t) (hs : s.OnlyScalar t rd) : longOp i eff s = t.advance := by
  refine longOp_done h ?_ (by rw [hs.st]) (by rw [hs.st]) (by rw [hs.st])
  rwa [State.start, hp, if_neg Bool.false_ne_true]

section
variable {i : Instr} {eff : Eff} {s : State} {rd : BitVec 4} (h : s.ReadyUnit i) (hp : i.pins = false)
include h hp

/-- A floating-point result is delivered and execution goes on (R138). -/
theorem next_longOp_fpOut {f : FpFmt} {x : Fv} {sticky : Bool} {fl : Flags} (he : eff s.envOf s = .done (s.fpOut f rd x sticky fl)) :
    (.next (longOp i eff s) : Out) = .next (s.fpOut f rd x sticky fl).advance :=
  congrArg _ (longOp_onlyScalar h hp he (s.onlyScalar_fpOut f rd x sticky fl))

/-- A register result is written and execution goes on. -/
theorem next_longOp_setG {v : Word} (he : eff s.envOf s = .done (s.setG rd v)) :
    (.next (longOp i eff s) : Out) = .next (s.setG rd v).advance :=
  congrArg _ (longOp_onlyScalar h hp he (s.onlyScalar_setG rd v))

/-- A register result is written, its flags are merged, and execution goes on (R57). -/
theorem next_longOp_setG_mergeFlags {v : Word} {fl : Flags} (he : eff s.envOf s = .done ((s.setG rd v).mergeFlags fl)) :
    (.next (longOp i eff s) : Out) = .next ((s.setG rd v).mergeFlags fl).advance :=
  congrArg _ (longOp_onlyScalar h hp he ((s.onlyScalar_setG rd v).trans (State.onlyScalar_mergeFlags _ rd fl)))

end

/-- Settles O5: the effect of each arithmetic instruction is the delivery of its exact result. -/
theorem fpArithmetic : Obligations.FpArithmetic := by
  intro rd ra rb rc fs s
  exact ⟨fun h => next_longOp_fpOut h rfl rfl, fun h => next_longOp_fpOut h rfl rfl, fun h => next_longOp_fpOut h rfl rfl,
    fun h => next_longOp_fpOut h rfl rfl, fun h => next_longOp_fpOut h rfl rfl, fun h => next_longOp_fpOut h rfl rfl⟩

/-! ### Delivery (R60, R136, R138) -/

@[simp] theorem State.g_mergeFlags (s : State) (fl : Flags) (r : BitVec 4) : (s.mergeFlags fl).g r = s.g r := by
  unfold State.mergeFlags
  split
  · rfl
  · simp [State.g]

@[simp] theorem State.flags_mergeFlags (s : State) (fl : Flags) : (s.mergeFlags fl).st.flags = s.st.flags ||| fl := by
  unfold State.mergeFlags
  split
  · next h => simp [h]
  · simp

/-- Rounding is stochastic exactly for a BF16 result on a compute core with sw.sr = 1 (R60, R138). -/
theorem State.stoch_iff (s : State) (f : FpFmt) : s.stoch f = true ↔ f = bf16 ∧ s.st.sr = true ∧ isCompute s.core = true := by
  simp [State.stoch, and_assoc]

/-- rngs after one advance (R60). -/
theorem State.rngs_nextRng (s : State) : s.nextRng.me.rngs = (rngStep (s.me.rngs.setWidth 32)).setWidth 64 := by
  rw [State.nextRng, State.me_modMe]

section
variable (s : State) (f : FpFmt) (rd : BitVec 4) (x : Fv) (sticky : Bool) (fl : Flags)

/-- A delivery writes the code to rd (R136). -/
theorem State.g_fpOut (h : rd ≠ 0) : (s.fpOut f rd x sticky fl).g rd = w64 (s.deliver f x sticky).1.1 := by
  rw [State.fpOut, State.g_mergeFlags, State.g_setG, if_pos rfl, if_neg h]

/-- A delivery merges the flags of the operation and of the rounding (R138). -/
theorem State.flags_fpOut :
    (s.fpOut f rd x sticky fl).st.flags = s.st.flags ||| fl ||| (s.deliver f x sticky).1.2 := by
  have hst : (s.deliver f x sticky).2.st = s.st := by
    rw [State.deliver_state]
    split
    · exact s.st_nextRng
    · rfl
  rw [State.fpOut, State.flags_mergeFlags, State.flags_setG, hst, BitVec.or_assoc]

theorem State.deliver_round {s : State} {f : FpFmt} (h : s.stoch f = false) :
    (s.deliver f x sticky).1 = f.round s.st.rm x sticky := by simp [State.deliver, h]

theorem State.deliver_stoch {s : State} {f : FpFmt} (h : s.stoch f = true) :
    (s.deliver f x sticky).1 = roundStoch (rngStep (s.me.rngs.setWidth 32)) x sticky := by
  simp [State.deliver, h, State.rngs_nextRng]

theorem State.rngs_fpOut_stoch {s : State} {f : FpFmt} (h : s.stoch f = true) :
    (s.fpOut f rd x sticky fl).me.rngs = (rngStep (s.me.rngs.setWidth 32)).setWidth 64 := by
  simp [State.fpOut, State.deliver_state, h, State.rngs_nextRng]

end

/-- Settles O8: a delivery is a scalar effect, whose code, flags and generator are those of the way of rounding in force. -/
theorem fpDelivery : Obligations.FpDelivery := by
  intro f rd x sticky fl s t on rng
  have hs : s.OnlyScalar t rd := s.onlyScalar_fpOut f rd x sticky fl
  have hflags : t.st.flags = s.st.flags ||| fl ||| (s.deliver f x sticky).1.2 := s.flags_fpOut f rd x sticky fl
  have hg : rd ≠ 0 → t.g rd = w64 (s.deliver f x sticky).1.1 := s.g_fpOut f rd x sticky fl
  refine ⟨fun hoff => ?exact, fun hon => ?stochastic, t.g_zero, hs.regs, ?rest, ?pc, hs.toOnlyCore, hs.strands, hs.me⟩
  case exact =>
    have hst : s.stoch f = false := Bool.eq_false_iff.2 fun h => hoff ((s.stoch_iff f).1 h)
    rw [State.deliver_round _ _ hst] at hflags hg
    exact ⟨hg, hflags, State.rngs_fpOut hst rd x sticky fl⟩
  case stochastic =>
    have hst : s.stoch f = true := (s.stoch_iff f).2 hon
    rw [State.deliver_stoch _ _ hst] at hflags hg
    exact ⟨hg, hflags, State.rngs_fpOut_stoch rd x sticky fl hst⟩
  case rest =>
    rw [hs.st]
    constructor <;> rfl
  case pc => rw [hs.st]

/-! ### Minima, comparisons, signs, classes, conversions (R58, R137, R139) -/

/-- The minimum and maximum of values one of which is a NaN (R137). -/
theorem Fv.minmax_nan {isMax : Bool} {a b : Fv} (h : a.isNaN = true ∨ b.isNaN = true) : Fv.minmax isMax a b = .nan := by
  simp [Fv.minmax, h]

/-- The minimum and maximum of two numbers, -0 being below +0 (R137). -/
theorem Fv.minmax_num {isMax : Bool} {a b : Fv} (h : ¬(a.isNaN = true ∨ b.isNaN = true)) :
    Fv.minmax isMax a b = if a.cmp b < 0 ∨ (a.cmp b = 0 ∧ a.sgn = true ∧ b.sgn = false) then (if isMax then b else a)
      else (if isMax then a else b) := by
  have hn : (a.isNaN || b.isNaN) = false := by simpa using h
  simp only [Fv.minmax, hn, Bool.false_eq_true, if_false]
  by_cases hl : a.cmp b < 0 ∨ (a.cmp b = 0 ∧ a.sgn = true ∧ b.sgn = false)
  · have : (decide (a.cmp b < 0) || (decide (a.cmp b = 0) && a.sgn && !b.sgn)) = true := by simpa [and_assoc] using hl
    simp [this, hl]
  · have : (decide (a.cmp b < 0) || (decide (a.cmp b = 0) && a.sgn && !b.sgn)) = false := by
      rw [Bool.eq_false_iff]; simpa [and_assoc] using hl
    simp [this, hl]

/-- What a comparison writes: its truth where neither operand is a NaN. -/
theorem b2w_compare (a b : Fv) (p : Prop) [Decidable p] :
    b2w (!a.isNaN && !b.isNaN && decide p) = if ¬(a.isNaN = true ∨ b.isNaN = true) ∧ p then 1 else 0 := by
  cases a.isNaN <;> cases b.isNaN <;> by_cases hp : p <;> simp [b2w, hp]

/-- The top bit of a code of w + 1 bits as a number. -/
theorem div_eq_toNat_testBit {w c : Nat} (h : c < 2 ^ (w + 1)) : c / 2 ^ w = (c.testBit w).toNat := by
  have hlt : c / 2 ^ w < 2 := Nat.div_lt_of_lt_mul (by rwa [← Nat.pow_succ])
  rw [Nat.toNat_testBit, Nat.mod_eq_of_lt hlt]

/-- The code that fsgnj writes: the sign of b, its opposite, or both signs together, above the magnitude of a (R139). -/
theorem fsgnj_code (sj : BitVec 2) {w a b : Nat} (ha : a < 2 ^ (w + 1)) (hb : b < 2 ^ (w + 1)) :
    (if sj = 0 then b / 2 ^ w else if sj = 1 then 1 - b / 2 ^ w else (a / 2 ^ w + b / 2 ^ w) % 2) * 2 ^ w + a % 2 ^ w =
      (if (if sj = 0 then b.testBit w else if sj = 1 then !b.testBit w else xor (a.testBit w) (b.testBit w)) then 2 ^ w else 0) +
        a % 2 ^ w := by
  rw [div_eq_toNat_testBit ha, div_eq_toNat_testBit hb]
  congr 1
  split
  · cases b.testBit w <;> simp
  · split
    · cases b.testBit w <;> simp
    · cases a.testBit w <;> cases b.testBit w <;> simp

/-- The class mask by the form of the value (R139). -/
theorem fclassOf_eq (f : FpFmt) (c : Nat) : fclassOf f c = match f.value c with
    | .inf true => 1
    | .fin true m _ => if m = 0 then 8 else if 2 ^ f.fbits ≤ m then 2 else 4
    | .fin false m _ => if m = 0 then 16 else if 2 ^ f.fbits ≤ m then 64 else 32
    | .inf false => 128
    | .nan => 256 := by
  unfold fclassOf
  cases f.value c with
  | nan => rfl
  | inf n => cases n <;> rfl
  | fin n m e =>
    have hswap (a b : Nat) : (if m < 2 ^ f.fbits then a else b) = if 2 ^ f.fbits ≤ m then b else a := by
      by_cases h : 2 ^ f.fbits ≤ m
      · rw [if_pos h, if_neg (Nat.not_lt.2 h)]
      · rw [if_neg h, if_pos (Nat.lt_of_not_le h)]
    cases n <;> simp only [hswap, Bool.false_eq_true, if_true, if_false]

/-- Settles O9: each instruction writes what its function of the operands' values is; a minimum or maximum is delivered. -/
theorem fpComparesAndConversions : Obligations.FpComparesAndConversions := by
  constructor
  · intro rd ra rb sj fs s f a b less nan out ca cb sign neg
    have hw : f.width = f.width - 1 + 1 := by simp [FpFmt.width]; omega
    have hlt (c : Nat) : c % 2 ^ f.width < 2 ^ (f.width - 1 + 1) := hw ▸ Nat.mod_lt _ (Nat.two_pow_pos _)
    exact ⟨
      fun h => ⟨Fv.minmax false a b, next_longOp_fpOut h rfl rfl, s.flags_fpOut_minmax false fs rd _ _, Fv.minmax_nan, Fv.minmax_num⟩,
      fun h => ⟨Fv.minmax true a b, next_longOp_fpOut h rfl rfl, s.flags_fpOut_minmax true fs rd _ _, Fv.minmax_nan, Fv.minmax_num⟩,
      fun h => (next_longOp_setG h rfl rfl).trans (congrArg out (b2w_compare a b _)),
      fun h => (next_longOp_setG h rfl rfl).trans (congrArg out (b2w_compare a b _)),
      fun h => (next_longOp_setG h rfl rfl).trans (congrArg out (b2w_compare a b _)),
      fun h => (next_longOp_setG h rfl rfl).trans (congrArg (fun v => out (w64 v)) (fsgnj_code sj (hlt _) (hlt _))),
      fun h => (next_longOp_setG h rfl rfl).trans (congrArg (fun v => out (w64 v)) ((fclassOf_eq f ca).trans rfl))⟩
  · intro rd ra u width src fs s f bits lo hi out
    refine ⟨fun h => (next_longOp_setG_mergeFlags h rfl rfl).trans ?_, fun h => next_longOp_fpOut h rfl rfl,
      fun h => next_longOp_fpOut h rfl rfl⟩
    change out (Fv.fit s.st.rm lo hi (f.ofReg (s.g ra))).1 (Fv.fit s.st.rm lo hi (f.ofReg (s.g ra))).2 = _
    cases f.ofReg (s.g ra) with
    | nan => rfl
    | inf n => rfl
    | fin n m e =>
      have hv : Fv.toInt s.st.rm n m e false = (if n then -((roundAt s.st.rm n m e 0 false).1 : Int) else (roundAt s.st.rm n m e 0 false).1,
        (roundAt s.st.rm n m e 0 false).2) := rfl
      simp only [Fv.fit, hv, apply_ite Prod.fst, apply_ite Prod.snd, apply_ite out]
      split_ifs <;> rfl

end Sys2Proof.Machine
end

section
/-! Exact values: sums and products as rational numbers, quotients and roots with what follows them marked (R46, R57, R137). -/

namespace Sys2Proof.Machine
open Sys2Proof

/-! ### Sums -/

/-- The finite part of an exact sum as a rational number. -/
def SumAcc.rat (a : SumAcc) : Rat := a.v * (2 : Rat) ^ a.e

/-- A number's unit may be made smaller: its multiple grows by the power of two between them. -/
theorem natPow_mul_zpow {e q : Int} (h : q ≤ e) : (2 : Rat) ^ (e - q).toNat * 2 ^ q = 2 ^ e := by
  rw [← zpow_natCast, ← zpow_add₀ two_ne_zero]
  congr 1
  omega

/-- A finite value as an integer multiple of a unit no greater than its own. -/
theorem scaledInt_rat (s : Bool) (m : Nat) {e q : Int} (h : q ≤ e) : (scaledInt s m e q : Rat) * 2 ^ q = (Fv.fin s m e).rat := by
  rw [Fv.rat, ← natPow_mul_zpow h]
  cases s <;> simp [scaledInt] <;> ring

/-- Adding a finite term adds its value: nothing is rounded. -/
theorem SumAcc.rat_add_fin (a : SumAcc) (s : Bool) (m : Nat) (e : Int) : (a.add (.fin s m e)).rat = a.rat + (Fv.fin s m e).rat := by
  by_cases hm : m = 0
  · simp [SumAcc.add, SumAcc.rat, Fv.rat, hm]
  · by_cases hv : a.v = 0
    · cases s <;> simp [SumAcc.add, SumAcc.rat, Fv.rat, hm, hv]
    · have ha : (a.v : Rat) * 2 ^ (a.e - min a.e e).toNat * 2 ^ (min a.e e) = a.v * 2 ^ a.e := by
        rw [mul_assoc, natPow_mul_zpow (min_le_left _ _)]
      simp only [SumAcc.add, if_neg hm, if_neg hv, SumAcc.rat, ← scaledInt_rat s m (min_le_right a.e e), ← ha]
      push_cast
      ring

/-- What an exact sum has met but for its finite part, after a finite term. -/
theorem SumAcc.add_fin (a : SumAcc) (s : Bool) (m : Nat) (e : Int) :
    ∃ v y, a.add (.fin s m e) = { a with zeros := a.zeros && m == 0, negs := a.negs && s, poss := a.poss && !s, v := v, e := y } := by
  unfold SumAcc.add
  dsimp only
  split
  · exact ⟨a.v, a.e, rfl⟩
  · split
    · exact ⟨_, _, rfl⟩
    · exact ⟨_, _, rfl⟩

theorem SumAcc.v_eq_zero_iff (a : SumAcc) : a.v = 0 ↔ a.rat = 0 := by
  have h : (2 : Rat) ^ a.e ≠ 0 := zpow_ne_zero _ two_ne_zero
  simp [SumAcc.rat, h]

/-- The sum of finite terms is delivered as it stands. -/
theorem SumAcc.done_fin {a : SumAcc} (hn : a.nan = false) (hp : a.pInf = false) (hq : a.nInf = false) (mode : Rm) :
    (a.done mode).1.rat = a.rat ∧ (a.done mode).2 = 0 := by
  by_cases hv : a.v = 0
  · simp [SumAcc.done, hn, hp, hq, hv, Fv.rat, SumAcc.rat]
  · have hd : a.done mode = (.fin (decide (a.v < 0)) a.v.natAbs a.e, 0) := by simp [SumAcc.done, hn, hp, hq, hv]
    rw [hd, Fv.rat, SumAcc.rat, Nat.cast_natAbs]
    refine ⟨?_, rfl⟩
    by_cases h : a.v < 0
    · rw [abs_of_neg h]
      simp [h]
    · rw [abs_of_nonneg (not_lt.1 h)]
      simp [h]

section
variable (mode : Rm) (n p : Bool) (i j : Nat) (d e : Int)

/-- The exact sum of two finite values (R46). -/
theorem Fv.add_fin_rat : ((Fv.fin n i d).add mode (.fin p j e)).1.rat = (Fv.fin n i d).rat + (Fv.fin p j e).rat ∧
    ((Fv.fin n i d).add mode (.fin p j e)).2 = 0 := by
  obtain ⟨v, y, h1⟩ := SumAcc.add_fin {} n i d
  obtain ⟨w, z, h2⟩ := SumAcc.add_fin (SumAcc.add {} (.fin n i d)) p j e
  have hr : ((SumAcc.add {} (.fin n i d)).add (.fin p j e)).rat = (Fv.fin n i d).rat + (Fv.fin p j e).rat := by
    rw [SumAcc.rat_add_fin, SumAcc.rat_add_fin]
    simp [SumAcc.rat]
  have hd := SumAcc.done_fin (a := (SumAcc.add {} (.fin n i d)).add (.fin p j e)) (by rw [h2, h1]) (by rw [h2, h1]) (by rw [h2, h1]) mode
  rwa [hr] at hd

/-- A zero sum keeps the sign of two like zeros, and is else -0 in mode rdn and +0 in the others (R46). -/
theorem Fv.add_fin_zero (h : (Fv.fin n i d).rat + (Fv.fin p j e).rat = 0) :
    ((Fv.fin n i d).add mode (.fin p j e)).1 = .fin (if i = 0 ∧ j = 0 ∧ n = p then n else mode == rdn) 0 0 := by
  obtain ⟨v, y, h1⟩ := SumAcc.add_fin {} n i d
  obtain ⟨w, z, h2⟩ := SumAcc.add_fin (SumAcc.add {} (.fin n i d)) p j e
  have hv : ((SumAcc.add {} (.fin n i d)).add (.fin p j e)).v = 0 := by
    rw [SumAcc.v_eq_zero_iff, SumAcc.rat_add_fin, SumAcc.rat_add_fin, ← h]
    simp [SumAcc.rat]
  rw [h2, h1] at hv
  dsimp only at hv
  change (((SumAcc.add {} (.fin n i d)).add (.fin p j e)).done mode).1 = _
  rw [h2, h1, hv]
  by_cases hi : i = 0 <;> by_cases hj : j = 0 <;> cases n <;> cases p <;> simp [SumAcc.done, hi, hj]

/-! ### Products -/

/-- The exact product of two finite values. -/
theorem Fv.mul_fin_rat : ((Fv.fin n i d).mul (.fin p j e)).1.rat = (Fv.fin n i d).rat * (Fv.fin p j e).rat := by
  simp only [Fv.mul, Fv.rat, zpow_add₀ (two_ne_zero (α := Rat))]
  cases n <;> cases p <;> push_cast <;> simp <;> ring

/-- Of finite factors, a product and sum is the sum of the product (R137). -/
theorem Fv.fma_fin (c : Fv) (hc : c.isNaN = false) :
    Fv.fma mode (.fin n i d) (.fin p j e) c = ((Fv.fin (n != p) (i * j) (d + e)).add mode c) := by
  have h : (Fv.isNaN (.fin n i d) || Fv.isNaN (.fin p j e) || c.isNaN) = false := hc
  rw [Fv.fma, if_neg (h ▸ Bool.false_ne_true)]
  simp [Fv.mul]

end

/-! ### Quotients and roots -/

theorem two_pow_msb_le {n : Nat} (h : n ≠ 0) : 2 ^ msb n ≤ n := Nat.log2_self_le h

theorem lt_two_pow_msb (n : Nat) : n < 2 ^ (msb n + 1) := Nat.lt_log2_self

/-- A natural quotient is the rational one rounded down, and is that one exactly when nothing remains. -/
theorem cast_div_bounds (a : Nat) {b : Nat} (hb : b ≠ 0) :
    ((a / b : Nat) : Rat) ≤ a / b ∧ (a / b : Rat) < (a / b : Nat) + 1 ∧ (a % b = 0 ↔ ((a / b : Nat) : Rat) = a / b) := by
  have hb' : (b : Rat) ≠ 0 := Nat.cast_ne_zero.2 hb
  refine ⟨Nat.cast_div_le, ?_, ?_⟩
  · rw [← Nat.floor_div_eq_div (K := Rat)]
    exact Nat.lt_floor_add_one _
  · rw [eq_div_iff hb', ← Nat.cast_mul, Nat.cast_inj, mul_comm]
    have := Nat.div_add_mod a b
    omega

/-- The quotient is taken in a unit in which it has at least 130 bits. -/
theorem two_pow_le_quotient {i j : Nat} (hi : i ≠ 0) (hj : j ≠ 0) : 2 ^ 65 ≤ i * 2 ^ (130 + msb j) / j := by
  rw [Nat.le_div_iff_mul_le (Nat.pos_of_ne_zero hj)]
  calc 2 ^ 65 * j ≤ 2 ^ 65 * 2 ^ (msb j + 1) := Nat.mul_le_mul_left _ (lt_two_pow_msb j).le
    _ ≤ 2 ^ (130 + msb j) := by rw [← Nat.pow_add]; exact Nat.pow_le_pow_right (by decide) (by omega)
    _ ≤ i * 2 ^ (130 + msb j) := Nat.le_mul_of_pos_left _ (Nat.pos_of_ne_zero hi)

/-- The magnitude of a quotient in the unit in which it is taken. -/
theorem abs_rat_div (n p : Bool) (i j k : Nat) (d e : Int) :
    |(Fv.fin n i d).rat / (Fv.fin p j e).rat| = ((i * 2 ^ k : Nat) : Rat) / j * 2 ^ (d - e - k) := by
  have hs (b : Bool) : |(if b then -1 else 1 : Rat)| = 1 := by cases b <;> simp
  simp only [Fv.rat, abs_div, abs_mul, hs, one_mul, Nat.abs_cast, abs_zpow, abs_two]
  rw [zpow_sub₀ two_ne_zero, zpow_sub₀ two_ne_zero, zpow_natCast]
  push_cast
  field_simp

/-- A quotient of nonzero finite values: at least 66 bits of it, and a mark for what follows them (R57, R137). -/
theorem Fv.div_fin {n p : Bool} {i j : Nat} {d e : Int} (hi : i ≠ 0) (hj : j ≠ 0) :
    ∃ (k : Nat) (y : Int), ((Fv.fin n i d).div (.fin p j e)).1.1 = .fin (n != p) k y ∧ 2 ^ 65 ≤ k ∧
      ((Fv.fin n i d).div (.fin p j e)).2 = 0 ∧
      (k : Rat) * 2 ^ y ≤ |(Fv.fin n i d).rat / (Fv.fin p j e).rat| ∧
      |(Fv.fin n i d).rat / (Fv.fin p j e).rat| < (k + 1 : Rat) * 2 ^ y ∧
      (((Fv.fin n i d).div (.fin p j e)).1.2 = false ↔ (k : Rat) * 2 ^ y = |(Fv.fin n i d).rat / (Fv.fin p j e).rat|) := by
  have hdiv : (Fv.fin n i d).div (.fin p j e) = ((.fin (n != p) (i * 2 ^ (130 + msb j) / j) (d - e - (130 + msb j : Nat)),
      decide (i * 2 ^ (130 + msb j) % j ≠ 0)), 0) := by simp [Fv.div, hi, hj]
  obtain ⟨hle, hlt, heq⟩ := cast_div_bounds (i * 2 ^ (130 + msb j)) hj
  have hpos : (0 : Rat) < 2 ^ (d - e - (130 + msb j : Nat)) := zpow_pos two_pos _
  rw [hdiv, abs_rat_div n p i j (130 + msb j)]
  refine ⟨_, _, rfl, two_pow_le_quotient hi hj, rfl, mul_le_mul_of_nonneg_right hle hpos.le, mul_lt_mul_of_pos_right hlt hpos, ?_⟩
  rw [mul_left_inj' hpos.ne', ← heq, decide_eq_false_iff_not, not_not]

/-- The bits of the root: what is left to find is below 2^k. -/
theorem isqrtGo_spec (n k r : Nat) (hr : r * r ≤ n) (hn : n < (r + 2 ^ k) * (r + 2 ^ k)) :
    isqrtGo n k r * isqrtGo n k r ≤ n ∧ n < (isqrtGo n k r + 1) * (isqrtGo n k r + 1) := by
  induction k generalizing r with
  | zero => exact ⟨hr, hn⟩
  | succ k ih =>
    rw [isqrtGo]
    split
    · next h => exact ih _ h (by rwa [Nat.add_assoc, ← Nat.two_mul, ← Nat.pow_succ'])
    · next h => exact ih _ hr (Nat.lt_of_not_le h)

theorem isqrt_spec (n : Nat) : isqrt n * isqrt n ≤ n ∧ n < (isqrt n + 1) * (isqrt n + 1) := by
  refine isqrtGo_spec n _ 0 (Nat.zero_le _) ?_
  rw [Nat.zero_add, ← Nat.pow_add]
  exact (lt_two_pow_msb n).trans_le (Nat.pow_le_pow_right (by decide) (by omega))

/-- The root is taken in a unit of even exponent in which it has at least 66 bits. -/
theorem Fv.sqrt_fin {i : Nat} {d : Int} (hi : i ≠ 0) : ∃ (w : Nat) (y : Int), (i : Rat) * 2 ^ d = w * (2 ^ y) ^ 2 ∧ 2 ^ 130 ≤ w ∧
    (Fv.fin false i d).sqrt = ((.fin false (isqrt w) y, decide (isqrt w * isqrt w ≠ w)), 0) := by
  have hi1 : 1 ≤ i := Nat.pos_of_ne_zero hi
  have hsq (y : Int) : ((2 : Rat) ^ y) ^ 2 = 2 ^ (2 * y) := by rw [← zpow_natCast, ← zpow_mul, mul_comm]; rfl
  by_cases he : d % 2 = 0
  · refine ⟨i * 2 ^ 130, (d - 130) / 2, ?_, by omega, by simp [Fv.sqrt, hi, he]⟩
    rw [hsq, show 2 * ((d - 130) / 2) = d - 130 by omega, Nat.cast_mul, mul_assoc]
    congr 1
    rw [← natPow_mul_zpow (show d - 130 ≤ d by omega), show (d - (d - 130)).toNat = 130 by omega]
    norm_num
  · refine ⟨i * 2 ^ 131, (d - 131) / 2, ?_, by omega, by simp [Fv.sqrt, hi, he]⟩
    rw [hsq, show 2 * ((d - 131) / 2) = d - 131 by omega, Nat.cast_mul, mul_assoc]
    congr 1
    rw [← natPow_mul_zpow (show d - 131 ≤ d by omega), show (d - (d - 131)).toNat = 131 by omega]
    norm_num

/-- A root of a positive value: at least 66 bits of it, and a mark for what follows them (R57, R137). -/
theorem Fv.sqrt_fin_bounds {i : Nat} {d : Int} (hi : i ≠ 0) :
    ∃ (k : Nat) (y : Int), (Fv.fin false i d).sqrt.1.1 = .fin false k y ∧ 2 ^ 65 ≤ k ∧ (Fv.fin false i d).sqrt.2 = 0 ∧
      ((k : Rat) * 2 ^ y) ^ 2 ≤ (Fv.fin false i d).rat ∧ (Fv.fin false i d).rat < ((k + 1 : Rat) * 2 ^ y) ^ 2 ∧
      ((Fv.fin false i d).sqrt.1.2 = false ↔ ((k : Rat) * 2 ^ y) ^ 2 = (Fv.fin false i d).rat) := by
  obtain ⟨w, y, hrat, hw, hsqrt⟩ := Fv.sqrt_fin (d := d) hi
  obtain ⟨hle, hlt⟩ := isqrt_spec w
  have hpos : (0 : Rat) < (2 ^ y) ^ 2 := pow_pos (zpow_pos two_pos _) 2
  have hr : (Fv.fin false i d).rat = w * (2 ^ y) ^ 2 := by simpa [Fv.rat] using hrat
  rw [hsqrt, hr]
  refine ⟨isqrt w, y, rfl, ?_, rfl, ?_, ?_, ?_⟩
  · by_contra h
    have : (isqrt w + 1) * (isqrt w + 1) ≤ 2 ^ 65 * 2 ^ 65 := Nat.mul_le_mul (by omega) (by omega)
    omega
  · rw [mul_pow, mul_le_mul_iff_left₀ hpos, sq]
    exact_mod_cast hle
  · rw [mul_pow, mul_lt_mul_iff_left₀ hpos, sq]
    exact_mod_cast hlt
  · rw [mul_pow, mul_left_inj' hpos.ne', sq, decide_eq_false_iff_not, not_not]
    exact_mod_cast Iff.rfl

/-! ### Infinities -/

section
variable (mode : Rm) (n p : Bool) (j : Nat) (e : Int)

theorem Fv.inf_add_inf : (Fv.inf n).add mode (.inf p) = if n = p then (.inf n, 0) else (.nan, fNV) := by
  cases n <;> cases p <;> rfl

theorem Fv.inf_add_fin : (Fv.inf n).add mode (.fin p j e) = (.inf n, 0) := by
  obtain ⟨v, y, h⟩ := SumAcc.add_fin (SumAcc.add {} (.inf n)) p j e
  change ((SumAcc.add {} (.inf n)).add (.fin p j e)).done mode = _
  rw [h]
  cases n <;> rfl

theorem Fv.fin_add_inf : (Fv.fin p j e).add mode (.inf n) = (.inf n, 0) := by
  obtain ⟨v, y, h⟩ := SumAcc.add_fin {} p j e
  change ((SumAcc.add {} (.fin p j e)).add (.inf n)).done mode = _
  rw [h]
  cases n <;> rfl

theorem Fv.nan_add (c : Fv) : Fv.nan.add mode c = (.nan, 0) := by
  change ((SumAcc.add {} .nan).add c).done mode = _
  cases c with
  | nan => rfl
  | inf q => cases q <;> rfl
  | fin q l x =>
    obtain ⟨v, y, h⟩ := SumAcc.add_fin (SumAcc.add {} .nan) q l x
    rw [h]
    rfl

/-- An infinite factor: nv with a zero, and else the sum of an infinity with the addend (R57). -/
theorem Fv.fma_inf (c : Fv) (hc : c.isNaN = false) : Fv.fma mode (.inf n) (.fin p j e) c =
    if j = 0 then (.nan, fNV) else (Fv.inf (n != p)).add mode c := by
  have h : (Fv.isNaN (.inf n) || Fv.isNaN (.fin p j e) || c.isNaN) = false := hc
  rw [Fv.fma, if_neg (h ▸ Bool.false_ne_true)]
  by_cases hj : j = 0
  · simp [Fv.mul, hj, Fv.nan_add]
  · simp [Fv.mul, hj]

end

/-- Settles O6: sums by the exactness of each added term, quotients and roots by the bounds of the integers they are taken from. -/
theorem fpExactValues : Obligations.FpExactValues := by
  intro mode n p q i j l d e x a b c zero
  have hfma : Fv.fma mode a b c = (Fv.fin (n != p) (i * j) (d + e)).add mode c := Fv.fma_fin mode n p i j d e c rfl
  have hmul : (Fv.fin (n != p) (i * j) (d + e)).rat = a.rat * b.rat := Fv.mul_fin_rat n p i j d e
  obtain ⟨hadd, hadd2⟩ := Fv.add_fin_rat mode n p i j d e
  obtain ⟨hf, hf2⟩ := Fv.add_fin_rat mode (n != p) q (i * j) l (d + e) x
  rw [hmul] at hf
  refine ⟨hadd, hadd2, Fv.mul_fin_rat n p i j d e, rfl, hfma ▸ hf, hfma ▸ hf2, Fv.add_fin_zero mode n p i j d e, rfl, ?fmaZero, ?divZero,
    ?sqrtZero, Fv.div_fin, ?root, ?byZero, ?zeroByZero, ?negRoot, Fv.inf_add_inf mode n p, Fv.inf_add_fin mode n p j e,
    Fv.fin_add_inf mode n p j e, rfl, rfl, rfl, rfl, rfl, rfl, rfl, ?fmaInf, ?addInf, ?infInf⟩
  case fmaZero =>
    intro h
    rw [hfma, Fv.add_fin_zero mode (n != p) q (i * j) l (d + e) x (by rw [hmul]; exact h)]
    simp only [Nat.mul_eq_zero, zero]
    split
    · next hz => rw [hz.2.2]
    · rfl
  case divZero => intro hi hj; simp [a, b, zero, Fv.div, hi, hj]
  case sqrtZero => intro hi; simp [a, zero, Fv.sqrt, hi]
  case root =>
    rintro hi rfl
    exact Fv.sqrt_fin_bounds hi
  case byZero => intro hi hj; simp [a, b, Fv.div, hi, hj]
  case zeroByZero => intro hi hj; simp [a, b, Fv.div, hi, hj]
  case negRoot => intro hi hn; simp [a, Fv.sqrt, hi, hn]
  case fmaInf => rw [Fv.fma_inf mode n p j e c rfl, Fv.inf_add_fin]
  case addInf => rw [Fv.fma_fin mode n p i j d e (.inf q) rfl, Fv.fin_add_inf]
  case infInf =>
    intro hj
    rw [Fv.fma_inf mode n p j e (.inf q) rfl, if_neg hj, Fv.inf_add_inf]
    split
    · next hq => rw [hq]
    · rfl

end Sys2Proof.Machine
end

section
/-! Rounding: to a unit, to a format with its flags, and stochastically to BF16 (R44, R49, R56, R57, R60). -/

namespace Sys2Proof.Machine
open Sys2Proof

/-! ### To multiples of a unit (R56) -/

/-- Whether a value with r units and a sticky part left of d is rounded away from zero, quo being its multiple below (R56). -/
def roundsUp (mode : Rm) (neg sticky : Bool) (quo r d : Nat) : Bool :=
  if mode = rne then decide (2 * r > d) || (decide (2 * r = d) && (sticky || quo % 2 == 1))
  else if mode = rup then (r != 0 || sticky) && !neg
  else if mode = rdn then (r != 0 || sticky) && neg
  else false

section
variable {m : Nat} {e q : Int} {t : Rat} (mode : Rm) (neg sticky : Bool)

theorem roundAt_of_le (h : q ≤ e) : roundAt mode neg m e q sticky = (m * 2 ^ (e - q).toNat, sticky) := by rw [roundAt, if_pos h]

/-- Rounding to a greater unit: the multiple below, or the one above it. -/
theorem roundAt_of_lt (h : e < q) : roundAt mode neg m e q sticky =
    (m / 2 ^ (q - e).toNat + (roundsUp mode neg sticky (m / 2 ^ (q - e).toNat) (m % 2 ^ (q - e).toNat) (2 ^ (q - e).toNat)).toNat,
      m % 2 ^ (q - e).toNat != 0 || sticky) := by
  rw [roundAt, if_neg (not_le.2 h)]
  simp only [roundsUp]
  generalize (if mode = rne then _ else _ : Bool) = up
  cases up <;> rfl

theorem roundsUp_rtz (quo r d : Nat) : roundsUp rtz neg sticky quo r d = false := rfl
theorem roundsUp_rup (quo r d : Nat) : roundsUp rup neg sticky quo r d = ((r != 0 || sticky) && !neg) := rfl
theorem roundsUp_rdn (quo r d : Nat) : roundsUp rdn neg sticky quo r d = ((r != 0 || sticky) && neg) := rfl
theorem roundsUp_rne (quo r d : Nat) :
    roundsUp rne neg sticky quo r d = (decide (2 * r > d) || (decide (2 * r = d) && (sticky || quo % 2 == 1))) := rfl

end

/-- The part of a unit of 2^q that m + t units of 2^e leave. -/
def lostPart (m : Nat) (e q : Int) (t : Rat) : Rat := ((m % 2 ^ (q - e).toNat : Nat) + t) / (2 ^ (q - e).toNat : Nat)

section
variable {m : Nat} {e q : Int} {t : Rat} (h0 : 0 ≤ t) (h1 : t < 1)

/-- A value in a greater unit: whole multiples and a lost part. -/
theorem units_eq (h : e ≤ q) (t : Rat) :
    ((m : Rat) + t) * 2 ^ (e - q) = (m / 2 ^ (q - e).toNat : Nat) + lostPart m e q t := by
  have hd : (2 : Rat) ^ (e - q) = ((2 ^ (q - e).toNat : Nat) : Rat)⁻¹ := by
    rw [Nat.cast_pow, Nat.cast_ofNat, ← zpow_natCast, ← zpow_neg]
    congr 1
    omega
  have hpos : ((2 ^ (q - e).toNat : Nat) : Rat) ≠ 0 := Nat.cast_ne_zero.2 (Nat.two_pow_pos _).ne'
  have hm : (m : Rat) = (2 ^ (q - e).toNat : Nat) * (m / 2 ^ (q - e).toNat : Nat) + (m % 2 ^ (q - e).toNat : Nat) := by
    exact_mod_cast (Nat.div_add_mod m (2 ^ (q - e).toNat)).symm
  rw [hd, lostPart]
  nth_rw 1 [hm]
  field_simp
  ring

include h0

theorem lostPart_nonneg : 0 ≤ lostPart m e q t := div_nonneg (add_nonneg (Nat.cast_nonneg _) h0) (Nat.cast_nonneg _)

/-- Nothing is lost exactly when neither whole units nor the sticky part are left. -/
theorem lostPart_eq_zero_iff : lostPart m e q t = 0 ↔ (m % 2 ^ (q - e).toNat != 0 || decide (t ≠ 0)) = false := by
  have hpos : ((2 ^ (q - e).toNat : Nat) : Rat) ≠ 0 := Nat.cast_ne_zero.2 (Nat.two_pow_pos _).ne'
  rw [lostPart, div_eq_zero_iff, or_iff_left hpos, add_eq_zero_iff_of_nonneg (Nat.cast_nonneg _) h0]
  simp

include h1

omit h0 in
theorem lostPart_lt_one : lostPart m e q t < 1 := by
  have hpos : (0 : Rat) < ((2 ^ (q - e).toNat : Nat) : Rat) := Nat.cast_pos.2 (Nat.two_pow_pos _)
  have hr : ((m % 2 ^ (q - e).toNat : Nat) : Rat) + 1 ≤ (2 ^ (q - e).toNat : Nat) := by
    exact_mod_cast Nat.mod_lt m (Nat.two_pow_pos (q - e).toNat)
  rw [lostPart, div_lt_one hpos]
  linarith

/-- The lost part against a half, by the whole units left: the sticky part lies below the last of them. -/
theorem lostPart_half (h : e < q) (r d : Nat) (hr : r = m % 2 ^ (q - e).toNat) (hd : d = 2 ^ (q - e).toNat) :
    (2 * r < d → lostPart m e q t < 1 / 2) ∧ (2 * r = d → lostPart m e q t = 1 / 2 + t / d) ∧ (d < 2 * r → 1 / 2 < lostPart m e q t) := by
  have hpos : (0 : Rat) < (d : Rat) := hd ▸ Nat.cast_pos.2 (Nat.two_pow_pos _)
  have heven : d = 2 * 2 ^ ((q - e).toNat - 1) := by rw [hd, ← Nat.pow_succ']; congr 1; omega
  have hl : lostPart m e q t = (r + t) / d := by rw [lostPart, hr, hd]
  rw [hl]
  refine ⟨fun hlt => ?_, fun heq => ?_, fun hgt => ?_⟩
  · have : 2 * ((r : Rat) + 1) ≤ d := by exact_mod_cast (by omega : 2 * (r + 1) ≤ d)
    rw [div_lt_div_iff₀ hpos two_pos]
    linarith
  · have : (d : Rat) = 2 * r := by exact_mod_cast heq.symm
    rw [add_div]
    congr 1
    rw [div_eq_div_iff hpos.ne' two_ne_zero]
    linarith
  · have : (d : Rat) < 2 * r := by exact_mod_cast hgt
    rw [div_lt_div_iff₀ two_pos hpos]
    linarith

/-- Rounding to nearest: within a half, and to the even multiple when just a half is lost (R56). -/
theorem roundAt_rne (h : e < q) (neg : Bool) :
    |((roundAt rne neg m e q (decide (t ≠ 0))).1 : Rat) - (m + t) * 2 ^ (e - q)| ≤ 1 / 2 ∧
      (|((roundAt rne neg m e q (decide (t ≠ 0))).1 : Rat) - (m + t) * 2 ^ (e - q)| = 1 / 2 →
        (roundAt rne neg m e q (decide (t ≠ 0))).1 % 2 = 0) := by
  have hf0 := lostPart_nonneg (m := m) (e := e) (q := q) h0
  have hf1 := lostPart_lt_one (m := m) (e := e) (q := q) h1
  obtain ⟨hlow, htie, hhigh⟩ := lostPart_half h0 h1 h _ _ rfl rfl
  rw [units_eq h.le, roundAt_of_lt _ _ _ h, roundsUp_rne]
  generalize lostPart m e q t = x at *
  generalize m % 2 ^ (q - e).toNat = r at *
  generalize m / 2 ^ (q - e).toNat = quo at *
  have hd : 0 < 2 ^ (q - e).toNat := Nat.two_pow_pos _
  generalize 2 ^ (q - e).toNat = d at *
  have hdown (hx : x ≤ 1 / 2) (he : x = 1 / 2 → quo % 2 = 0) :
      |((quo + false.toNat : Nat) : Rat) - (quo + x)| ≤ 1 / 2 ∧
        (|((quo + false.toNat : Nat) : Rat) - (quo + x)| = 1 / 2 → (quo + false.toNat) % 2 = 0) := by
    have : |((quo + false.toNat : Nat) : Rat) - (quo + x)| = x := by simp [abs_of_nonneg hf0]
    rw [this]
    exact ⟨hx, he⟩
  have hup (hx : 1 / 2 ≤ x) (he : x = 1 / 2 → quo % 2 = 1) :
      |((quo + true.toNat : Nat) : Rat) - (quo + x)| ≤ 1 / 2 ∧
        (|((quo + true.toNat : Nat) : Rat) - (quo + x)| = 1 / 2 → (quo + true.toNat) % 2 = 0) := by
    have : |((quo + true.toNat : Nat) : Rat) - (quo + x)| = 1 - x := by
      rw [Bool.toNat_true, Nat.cast_add_one, add_sub_add_left_eq_sub, abs_of_pos (by linarith)]
    rw [this]
    refine ⟨by linarith, fun h => ?_⟩
    have := he (by linarith)
    simp only [Bool.toNat_true]
    omega
  rcases lt_trichotomy (2 * r) d with hlt | heq | hgt
  · have hx := hlow hlt
    simpa [hlt.not_gt, hlt.ne] using hdown hx.le fun h => absurd h hx.ne
  · have hx := htie heq
    by_cases ht : t = 0
    · have hx : x = 1 / 2 := by simp [hx, ht]
      rcases Nat.mod_two_eq_zero_or_one quo with hq | hq
      · simpa [heq, ht, hq] using hdown hx.le fun _ => hq
      · simpa [heq, ht, hq] using hup hx.ge fun _ => hq
    · have : 0 < t / d := div_pos (lt_of_le_of_ne h0 (Ne.symm ht)) (Nat.cast_pos.2 hd)
      simpa [heq, ht] using hup (by linarith) fun h => absurd h (by linarith)
  · have hx := hhigh hgt
    simpa [hgt] using hup hx.le fun h => absurd h hx.ne'

/-- Rounding away from zero: to the multiple above unless nothing is lost (R56). -/
theorem le_add_lost : lostPart m e q t ≤ (m % 2 ^ (q - e).toNat != 0 || decide (t ≠ 0)).toNat ∧
    ((m % 2 ^ (q - e).toNat != 0 || decide (t ≠ 0)).toNat : Rat) < lostPart m e q t + 1 := by
  have hf0 := lostPart_nonneg (m := m) (e := e) (q := q) h0
  have hf1 := lostPart_lt_one (m := m) (e := e) (q := q) h1
  have hz := lostPart_eq_zero_iff (m := m) (e := e) (q := q) h0
  cases hl : (m % 2 ^ (q - e).toNat != 0 || decide (t ≠ 0)) with
  | false => simp [hz.2 hl]
  | true =>
    have hne : lostPart m e q t ≠ 0 := fun h => Bool.false_ne_true ((hz.1 h).symm.trans hl)
    have : 0 < lostPart m e q t := lt_of_le_of_ne hf0 hne.symm
    simp only [Bool.toNat_true, Nat.cast_one]
    exact ⟨hf1.le, by linarith⟩

/-- A value in a unit, as R56 rounds it there: in that unit exactly, or in a smaller one. -/
theorem floor_units (h : e < q) : ⌊((m : Rat) + t) * 2 ^ (e - q)⌋₊ = m / 2 ^ (q - e).toNat := by
  have hf0 := lostPart_nonneg (m := m) (e := e) (q := q) h0
  have hf1 := lostPart_lt_one (m := m) (e := e) (q := q) h1
  rw [units_eq h.le, add_comm, Nat.floor_add_natCast hf0, Nat.floor_eq_zero.2 hf1, Nat.zero_add]

end

/-- The first clause of R56: rounding to the multiples of a greater unit. -/
theorem roundAt_modes (neg : Bool) (m : Nat) (e q : Int) (t : Rat) (h0 : 0 ≤ t) (h1 : t < 1) (h : e < q) :
    let v : Rat := (m + t) * 2 ^ (e - q)
    let r (mode : Rm) : Nat × Bool := roundAt mode neg m e q (decide (t ≠ 0))
    ((r rtz).1 : Rat) ≤ v ∧ v < (r rtz).1 + 1 ∧
    (neg = false → v ≤ (r rup).1 ∧ ((r rup).1 : Rat) < v + 1 ∧ r rdn = r rtz) ∧
    (neg = true → v ≤ (r rdn).1 ∧ ((r rdn).1 : Rat) < v + 1 ∧ r rup = r rtz) ∧
    |((r rne).1 : Rat) - v| ≤ 1 / 2 ∧ (|((r rne).1 : Rat) - v| = 1 / 2 → (r rne).1 % 2 = 0) ∧
    (∀ mode, (r mode).2 = false ↔ v = (r rtz).1) := by
  intro v r
  have hv : v = (m / 2 ^ (q - e).toNat : Nat) + lostPart m e q t := units_eq h.le t
  have hf0 := lostPart_nonneg (m := m) (e := e) (q := q) h0
  have hf1 := lostPart_lt_one (m := m) (e := e) (q := q) h1
  obtain ⟨ha, hb⟩ := le_add_lost (m := m) (e := e) (q := q) h0 h1
  obtain ⟨hne, heven⟩ := roundAt_rne (m := m) h0 h1 h neg
  have hz : r rtz = (m / 2 ^ (q - e).toNat, m % 2 ^ (q - e).toNat != 0 || decide (t ≠ 0)) := roundAt_of_lt rtz neg _ h
  have haway (mode : Rm) (hup : roundsUp mode neg (decide (t ≠ 0)) (m / 2 ^ (q - e).toNat) (m % 2 ^ (q - e).toNat) (2 ^ (q - e).toNat) =
      (m % 2 ^ (q - e).toNat != 0 || decide (t ≠ 0))) : v ≤ (r mode).1 ∧ ((r mode).1 : Rat) < v + 1 := by
    have hr : r mode = _ := roundAt_of_lt mode neg _ h
    rw [hr, hup, hv]
    push_cast
    constructor <;> linarith
  refine ⟨?_, ?_, ?_, ?_, hne, heven, ?_⟩
  · rw [hz, hv]
    linarith
  · rw [hz, hv]
    linarith
  · rintro rfl
    obtain ⟨hle, hlt⟩ := haway rup (by rw [roundsUp_rup, Bool.not_false, Bool.and_true])
    exact ⟨hle, hlt, hz ▸ (roundAt_of_lt rdn false _ h).trans (by rw [roundsUp_rdn, Bool.and_false]; rfl)⟩
  · rintro rfl
    obtain ⟨hle, hlt⟩ := haway rdn (by rw [roundsUp_rdn, Bool.and_true])
    exact ⟨hle, hlt, hz ▸ (roundAt_of_lt rup true _ h).trans (by rw [roundsUp_rup, Bool.not_true, Bool.and_false]; rfl)⟩
  · intro mode
    have hr : (r mode).2 = (m % 2 ^ (q - e).toNat != 0 || decide (t ≠ 0)) := congrArg Prod.snd (roundAt_of_lt mode neg _ h)
    rw [hr, hz, hv, add_eq_left, lostPart_eq_zero_iff h0]

/-- Only what is lost is rounded up, and never toward zero. -/
theorem lost_of_roundsUp {mode : Rm} {neg sticky : Bool} {quo r d : Nat} (hd : 0 < d) (h : roundsUp mode neg sticky quo r d = true) :
    (r != 0 || sticky) = true ∧ mode ≠ rtz := by
  constructor
  · unfold roundsUp at h
    split at h
    · have hr : r ≠ 0 := by
        rintro rfl
        simp [hd.ne] at h
      simp [hr]
    · split at h
      · exact Bool.and_elim_left h
      · split at h
        · exact Bool.and_elim_left h
        · exact absurd h Bool.false_ne_true
  · rintro rfl
    exact absurd h Bool.false_ne_true

section
variable {m : Nat} {e q : Int} {t : Rat} (mode : Rm) (neg : Bool) (h0 : 0 ≤ t) (h1 : t < 1) (h : t = 0 ∨ e < q)
include h0 h1 h

/-- Rounding to a unit, where what follows the last bit is marked only below a smaller one: the multiple below or the next, exact just
when nothing is lost. -/
theorem roundAt_within :
    ((roundAt mode neg m e q (decide (t ≠ 0))).1 = ⌊((m : Rat) + t) * 2 ^ (e - q)⌋₊ ∨
      mode ≠ rtz ∧ (roundAt mode neg m e q (decide (t ≠ 0))).1 = ⌊((m : Rat) + t) * 2 ^ (e - q)⌋₊ + 1) ∧
    ((roundAt mode neg m e q (decide (t ≠ 0))).2 = false ↔
      ((roundAt mode neg m e q (decide (t ≠ 0))).1 : Rat) = (m + t) * 2 ^ (e - q)) := by
  by_cases hq : e < q
  · have hf0 := lostPart_nonneg (m := m) (e := e) (q := q) h0
    have hf1 := lostPart_lt_one (m := m) (e := e) (q := q) h1
    have hz := lostPart_eq_zero_iff (m := m) (e := e) (q := q) h0
    rw [floor_units h0 h1 hq, roundAt_of_lt _ _ _ hq, units_eq hq.le]
    cases hup : roundsUp mode neg (decide (t ≠ 0)) (m / 2 ^ (q - e).toNat) (m % 2 ^ (q - e).toNat) (2 ^ (q - e).toNat) with
    | false =>
      refine ⟨Or.inl rfl, ?_⟩
      rw [← hz, Bool.toNat_false, Nat.add_zero, left_eq_add]
    | true =>
      obtain ⟨hlost, hmode⟩ := lost_of_roundsUp (Nat.two_pow_pos _) hup
      refine ⟨Or.inr ⟨hmode, rfl⟩, iff_of_false (fun hl => Bool.false_ne_true (hl.symm.trans hlost)) ?_⟩
      push_cast [Bool.toNat_true]
      linarith
  · obtain rfl := h.resolve_right hq
    have hw : ((m : Rat) + 0) * 2 ^ (e - q) = (m * 2 ^ (e - q).toNat : Nat) := by
      rw [add_zero, Nat.cast_mul, Nat.cast_pow, Nat.cast_ofNat, ← zpow_natCast]
      congr 2
      omega
    rw [roundAt_of_le _ _ _ (not_lt.1 hq), hw, Nat.floor_natCast]
    simp

end

/-! ### Codes and their magnitudes (R44) -/

/-- The formats of R44. -/
def fpFormats : List FpFmt := [fp64, fp32, bf16, fp16, e4m3, e5m2, fp4]

/-- The magnitude that an exponent field and fraction stand for. -/
def FpFmt.mag (f : FpFmt) (c : Nat) : Rat :=
  if c < 2 ^ f.fbits then c * 2 ^ (1 - (f.bias : Int) - f.fbits)
  else (2 ^ f.fbits + c % 2 ^ f.fbits : Nat) * 2 ^ ((c / 2 ^ f.fbits : Nat) - (f.bias : Int) - f.fbits)

/-- The code of n units of an exponent: with a leading bit, without one at the lowest exponent, or one past the greatest fraction. -/
theorem FpFmt.mag_units (f : FpFmt) {x n : Nat} (hn : n ≤ 2 * 2 ^ f.fbits) (hx : x = 0 ∨ 2 ^ f.fbits ≤ n) :
    f.mag (x * 2 ^ f.fbits + n) = n * 2 ^ ((x : Int) + (1 - f.bias) - f.fbits) := by
  have hB : 0 < 2 ^ f.fbits := Nat.two_pow_pos _
  unfold FpFmt.mag
  generalize 2 ^ f.fbits = B at *
  rcases lt_or_ge n B with hlt | hge
  · obtain rfl := hx.resolve_right (not_le.2 hlt)
    simp [hlt]
  · rcases lt_or_ge n (2 * B) with hlt | hge2
    · have hc : x * B + n = (n - B) + B * (x + 1) := by rw [Nat.mul_add, Nat.mul_comm x]; omega
      rw [hc, if_neg (by rw [Nat.mul_add]; omega), Nat.add_mul_mod_self_left, Nat.add_mul_div_left _ _ hB,
        Nat.mod_eq_of_lt (by omega), Nat.div_eq_of_lt (by omega)]
      congr 2
      · omega
      · push_cast; ring
    · have hc : x * B + n = 0 + B * (x + 2) := by rw [Nat.mul_add, Nat.mul_comm x]; omega
      rw [hc, if_neg (by rw [Nat.mul_add]; omega), Nat.add_mul_mod_self_left, Nat.add_mul_div_left _ _ hB, Nat.zero_mod, Nat.zero_div,
        show n = 2 * B by omega]
      rw [show ((x : Int) + (1 - f.bias) - f.fbits) = ((0 + (x + 2) : Nat) - (f.bias : Int) - f.fbits) - 1 by push_cast; ring,
        zpow_sub_one₀ two_ne_zero]
      push_cast
      ring

/-- Codes of one sign are consecutive in magnitude. -/
theorem FpFmt.mag_strictMono (f : FpFmt) : StrictMono f.mag := by
  refine strictMono_nat_of_lt_succ fun c => ?_
  have hB : 0 < 2 ^ f.fbits := Nat.two_pow_pos _
  have hdiv := Nat.div_add_mod c (2 ^ f.fbits)
  have hmod := Nat.mod_lt c hB
  obtain ⟨x, n, hc, hn, hx⟩ : ∃ x n, c = x * 2 ^ f.fbits + n ∧ n < 2 * 2 ^ f.fbits ∧ (x = 0 ∨ 2 ^ f.fbits ≤ n) := by
    by_cases h : c < 2 ^ f.fbits
    · exact ⟨0, c, by omega, by omega, Or.inl rfl⟩
    · refine ⟨c / 2 ^ f.fbits - 1, 2 ^ f.fbits + c % 2 ^ f.fbits, ?_, by omega, Or.inr (by omega)⟩
      have : 1 ≤ c / 2 ^ f.fbits := (Nat.one_le_div_iff hB).2 (by omega)
      rw [Nat.sub_mul, Nat.mul_comm]
      have := Nat.le_mul_of_pos_right (2 ^ f.fbits) this
      omega
  rw [hc, Nat.add_assoc, f.mag_units hn.le hx, f.mag_units hn (hx.imp_right fun h => h.trans n.le_succ)]
  have : (0 : Rat) < 2 ^ ((x : Int) + (1 - f.bias) - f.fbits) := zpow_pos two_pos _
  push_cast
  linarith

/-- Up to the largest finite value a code stands for a number (R44, R47, R48). -/
theorem FpFmt.finite_of_le_maxCode {f : FpFmt} (hf : f ∈ fpFormats) {c : Nat} (hc : c ≤ f.maxCode) :
    c < 2 ^ (f.ebits + f.fbits) ∧ (f.kind = .ieee → c / 2 ^ f.fbits ≠ 2 ^ f.ebits - 1) ∧
      (f.kind = .e4m3 → ¬(c / 2 ^ f.fbits = 15 ∧ c % 2 ^ f.fbits = 7)) := by
  simp only [fpFormats, List.mem_cons, List.not_mem_nil, or_false] at hf
  rcases hf with rfl | rfl | rfl | rfl | rfl | rfl | rfl <;>
    simp [fp64, fp32, bf16, fp16, e4m3, e5m2, fp4, FpFmt.maxCode] at hc ⊢ <;> omega

/-- A code up to the largest finite one, under a sign, is that sign and its magnitude. -/
theorem FpFmt.value_signed {f : FpFmt} (hf : f ∈ fpFormats) {c : Nat} (hc : c ≤ f.maxCode) (neg : Bool) :
    ∃ k y, f.value (f.signed neg c) = .fin neg k y ∧ (k : Rat) * 2 ^ y = f.mag c := by
  obtain ⟨hlt, hieee, he4⟩ := FpFmt.finite_of_le_maxCode hf hc
  have hsig : f.signed neg c = c + 2 ^ f.fbits * (2 ^ f.ebits * neg.toNat) := by
    cases neg <;> simp [FpFmt.signed, Nat.pow_add, Nat.mul_comm]
  have hB : 0 < 2 ^ f.fbits := Nat.two_pow_pos _
  have hE : 0 < 2 ^ f.ebits := Nat.two_pow_pos _
  have hexp : c / 2 ^ f.fbits < 2 ^ f.ebits := Nat.div_lt_of_lt_mul (by rwa [← Nat.pow_add, Nat.add_comm])
  have hs : f.signed neg c / 2 ^ (f.ebits + f.fbits) % 2 = neg.toNat := by
    rw [hsig, Nat.add_comm f.ebits, Nat.pow_add, ← Nat.div_div_eq_div_mul, Nat.add_mul_div_left _ _ hB, Nat.add_mul_div_left _ _ hE,
      Nat.div_eq_of_lt hexp, Nat.zero_add]
    cases neg <;> rfl
  have hx : f.signed neg c / 2 ^ f.fbits % 2 ^ f.ebits = c / 2 ^ f.fbits := by
    rw [hsig, Nat.add_mul_div_left _ _ hB, Nat.add_mul_mod_self_left, Nat.mod_eq_of_lt hexp]
  have hm : f.signed neg c % 2 ^ f.fbits = c % 2 ^ f.fbits := by rw [hsig, Nat.add_mul_mod_self_left]
  have hneg : (neg.toNat == 1) = neg := by cases neg <;> rfl
  have hfin : f.value (f.signed neg c) = if c / 2 ^ f.fbits = 0 then Fv.fin neg (c % 2 ^ f.fbits) (1 - (f.bias : Int) - f.fbits)
      else .fin neg (2 ^ f.fbits + c % 2 ^ f.fbits) ((c / 2 ^ f.fbits : Nat) - (f.bias : Int) - f.fbits) := by
    simp only [FpFmt.value, hs, hx, hm, hneg]
    cases hk : f.kind with
    | ieee => rw [if_neg (hieee hk)]
    | e4m3 => rw [if_neg (he4 hk)]
    | fp4 => rfl
  by_cases hc0 : c < 2 ^ f.fbits
  · rw [hfin, if_pos (Nat.div_eq_of_lt hc0), FpFmt.mag, if_pos hc0, Nat.mod_eq_of_lt hc0]
    exact ⟨_, _, rfl, rfl⟩
  · rw [hfin, if_neg (Nat.div_pos (not_lt.1 hc0) hB).ne', FpFmt.mag, if_neg hc0]
    exact ⟨_, _, rfl, rfl⟩

theorem FpFmt.value_signed_zero {f : FpFmt} (hf : f ∈ fpFormats) (neg : Bool) : ∃ y, f.value (f.signed neg 0) = .fin neg 0 y := by
  obtain ⟨k, y, hval, hk⟩ := FpFmt.value_signed hf (Nat.zero_le _) neg
  have hzero : f.mag 0 = 0 := by simp [FpFmt.mag]
  rw [hzero, mul_eq_zero, or_iff_left (zpow_ne_zero _ two_ne_zero), Nat.cast_eq_zero] at hk
  exact ⟨y, hk ▸ hval⟩

/-! ### To a format (R44, R49, R56, R57) -/

section
variable {f : FpFmt} (hf : f ∈ fpFormats)
include hf

/-- The largest finite value under a sign. -/
theorem FpFmt.rat_signed_maxCode (neg : Bool) : (f.value (f.signed neg f.maxCode)).rat = if neg then -f.mag f.maxCode else f.mag f.maxCode := by
  obtain ⟨k, y, hv, hk⟩ := FpFmt.value_signed hf le_rfl neg
  rw [hv, ← hk, Fv.rat]
  cases neg <;> simp

theorem FpFmt.rat_maxCode : (f.value f.maxCode).rat = f.mag f.maxCode := FpFmt.rat_signed_maxCode hf false

theorem FpFmt.value_infCode (hk : f.kind = .ieee) (neg : Bool) : f.value (f.infCode neg) = .inf neg := by
  revert f neg
  decide

end

/-- Two numbers of units compared in the smaller one of their units. -/
theorem units_lt_iff (k n : Nat) (y q : Int) :
    (if q ≤ y then decide (n > k * 2 ^ (y - q).toNat) else decide (n * 2 ^ (q - y).toNat > k)) = decide ((k : Rat) * 2 ^ y < n * 2 ^ q) := by
  split
  · next h =>
    rw [decide_eq_decide, ← natPow_mul_zpow h, ← mul_assoc, mul_lt_mul_iff_left₀ (zpow_pos two_pos q)]
    exact_mod_cast Iff.rfl
  · next h =>
    rw [decide_eq_decide, ← natPow_mul_zpow (not_le.1 h).le, ← mul_assoc, mul_lt_mul_iff_left₀ (zpow_pos two_pos y)]
    exact_mod_cast Iff.rfl

/-- Where a value lies says which bit is its leading one. -/
theorem msb_eq {m : Nat} {e top : Int} {t : Rat} (hm : m ≠ 0) (h0 : 0 ≤ t) (h1 : t < 1) (hlo : (2 : Rat) ^ top ≤ (m + t) * 2 ^ e)
    (hhi : (m + t) * (2 : Rat) ^ e < 2 ^ (top + 1)) : e + msb m = top := by
  have hpos : (0 : Rat) < 2 ^ e := zpow_pos two_pos e
  have hl : (2 : Rat) ^ (e + msb m) ≤ (m + t) * 2 ^ e := by
    rw [add_comm, zpow_add₀ two_ne_zero, zpow_natCast]
    refine mul_le_mul_of_nonneg_right ?_ hpos.le
    have : ((2 ^ msb m : Nat) : Rat) ≤ m := Nat.cast_le.2 (two_pow_msb_le hm)
    push_cast at this
    linarith
  have hh : (m + t) * (2 : Rat) ^ e < 2 ^ (e + msb m + 1) := by
    rw [add_assoc, zpow_add₀ two_ne_zero, mul_comm]
    refine mul_lt_mul_of_pos_left ?_ hpos
    have : ((m + 1 : Nat) : Rat) ≤ (2 ^ (msb m + 1) : Nat) := Nat.cast_le.2 (lt_two_pow_msb m)
    push_cast at this
    rw [← Nat.cast_add_one, zpow_natCast]
    linarith
  have ha := (zpow_lt_zpow_iff_right₀ (by norm_num : (1 : Rat) < 2)).1 (hl.trans_lt hhi)
  have hb := (zpow_lt_zpow_iff_right₀ (by norm_num : (1 : Rat) < 2)).1 (hlo.trans_lt hh)
  omega

/-- A value against a power of two, by its leading bit. -/
theorem lt_zpow_iff {v : Rat} {top : Int} (hlo : (2 : Rat) ^ top ≤ v) (hhi : v < 2 ^ (top + 1)) (a : Int) : v < 2 ^ a ↔ top < a := by
  have h2 : (1 : Rat) < 2 := by norm_num
  constructor
  · exact fun h => (zpow_lt_zpow_iff_right₀ h2).1 (hlo.trans_lt h)
  · exact fun h => hhi.trans_le (zpow_le_zpow_right₀ h2.le h)

/-- The code of n units of 2^q. -/
def FpFmt.codeOf (f : FpFmt) (q : Int) (n : Nat) : Nat := (q - (1 - (f.bias : Int) - f.fbits)).toNat * 2 ^ f.fbits + n

theorem FpFmt.codeOf_succ (f : FpFmt) (q : Int) (n : Nat) : f.codeOf q n + 1 = f.codeOf q (n + 1) := rfl

/-- What rounding a nonzero value to a format delivers: the overflow, or the code of the magnitude rounded to its unit in the format. -/
theorem FpFmt.roundFin_eq {f : FpFmt} (hf : f ∈ fpFormats) (mode : Rm) (neg : Bool) (m : Nat) (e : Int) (sticky : Bool) {q : Int}
    (hq : q = max (e + msb m) (1 - (f.bias : Int)) - f.fbits) {r : Nat × Bool} (hr : r = roundAt mode neg m e q sticky) :
    f.roundFin mode neg m e sticky =
      if f.mag f.maxCode < r.1 * 2 ^ q then
        (if f.kind = .ieee ∧ (mode = rne ∨ (mode = rup ∧ neg = false) ∨ (mode = rdn ∧ neg = true)) then f.infCode neg
          else f.signed neg f.maxCode, fOF ||| fNX)
      else
        (f.signed neg (f.codeOf q r.1),
          if r.2 then (if e + msb m < 1 - (f.bias : Int) then fNX ||| fUF else fNX) else 0) := by
  obtain ⟨k, y, hv, hk⟩ := FpFmt.value_signed hf le_rfl false
  have hv : f.value f.maxCode = .fin false k y := hv
  have hq : max (e + msb m - f.fbits) (1 - (f.bias : Int) - f.fbits) = q := by omega
  simp only [FpFmt.roundFin, hq, hv, ← hr, units_lt_iff, hk, decide_eq_true_eq, FpFmt.codeOf]

/-- The code of n units of 2^q, q the unit of a value of the format. -/
theorem FpFmt.mag_code (f : FpFmt) {n : Nat} {q : Int} (hq : 1 - (f.bias : Int) - f.fbits ≤ q) (hn : n ≤ 2 * 2 ^ f.fbits)
    (hx : q = 1 - (f.bias : Int) - f.fbits ∨ 2 ^ f.fbits ≤ n) :
    f.mag (f.codeOf q n) = n * 2 ^ q := by
  rw [FpFmt.codeOf, f.mag_units hn (hx.imp_left fun h => by omega)]
  congr 2
  omega

section
variable {f : FpFmt} {m : Nat} {e top q : Int} {t : Rat}
variable (hlo : (2 : Rat) ^ top ≤ (m + t) * 2 ^ e) (hhi : (m + t) * (2 : Rat) ^ e < 2 ^ (top + 1))
variable (hq : q = max top (1 - (f.bias : Int)) - f.fbits)
include hlo hhi hq

/-- The multiples that a rounded value takes: at most twice those of a leading bit alone, and no fewer above the lowest exponent. -/
theorem FpFmt.floor_bounds : ⌊((m : Rat) + t) * 2 ^ (e - q)⌋₊ + 1 ≤ 2 * 2 ^ f.fbits ∧
    (q = 1 - (f.bias : Int) - f.fbits ∨ 2 ^ f.fbits ≤ ⌊((m : Rat) + t) * 2 ^ (e - q)⌋₊) := by
  have hpos : (0 : Rat) < 2 ^ q := zpow_pos two_pos q
  have hw : ((m : Rat) + t) * 2 ^ (e - q) = (m + t) * 2 ^ e / 2 ^ q := by rw [zpow_sub₀ two_ne_zero, mul_div_assoc]
  have hpow (a : Int) : (2 : Rat) ^ a / 2 ^ q = 2 ^ (a - q) := (zpow_sub₀ two_ne_zero a q).symm
  constructor
  · have hlt : ((m : Rat) + t) * 2 ^ (e - q) < (2 * 2 ^ f.fbits : Nat) := by
      calc ((m : Rat) + t) * 2 ^ (e - q) < 2 ^ (top + 1 - q) := by rw [hw, ← hpow]; exact div_lt_div_of_pos_right hhi hpos
        _ ≤ 2 ^ ((f.fbits + 1 : Nat) : Int) := zpow_le_zpow_right₀ (by norm_num) (by push_cast; omega)
        _ = _ := by rw [zpow_natCast, pow_succ']; push_cast; rfl
    have h0 : 0 ≤ ((m : Rat) + t) * 2 ^ (e - q) := by
      rw [hw]
      exact div_nonneg ((zpow_pos two_pos top).le.trans hlo) hpos.le
    exact (Nat.floor_lt h0).2 hlt
  · rcases max_choice top (1 - (f.bias : Int)) with h | h
    · refine Or.inr (Nat.le_floor ?_)
      calc ((2 ^ f.fbits : Nat) : Rat) = 2 ^ (top - q) := by
            rw [Nat.cast_pow, Nat.cast_ofNat, ← zpow_natCast]
            congr 1
            omega
        _ ≤ _ := by rw [hw, ← hpow]; exact div_le_div_of_nonneg_right hlo hpos.le
    · exact Or.inl (by omega)

end

section
variable {f : FpFmt} (hf : f ∈ fpFormats) (mode : Rm) (neg : Bool) {m : Nat} {e top q : Int} {t : Rat} {r : Nat × Bool}
variable (hm : m ≠ 0) (h0 : 0 ≤ t) (h1 : t < 1) (hlo : (2 : Rat) ^ top ≤ (m + t) * 2 ^ e) (hhi : (m + t) * (2 : Rat) ^ e < 2 ^ (top + 1))
variable (hq : q = max top (1 - (f.bias : Int)) - f.fbits) (hr : r = roundAt mode neg m e q (decide (t ≠ 0))) (hx : t = 0 ∨ e < q)
include h0 h1 hlo hhi hq hr hx

/-- The code that a value's multiple of its unit gets stands for that multiple. -/
theorem FpFmt.mag_roundAt : f.mag (f.codeOf q r.1) = r.1 * 2 ^ q := by
  obtain ⟨hn, hb⟩ := FpFmt.floor_bounds hlo hhi hq
  obtain ⟨hr1, -⟩ := roundAt_within mode neg h0 h1 hx
  rw [← hr] at hr1
  exact f.mag_code (by omega) (by omega) (hb.imp_right fun h => by omega)

omit hlo hhi hq in
/-- What is delivered differs from the value exactly when something is marked lost. -/
theorem units_eq_iff : r.2 = false ↔ (r.1 : Rat) * 2 ^ q = (m + t) * 2 ^ e := by
  have hw : (m + t) * (2 : Rat) ^ e = (m + t) * 2 ^ (e - q) * 2 ^ q := by rw [mul_assoc, ← zpow_add₀ two_ne_zero, sub_add_cancel]
  rw [hw, mul_left_inj' (zpow_pos two_pos q).ne', hr]
  exact (roundAt_within mode neg h0 h1 hx).2

include hf hm

/-- A value whose rounded magnitude the format holds: the code of that magnitude, nx when it differs, and uf below the smallest normal. -/
theorem FpFmt.roundFin_fits (hu : (r.1 : Rat) * 2 ^ q ≤ f.mag f.maxCode) :
    f.codeOf q r.1 ≤ f.maxCode ∧ f.roundFin mode neg m e (decide (t ≠ 0)) = (f.signed neg (f.codeOf q r.1),
      if (r.1 : Rat) * 2 ^ q = (m + t) * 2 ^ e then 0 else if (m + t) * (2 : Rat) ^ e < 2 ^ (1 - (f.bias : Int)) then fNX ||| fUF else fNX) := by
  have htop := msb_eq hm h0 h1 hlo hhi
  have hmag := FpFmt.mag_roundAt mode neg h0 h1 hlo hhi hq hr hx
  have hexact := units_eq_iff mode neg h0 h1 hr hx
  have htiny : top < 1 - (f.bias : Int) ↔ (m + t) * (2 : Rat) ^ e < 2 ^ (1 - (f.bias : Int)) := (lt_zpow_iff hlo hhi _).symm
  constructor
  · rwa [← hmag, f.mag_strictMono.le_iff_le] at hu
  · rw [FpFmt.roundFin_eq hf mode neg m e _ (htop ▸ hq) hr, if_neg (not_lt.2 hu), htop]
    simp only [← hexact, ← htiny]
    cases r.2 <;> rfl

omit hx in
/-- A value whose rounded magnitude lies above the largest finite one. -/
theorem FpFmt.roundFin_overflow (hu : f.mag f.maxCode < (r.1 : Rat) * 2 ^ q) :
    f.roundFin mode neg m e (decide (t ≠ 0)) =
      (if f.kind = .ieee ∧ (mode = rne ∨ (mode = rup ∧ neg = false) ∨ (mode = rdn ∧ neg = true)) then f.infCode neg
        else f.signed neg f.maxCode, fOF ||| fNX) := by
  have htop := msb_eq hm h0 h1 hlo hhi
  rw [FpFmt.roundFin_eq hf mode neg m e _ (htop ▸ hq) hr, if_pos hu]

end

/-- The second clause of R56: what rounding a value to a format delivers (R44, R49, R57). -/
theorem round_delivers {f : FpFmt} (hf : f ∈ fpFormats) (mode : Rm) (neg : Bool) {m : Nat} {e top : Int} {t : Rat} (hm : m ≠ 0)
    (h0 : 0 ≤ t) (h1 : t < 1) (hlo : (2 : Rat) ^ top ≤ (m + t) * 2 ^ e) (hhi : (m + t) * (2 : Rat) ^ e < 2 ^ (top + 1)) :
    let v : Rat := (m + t) * 2 ^ e
    let emin : Int := 1 - f.bias
    let q : Int := max top emin - f.fbits
    let u : Rat := (roundAt mode neg m e q (decide (t ≠ 0))).1 * 2 ^ q
    let largest := (f.value f.maxCode).rat
    let r := f.round mode (.fin neg m e) (decide (t ≠ 0))
    (t = 0 ∨ e < q → largest < u → r.2 = fOF ||| fNX ∧
      ((f.kind = .ieee ∧ (mode = rne ∨ (mode = rup ∧ neg = false) ∨ (mode = rdn ∧ neg = true)) → f.value r.1 = .inf neg) ∧
      (¬ (f.kind = .ieee ∧ (mode = rne ∨ (mode = rup ∧ neg = false) ∨ (mode = rdn ∧ neg = true))) →
        (f.value r.1).rat = if neg then -largest else largest))) ∧
    (t = 0 ∨ e < q → u ≤ largest → (∃ k y, f.value r.1 = .fin neg k y ∧ (k : Rat) * 2 ^ y = u) ∧
      r.2 = if u = v then 0 else if v < 2 ^ emin then fNX ||| fUF else fNX) := by
  intro v emin q u largest r
  have hr : r = f.roundFin mode neg m e (decide (t ≠ 0)) := if_neg hm
  have hlargest : largest = f.mag f.maxCode := FpFmt.rat_maxCode hf
  constructor
  · intro hx hu
    have hover := FpFmt.roundFin_overflow hf mode neg hm h0 h1 hlo hhi rfl rfl (hlargest ▸ hu)
    rw [hr, hover, hlargest]
    refine ⟨rfl, fun hi => ?_, fun hi => ?_⟩
    · rw [if_pos hi, FpFmt.value_infCode hf hi.1]
    · rw [if_neg hi, FpFmt.rat_signed_maxCode hf]
  · intro hx hu
    obtain ⟨hc, hround⟩ := FpFmt.roundFin_fits hf mode neg hm h0 h1 hlo hhi rfl rfl hx (hlargest ▸ hu)
    obtain ⟨k, y, hval, hk⟩ := FpFmt.value_signed hf hc neg
    rw [hr, hround]
    exact ⟨⟨k, y, hval, hk.trans (FpFmt.mag_roundAt mode neg h0 h1 hlo hhi rfl rfl hx)⟩, rfl⟩

/-- Zeros, infinities and NaNs rounded to a format (R45, R49). -/
theorem round_special {f : FpFmt} (hf : f ∈ fpFormats) (mode : Rm) (neg : Bool) (e : Int) (sticky : Bool) :
    ((∃ y, f.value (f.round mode (.fin neg 0 e) sticky).1 = .fin neg 0 y) ∧ (f.round mode (.fin neg 0 e) sticky).2 = 0) ∧
    (f.kind = .ieee → f.value (f.round mode (.inf neg)).1 = .inf neg ∧ (f.round mode (.inf neg)).2 = 0) ∧
    (f.kind = .e4m3 → f.value (f.round mode (.inf neg)).1 = .nan ∧ (f.round mode (.inf neg)).2 = fNV) ∧
    (f.kind = .fp4 → (f.value (f.round mode (.inf neg)).1).rat = (if neg then -6 else 6) ∧ (f.round mode (.inf neg)).2 = fNV) ∧
    (f.kind = .fp4 → f.round mode .nan = (0, fNV)) ∧
    (f.kind ≠ .fp4 → f.round mode .nan = (f.canonNaN, 0) ∧ f.value f.canonNaN = .nan) := by
  have hnan (hk : f.kind ≠ .fp4) : f.value f.canonNaN = .nan := by
    revert f
    decide
  refine ⟨⟨FpFmt.value_signed_zero hf neg, rfl⟩, ?ieee, ?e4m3, ?fp4Inf, ?fp4NaN, ?nan⟩
  case ieee =>
    intro hk
    simp only [FpFmt.round, hk, and_true]
    exact FpFmt.value_infCode hf hk neg
  case e4m3 =>
    intro hk
    simp only [FpFmt.round, hk, and_true]
    exact hnan (by rw [hk]; decide)
  case fp4Inf =>
    intro hk
    obtain rfl : f = fp4 := by
      revert f
      decide
    refine ⟨(FpFmt.rat_signed_maxCode hf neg).trans ?_, rfl⟩
    have h6 : fp4.mag fp4.maxCode = 6 := by norm_num [FpFmt.mag, FpFmt.maxCode, fp4]
    rw [h6]
  case fp4NaN =>
    intro hk
    simp [FpFmt.round, hk]
  case nan =>
    intro hk
    exact ⟨if_neg hk, hnan hk⟩

/-! ### Stochastically, to BF16 (R60) -/

theorem bf16_mem : bf16 ∈ fpFormats := by decide

/-- The code behind the largest finite one of BF16 is the infinity's, and stands for 2^128 in the order of magnitudes. -/
theorem mag_bf16_infinity : bf16.mag (bf16.maxCode + 1) = 2 ^ (128 : Int) := by
  norm_num [FpFmt.mag, FpFmt.maxCode, bf16]

theorem mag_bf16_lt_iff (c : Nat) : bf16.mag c < 2 ^ (128 : Int) ↔ c ≤ bf16.maxCode := by
  rw [← mag_bf16_infinity, bf16.mag_strictMono.lt_iff_lt, Nat.lt_succ_iff]

/-- The last place that is lost, in 65536ths: the sticky part lies below the last of them. -/
theorem floor_lostPart {m : Nat} {e q : Int} {t : Rat} (h0 : 0 ≤ t) (h1 : t < 1) (h : t = 0 ∨ e + 16 ≤ q) :
    ⌊lostPart m e q t * 65536⌋₊ = m % 2 ^ (q - e).toNat * 65536 / 2 ^ (q - e).toNat := by
  rcases h with rfl | h
  · rw [← Nat.floor_div_eq_div (K := Rat), lostPart, add_zero]
    congr 1
    push_cast
    ring
  · obtain ⟨k, hk⟩ : ∃ k, (q - e).toNat = k + 16 := ⟨(q - e).toNat - 16, by omega⟩
    have hpow : 2 ^ (q - e).toNat = 2 ^ k * 65536 := by rw [hk, Nat.pow_add]
    rw [lostPart, hpow, Nat.mul_div_mul_right _ _ (by decide : 0 < 65536)]
    generalize m % (2 ^ k * 65536) = r
    have hs : ((r : Rat) + t) / ((2 ^ k * 65536 : Nat) : Rat) * 65536 = (r + t) / (2 ^ k : Nat) := by
      push_cast
      field_simp
    rw [hs, Nat.floor_div_natCast, add_comm, Nat.floor_add_natCast h0, Nat.floor_eq_zero.2 h1, Nat.zero_add]

section
variable (g : BitVec 32) (neg : Bool) {m : Nat} {e top : Int} {t : Rat} (hm : m ≠ 0) (h0 : 0 ≤ t) (h1 : t < 1)
variable (hlo : (2 : Rat) ^ top ≤ (m + t) * 2 ^ e) (hhi : (m + t) * (2 : Rat) ^ e < 2 ^ (top + 1))
include hm h0 h1 hlo hhi

/-- From 2^128 on the infinity (R60). -/
theorem roundStoch_big (hb : (2 : Rat) ^ (128 : Int) ≤ (m + t) * 2 ^ e) :
    roundStoch g (.fin neg m e) (decide (t ≠ 0)) = (bf16.infCode neg, fOF ||| fNX) := by
  have htop := msb_eq hm h0 h1 hlo hhi
  have : (128 : Int) ≤ top := by
    by_contra h
    exact not_lt.2 hb ((lt_zpow_iff hlo hhi 128).2 (not_le.1 h))
  simp only [roundStoch, if_neg hm, htop, ge_iff_le, if_pos this]

/-- The low neighbour of a value below 2^128, and what is delivered: it, or the next code. -/
theorem roundStoch_small {q : Int} (hq : q = max top (-126) - 7) (hb : (m + t) * (2 : Rat) ^ e < 2 ^ (128 : Int)) (hx : t = 0 ∨ e + 16 ≤ q) :
    ∃ c ≤ bf16.maxCode, bf16.mag c = ⌊(m + t) * (2 : Rat) ^ e / 2 ^ q⌋₊ * 2 ^ q ∧
      bf16.mag (c + 1) = (⌊(m + t) * (2 : Rat) ^ e / 2 ^ q⌋₊ + 1 : Nat) * 2 ^ q ∧
      roundStoch g (.fin neg m e) (decide (t ≠ 0)) =
        if g.toNat % 65536 < ⌊((m + t) * (2 : Rat) ^ e / 2 ^ q - ⌊(m + t) * (2 : Rat) ^ e / 2 ^ q⌋₊) * 65536⌋₊ then
          (bf16.signed neg (c + 1), if c = bf16.maxCode then fOF ||| fNX
            else if (m + t) * (2 : Rat) ^ e < 2 ^ (-126 : Int) then fNX ||| fUF else fNX)
        else (bf16.signed neg c, if (m + t) * (2 : Rat) ^ e = ⌊(m + t) * (2 : Rat) ^ e / 2 ^ q⌋₊ * 2 ^ q then 0
            else if (m + t) * (2 : Rat) ^ e < 2 ^ (-126 : Int) then fNX ||| fUF else fNX) := by
  have htop := msb_eq hm h0 h1 hlo hhi
  have hlt : ¬ top ≥ 128 := not_le.2 ((lt_zpow_iff hlo hhi 128).1 hb)
  have hqf : q = max top (1 - (bf16.bias : Int)) - bf16.fbits := hq
  have hx' : t = 0 ∨ e < q := hx.imp_right fun h => by omega
  obtain ⟨r, hr⟩ : ∃ r, r = roundAt rtz neg m e q (decide (t ≠ 0)) := ⟨_, rfl⟩
  have hw : (m + t) * (2 : Rat) ^ e / 2 ^ q = (m + t) * 2 ^ (e - q) := by rw [zpow_sub₀ two_ne_zero, mul_div_assoc]
  have hr1 : r.1 = ⌊(m + t) * (2 : Rat) ^ e / 2 ^ q⌋₊ := by
    rw [hw, hr]
    exact (roundAt_within rtz neg h0 h1 hx').1.resolve_right fun h => h.1 rfl
  have hexact := units_eq_iff rtz neg h0 h1 hr hx'
  have hmag := FpFmt.mag_roundAt rtz neg h0 h1 hlo hhi hqf hr hx'
  have hu : (r.1 : Rat) * 2 ^ q ≤ bf16.mag bf16.maxCode := by
    have hle : (r.1 : Rat) * 2 ^ q ≤ (m + t) * 2 ^ e := by
      rw [← le_div_iff₀ (zpow_pos two_pos q), hr1]
      exact Nat.floor_le (hw ▸ mul_nonneg (add_nonneg m.cast_nonneg h0) (zpow_pos two_pos _).le)
    rw [← hmag, bf16.mag_strictMono.le_iff_le, ← mag_bf16_lt_iff, hmag]
    exact hle.trans_lt hb
  obtain ⟨hc, hround⟩ := FpFmt.roundFin_fits bf16_mem rtz neg hm h0 h1 hlo hhi hqf hr hx' hu
  have hmag' : bf16.mag (bf16.codeOf q r.1 + 1) = (r.1 + 1 : Nat) * 2 ^ q := by
    obtain ⟨hn, hb⟩ := FpFmt.floor_bounds hlo hhi hqf
    rw [← hw, ← hr1] at hn hb
    rw [bf16.codeOf_succ]
    exact bf16.mag_code (by omega) hn (hb.imp_right fun h => h.trans r.1.le_succ)
  refine ⟨bf16.codeOf q r.1, hc, hr1 ▸ hmag, hr1 ▸ hmag', ?_⟩
  have hq' : max (top - 7) (-126 - 7) = q := by omega
  simp only [roundStoch, if_neg hm, htop, if_neg hlt, hq', ← hr, hround]
  rw [← hr1]
  generalize bf16.codeOf q r.1 = c at hc
  by_cases hlost : r.2 = false
  · have hv := hexact.1 hlost
    have hz : (m + t) * (2 : Rat) ^ e / 2 ^ q - r.1 = 0 := by
      rw [← hv, mul_div_cancel_right₀ _ (zpow_pos two_pos q).ne', sub_self]
    rw [if_pos hlost, hz, zero_mul, Nat.floor_zero, if_neg (Nat.not_lt_zero _), if_pos hv.symm]
  · have hv : ¬ (m + t) * (2 : Rat) ^ e = r.1 * 2 ^ q := fun h => hlost (hexact.2 h.symm)
    have heq : e < q := by
      by_contra h
      have ht := hx'.resolve_right h
      rw [hr, roundAt_of_le _ _ _ (not_lt.1 h)] at hlost
      exact hlost (decide_eq_false (not_not.2 ht))
    have hpart : (m + t) * (2 : Rat) ^ e / 2 ^ q - r.1 = lostPart m e q t := by
      rw [hr1, hw, floor_units h0 h1 heq, units_eq heq.le, add_sub_cancel_left]
    have hsucc : bf16.signed neg c + 1 = bf16.signed neg (c + 1) := by
      cases neg
      · rfl
      · exact Nat.add_right_comm _ _ _
    have hlast : bf16.signed neg c % 32768 + 1 = 0x7F80 ↔ c = bf16.maxCode := by
      have hmax : bf16.maxCode = 0x7F7F := rfl
      rw [hmax] at hc ⊢
      have hmod : bf16.signed neg c % 32768 = c := by
        cases neg
        · exact Nat.mod_eq_of_lt (show c < 32768 by omega)
        · exact (Nat.add_mod_right c 32768).trans (Nat.mod_eq_of_lt (by omega))
      omega
    rw [if_neg hlost, if_neg hv, hpart, floor_lostPart h0 h1 hx, hsucc]
    simp only [hlast, decide_eq_true_eq, lt_zpow_iff hlo hhi]

end

/-- Settles O7: roundAt is a floor and a lost part; codes of a format are consecutive in magnitude. -/
theorem roundingModes : Obligations.RoundingModes := by
  refine ⟨roundAt_modes, ?format, ?stochastic⟩
  case format =>
    intro f mode neg m e top t hf hm h0 h1 hlo hhi v emin q u largest r z
    obtain ⟨hover, hfits⟩ := round_delivers hf mode neg hm h0 h1 hlo hhi
    exact ⟨hover, hfits, round_special hf mode neg e _⟩
  case stochastic =>
    intro g neg m e top t hm h0 h1 hlo hhi v q lo n r big
    refine ⟨fun hb => ?_, fun hb hx => ?_, ?_, ?_, rfl, rfl⟩
    · have hr : r = _ := roundStoch_big g neg hm h0 h1 hlo hhi hb
      rw [hr]
      exact ⟨FpFmt.value_infCode bf16_mem rfl neg, rfl⟩
    · obtain ⟨c, hc, hmag, hmag', hround⟩ := roundStoch_small g neg hm h0 h1 hlo hhi rfl hb hx
      have hr : r = _ := hround
      have hmag : bf16.mag c = lo * 2 ^ q := hmag
      have hmag' : bf16.mag (c + 1) = (lo + 1 : Nat) * 2 ^ q := hmag'
      have hbelow (d : Nat) : bf16.mag d < big ↔ d ≤ bf16.maxCode := mag_bf16_lt_iff d
      have hcode {d : Nat} (hd : d ≤ bf16.maxCode) : ∃ k y, bf16.value (bf16.signed neg d) = .fin neg k y ∧ (k : Rat) * 2 ^ y = bf16.mag d :=
        FpFmt.value_signed bf16_mem hd neg
      by_cases hup : g.toNat % 65536 < ⌊(v / 2 ^ q - lo) * 65536⌋₊
      · have hn : n = lo + 1 := if_pos hup
        have hv : ¬ v = lo * 2 ^ q := fun h => by
          rw [h, mul_div_cancel_right₀ _ (zpow_pos two_pos q).ne', sub_self, zero_mul, Nat.floor_zero] at hup
          exact Nat.not_lt_zero _ hup
        rw [hr, if_pos hup, hn, if_neg hv, ← hmag', ← not_lt, hbelow]
        refine ⟨fun h => ?_, fun h => ?_⟩
        · have hlast : c = bf16.maxCode := le_antisymm hc (Nat.le_of_lt_succ (not_le.1 h))
          rw [if_pos hlast, hlast]
          exact ⟨FpFmt.value_infCode bf16_mem rfl neg, rfl⟩
        · rw [if_neg (Nat.lt_of_succ_le h).ne]
          exact ⟨hcode h, rfl⟩
      · have hn : n = lo := if_neg hup
        rw [hr, if_neg hup, hn, ← hmag]
        exact ⟨fun h => absurd ((hbelow c).2 hc) (not_lt.2 h), fun _ => ⟨hcode hc, rfl⟩⟩
    · obtain ⟨y, hy⟩ := FpFmt.value_signed_zero bf16_mem neg
      exact ⟨y, hy, rfl⟩
    · exact FpFmt.value_infCode bf16_mem rfl neg

end Sys2Proof.Machine
end

section
/-! Elements of blocks as bits of one number: reading an element, packing elements under a mask, merging them into what a block held. -/

namespace Sys2Proof.Machine
open Sys2Proof

/-! ### Bits -/

theorem or_mod_two (x y : Nat) (h : (x % 2) &&& (y % 2) = 0) : (x ||| y) % 2 = x % 2 + y % 2 := by
  rw [← Nat.pow_one 2, Nat.or_mod_two_pow, Nat.pow_one]
  rcases Nat.mod_two_eq_zero_or_one x with hx | hx <;> rcases Nat.mod_two_eq_zero_or_one y with hy | hy <;> simp_all

/-- Numbers with no bit in common add without a carry. -/
theorem add_eq_or_of_and_eq_zero (x y : Nat) (h : x &&& y = 0) : x + y = x ||| y := by
  induction x using Nat.strong_induction_on generalizing y with
  | _ x ih =>
    rcases Nat.eq_zero_or_pos x with rfl | hx
    · simp
    · have hdiv : x / 2 + y / 2 = (x ||| y) / 2 := by
        rw [Nat.or_div_two]
        exact ih _ (Nat.div_lt_self hx (by decide)) _ (by rw [← Nat.and_div_two, h])
      have hmod : (x ||| y) % 2 = x % 2 + y % 2 := by
        refine or_mod_two x y ?_
        have := Nat.and_mod_two_pow (a := x) (b := y) (n := 1)
        rw [h] at this
        simpa using this.symm
      omega

theorem and_eq_zero_of_testBit {x y : Nat} (h : ∀ i, x.testBit i = true → y.testBit i = false) : x &&& y = 0 := by
  refine Nat.eq_of_testBit_eq fun i => ?_
  rw [Nat.testBit_and, Nat.zero_testBit]
  cases hx : x.testBit i
  · rfl
  · rw [h i hx, Bool.and_false]

theorem testBit_add_of_disjoint {x y : Nat} (h : ∀ i, x.testBit i = true → y.testBit i = false) (i : Nat) :
    (x + y).testBit i = (x.testBit i || y.testBit i) := by
  rw [add_eq_or_of_and_eq_zero _ _ (and_eq_zero_of_testBit h), Nat.testBit_or]

/-- The bits of a mask written over what was there. -/
theorem testBit_merge (old mask v i : Nat) :
    (old - (old &&& mask) + (v &&& mask)).testBit i = if mask.testBit i then v.testBit i else old.testBit i := by
  have hkeep : old - (old &&& mask) = old ^^^ (old &&& mask) := by
    have hsum : (old &&& mask) + (old ^^^ (old &&& mask)) = old := by
      rw [add_eq_or_of_and_eq_zero _ _ (and_eq_zero_of_testBit fun j h => ?_)]
      · refine Nat.eq_of_testBit_eq fun j => ?_
        rw [Nat.testBit_or, Nat.testBit_xor, Nat.testBit_and]
        cases old.testBit j <;> cases mask.testBit j <;> rfl
      · rw [Nat.testBit_and, Bool.and_eq_true] at h
        rw [Nat.testBit_xor, Nat.testBit_and, h.1, h.2]
        rfl
    omega
  rw [hkeep, testBit_add_of_disjoint]
  · rw [Nat.testBit_xor, Nat.testBit_and, Nat.testBit_and]
    cases old.testBit i <;> cases mask.testBit i <;> cases v.testBit i <;> rfl
  · intro j h
    rw [Nat.testBit_xor, Nat.testBit_and] at h
    rw [Nat.testBit_and]
    cases hm : mask.testBit j
    · rw [Bool.and_false]
    · rw [hm, Bool.and_true, Bool.xor_self] at h
      exact absurd h Bool.false_ne_true

/-- The bits of an element. -/
theorem testBit_elt (w x e j : Nat) : (elt w x e).testBit j = (decide (j < w) && x.testBit (w * e + j)) := by
  rw [elt, Nat.testBit_mod_two_pow, Nat.testBit_div_two_pow, Nat.add_comm]

theorem elt_lt (w x e : Nat) : elt w x e < 2 ^ w := Nat.mod_lt _ (Nat.two_pow_pos _)

theorem testBit_scaled {w : Nat} (hw : 0 < w) (c e i : Nat) :
    (c % 2 ^ w * 2 ^ (w * e)).testBit i = (decide (i / w = e) && c.testBit (i % w)) := by
  rw [Nat.testBit_mul_two_pow, Nat.testBit_mod_two_pow]
  have hdm := Nat.div_add_mod i w
  have hm := Nat.mod_lt i hw
  by_cases h : i / w = e
  · have hi : i - w * e = i % w := by rw [← h]; omega
    have hle : w * e ≤ i := by rw [← h]; omega
    simp [h, hi, hm, hle]
  · have : ¬ (w * e ≤ i ∧ i - w * e < w) := by
      rintro ⟨hle, hlt⟩
      refine h ?_
      rw [Nat.div_eq_iff hw]
      constructor
      · rw [Nat.mul_comm]; omega
      · rw [Nat.mul_comm]; omega
    simp only [h, decide_false, Bool.false_and, Bool.and_eq_false_iff, decide_eq_false_iff_not]
    omega

/-! ### Packed elements -/

/-- The mask and the bits of packed elements, every element named once. -/
theorem testBit_packEls {w : Nat} (hw : 0 < w) (l : List (Nat × Nat)) (hl : (l.map (·.1)).Nodup) (i : Nat) :
    (packEls w l).1.testBit i = (l.lookup (i / w)).isSome ∧ (packEls w l).2.testBit i = ((l.lookup (i / w)).getD 0).testBit (i % w) := by
  induction l generalizing i with
  | nil => simp [packEls]
  | cons p r ih =>
    obtain ⟨e, c⟩ := p
    obtain ⟨he, hr⟩ := List.nodup_cons.1 hl
    have hnone : ∀ j, j / w = e → r.lookup (j / w) = none := by
      rintro j rfl
      refine List.lookup_eq_none_iff.2 fun p hp => ?_
      have : j / w ≠ p.1 := fun h => he (List.mem_map.2 ⟨p, hp, h.symm⟩)
      simpa using this
    have hfull : (2 ^ w - 1) * 2 ^ (w * e) = (2 ^ w - 1) % 2 ^ w * 2 ^ (w * e) := by
      rw [Nat.mod_eq_of_lt (Nat.sub_lt (Nat.two_pow_pos w) Nat.one_pos)]
    have hlook : ((e, c) :: r).lookup (i / w) = if i / w = e then some c else r.lookup (i / w) := by
      rw [List.lookup_cons]
      by_cases h : i / w = e
      · simp [h]
      · rw [beq_false_of_ne h, if_neg h]
    simp only [packEls, hlook]
    constructor
    · rw [hfull, testBit_add_of_disjoint, (ih hr i).1, testBit_scaled hw]
      · by_cases h : i / w = e <;> simp [h, Nat.testBit_two_pow_sub_one, Nat.mod_lt _ hw]
      · intro j hj
        rw [(ih hr j).1] at hj
        rw [testBit_scaled hw]
        by_cases h : j / w = e
        · rw [hnone j h] at hj; exact absurd hj Bool.false_ne_true
        · simp [h]
    · rw [testBit_add_of_disjoint, (ih hr i).2, testBit_scaled hw]
      · by_cases h : i / w = e
        · rw [hnone i h]
          simp [h]
        · simp [h]
      · intro j hj
        rw [(ih hr j).2] at hj
        rw [testBit_scaled hw]
        by_cases h : j / w = e
        · rw [hnone j h] at hj; simp at hj
        · simp [h]

/-- Elements written under their mask over what blocks held: those named hold their codes, the others what they held. -/
theorem elt_merged {w : Nat} (hw : 0 < w) {l : List (Nat × Nat)} (hl : (l.map (·.1)).Nodup) {n old new : Nat}
    (h : ∀ i, i < n → new.testBit i = if (packEls w l).1.testBit i then (packEls w l).2.testBit i else old.testBit i) {e : Nat}
    (he : e < n / w) : elt w new e = match l.lookup e with
      | some c => c % 2 ^ w
      | none => elt w old e := by
  refine Nat.eq_of_testBit_eq fun j => ?_
  rw [testBit_elt]
  by_cases hj : j < w
  · have hi : w * e + j < n := by
      have h1 : w * (e + 1) ≤ w * (n / w) := Nat.mul_le_mul_left _ he
      have h2 := Nat.mul_div_le n w
      rw [Nat.mul_add] at h1
      omega
    have hdiv : (w * e + j) / w = e := by rw [Nat.mul_add_div hw, Nat.div_eq_of_lt hj, Nat.add_zero]
    have hmod : (w * e + j) % w = j := by rw [Nat.mul_add_mod, Nat.mod_eq_of_lt hj]
    obtain ⟨hm, hv⟩ := testBit_packEls hw l hl (w * e + j)
    rw [h _ hi, hm, hv, hdiv, hmod]
    cases hc : l.lookup e with
    | none => simp [testBit_elt, hj]
    | some c => simp [Nat.testBit_mod_two_pow, hj]
  · cases hc : l.lookup e with
    | none => simp [testBit_elt, hj]
    | some c => simp [Nat.testBit_mod_two_pow, hj]

/-! ### Bytes of blocks -/

theorem ofLe_lt (bs : List Byte) : ofLe bs < 256 ^ bs.length := by
  induction bs with
  | nil => simp [ofLe]
  | cons b r ih =>
    have := b.isLt
    simp only [ofLe, List.length_cons, Nat.pow_succ]
    omega

theorem block_lt (s : State) (a : Nat) : ofLe (s.bytes a 64) < 2 ^ 512 := by
  have h := ofLe_lt (s.bytes a 64)
  rwa [length_bytes, show 256 = 2 ^ 8 from rfl, ← Nat.pow_mul] at h

/-- The bits of the blocks of an operand, the first block lowest. -/
theorem testBit_value_cons (s : State) (b : Blk) (r : List Blk) (i : Nat) :
    (s.value (b :: r)).testBit i = if i < 512 then (ofLe (s.bytes b.ga 64)).testBit i else (s.value r).testBit (i - 512) := by
  rw [State.value, Nat.add_comm, Nat.testBit_two_pow_mul_add _ (block_lt s b.ga)]

theorem bytes_congr {s t : State} {a n : Nat} (h : ∀ j, a ≤ j → j < a + n → t.byte j = s.byte j) : t.bytes a n = s.bytes a n := by
  induction n generalizing a with
  | zero => rfl
  | succ n ih =>
    rw [State.bytes, State.bytes, h a le_rfl (by omega), ih fun j h1 h2 => h j (by omega) (by omega)]

theorem value_congr {s t : State} {bs : List Blk} (h : ∀ b ∈ bs, ∀ j, b.ga ≤ j → j < b.ga + 64 → t.byte j = s.byte j) :
    t.value bs = s.value bs := by
  induction bs with
  | nil => rfl
  | cons b r ih =>
    rw [State.value, State.value, bytes_congr (h b (by simp)), ih fun c hc => h c (by simp [hc])]

end Sys2Proof.Machine
end

section
/-! What translation, reading and the order behind earlier stores look at, and states that agree on it (R75, R300 to R304, R318). -/

namespace Sys2Proof.Machine
open Sys2Proof

/-- The two states agree on all that translating, reading and checking the blocks of an operand looks at: they differ in cores and spires
only, and there not in translation caches, engines, send queues, acceptance, formats, carve-outs and tags. -/
structure State.SameView (s t : State) : Prop where
  rest : t = { s with cores := t.cores, spires := t.spires }
  tlb : ∀ c, (t.coreAt c).tlb = (s.coreAt c).tlb
  lost : ∀ c, (t.coreAt c).lost = (s.coreAt c).lost
  eng : ∀ c, (t.coreAt c).eng = (s.coreAt c).eng
  sendq : ∀ c, (t.coreAt c).sendq = (s.coreAt c).sendq
  seqNo : ∀ c, (t.coreAt c).seqNo = (s.coreAt c).seqNo
  fmt : ∀ c, (t.coreAt c).fmt = (s.coreAt c).fmt
  lix : t.st.lix = s.st.lix
  sys : t.st.sys = s.st.sys
  hnd : t.st.hnd = s.st.hnd
  carve : ∀ p, (t.spireAt p).carve = (s.spireAt p).carve
  tags : ∀ p, (t.spireAt p).tags = (s.spireAt p).tags

/-- A page-table walk reads memory and the state of links and islands, neither cores nor spires. -/
theorem State.walk_cores_spires (s : State) (cs : List (Nat × Core)) (sp : List (Nat × Spire)) (c va k lvl r : Nat) :
    State.walk { s with cores := cs, spires := sp } c va k lvl r = s.walk c va k lvl r := by
  induction k generalizing lvl r with
  | zero => rfl
  | succ k ih =>
    simp only [State.walk, ih]
    rfl

theorem State.badEntry_cores_spires (s : State) (cs : List (Nat × Core)) (sp : List (Nat × Spire)) (c va k r : Nat) (lvl : Nat) :
    State.badEntry { s with cores := cs, spires := sp } c va k lvl r = s.badEntry c va k lvl r := by
  induction k generalizing lvl r with
  | zero => rfl
  | succ k ih =>
    simp only [State.badEntry, ih]
    rfl

section
variable {s t : State} (h : s.SameView t)
include h

theorem State.SameView.core_eq : t.core = s.core := by rw [h.rest]

theorem State.SameView.mem_eq : t.mem = s.mem := by rw [h.rest]

theorem State.SameView.byte (a : Nat) : t.byte a = s.byte a := by rw [State.byte, h.mem_eq, State.byte]

theorem State.SameView.lookup (c : Nat) (l : Option Nat) (va : Nat) : t.lookup c l va = s.lookup c l va := by
  have hc : ∀ l, t.cachedEntry c l va = s.cachedEntry c l va := fun l => by
    have hs : t.sharedTlb c = s.sharedTlb c := by rw [h.rest]; rfl
    rw [State.cachedEntry, State.cachedEntry, h.tlb, hs]
  have hw : ∀ l, t.walk c va 4 0 (t.launchAt l).root = s.walk c va 4 0 (s.launchAt l).root := fun l => by
    rw [h.rest, State.walk_cores_spires]
    rfl
  cases l with
  | none => rfl
  | some l => simp only [State.lookup, hc, hw]

theorem State.SameView.physOf (c : Nat) (l : Option Nat) (sys : Bool) (va n : Nat) (a : Acc) :
    t.physOf c l sys va n a = s.physOf c l sys va n a := by
  have hp : t.spireOf c = s.spireOf c := by rw [h.rest]; rfl
  simp only [State.physOf, h.lookup, h.carve, hp]

theorem State.SameView.blk (a : Acc) (va : Nat) : t.blk a va = s.blk a va := by
  have hst : t.st.lix = s.st.lix := h.lix
  have hx : t.xlate va 64 a = s.xlate va 64 a := by
    have hi : ∀ e, t.xlateInfo va e = s.xlateInfo va e := fun e => by
      rw [State.xlateInfo, State.xlateInfo, h.lix, h.core_eq]
      rw [h.rest]
      simp only [State.badEntry_cores_spires]
      rfl
    simp only [State.xlate, h.core_eq, h.lix, h.sys, h.physOf, hi]
  have hl : ∀ c pa, t.isLocal c pa = s.isLocal c pa := fun _ _ => rfl
  have hg : ∀ c pa, t.globalOf c pa = s.globalOf c pa := fun c pa => by rw [h.rest]; rfl
  have hoff : ∀ c, t.islandOff c = s.islandOff c := fun c => by rw [h.rest]; rfl
  have haway : ∀ pa, t.storeAway pa = s.storeAway pa := fun pa => by
    simp only [State.storeAway, State.away, h.lost, hoff, h.core_eq]
  simp only [State.blk, hx, hl, hg, haway, h.core_eq, h.hnd]

theorem State.SameView.blks (a : Acc) (vas : List Nat) : t.blks a vas = s.blks a vas := by
  induction vas with
  | nil => rfl
  | cons v r ih => simp only [State.blks, h.blk, ih]

theorem State.SameView.srcBlks (ls : List (List Nat)) : t.srcBlks ls = s.srcBlks ls := by
  induction ls with
  | nil => rfl
  | cons l r ih => simp only [State.srcBlks, h.blks, ih]

theorem State.SameView.blkBusy (b : Blk) : t.blkBusy b = s.blkBusy b := by
  have hq : ∀ d, t.queuedTo d = s.queuedTo d := fun d => by
    rw [State.queuedTo, State.queuedTo, State.me, State.me, h.core_eq, h.sendq]
  have ht : ∀ c d n, t.heldTile c d n = s.heldTile c d n := fun c d n => by rw [h.rest]; rfl
  have hc : ∀ c d n, t.heldCopy c d n = s.heldCopy c d n := fun c d n => by rw [State.heldCopy, State.heldCopy, h.eng]
  have hn : t.net = s.net := by rw [h.rest]
  have hf : ∀ d n, t.flyingTo d n = s.flyingTo d n := fun d n => by
    simp only [State.flyingTo, hn, ht, hc, h.core_eq]
  rw [State.blkBusy, State.blkBusy, hq, hf, State.me, State.me, h.core_eq, h.seqNo]

theorem State.SameView.value (bs : List Blk) : t.value bs = s.value bs := value_congr fun _ _ j _ _ => h.byte j

theorem State.SameView.tagAt (ga : Nat) : t.tagAt ga = s.tagAt ga := by rw [State.tagAt, State.tagAt, h.tags]

theorem State.SameView.tagCheck (va ga x : Nat) : t.tagCheck va ga x = s.tagCheck va ga x := by
  have hf : t.me.fmt = s.me.fmt := by rw [State.me, State.me, h.core_eq, h.fmt]
  simp only [State.tagCheck, hf, h.tagAt]

end

theorem State.SameView.refl (s : State) : s.SameView s := by constructor <;> intros <;> rfl

theorem State.SameView.trans {s t u : State} (h : s.SameView t) (k : t.SameView u) : s.SameView u where
  rest := by
    have := k.rest
    rw [h.rest] at this
    exact this
  tlb c := (k.tlb c).trans (h.tlb c)
  lost c := (k.lost c).trans (h.lost c)
  eng c := (k.eng c).trans (h.eng c)
  sendq c := (k.sendq c).trans (h.sendq c)
  seqNo c := (k.seqNo c).trans (h.seqNo c)
  fmt c := (k.fmt c).trans (h.fmt c)
  lix := k.lix.trans h.lix
  sys := k.sys.trans h.sys
  hnd := k.hnd.trans h.hnd
  carve p := (k.carve p).trans (h.carve p)
  tags p := (k.tags p).trans (h.tags p)

end Sys2Proof.Machine
end

section
/-! Vector instructions on blocks, said once: reading sources, writing elements, committing what was raised (R22, R97, R148 to R151). -/

namespace Sys2Proof.Machine
open Sys2Proof

/-! ### Pinning, powering a bank -/

theorem State.coreAt_pinned (s : State) (c : Nat) : s.pinned.coreAt c = { s.coreAt c with ctxs := (s.pinned.coreAt c).ctxs } := by
  by_cases hc : c = s.core
  · subst hc
    change s.pinned.me = { s.me with ctxs := s.pinned.me.ctxs }
    rw [State.pinned, State.me_modSt]
  · have : s.pinned.coreAt c = s.coreAt c := State.coreAt_modCore_ne s s.core c _ hc
    rw [this]

theorem State.st_pinned (s : State) : s.pinned.st = { s.st with pin := true } := State.st_modSt s _

theorem State.me_pinned (s : State) : s.pinned.me = { s.me with ctxs := s.pinned.me.ctxs } := s.coreAt_pinned s.core

theorem State.sameView_pinned (s : State) : s.SameView s.pinned where
  rest := rfl
  tlb c := by rw [s.coreAt_pinned c]
  lost c := by rw [s.coreAt_pinned c]
  eng c := by rw [s.coreAt_pinned c]
  sendq c := by rw [s.coreAt_pinned c]
  seqNo c := by rw [s.coreAt_pinned c]
  fmt c := by rw [s.coreAt_pinned c]
  lix := by rw [s.st_pinned]
  sys := by rw [s.st_pinned]
  hnd := by rw [s.st_pinned]
  carve _ := rfl
  tags _ := rfl

/-- Banks have been powered up, and nothing else happened (R289). -/
structure State.Powered (s t : State) : Prop where
  rest : t = { s with spires := t.spires }
  spire : ∀ p, t.spireAt p = { s.spireAt p with up := (t.spireAt p).up }

theorem State.Powered.refl (s : State) : s.Powered s := ⟨rfl, fun _ => rfl⟩

theorem State.Powered.trans {s t u : State} (h : s.Powered t) (k : t.Powered u) : s.Powered u where
  rest := by
    have := k.rest
    rw [h.rest] at this
    exact this
  spire p := by rw [k.spire p, h.spire p]

theorem State.powered_power (s : State) (a : Nat) : s.Powered (s.power a) := by
  unfold State.power
  split
  · exact .refl s
  · dsimp only
    split
    · exact .refl s
    · refine ⟨rfl, fun p => ?_⟩
      rw [State.spireAt_modSpire]
      split
      · next h => rw [h]
      · rfl

section
variable {s t : State} (h : s.Powered t)
include h

theorem State.Powered.coreAt (c : Nat) : t.coreAt c = s.coreAt c := by rw [h.rest]; rfl
theorem State.Powered.core_eq : t.core = s.core := by rw [h.rest]
theorem State.Powered.me_eq : t.me = s.me := by rw [h.rest]; rfl
theorem State.Powered.st_eq : t.st = s.st := by rw [h.rest]; rfl
theorem State.Powered.bad_eq : t.bad = s.bad := by rw [h.rest]
theorem State.Powered.soft_eq : t.soft = s.soft := by rw [h.rest]

theorem State.Powered.sameView : s.SameView t where
  rest := by rw [h.rest]
  tlb c := by rw [h.coreAt c]
  lost c := by rw [h.coreAt c]
  eng c := by rw [h.coreAt c]
  sendq c := by rw [h.coreAt c]
  seqNo c := by rw [h.coreAt c]
  fmt c := by rw [h.coreAt c]
  lix := by rw [h.st_eq]
  sys := by rw [h.st_eq]
  hnd := by rw [h.st_eq]
  carve p := by rw [h.spire p]
  tags p := by rw [h.spire p]

end

/-! ### Reading -/

section
variable {s : State} (hbad : s.bad = []) (hsoft : s.soft = [])
include hbad

theorem State.badIn_none (a n : Nat) : s.badIn a n = none := by simp [State.badIn, hbad, lowest]

include hsoft

/-- A read of memory that holds no error powers up a bank and answers the bytes (R289, R314). -/
theorem State.readAt_ok (a n va : Nat) : s.readAt a n va = (.ok (s.bytes a n), s.power a) := by
  have hp := s.powered_power a
  have hb : (s.power a).badIn a n = none := State.badIn_none (hp.bad_eq.trans hbad) a n
  have hs : (s.power a).scrub a n = s.power a := by simp [State.scrub, hp.soft_eq, hsoft]
  have hby : (s.power a).bytes a n = s.bytes a n := bytes_congr fun j _ _ => hp.sameView.byte j
  simp only [State.readAt, hb, hs, hby]

/-- A block read in a format: as it is, converted, or refused by its tag (R75). -/
theorem State.readBlks_single (c : Ctl) (x : Nat) (on : Nat → Bool) (b : Blk) (r : Raise) :
    s.readBlks c (some x) on [b] 0 r = match s.tagCheck b.va b.ga x with
      | .error t => (.error (t, none), s.power b.ga)
      | .ok none => (.ok (ofLe (s.bytes b.ga 64), r), s.power b.ga)
      | .ok (some t) => (.ok (convBlk c t x on (ofLe (s.bytes b.ga 64)) (512 / fmtWidth x) 0 r), s.power b.ga) := by
  have ht := (s.powered_power b.ga).sameView.tagCheck b.va b.ga x
  simp only [State.readBlks, State.readAt_ok hbad hsoft, ht]
  cases s.tagCheck b.va b.ga x with
  | error t => rfl
  | ok o =>
    cases o with
    | none => simp
    | some t => simp

end

/-- Blocks read with the tag check off: their bytes. -/
theorem State.readBlks_ok {s : State} (hbad : s.bad = []) (hsoft : s.soft = []) (htags : s.me.fmt.getLsbD 15 = false) (c : Ctl)
    (fmt : Option Nat) (on : Nat → Bool) (bs : List Blk) (n0 : Nat) (r : Raise) :
    ∃ t, s.readBlks c fmt on bs n0 r = (.ok (s.value bs, r), t) ∧ s.Powered t := by
  induction bs generalizing s n0 with
  | nil => exact ⟨s, rfl, .refl s⟩
  | cons b bs ih =>
    have hp := s.powered_power b.ga
    obtain ⟨t, ht, hpt⟩ := ih (s := s.power b.ga) (hp.bad_eq.trans hbad) (hp.soft_eq.trans hsoft) (by rw [hp.me_eq, htags]) (n0 + 1)
    refine ⟨t, ?_, hp.trans hpt⟩
    have hcheck : ∀ x, (s.power b.ga).tagCheck b.va b.ga x = .ok none := fun x => by
      simp only [State.tagCheck, hp.me_eq, htags, Bool.not_false, Bool.true_or, if_true]
    simp only [State.readBlks, State.readAt_ok hbad hsoft, hcheck]
    cases fmt with
    | none => simp only [ht, State.value, hp.sameView.value]
    | some x => simp only [ht, State.value, hp.sameView.value]

/-- Sources read with the tag check off. -/
theorem State.readSrcs_ok {s : State} (hbad : s.bad = []) (hsoft : s.soft = []) (htags : s.me.fmt.getLsbD 15 = false)
    (on : Nat → Bool) (l : List (Src × List Blk)) (r : Raise) :
    ∃ t, s.readSrcs on l r = (.ok (l.map fun p => s.value p.2, r), t) ∧ s.Powered t := by
  induction l generalizing s with
  | nil => exact ⟨s, rfl, .refl s⟩
  | cons p l ih =>
    obtain ⟨a, bs⟩ := p
    obtain ⟨t, ht, hp⟩ := State.readBlks_ok hbad hsoft htags { s.ctl with uns := a.uns.getD s.ctl.uns } a.fmt (fun e => !a.dis || on e) bs 0 r
    obtain ⟨u, hu, hq⟩ := ih (s := t) (hp.bad_eq.trans hbad) (hp.soft_eq.trans hsoft) (by rw [hp.me_eq, htags])
    refine ⟨u, ?_, hp.trans hq⟩
    simp only [State.readSrcs, ht, hu, List.map_cons, hp.sameView.value]

/-- The addresses of sources and the pointers after them depend on the pointers named and the numbers of blocks only. -/
theorem planSrcs_congr {l m : List Src} (h : l.map (fun a => (a.k, a.n)) = m.map (fun a => (a.k, a.n))) (ps : List (Nat × Ptr)) :
    planSrcs ps l = planSrcs ps m := by
  induction l generalizing m ps with
  | nil =>
    cases m with
    | nil => rfl
    | cons b m => simp at h
  | cons a l ih =>
    cases m with
    | nil => simp at h
    | cons b m =>
      simp only [List.map_cons, List.cons.injEq, Prod.mk.injEq] at h
      simp only [planSrcs, h.1.1, h.1.2, ih h.2]

theorem State.length_srcBlks {s : State} {ls : List (List Nat)} {bs : List (List Blk)} (h : s.srcBlks ls = .ok bs) :
    bs.length = ls.length := by
  induction ls generalizing bs with
  | nil => cases h; rfl
  | cons l r ih =>
    simp only [State.srcBlks] at h
    split at h
    · cases h
    · split at h
      · cases h
      · next hr => cases h; simp [ih hr]

theorem length_planSrcs (ps : List (Nat × Ptr)) (l : List Src) : (planSrcs ps l).1.length = l.length := by
  induction l generalizing ps with
  | nil => rfl
  | cons a l ih => simp [planSrcs, ih]

theorem State.walkedBlks_eq {s : State} (hsoft : s.soft = []) (vas : List Nat) : s.walkedBlks vas = s := by
  simp [State.walkedBlks, State.xlatedSegs, hsoft]

section
variable {s : State} {i : Instr} {srcs : List Src} {d : BitVec 4} {nd : Nat} {k : Acc} {bs : List (List Blk)} {ds : List Blk}

/-- The number of a vector instruction's operands. -/
theorem State.VecSet.length (h : s.VecSet i srcs d nd k bs ds) : bs.length = srcs.length :=
  (State.length_srcBlks h.src).trans (length_planSrcs _ _)

/-- The blocks of a vector instruction are read and its function goes on with what reading gave: the checks of addresses pass, and
nothing holds the blocks back. The sources may differ from those planned in format and flags. -/
theorem withBlocks_eq (h : s.VecSet i srcs d nd k bs ds) {srcs' : List Src} (hs : srcs'.map (fun a => (a.k, a.n)) = srcs.map fun a => (a.k, a.n))
    (on : Nat → Bool) (peek : Option Nat) (hk : k = if peek.isSome then .rw else .wr)
    (f : List Nat → List Blk → List (Nat × Ptr) → Raise → State → Res) :
    withBlocks on srcs' peek d nd f s.pinned =
      match s.pinned.readSrcs on (srcs'.zip bs ++ peek.toList.map fun m => ({ k := d, n := nd, fmt := some m }, ds)) s.calm with
      | (.error (t, some ga), u) => u.failAt ga t
      | (.error (t, none), u) => .trap t u
      | (.ok (xs, r), u) => f xs ds (s.ptrsAfter srcs d nd) r u := by
  have hv := s.sameView_pinned
  have hptr : s.pinned.me.ptr = s.me.ptr := by rw [s.me_pinned]
  have hcalm : s.pinned.calm = s.calm := by rw [State.calm, s.me_pinned]; rfl
  have hsrc := h.src
  have hdst := h.dst
  have hsoft : s.pinned.soft = [] := h.noSoft
  have hb : bs.flatten.any s.pinned.blkBusy = false := (congrArg _ (funext hv.blkBusy)).trans h.quiet
  have hd : ds.any s.pinned.blkBusy = false := (congrArg _ (funext hv.blkBusy)).trans h.quietDst
  rw [← planSrcs_congr hs] at hsrc hdst
  rw [hk] at hdst
  simp only [withBlocks, hptr, hv.srcBlks, hv.blks, hsrc, hdst, State.walkedBlks_eq hsoft, hb, hd, Bool.or_self, Bool.false_eq_true, if_false,
    hcalm, State.ptrsAfter, ← planSrcs_congr hs]
  cases peek with
  | none => rw [Option.toList_none, List.map_nil, List.append_nil] <;> rfl
  | some m => rfl

/-- The same with the tag check off: the function is given the bytes of its operands. -/
theorem withBlocks_ready (h : s.VecReady i srcs d nd k bs ds) {srcs' : List Src}
    (hs : srcs'.map (fun a => (a.k, a.n)) = srcs.map fun a => (a.k, a.n)) (on : Nat → Bool) (peek : Option Nat)
    (hk : k = if peek.isSome then .rw else .wr) (f : List Nat → List Blk → List (Nat × Ptr) → Raise → State → Res) :
    ∃ u, s.pinned.Powered u ∧
      withBlocks on srcs' peek d nd f s.pinned = f ((bs ++ if peek.isSome then [ds] else []).map s.value) ds (s.ptrsAfter srcs d nd) s.calm u := by
  have hlen : bs.length = srcs'.length := h.toVecSet.length.trans (by simpa using (congrArg List.length hs).symm)
  have htags : s.pinned.me.fmt.getLsbD 15 = false := by rw [s.me_pinned]; exact h.noTags
  have hval : ∀ l, s.pinned.value l = s.value l := s.sameView_pinned.value
  have hzip : (srcs'.zip bs).map (fun p => s.pinned.value p.2) = bs.map s.value := by
    have : (srcs'.zip bs).map (fun p => s.pinned.value p.2) = ((srcs'.zip bs).map Prod.snd).map s.value := by simp [hval]
    rw [this, List.map_snd_zip hlen.le]
  rw [withBlocks_eq h.toVecSet hs on peek hk f]
  cases peek with
  | none =>
    obtain ⟨u, hu, hp⟩ := State.readSrcs_ok (s := s.pinned) h.noBad h.noSoft htags on (srcs'.zip bs) s.calm
    refine ⟨u, hp, ?_⟩
    rw [Option.toList_none, List.map_nil, List.append_nil, hu, hzip]
    simp
  | some m =>
    obtain ⟨u, hu, hp⟩ := State.readSrcs_ok (s := s.pinned) h.noBad h.noSoft htags on
      (srcs'.zip bs ++ [({ k := d, n := nd, fmt := some m }, ds)]) s.calm
    refine ⟨u, hp, ?_⟩
    rw [Option.toList_some, List.map_cons, List.map_nil, hu, List.map_append, hzip]
    simp [hval ds]

end

end Sys2Proof.Machine
end

section
/-! Vector instructions on blocks: writing elements through the destination, and the whole outcome (R97, R148 to R151). -/

namespace Sys2Proof.Machine
open Sys2Proof

/-! ### Writing -/

/-- Memory has been written, banks powered up and tags set, and nothing else happened (R74, R289). -/
structure State.Touched (s t : State) : Prop where
  rest : t = { s with spires := t.spires, mem := t.mem }
  spire : ∀ p, { t.spireAt p with up := (s.spireAt p).up, tags := (s.spireAt p).tags } = s.spireAt p

theorem State.Powered.touched {s t : State} (h : s.Powered t) : s.Touched t where
  rest := by rw [h.rest]
  spire p := by rw [h.spire p]

theorem State.Touched.trans {s t u : State} (h : s.Touched t) (k : t.Touched u) : s.Touched u where
  rest := by
    have := k.rest
    rw [h.rest] at this
    exact this
  spire p := by
    rw [← h.spire p, ← k.spire p]

theorem State.touched_poke (s : State) (a : Nat) (bs : List Byte) : s.Touched (s.poke a bs) := ⟨rfl, fun _ => rfl⟩

theorem State.touched_setTag (s : State) (ga n fmt : Nat) : s.Touched (s.setTag ga n fmt) := by
  unfold State.setTag
  split
  · exact ⟨rfl, fun _ => rfl⟩
  · refine ⟨rfl, fun p => ?_⟩
    rw [State.spireAt_modSpire]
    split
    · next h => rw [h]
    · rfl

@[simp] theorem State.byte_setTag (s : State) (ga n fmt a : Nat) : (s.setTag ga n fmt).byte a = s.byte a := by
  unfold State.setTag
  split <;> rfl

/-- No error is dropped where there is none. -/
theorem State.filter_errors {s : State} (hbad : s.bad = []) (hsoft : s.soft = []) (p q : Nat × Bool → Bool) :
    { s with bad := s.bad.filter p, soft := s.soft.filter q } = s := by
  cases s
  simp_all

/-- A pair of a list that names every key once is the one found under its key. -/
theorem lookup_of_mem {l : List (Nat × Nat)} (hl : (l.map (·.1)).Nodup) {e c : Nat} (h : (e, c) ∈ l) : l.lookup e = some c := by
  obtain ⟨a, b, rfl⟩ := List.append_of_mem h
  refine List.lookup_eq_some_iff.2 ⟨a, b, rfl, fun p hp => ?_⟩
  rw [List.map_append, List.nodup_append] at hl
  have := hl.2.2 p.1 (List.mem_map.2 ⟨p, hp, rfl⟩) e (by simp)
  simpa using this.symm

section
variable {s : State} (hbad : s.bad = []) (hsoft : s.soft = [])
include hbad hsoft

/-- The bits of a mask written to a block: the others keep what the block held, and no other byte changes. -/
theorem State.putBlk_ok (b : Blk) (fmt mask v : Nat) : ∃ t, s.putBlk b fmt mask v = .ok t ∧ s.Touched t ∧
    (∀ i, i < 512 → (ofLe (t.bytes b.ga 64)).testBit i = if mask.testBit i then v.testBit i else (ofLe (s.bytes b.ga 64)).testBit i) ∧
    (∀ a, a < b.ga ∨ b.ga + 64 ≤ a → t.byte a = s.byte a) := by
  by_cases hm : mask = 0
  · exact ⟨s, by simp [State.putBlk, hm], ⟨rfl, fun _ => rfl⟩, by simp [hm], fun _ _ => rfl⟩
  · have hp := s.powered_power b.ga
    have hby : (s.power b.ga).bytes b.ga 64 = s.bytes b.ga 64 := bytes_congr fun j _ _ => hp.sameView.byte j
    have hfb := State.filter_errors (hp.bad_eq.trans hbad) (hp.soft_eq.trans hsoft)
    refine ⟨((s.power b.ga).poke b.ga (leBytes 64 (ofLe (s.bytes b.ga 64) - (ofLe (s.bytes b.ga 64) &&& mask) + (v &&& mask)))).setTag b.ga 64 fmt,
      ?_, hp.touched.trans ((State.touched_poke _ _ _).trans (State.touched_setTag _ _ _ _)), ?_, ?_⟩
    · simp only [State.putBlk, if_neg hm, hfb]
      simp [hp.bad_eq, hbad, lowest, hby]
    · intro i hi
      rw [bytes_congr fun j _ _ => State.byte_setTag _ _ _ _ j]
      have hself := bytes_poke_self (s.power b.ga) b.ga
        (leBytes 64 (ofLe (s.bytes b.ga 64) - (ofLe (s.bytes b.ga 64) &&& mask) + (v &&& mask)))
      rw [length_leBytes] at hself
      rw [hself, ofLe_leBytes, show 256 = 2 ^ 8 from rfl, ← Nat.pow_mul, Nat.testBit_mod_two_pow, decide_eq_true hi, Bool.true_and,
        testBit_merge]
    · intro a ha
      rw [State.byte_setTag, byte_poke_out _ _ _ _ (by rwa [length_leBytes]), hp.sameView.byte]

/-- The bits of a mask written to blocks that do not meet. -/
theorem State.putBlks_ok (fmt : Nat) (ds : List Blk) (hd : apart ds) (mask v : Nat) :
    ∃ t, s.putBlks fmt ds mask v = (t, none) ∧ s.Touched t ∧
      (∀ i, i < 512 * ds.length → (t.value ds).testBit i = if mask.testBit i then v.testBit i else (s.value ds).testBit i) ∧
      (∀ a, (∀ b ∈ ds, a < b.ga ∨ b.ga + 64 ≤ a) → t.byte a = s.byte a) := by
  induction ds generalizing s mask v with
  | nil => exact ⟨s, rfl, ⟨rfl, fun _ => rfl⟩, by simp, fun _ _ => rfl⟩
  | cons b ds ih =>
    obtain ⟨hb, hds⟩ := List.pairwise_cons.1 hd
    obtain ⟨t, ht, htt, hbits, hout⟩ := State.putBlk_ok hbad hsoft b fmt (mask % 2 ^ 512) (v % 2 ^ 512)
    have hbad' : t.bad = [] := by rw [htt.rest]; exact hbad
    have hsoft' : t.soft = [] := by rw [htt.rest]; exact hsoft
    obtain ⟨u, hu, htu, hbits', hout'⟩ := ih hbad' hsoft' hds (mask / 2 ^ 512) (v / 2 ^ 512)
    refine ⟨u, by simp only [State.putBlks, ht, hu], htt.trans htu, ?_, ?_⟩
    · intro i hi
      have hfirst : u.bytes b.ga 64 = t.bytes b.ga 64 := bytes_congr fun j h1 h2 => hout' j fun c hc => by
        rcases hb c hc with h | h <;> omega
      have hothers : t.value ds = s.value ds := value_congr fun c hc j h1 h2 => hout j (by
        rcases hb c hc with h | h <;> omega)
      rw [testBit_value_cons, testBit_value_cons, hfirst]
      split
      · next h => rw [hbits i h, Nat.testBit_mod_two_pow, Nat.testBit_mod_two_pow, decide_eq_true h, Bool.true_and, Bool.true_and]
      · next h =>
        have h512 : i - 512 + 512 = i := Nat.sub_add_cancel (not_lt.1 h)
        rw [hbits' _ (by simp only [List.length_cons] at hi; omega), Nat.testBit_div_two_pow, Nat.testBit_div_two_pow, h512, hothers]
    · intro a ha
      rw [hout' a fun c hc => ha c (by simp [hc]), hout a (ha b (by simp))]

/-- Elements of a format written through blocks that do not meet: those named, once each, hold their codes. -/
theorem State.putBlks_packEls (fmt : Nat) {w : Nat} (hw : 0 < w) {ds : List Blk} (hd : apart ds) {els : List (Nat × Nat)}
    (hnd : (els.map (·.1)).Nodup) (hlt : ∀ p ∈ els, p.1 < 512 * ds.length / w) :
    ∃ t, s.putBlks fmt ds (packEls w els).1 (packEls w els).2 = (t, none) ∧ s.Touched t ∧ s.Wrote t ds w els := by
  obtain ⟨t, ht, htt, hbits, hout⟩ := State.putBlks_ok hbad hsoft fmt ds hd (packEls w els).1 (packEls w els).2
  refine ⟨t, ht, htt, ?_, ?_, hout⟩
  · intro e c hec
    have hl : els.lookup e = some c := lookup_of_mem hnd hec
    rw [elt_merged hw hnd hbits (hlt _ hec), hl]
  · intro e he hc
    have hl : els.lookup e = none := by
      refine List.lookup_eq_none_iff.2 fun p hp => ?_
      have : e ≠ p.1 := fun h => hc p.2 (h ▸ hp)
      simpa using this
    rw [elt_merged hw hnd hbits he, hl]

end

/-! ### In the middle of a vector instruction, and its end -/

/-- A vector instruction under way: its strand is pinned; memory, banks and tags, predicates and va may have changed. -/
structure State.VecMid (s u : State) : Prop where
  rest : u = { s with cores := u.cores, spires := u.spires, mem := u.mem }
  cores : ∀ d, d ≠ s.core → u.coreAt d = s.coreAt d
  me : u.me = { s.me with ctxs := u.me.ctxs, q := u.me.q, va := u.me.va }
  st : u.st = { s.st with pin := true }
  strands : ∀ y, y ≠ s.ctx → u.strandAt s.core y = s.strandAt s.core y
  spires : ∀ p, { u.spireAt p with up := (s.spireAt p).up, tags := (s.spireAt p).tags } = s.spireAt p

theorem State.vecMid_pinned (s : State) : s.VecMid s.pinned where
  rest := rfl
  cores d hd := State.coreAt_modCore_ne s s.core d _ hd
  me := s.me_pinned ▸ rfl
  st := s.st_pinned
  strands y hy := State.strandAt_modSt_ne s _ s.core y fun h => hy h.2
  spires _ := rfl

theorem State.VecMid.touched {s u v : State} (h : s.VecMid u) (k : u.Touched v) : s.VecMid v := by
  have hc : ∀ c, v.coreAt c = u.coreAt c := fun c => by rw [k.rest]; rfl
  have hcore : v.core = u.core := by rw [k.rest]
  have hme : v.me = u.me := by rw [State.me, hcore, hc, State.me]
  refine ⟨?rest, fun d hd => (hc d).trans (h.cores d hd), ?me, ?st, ?strands, ?spires⟩
  case rest =>
    have := k.rest
    rw [h.rest] at this
    have hcs : v.cores = u.cores := by rw [k.rest]
    rw [hcs]
    exact this
  case me => rw [hme]; exact h.me
  case st => rw [k.rest]; exact h.st
  case strands =>
    intro y hy
    rw [← h.strands y hy, State.strandAt, State.strandAt, hc]
  case spires => intro p; rw [← h.spires p, ← k.spire p]

theorem State.coreAt_modMe_ne (s : State) (f : Core → Core) (d : Nat) (h : d ≠ s.core) : (s.modMe f).coreAt d = s.coreAt d :=
  State.coreAt_modCore_ne s s.core d f h

theorem State.strandAt_modMe (s : State) (f : Core → Core) (hf : ∀ k, (f k).ctxs = k.ctxs) (c y : Nat) :
    (s.modMe f).strandAt c y = s.strandAt c y := by
  rw [State.strandAt, State.strandAt, State.modMe, State.coreAt_modCore]
  split
  · next h => rw [hf, h]
  · rfl

theorem State.me_mergeFlags (s : State) (f : Flags) : (s.mergeFlags f).me = { s.me with ctxs := (s.mergeFlags f).me.ctxs } := by
  unfold State.mergeFlags
  split
  · rfl
  · rw [State.me_modSt]

theorem State.st_mergeFlags (s : State) (f : Flags) : (s.mergeFlags f).st = { s.st with flags := s.st.flags ||| f } := by
  unfold State.mergeFlags
  split
  · next h => simp [h]
  · rw [State.st_modSt]

theorem State.mergeFlags_eq (s : State) (f : Flags) : s.mergeFlags f = { s with cores := (s.mergeFlags f).cores } := by
  unfold State.mergeFlags
  split <;> rfl

theorem State.commit_eq (s : State) (r : Raise) : s.commit r = { s with cores := (s.commit r).cores } := by
  rw [State.commit, State.modMe, State.modCore, State.setCore, s.mergeFlags_eq r.fl]

theorem State.st_commit (s : State) (r : Raise) : (s.commit r).st = { s.st with flags := s.st.flags ||| r.fl } := by
  rw [← s.st_mergeFlags r.fl, State.commit]
  exact State.strandAt_modMe _ _ (by intro; rfl) _ _

theorem State.coreAt_commit_ne (s : State) (r : Raise) (d : Nat) (h : d ≠ s.core) : (s.commit r).coreAt d = s.coreAt d := by
  rw [State.commit, State.coreAt_modMe_ne _ _ _ (by simpa using h)]
  exact (s.onlyScalar_mergeFlags 0 r.fl).cores d h

theorem State.strandAt_commit_ne (s : State) (r : Raise) (y : Nat) (h : y ≠ s.ctx) : (s.commit r).strandAt s.core y = s.strandAt s.core y := by
  refine (State.strandAt_modMe _ _ (by intro; rfl) _ _).trans ?_
  exact (s.onlyScalar_mergeFlags 0 r.fl).strands y h

theorem State.me_commit (s : State) (r : Raise) : (s.commit r).me = { s.me with
    ctxs := (s.commit r).me.ctxs
    mxsub := cntAdd s.me.mxsub r.sub, mxsat := cntAdd s.me.mxsat r.sat, mxmrow := cntAdd s.me.mxmrow r.mrow
    mxnan := cntAdd s.me.mxnan r.nan, rngs := r.rng.setWidth 64 } := by
  rw [State.commit, State.me_modMe, s.me_mergeFlags]

/-- The pointers of the acting core written. -/
def State.withPtrs (s : State) (ps : List (Nat × Ptr)) : State := s.modMe fun k => { k with ptr := ps }

theorem State.strandAt_withPtrs (s : State) (ps : List (Nat × Ptr)) (c y : Nat) : (s.withPtrs ps).strandAt c y = s.strandAt c y := by
  rw [State.withPtrs, State.strandAt_modMe _ _ (by intro; rfl)]

theorem State.st_withPtrs (s : State) (ps : List (Nat × Ptr)) : (s.withPtrs ps).st = s.st := s.strandAt_withPtrs ps _ _

theorem State.me_withPtrs (s : State) (ps : List (Nat × Ptr)) : (s.withPtrs ps).me = { s.me with ptr := ps } := s.me_modMe _

/-- What has been raised is committed, the pointers written, and the strand goes on. -/
def State.vecEnd (u : State) (ps : List (Nat × Ptr)) (r : Raise) : State := ((u.withPtrs ps).commit r).advance

section
variable (u : State) (ps : List (Nat × Ptr)) (r : Raise)

theorem State.vecEnd_eq : u.vecEnd ps r = { u with cores := (u.vecEnd ps r).cores } := by
  have ha : ∀ t : State, t.advance = { t with cores := t.advance.cores } := fun _ => rfl
  have hw : u.withPtrs ps = { u with cores := (u.withPtrs ps).cores } := rfl
  rw [State.vecEnd, ha, State.commit_eq, hw]

theorem State.st_vecEnd : (u.vecEnd ps r).st = { u.st with
    pc := u.st.pc + 4, life := .ready, waitBar := none, waitEv := none, cond := false, waitSq := false, flags := u.st.flags ||| r.fl } := by
  rw [State.vecEnd, State.st_advance, State.st_commit, State.st_withPtrs]

theorem State.me_vecEnd : (u.vecEnd ps r).me = { u.me with
    ctxs := (u.vecEnd ps r).me.ctxs, ptr := ps
    mxsub := cntAdd u.me.mxsub r.sub, mxsat := cntAdd u.me.mxsat r.sat, mxmrow := cntAdd u.me.mxmrow r.mrow
    mxnan := cntAdd u.me.mxnan r.nan, rngs := r.rng.setWidth 64 } := by
  rw [State.vecEnd, State.me_advance, State.me_commit, State.me_withPtrs]

theorem State.byte_vecEnd (a : Nat) : (u.vecEnd ps r).byte a = u.byte a := by
  rw [u.vecEnd_eq ps r]
  rfl

theorem State.core_commit_withPtrs : ((u.withPtrs ps).commit r).core = u.core := by
  rw [State.commit_eq]
  rfl

theorem State.ctx_commit_withPtrs : ((u.withPtrs ps).commit r).ctx = u.ctx := by
  rw [State.commit_eq]
  rfl

theorem State.coreAt_vecEnd_ne (d : Nat) (hd : d ≠ u.core) : (u.vecEnd ps r).coreAt d = u.coreAt d := by
  rw [State.vecEnd, (State.onlyCore_advance _).cores d ((u.core_commit_withPtrs ps r).symm ▸ hd),
    State.coreAt_commit_ne (u.withPtrs ps) r d hd, State.withPtrs, State.coreAt_modMe_ne _ _ _ hd]

theorem State.strandAt_vecEnd_ne (y : Nat) (hy : y ≠ u.ctx) : (u.vecEnd ps r).strandAt u.core y = u.strandAt u.core y := by
  have ha := State.strandAt_advance_ne ((u.withPtrs ps).commit r) y ((u.ctx_commit_withPtrs ps r).symm ▸ hy)
  rw [u.core_commit_withPtrs ps r] at ha
  rw [State.vecEnd, ha]
  exact (State.strandAt_commit_ne (u.withPtrs ps) r y hy).trans (u.strandAt_withPtrs ps _ _)

end

section
variable {s u : State} (h : s.VecMid u) (ps : List (Nat × Ptr)) (r : Raise)
include h

theorem State.VecMid.core_eq : u.core = s.core := by rw [h.rest]
theorem State.VecMid.ctx_eq : u.ctx = s.ctx := by rw [h.rest]

theorem State.VecMid.g_vecEnd (x : BitVec 4) : (u.vecEnd ps r).g x = s.g x := by
  rw [State.g, State.st_vecEnd, h.st, State.g]

/-- The end of a vector instruction under way (R97, R151). -/
theorem State.VecMid.vecDone : s.VecDone (u.vecEnd ps r) ps r where
  cores d hd := (State.coreAt_vecEnd_ne u ps r d (h.core_eq ▸ hd)).trans (h.cores d hd)
  strands y hy := by
    have := State.strandAt_vecEnd_ne u ps r y (h.ctx_eq ▸ hy)
    rw [h.core_eq] at this
    exact this.trans (h.strands y hy)
  spires p := by
    have : (u.vecEnd ps r).spireAt p = u.spireAt p := by rw [u.vecEnd_eq ps r]; rfl
    rw [this, h.spires p]
  valleys := by rw [u.vecEnd_eq ps r, h.rest]
  plains := by rw [u.vecEnd_eq ps r, h.rest]
  bad := by rw [u.vecEnd_eq ps r, h.rest]
  soft := by rw [u.vecEnd_eq ps r, h.rest]
  net := by rw [u.vecEnd_eq ps r, h.rest]
  place := by rw [u.vecEnd_eq ps r, h.rest]
  launches := by rw [u.vecEnd_eq ps r, h.rest]
  colls := by rw [u.vecEnd_eq ps r, h.rest]
  queues := by rw [u.vecEnd_eq ps r, h.rest]
  links := by rw [u.vecEnd_eq ps r, h.rest]
  henud := by rw [u.vecEnd_eq ps r, h.rest]
  st := by rw [State.st_vecEnd, h.st]
  me := by rw [State.me_vecEnd, h.me]

end

/-! ### An instruction as a whole -/

/-- What a check at issue finds no fault with goes on as an instruction of its unit. -/
theorem longChk_none {i : Instr} {chk : State → Option Trap} {eff : Eff} {s : State} (h : chk s = none) :
    longChk i chk eff s = longOp i eff s := by
  simp [longChk, h]

theorem fmtChk_none {i : Instr} {ok : Word → Bool} {s : State} (h : ok s.me.fmt = true) : fmtChk i ok s = none := by
  rw [fmtChk, if_pos h]

/-- A vector instruction whose effect is done from a state under way ends there. -/
theorem longOp_vecDone {i : Instr} {eff : Eff} {s u : State} {ps : List (Nat × Ptr)} {r : Raise} (h : s.ReadyUnit i) (hp : i.pins = true)
    (he : eff s.envOf s.pinned = vecDone ps r u) (hu : s.VecMid u) : longOp i eff s = u.vecEnd ps r := by
  have hst : ((u.withPtrs ps).commit r).st = { s.st with pin := true, flags := s.st.flags ||| r.fl } := by
    rw [State.st_commit, State.st_withPtrs, hu.st]
  refine longOp_done h ?_ (by rw [hst]) (by rw [hst]) (by rw [hst])
  rw [State.start, if_pos hp, he, Machine.vecDone, State.withPtrs]

/-! ### Elements written through the destination -/

/-- Indices of the elements that a run over n elements from e on writes: ascending, below e + n. -/
theorem mapEls_keys (on : Nat → Bool) (f : Nat → Raise → Nat × Raise) (n e : Nat) (r : Raise) :
    (mapEls on f n e r).1.map (·.1) = (List.range' e n).filter on := by
  induction n generalizing e r with
  | zero => rfl
  | succ n ih =>
    rw [mapEls, List.range'_succ, List.filter_cons]
    split
    · simp [ih]
    · exact ih _ _

/-- A list of elements names each element of nd blocks at most once, and no other. -/
def InBlocks (w nd : Nat) (els : List (Nat × Nat)) : Prop := (els.map (·.1)).Nodup ∧ ∀ p ∈ els, p.1 < 512 * nd / w

theorem inBlocks_mapEls (on : Nat → Bool) (f : Nat → Raise → Nat × Raise) (w : Nat) (r : Raise) :
    InBlocks w 1 (mapEls on f (512 / w) 0 r).1 := by
  have hk := mapEls_keys on f (512 / w) 0 r
  refine ⟨hk ▸ List.Nodup.filter _ List.nodup_range', fun p hp => ?_⟩
  have : p.1 ∈ (List.range' 0 (512 / w)).filter on := hk ▸ List.mem_map.2 ⟨p, hp, rfl⟩
  simpa using (List.mem_range'_1.1 (List.mem_of_mem_filter this)).2

theorem State.length_blks {s : State} {a : Acc} {vas : List Nat} {bs : List Blk} (h : s.blks a vas = .ok bs) : bs.length = vas.length := by
  induction vas generalizing bs with
  | nil => cases h; rfl
  | cons v r ih =>
    simp only [State.blks] at h
    split at h
    · cases h
    · split at h
      · cases h
      · next hr => cases h; simp [ih hr]

end Sys2Proof.Machine
end

section
/-! Vector instructions that write elements through their destination, as a whole (R148 to R151). -/

namespace Sys2Proof.Machine
open Sys2Proof

/-! ### Formats and what the pinned state shows -/

theorem isFI_lt {x : Nat} (h : isFI x = true) : x < 13 := by
  simp only [isFI, isF, isI, Bool.or_eq_true, decide_eq_true_eq, beq_iff_eq] at h
  omega

/-- A format that vector instructions accept is one of R28's, with a width that divides a block. -/
theorem elemOf_of_isFI {x : Nat} (h : isFI x = true) : ∃ el, elemOf x = some el ∧ el.width = fmtWidth x ∧ 4 ≤ fmtWidth x := by
  have hall : ∀ x < 13, isFI x = true → ((elemOf x).any fun el => decide (el.width = fmtWidth x)) = true ∧ 4 ≤ fmtWidth x := by decide
  obtain ⟨h1, h2⟩ := hall x (isFI_lt h) h
  cases he : elemOf x with
  | none => rw [he] at h1; exact absurd h1 Bool.false_ne_true
  | some el => rw [he] at h1; exact ⟨el, rfl, of_decide_eq_true h1, h2⟩

theorem State.fmt_pinned (s : State) : s.pinned.me.fmt = s.me.fmt := by rw [s.me_pinned]

theorem State.ctl_pinned (s : State) : s.pinned.ctl = s.ctl := by rw [State.ctl, s.st_pinned, s.fmt_pinned, State.ctl]

theorem State.elem_pinned (s : State) : s.pinned.elem = s.elem := by rw [State.elem, s.fmt_pinned, State.elem]

theorem State.on_pinned (s : State) (pm : BitVec 4) : s.pinned.on pm = s.on pm := by
  funext e
  rw [State.on, State.on, State.qbit, State.qbit, s.me_pinned]

theorem State.calm_pinned (s : State) : s.pinned.calm = s.calm := by rw [State.calm, s.me_pinned, State.calm]

theorem State.Wrote.of_bytes {s s' t t' : State} {ds : List Blk} {w : Nat} {els : List (Nat × Nat)} (h : s.Wrote t ds w els)
    (hs : ∀ a, s'.byte a = s.byte a) (ht : ∀ a, t'.byte a = t.byte a) : s'.Wrote t' ds w els := by
  have hvs : s'.value ds = s.value ds := value_congr fun _ _ j _ _ => hs j
  have hvt : t'.value ds = t.value ds := value_congr fun _ _ j _ _ => ht j
  refine ⟨fun e c hec => hvt ▸ h.written e c hec, fun e he hc => ?_, fun a ha => ?_⟩
  · rw [hvt, hvs, h.kept e he hc]
  · rw [ht, hs, h.frame a ha]

/-! ### Writing and ending -/

section
variable {s u : State} (h : s.VecMid u)
include h

theorem State.VecMid.uns_eq : u.ctl.uns = s.ctl.uns := by
  change u.me.fmt.getLsbD 6 = s.me.fmt.getLsbD 6
  rw [h.me]

/-- The codes as they are written: 0x8 of signed INT4 as 0x9 (R159). -/
def fixed (x : Nat) (uns : Bool) (els : List (Nat × Nat)) : List (Nat × Nat) :=
  els.map fun e => (e.1, fix4 ((elemOf x).getD (.i 8)) uns (e.2 % 2 ^ fmtWidth x))

omit h in
theorem InBlocks.fixed {x nd : Nat} {els : List (Nat × Nat)} (h : InBlocks (fmtWidth x) nd els) (uns : Bool) :
    InBlocks (fmtWidth x) nd (fixed x uns els) := by
  have hk : (Machine.fixed x uns els).map (·.1) = els.map (·.1) := by simp [Machine.fixed]
  refine ⟨hk ▸ h.1, fun p hp => ?_⟩
  have : p.1 ∈ els.map (·.1) := hk ▸ List.mem_map.2 ⟨p, hp, rfl⟩
  obtain ⟨q, hq, he⟩ := List.mem_map.1 this
  exact he ▸ h.2 q hq

/-- Elements are written and the instruction is done with the state then reached. -/
theorem State.VecMid.vecPut (hbad : s.bad = []) (hsoft : s.soft = []) {x : Nat} (hx : isFI x = true) {ds : List Blk} (hd : apart ds)
    {els : List (Nat × Nat)} (hin : InBlocks (fmtWidth x) ds.length els) (ps : List (Nat × Ptr)) (r : Raise) :
    ∃ v, Machine.vecPut x ds ps els r u = Machine.vecDone ps r v ∧ s.VecMid v ∧ v.me.q = u.me.q ∧ v.me.va = u.me.va ∧
      u.Wrote v ds (fmtWidth x) (fixed x s.ctl.uns els) := by
  obtain ⟨el, hel, -, hw⟩ := elemOf_of_isFI hx
  have hbad' : u.bad = [] := by rw [h.rest]; exact hbad
  have hsoft' : u.soft = [] := by rw [h.rest]; exact hsoft
  have hin' := hin.fixed s.ctl.uns
  obtain ⟨v, hv, hvt, hvw⟩ := State.putBlks_packEls hbad' hsoft' x (Nat.lt_of_lt_of_le (by decide) hw) hd hin'.1 hin'.2
  have hme : v.me = u.me := by rw [State.me, hvt.rest]; rfl
  refine ⟨v, ?_, h.touched hvt, by rw [hme], by rw [hme], hvw⟩
  rw [Machine.fixed, hel, Option.getD_some] at hv
  simp only [Machine.vecPut, hel, h.uns_eq, hv]

end

section
variable {i : Instr} {eff : Eff} {s : State} {srcs srcs' : List Src} {d : BitVec 4} {nd : Nat} {k : Acc} {bs : List (List Blk)}
  {ds : List Blk}

theorem State.VecSet.length_dst (h : s.VecSet i srcs d nd k bs ds) : ds.length = nd := by
  have hrun : ∀ (p : Ptr) n, (p.run n).1.length = n := fun p n => by
    induction n generalizing p with
    | zero => rfl
    | succ n ih => rw [Ptr.run, List.length_cons, ih]
  exact (State.length_blks h.dst).trans (hrun _ _)

/-- What an instruction that has written its elements leaves. -/
theorem State.VecSet.vecOut (h : s.VecSet i srcs d nd k bs ds) {u v : State} {x : Nat} (hu : ∀ a, u.byte a = s.byte a)
    (hq : u.me.q = s.me.q) (hva : u.me.va = s.me.va) (hv : s.VecMid v) (hvq : v.me.q = u.me.q) (hvva : v.me.va = u.me.va)
    {m : List (Nat × Nat) × Raise} (hw : u.Wrote v ds (fmtWidth x) (fixed x s.ctl.uns m.1)) :
    s.VecOut (v.vecEnd (s.ptrsAfter srcs d nd) m.2) srcs d x ds m where
  toVecDone := by
    rw [h.length_dst]
    exact hv.vecDone _ _
  wrote := hw.of_bytes (fun a => (hu a).symm) fun a => State.byte_vecEnd _ _ _ a
  q := by rw [State.me_vecEnd, hvq, hq]
  va := by rw [State.me_vecEnd, hvva, hva]

/-- A vector instruction that has read its sources and writes elements of format x through its destination. -/
theorem longOp_vecPut (h : s.VecSet i srcs d nd k bs ds) (hp : i.pins = true) {x : Nat} (hx : isFI x = true) {u : State}
    (hu : s.pinned.Powered u) {els : List (Nat × Nat)} {r : Raise} (hin : InBlocks (fmtWidth x) nd els)
    (he : eff s.envOf s.pinned = vecPut x ds (s.ptrsAfter srcs d nd) els r u) :
    ∃ t, (.next (longOp i eff s) : Out) = .next t ∧ (∀ r, t.g r = s.g r) ∧ s.VecOut t srcs d x ds (els, r) := by
  have hmid : s.VecMid u := s.vecMid_pinned.touched hu.touched
  obtain ⟨v, hv, hvm, hvq, hvva, hvw⟩ := hmid.vecPut h.noBad h.noSoft hx h.disjoint (h.length_dst.symm ▸ hin) (s.ptrsAfter srcs d nd) r
  have hme : u.me = s.pinned.me := hu.me_eq
  refine ⟨_, congrArg _ (longOp_vecDone h.toReadyUnit hp (he.trans hv) hvm), hvm.g_vecEnd _ _, ?_⟩
  refine h.vecOut (u := u) (m := (els, r)) (fun a => ?_) ?_ ?_ hvm hvq hvva hvw
  · rw [hu.sameView.byte, s.sameView_pinned.byte]
  · rw [hme, s.me_pinned]
  · rw [hme, s.me_pinned]

/-- A vector instruction that reads its sources, computes elements of format x from them and writes those through its destination. -/
theorem longOp_withBlocks_vecPut (h : s.VecReady i srcs d nd k bs ds) (hp : i.pins = true)
    (hs : srcs'.map (fun a => (a.k, a.n)) = srcs.map fun a => (a.k, a.n)) {on : Nat → Bool} {peek : Option Nat}
    (hk : k = if peek.isSome then .rw else .wr) {x : Nat} (hx : isFI x = true) {m : List Nat → Raise → List (Nat × Nat) × Raise}
    (he : eff s.envOf s.pinned = withBlocks on srcs' peek d nd
      (fun xs ds ps r s => vecPut x ds ps (m xs r).1 (m xs r).2 s) s.pinned)
    (hin : ∀ xs r, InBlocks (fmtWidth x) nd (m xs r).1) :
    ∃ t, (.next (longOp i eff s) : Out) = .next t ∧ (∀ r, t.g r = s.g r) ∧
      s.VecOut t srcs d x ds (m ((bs ++ if peek.isSome then [ds] else []).map s.value) s.calm) := by
  obtain ⟨u, hu, hw⟩ := withBlocks_ready h hs on peek hk fun xs ds ps r s => vecPut x ds ps (m xs r).1 (m xs r).2 s
  exact longOp_vecPut h.toVecSet hp hx hu (hin _ _) (he.trans hw)

/-- An elementwise instruction (R149, R158). -/
theorem longOp_elementsOf {peek dis : Bool} (h : s.VecReady i srcs d 1 (if peek then .rw else .wr) bs ds) (hp : i.pins = true)
    (hs : srcs'.map (fun a => (a.k, a.n)) = srcs.map fun a => (a.k, a.n)) {on : Nat → Bool} (hx : isFI (bitsOf s.me.fmt 3 0) = true)
    {f : Nat → List Nat → Raise → Nat × Raise} (he : eff s.envOf s.pinned = elementsOf d srcs' peek on dis f s.pinned) :
    ∃ t, (.next (longOp i eff s) : Out) = .next t ∧ (∀ r, t.g r = s.g r) ∧ s.VecOut t srcs d (bitsOf s.me.fmt 3 0) ds
      (mapEls (fun e => !dis || on e)
        (fun e => f e ((bs ++ if peek then [ds] else []).map fun b => elt (fmtWidth (bitsOf s.me.fmt 3 0)) (s.value b) e))
        (512 / fmtWidth (bitsOf s.me.fmt 3 0)) 0 s.calm) := by
  have hsome : (if peek = true then some (bitsOf s.me.fmt 3 0) else none).isSome = peek := by cases peek <;> rfl
  rw [elementsOf, s.fmt_pinned] at he
  have := longOp_withBlocks_vecPut h hp hs (by rw [hsome]) hx
    (m := fun xs r => mapEls (fun e => !dis || on e) (fun e => f e (xs.map fun v => elt (fmtWidth (bitsOf s.me.fmt 3 0)) v e))
      (512 / fmtWidth (bitsOf s.me.fmt 3 0)) 0 r) he fun xs r => inBlocks_mapEls _ _ _ _
  simpa only [hsome, List.map_map, Function.comp_def] using this

end

end Sys2Proof.Machine
end

section
/-! Elementwise vector instructions (R158 to R160). -/

namespace Sys2Proof.Machine
open Sys2Proof

/-- A source of one block read in the format of fmt.elem. -/
def State.src (s : State) (k : BitVec 4) : Src := { k := k, n := 1, fmt := some (bitsOf s.me.fmt 3 0) }

/-- The element format in force, where vector instructions accept it. -/
theorem State.elem_eq {s : State} (h : isFI (bitsOf s.me.fmt 3 0) = true) : s.elem.width = fmtWidth (bitsOf s.me.fmt 3 0) := by
  obtain ⟨el, he, hw, -⟩ := elemOf_of_isFI h
  rw [State.elem, he, Option.getD_some, hw]

section
variable {i : Instr} {eff : Eff} {s : State} {srcs srcs' : List Src} {d pm : BitVec 4} {bs : List (List Blk)} {ds : List Blk}

/-- An instruction on the enabled elements, whose format passes its check at issue (R149, R150): f is what it computes of an element's
codes, and f' says the same. -/
theorem exec_elementsOf {ok : Nat → Bool} {peek : Bool} (hex : exec i s = .next (longChk i (fmtChk i (elemChk ok)) eff s))
    (hp : i.pins = true) (hok : ok (bitsOf s.me.fmt 3 0) = true) (hx : isFI (bitsOf s.me.fmt 3 0) = true)
    (h : s.VecReady i srcs d 1 (if peek then .rw else .wr) bs ds)
    (hs : srcs'.map (fun a => (a.k, a.n)) = srcs.map fun a => (a.k, a.n)) {f f' : List Nat → Raise → Nat × Raise}
    (he : eff s.envOf s.pinned = elementsOf d srcs' peek (s.on pm) true (fun _ => f) s.pinned)
    (hf : ∀ l, l.length = srcs.length + peek.toNat → f l = f' l) :
    ∃ t, exec i s = .next t ∧ (∀ r, t.g r = s.g r) ∧ s.VecOut t srcs d (bitsOf s.me.fmt 3 0) ds
      (mapEls (s.on pm) (fun e => f' ((bs ++ if peek then [ds] else []).map fun b => elt (fmtWidth (bitsOf s.me.fmt 3 0)) (s.value b) e))
        (512 / fmtWidth (bitsOf s.me.fmt 3 0)) 0 s.calm) := by
  have hlen : ∀ g : List Blk → Nat, ((bs ++ if peek then [ds] else []).map g).length = srcs.length + peek.toNat := fun g => by
    cases peek <;> simp [h.toVecSet.length]
  have hff : (fun e => f ((bs ++ if peek then [ds] else []).map fun b => elt (fmtWidth (bitsOf s.me.fmt 3 0)) (s.value b) e)) =
      fun e => f' ((bs ++ if peek then [ds] else []).map fun b => elt (fmtWidth (bitsOf s.me.fmt 3 0)) (s.value b) e) :=
    funext fun e => hf _ (hlen _)
  rw [hex, longChk_none (fmtChk_none hok), ← hff]
  exact longOp_elementsOf h hp hs hx he

/-- The same of an instruction that reads its sources only. -/
theorem exec_elements {ok : Nat → Bool} (hex : exec i s = .next (longChk i (fmtChk i (elemChk ok)) eff s)) (hp : i.pins = true)
    (hok : ok (bitsOf s.me.fmt 3 0) = true) (hx : isFI (bitsOf s.me.fmt 3 0) = true) (h : s.VecReady i srcs d 1 .wr bs ds)
    (hs : srcs'.map (fun a => (a.k, a.n)) = srcs.map fun a => (a.k, a.n)) {f f' : List Nat → Raise → Nat × Raise}
    (he : eff s.envOf s.pinned = elementsOf d srcs' false (s.on pm) true (fun _ => f) s.pinned)
    (hf : ∀ l, l.length = srcs.length → f l = f' l) :
    ∃ t, exec i s = .next t ∧ (∀ r, t.g r = s.g r) ∧ s.VecOut t srcs d (bitsOf s.me.fmt 3 0) ds
      (mapEls (s.on pm) (fun e => f' (bs.map fun b => elt (fmtWidth (bitsOf s.me.fmt 3 0)) (s.value b) e))
        (512 / fmtWidth (bitsOf s.me.fmt 3 0)) 0 s.calm) := by
  simpa using exec_elementsOf (peek := false) hex hp hok hx h hs he hf

end

/-- An elementwise effect reads its format where the strand is pinned. -/
theorem elementwise_pinned (s : State) (d pm : BitVec 4) (ks : List (BitVec 4)) (peek : Bool) (f : Nat → List Nat → Raise → Nat × Raise) :
    elementwise d ks peek (s.pinned.on pm) true f s.pinned = elementsOf d (ks.map s.src) peek (s.on pm) true f s.pinned := by
  rw [elementwise, s.on_pinned, s.fmt_pinned]
  rfl

theorem arithEff_pinned (s : State) (d pm : BitVec 4) (ks : List (BitVec 4)) (peek : Bool) (ff : Rm → List Fv → Fv × Flags)
    (fi : List Int → Int) : arithEff d ks peek pm ff fi s.envOf s.pinned =
      elementsOf d (ks.map s.src) peek (s.on pm) true (fun _ => arith ff fi s.ctl s.elem) s.pinned := by
  rw [arithEff, elementwise_pinned, s.ctl_pinned, s.elem_pinned]

/-! ### Choices and signs -/

/-- The less or the greater of two elements. -/
def minmaxEl (isMax : Bool) (c : Ctl) (el : Elem) (l : List Nat) (r : Raise) : Nat × Raise :=
  match el with
  | .f f => ((f.round rne (Fv.minmax isMax (f.value (l.getD 0 0)) (f.value (l.getD 1 0)))).1, r)
  | _ => arith (fun _ _ => (.nan, 0)) (fun v => if isMax then max (i0 v) (i1 v) else min (i0 v) (i1 v)) c el l r

theorem minmaxEff_pinned (s : State) (isMax : Bool) (d a b pm : BitVec 4) : minmaxEff isMax d a b pm s.envOf s.pinned =
    elementsOf d [s.src a, s.src b] false (s.on pm) true (fun _ => minmaxEl isMax s.ctl s.elem) s.pinned := by
  rw [minmaxEff, elementwise_pinned, s.ctl_pinned, s.elem_pinned]
  rfl

/-- An element with its sign changed. -/
def signEl (ff : Nat → Nat → Nat) (fi : Int → Int) (c : Ctl) (el : Elem) (l : List Nat) (r : Raise) : Nat × Raise :=
  match el with
  | .f f => (ff (f.width - 1) (l.getD 0 0), r)
  | _ => arith (fun _ _ => (.nan, 0)) (fun v => fi (i0 v)) c el l r

theorem signEff_pinned (s : State) (ff : Nat → Nat → Nat) (fi : Int → Int) (d a pm : BitVec 4) : signEff ff fi d a pm s.envOf s.pinned =
    elementsOf d [s.src a] false (s.on pm) true (fun _ => signEl ff fi s.ctl s.elem) s.pinned := by
  rw [signEff, elementwise_pinned, s.ctl_pinned, s.elem_pinned]
  rfl

theorem bitEff_pinned (s : State) (f : Nat → Nat → Nat) (d a b pm : BitVec 4) : bitEff f d a b pm s.envOf s.pinned =
    elementsOf d [s.src a, s.src b] false (s.on pm) true (fun _ l r => (f (l.getD 0 0) (l.getD 1 0), r)) s.pinned := by
  rw [bitEff, elementwise_pinned]
  rfl

/-- An element shifted by a number of places. -/
def shiftEl (left : Bool) (c : Ctl) (el : Elem) (l : List Nat) (r : Raise) : Nat × Raise :=
  let n := Nat.min (l.getD 1 0) el.width
  let a := r.int el c.uns (l.getD 0 0)
  (codeI el.width (if left then (if n = el.width then 0 else a.1 * 2 ^ n) else a.1 / 2 ^ n), a.2)

theorem shiftEff_pinned (s : State) (left : Bool) (d a b pm : BitVec 4) : shiftEff left d a b pm s.envOf s.pinned =
    elementsOf d [s.src a, { s.src b with uns := some true }] false (s.on pm) true (fun _ => shiftEl left s.ctl s.elem) s.pinned := by
  rw [shiftEff, s.ctl_pinned, s.elem_pinned, s.on_pinned, s.fmt_pinned]
  rfl

/-- A shift by the element's width or more to the left leaves 0. -/
theorem shiftEl_left (c : Ctl) (el : Elem) (a b : Nat) (r : Raise) : shiftEl true c el [a, b] r =
    ((if el.width ≤ b then 0 else codeI el.width ((r.int el c.uns a).1 * 2 ^ b)), (r.int el c.uns a).2) := by
  by_cases h : el.width ≤ b
  · simp [shiftEl, h, codeI]
  · simp [shiftEl, h, Nat.min_eq_left (le_of_not_ge h), ne_of_lt (lt_of_not_ge h)]

theorem shiftEl_right (c : Ctl) (el : Elem) (a b : Nat) (r : Raise) : shiftEl false c el [a, b] r =
    (codeI el.width ((r.int el c.uns a).1 / 2 ^ Nat.min b el.width), (r.int el c.uns a).2) := rfl

end Sys2Proof.Machine
end

section
/-! The tag check on reads of vector operands (R74, R75), and the elementwise instructions together. -/

namespace Sys2Proof.Machine
open Sys2Proof

/-! ### Codes fit their width -/

theorem FpFmt.signed_lt {f : FpFmt} {c : Nat} (h : c < 2 ^ (f.ebits + f.fbits)) (neg : Bool) : f.signed neg c < 2 ^ f.width := by
  have hw : 2 ^ f.width = 2 ^ (f.ebits + f.fbits) + 2 ^ (f.ebits + f.fbits) := by
    rw [FpFmt.width, Nat.add_assoc, Nat.add_comm, Nat.pow_succ, Nat.mul_two]
  rw [FpFmt.signed]
  split <;> omega

theorem FpFmt.codes_lt {f : FpFmt} (hf : f ∈ fpFormats) : f.maxCode < 2 ^ (f.ebits + f.fbits) ∧ f.canonNaN < 2 ^ (f.ebits + f.fbits) ∧
    (2 ^ f.ebits - 1) * 2 ^ f.fbits < 2 ^ (f.ebits + f.fbits) ∧ (f.kind = .fp4 → 7 < 2 ^ (f.ebits + f.fbits)) := by
  revert f
  decide

/-- A rounded value's code has the width of its format. -/
theorem FpFmt.round_lt {f : FpFmt} (hf : f ∈ fpFormats) (mode : Rm) (x : Fv) : (f.round mode x).1 < 2 ^ f.width := by
  obtain ⟨hmax, hnan, hinf, hseven⟩ := FpFmt.codes_lt hf
  have hwide : 2 ^ (f.ebits + f.fbits) ≤ 2 ^ f.width := Nat.pow_le_pow_right (by decide) (by rw [FpFmt.width]; omega)
  cases x with
  | nan =>
    rw [FpFmt.round]
    split
    · exact Nat.two_pow_pos _
    · exact hnan.trans_le hwide
  | inf neg =>
    simp only [FpFmt.round]
    split
    · exact FpFmt.signed_lt hinf neg
    · exact hnan.trans_le hwide
    · next hk => exact FpFmt.signed_lt (hseven hk) neg
  | fin neg m e =>
    by_cases hm : m = 0
    · rw [FpFmt.round, if_pos hm]
      exact FpFmt.signed_lt (Nat.two_pow_pos _) neg
    · have hr : (f.round mode (.fin neg m e)).1 = (f.roundFin mode neg m e (decide ((0 : Rat) ≠ 0))).1 := by
        rw [FpFmt.round, if_neg hm]
        simp
      have hlo : (2 : Rat) ^ (e + msb m) ≤ ((m : Rat) + 0) * 2 ^ e := by
        rw [add_zero, zpow_add₀ two_ne_zero, mul_comm, zpow_natCast]
        exact mul_le_mul_of_nonneg_right (by exact_mod_cast two_pow_msb_le hm) (zpow_pos two_pos e).le
      have hhi : ((m : Rat) + 0) * 2 ^ e < 2 ^ (e + msb m + 1) := by
        rw [add_zero, add_assoc, zpow_add₀ two_ne_zero, mul_comm, ← Nat.cast_succ, zpow_natCast]
        exact mul_lt_mul_of_pos_left (by exact_mod_cast lt_two_pow_msb m) (zpow_pos two_pos e)
      rw [hr]
      rcases lt_or_ge (f.mag f.maxCode) ((roundAt mode neg m e (max (e + msb m) (1 - (f.bias : Int)) - f.fbits)
        (decide ((0 : Rat) ≠ 0))).1 * 2 ^ (max (e + msb m) (1 - (f.bias : Int)) - f.fbits)) with hu | hu
      · rw [FpFmt.roundFin_overflow hf mode neg hm le_rfl one_pos hlo hhi rfl rfl hu]
        dsimp only
        split
        · exact FpFmt.signed_lt hinf neg
        · exact FpFmt.signed_lt hmax neg
      · obtain ⟨hc, he⟩ := FpFmt.roundFin_fits hf mode neg hm le_rfl one_pos hlo hhi rfl rfl (Or.inl rfl) hu
        rw [he]
        exact FpFmt.signed_lt (hc.trans_lt hmax) neg

theorem codeI_lt (w : Nat) (v : Int) : codeI w v < 2 ^ w := by
  have h1 : 0 ≤ v % 2 ^ w := Int.emod_nonneg _ (by positivity)
  have h2 : v % 2 ^ w < 2 ^ w := Int.emod_lt_of_pos _ (by positivity)
  rw [codeI]
  have : ((2 ^ w : Nat) : Int) = 2 ^ w := by push_cast; rfl
  omega

theorem mem_fpFormats_of_elemOf {x : Nat} {f : FpFmt} (h : elemOf x = some (.f f)) : f ∈ fpFormats := by
  unfold elemOf at h
  split at h <;> cases h <;> decide

/-! ### Conversions on reading -/

/-- Conversion to nearest, not stochastic: its code does not depend on what was raised before. -/
theorem Raise.conv_fst (c : Ctl) (te xe : Elem) (code : Nat) (r r' : Raise) :
    (r.conv c false te xe code).1 = (r'.conv c false te xe code).1 := by
  cases te <;> cases xe <;> rfl

theorem Raise.conv_lt {c : Ctl} {te xe : Elem} (hx : ∀ f, xe = .f f → f ∈ fpFormats) (code : Nat) (r : Raise) :
    (r.conv c false te xe code).1 < 2 ^ xe.width := by
  cases xe with
  | f f =>
    cases te with
    | f g => exact FpFmt.round_lt (hx f rfl) _ _
    | i w => exact FpFmt.round_lt (hx f rfl) _ _
    | tern => exact FpFmt.round_lt (hx f rfl) _ _
  | i w => cases te <;> exact codeI_lt _ _
  | tern => cases te <;> exact codeI_lt _ _

theorem elt_pair {w a : Nat} (ha : a < 2 ^ w) (b e : Nat) : elt w (a + 2 ^ w * b) e = match e with
    | 0 => a
    | e + 1 => elt w b e := by
  cases e with
  | zero => rw [elt, Nat.mul_zero, Nat.pow_zero, Nat.div_one, Nat.add_mul_mod_self_left, Nat.mod_eq_of_lt ha]
  | succ e =>
    simp only [elt]
    rw [Nat.mul_succ, Nat.add_comm (w * e), Nat.pow_add, ← Nat.div_div_eq_div_mul, Nat.add_mul_div_left _ _ (Nat.two_pow_pos w),
      Nat.div_eq_of_lt ha, Nat.zero_add]

/-- A block converted to format x: each element that is enabled by its conversion, the others as they are; what is raised, in order. -/
theorem convBlk_eq {c : Ctl} {t x : Nat} {te xe : Elem} (ht : elemOf t = some te) (hx : elemOf x = some xe) (hw : xe.width = fmtWidth x)
    (on : Nat → Bool) (v n e0 : Nat) (r : Raise) :
    (∀ j, j < n → elt (fmtWidth x) (convBlk c t x on v n e0 r).1 j =
      if on (e0 + j) then (Raise.conv {} c false te xe (elt (fmtWidth x) v (e0 + j))).1 else elt (fmtWidth x) v (e0 + j)) ∧
    (convBlk c t x on v n e0 r).2 =
      ((List.range' e0 n).filter on).foldl (fun r e => (r.conv c false te xe (elt (fmtWidth x) v e)).2) r := by
  have hxf : ∀ f, xe = .f f → f ∈ fpFormats := fun f hf => mem_fpFormats_of_elemOf (hx.trans (congrArg some hf))
  induction n generalizing e0 r with
  | zero => exact ⟨fun j hj => absurd hj (Nat.not_lt_zero j), rfl⟩
  | succ n ih =>
    have hone : ∀ q : Nat × Raise, q = (if on e0 then r.conv c false te xe (elt (fmtWidth x) v e0) else (elt (fmtWidth x) v e0, r)) →
        convBlk c t x on v (n + 1) e0 r = (q.1 + 2 ^ fmtWidth x * (convBlk c t x on v n (e0 + 1) q.2).1, (convBlk c t x on v n (e0 + 1) q.2).2) := by
      rintro q rfl
      simp only [convBlk, ht, hx]
    obtain ⟨h1, h2⟩ := ih (e0 + 1) (if on e0 then r.conv c false te xe (elt (fmtWidth x) v e0) else (elt (fmtWidth x) v e0, r)).2
    rw [hone _ rfl]
    constructor
    · intro j hj
      rw [elt_pair]
      · cases j with
        | zero =>
          by_cases ho : on e0 = true
          · simp [ho, Raise.conv_fst c te xe _ r {}]
          · simp [ho]
        | succ j =>
          have := h1 j (by omega)
          rwa [Nat.add_assoc, Nat.add_comm 1 j] at this
      · split
        · exact hw ▸ Raise.conv_lt hxf _ _
        · exact elt_lt _ _ _
    · rw [h2, List.range'_succ, List.filter_cons]
      by_cases ho : on e0 = true
      · simp [ho]
      · simp [ho]

/-! ### The tag check -/

/-- The format a line is held in: a scratchpad line's tag; another line has the format it is read in (R74). -/
def State.lineFmt (s : State) (b : Blk) : Nat := if b.ga < 2 ^ 60 then bitsOf s.me.fmt 3 0 else s.tagAt b.ga

/-- A line can be read: as it is, or converted from a format of the same width (R75). -/
def State.lineFits (s : State) (b : Blk) : Bool :=
  s.lineFmt b == bitsOf s.me.fmt 3 0 ||
    (decide (s.lineFmt b ≤ 12) && fmtWidth (s.lineFmt b) == fmtWidth (bitsOf s.me.fmt 3 0) && !s.me.fmt.getLsbD 14)

/-- An element of a line as it is read (R75). -/
def State.lineElt (s : State) (b : Blk) (e : Nat) (r : Raise) : Nat × Raise :=
  let code := elt (fmtWidth (bitsOf s.me.fmt 3 0)) (ofLe (s.bytes b.ga 64)) e
  if s.lineFmt b = bitsOf s.me.fmt 3 0 then (code, r) else r.conv s.ctl false ((elemOf (s.lineFmt b)).getD (.i 8)) s.elem code

/-- What reading the enabled elements of a line raises. -/
def State.lineRaise (s : State) (on : Nat → Bool) (b : Blk) (r : Raise) : Raise :=
  ((List.range (512 / fmtWidth (bitsOf s.me.fmt 3 0))).filter on).foldl (fun r e => (s.lineElt b e r).2) r

/-- The trap of a line in a wrong format. -/
def State.lineTrap (s : State) (b : Blk) : Trap :=
  { code := 0x21, info := w64 (b.va / 64 * 64 + s.lineFmt b * 2 ^ 48 + bitsOf s.me.fmt 3 0 * 2 ^ 52) }

theorem elemOf_isSome {c : Nat} (h : c ≤ 12) : (elemOf c).isSome = true := by
  have hall : ∀ c < 13, (elemOf c).isSome = true := by decide
  exact hall c (by omega)

section
variable {s : State} (htags : s.me.fmt.getLsbD 15 = true)
include htags

theorem State.tagCheck_eq (b : Blk) : s.tagCheck b.va b.ga (bitsOf s.me.fmt 3 0) =
    if s.lineFits b then .ok (if s.lineFmt b = bitsOf s.me.fmt 3 0 then none else some (s.lineFmt b)) else .error (s.lineTrap b) := by
  by_cases hga : b.ga < 2 ^ 60
  · simp only [State.tagCheck, State.lineFits, State.lineFmt, hga, if_true, decide_true, Bool.or_true, beq_self_eq_true, Bool.true_or]
  · simp only [State.tagCheck, htags, State.lineFits, State.lineFmt, State.lineTrap, hga, if_false, decide_false, Bool.not_true, Bool.or_self,
      Bool.false_eq_true]
    by_cases hx : s.tagAt b.ga = bitsOf s.me.fmt 3 0
    · simp [hx]
    · by_cases h12 : s.tagAt b.ga ≤ 12
      · by_cases hw : fmtWidth (s.tagAt b.ga) = fmtWidth (bitsOf s.me.fmt 3 0)
        · cases h14 : s.me.fmt.getLsbD 14 <;> simp [hx, h12, hw, tr, cFmtMismatch]
        · simp [hx, hw, tr, cFmtMismatch]
      · simp [hx, h12, tr, cFmtMismatch]

/-- A line read while the tag check is on. -/
theorem State.readBlks_line (hbad : s.bad = []) (hsoft : s.soft = []) (hx : isFI (bitsOf s.me.fmt 3 0) = true) (b : Blk)
    (hpow : s.power b.ga = s) (on : Nat → Bool) (r : Raise) :
    if s.lineFits b then
      ∃ v, s.readBlks s.ctl (some (bitsOf s.me.fmt 3 0)) on [b] 0 r = (.ok (v, s.lineRaise on b r), s) ∧
        ∀ e, e < 512 / fmtWidth (bitsOf s.me.fmt 3 0) → on e = true → elt (fmtWidth (bitsOf s.me.fmt 3 0)) v e = (s.lineElt b e {}).1
    else s.readBlks s.ctl (some (bitsOf s.me.fmt 3 0)) on [b] 0 r = (.error (s.lineTrap b, none), s) := by
  have hread := State.readBlks_single hbad hsoft s.ctl (bitsOf s.me.fmt 3 0) on b r
  rw [State.tagCheck_eq htags, hpow] at hread
  split
  · next hfit =>
    rw [if_pos hfit] at hread
    by_cases hsame : s.lineFmt b = bitsOf s.me.fmt 3 0
    · rw [if_pos hsame] at hread
      refine ⟨_, hread.trans ?_, fun e _ _ => by rw [State.lineElt, if_pos hsame]⟩
      have hcalm : s.lineRaise on b r = r := by
        simp only [State.lineRaise, State.lineElt, if_pos hsame, List.foldl_fixed]
      rw [hcalm]
    · rw [if_neg hsame] at hread
      obtain ⟨xe, hxe, hw, -⟩ := elemOf_of_isFI hx
      have hle : s.lineFmt b ≤ 12 := by
        rw [State.lineFits, beq_false_of_ne hsame] at hfit
        simp only [Bool.false_or, Bool.and_eq_true, decide_eq_true_eq] at hfit
        exact hfit.1.1
      obtain ⟨te, hte⟩ := Option.isSome_iff_exists.1 (elemOf_isSome hle)
      have hel : s.elem = xe := by rw [State.elem, hxe, Option.getD_some]
      obtain ⟨hcodes, hraise⟩ := convBlk_eq (c := s.ctl) hte hxe hw on (ofLe (s.bytes b.ga 64)) (512 / fmtWidth (bitsOf s.me.fmt 3 0)) 0 r
      refine ⟨(convBlk s.ctl (s.lineFmt b) (bitsOf s.me.fmt 3 0) on (ofLe (s.bytes b.ga 64)) (512 / fmtWidth (bitsOf s.me.fmt 3 0)) 0 r).1,
        hread.trans ?_, fun e he ho => ?_⟩
      · simp only [State.lineRaise, State.lineElt, if_neg hsame, hte, Option.getD_some, hel, List.range_eq_range', ← hraise]
      · rw [hcodes e he, Nat.zero_add, if_pos ho, State.lineElt, if_neg hsame, hte, Option.getD_some, hel]
  · next hfit =>
    rw [if_neg hfit] at hread
    exact hread

end

theorem State.power_cores (s : State) (cs : List (Nat × Core)) (a : Nat) :
    State.power { s with cores := cs } a = { s.power a with cores := cs } := by
  have hup : ∀ p, State.spireAt { s with cores := cs } p = s.spireAt p := fun _ => rfl
  simp only [State.power, hup]
  by_cases ha : a < 2 ^ 60
  · rw [if_pos ha, if_pos ha]
  · rw [if_neg ha, if_neg ha]
    split <;> rfl

/-- A bank that is powered is powered while the strand is pinned. -/
theorem State.power_pinned {s : State} {a : Nat} (h : s.power a = s) : s.pinned.power a = s.pinned := by
  have hc : s.pinned = { s with cores := s.pinned.cores } := rfl
  rw [hc, State.power_cores, h]

theorem State.line_pinned (s : State) (b : Blk) : s.pinned.lineFmt b = s.lineFmt b ∧ s.pinned.lineFits b = s.lineFits b ∧
    s.pinned.lineElt b = s.lineElt b ∧ s.pinned.lineTrap b = s.lineTrap b ∧ ∀ on, s.pinned.lineRaise on b = s.lineRaise on b := by
  have hf : s.pinned.lineFmt b = s.lineFmt b := by
    rw [State.lineFmt, s.fmt_pinned]
    rfl
  have he : s.pinned.lineElt b = s.lineElt b := by
    funext e r
    rw [State.lineElt, hf, s.fmt_pinned, s.ctl_pinned, s.elem_pinned]
    rfl
  refine ⟨hf, ?_, he, ?_, fun on => ?_⟩
  · rw [State.lineFits, hf, s.fmt_pinned, State.lineFits]
  · rw [State.lineTrap, hf, s.fmt_pinned, State.lineTrap]
  · funext r
    rw [State.lineRaise, he, s.fmt_pinned, State.lineRaise]

/-- Results depend on what is computed of the enabled elements only. -/
theorem mapEls_congr {on : Nat → Bool} {f g : Nat → Raise → Nat × Raise} (n e : Nat) (r : Raise)
    (h : ∀ j, j < e + n → on j = true → f j = g j) : mapEls on f n e r = mapEls on g n e r := by
  induction n generalizing e r with
  | zero => rfl
  | succ n ih =>
    have ih := fun r => ih (e + 1) r fun j hj => h j (by omega)
    by_cases ho : on e = true
    · simp only [mapEls, if_pos ho, h e (by omega) ho, ih]
    · simp only [mapEls, if_neg ho, ih]

section
variable {i : Instr} {s : State} {d vs1 vs2 pm : BitVec 4} {b0 b1 : Blk} {ds : List Blk} {ff : Rm → List Fv → Fv × Flags}
  {fi : List Int → Int}
variable (hex : exec i s = .next (longChk i (fmtChk i (elemChk isFI)) (arithEff d [vs1, vs2] false pm ff fi) s)) (hp : i.pins = true)
variable (hx : isFI (bitsOf s.me.fmt 3 0) = true) (htags : s.me.fmt.getLsbD 15 = true)
variable (h : s.VecSet i [s.src vs1, s.src vs2] d 1 .wr [[b0], [b1]] ds) (hp0 : s.power b0.ga = s) (hp1 : s.power b1.ga = s)
include htags hx h hp0 hp1

/-- The two lines of an elementwise instruction read while the tag check is on: both, or the trap of the first that does not fit. -/
theorem readSrcs_lines :
    (s.lineFits b0 = true → s.lineFits b1 = true → ∃ v0 v1,
      s.pinned.readSrcs (s.on pm) ([s.src vs1, s.src vs2].zip [[b0], [b1]]) s.calm =
        (.ok ([v0, v1], s.lineRaise (s.on pm) b1 (s.lineRaise (s.on pm) b0 s.calm)), s.pinned) ∧
      ∀ e, e < 512 / fmtWidth (bitsOf s.me.fmt 3 0) → s.on pm e = true →
        elt (fmtWidth (bitsOf s.me.fmt 3 0)) v0 e = (s.lineElt b0 e {}).1 ∧
        elt (fmtWidth (bitsOf s.me.fmt 3 0)) v1 e = (s.lineElt b1 e {}).1) ∧
    (s.lineFits b0 = false → s.pinned.readSrcs (s.on pm) ([s.src vs1, s.src vs2].zip [[b0], [b1]]) s.calm =
      (.error (s.lineTrap b0, none), s.pinned)) ∧
    (s.lineFits b0 = true → s.lineFits b1 = false → s.pinned.readSrcs (s.on pm) ([s.src vs1, s.src vs2].zip [[b0], [b1]]) s.calm =
      (.error (s.lineTrap b1, none), s.pinned)) := by
  have hread := fun (b : Blk) (r : Raise) (hpow : s.power b.ga = s) => State.readBlks_line (s := s.pinned) (by rw [s.fmt_pinned]; exact htags)
    h.noBad h.noSoft (by rw [s.fmt_pinned]; exact hx) b (State.power_pinned hpow) (s.on pm) r
  have hfits : ∀ b, s.pinned.lineFits b = s.lineFits b := fun b => (s.line_pinned b).2.1
  have helt : ∀ b, s.pinned.lineElt b = s.lineElt b := fun b => (s.line_pinned b).2.2.1
  have htrap : ∀ b, s.pinned.lineTrap b = s.lineTrap b := fun b => (s.line_pinned b).2.2.2.1
  have hraise : ∀ b, s.pinned.lineRaise (s.on pm) b = s.lineRaise (s.on pm) b := fun b => (s.line_pinned b).2.2.2.2 _
  simp only [hfits, helt, htrap, hraise, s.fmt_pinned] at hread
  have hctl : ({ s.pinned.ctl with uns := s.pinned.ctl.uns } : Ctl) = s.pinned.ctl := rfl
  refine ⟨fun f0 f1 => ?_, fun f0 => ?_, fun f0 f1 => ?_⟩
  · have h0 := hread b0 s.calm hp0
    rw [if_pos f0] at h0
    obtain ⟨v0, h0, c0⟩ := h0
    have h1 := hread b1 (s.lineRaise (s.on pm) b0 s.calm) hp1
    rw [if_pos f1] at h1
    obtain ⟨v1, h1, c1⟩ := h1
    refine ⟨v0, v1, ?_, fun e he ho => ⟨c0 e he ho, c1 e he ho⟩⟩
    simp [State.readSrcs, State.src, h0, h1]
  · have h0 := hread b0 s.calm hp0
    rw [if_neg (by simp [f0])] at h0
    simp [State.readSrcs, State.src, h0]
  · have h0 := hread b0 s.calm hp0
    rw [if_pos f0] at h0
    obtain ⟨v0, h0, -⟩ := h0
    have h1 := hread b1 (s.lineRaise (s.on pm) b0 s.calm) hp1
    rw [if_neg (by simp [f1])] at h1
    simp [State.readSrcs, State.src, h0, h1]

include hex hp

/-- An arithmetic instruction while the tag check is on (R75). -/
theorem exec_arith_tagged :
    (s.lineFits b0 = true → s.lineFits b1 = true → ∃ t, exec i s = .next t ∧ (∀ r, t.g r = s.g r) ∧
      s.VecOut t [s.src vs1, s.src vs2] d (bitsOf s.me.fmt 3 0) ds
        (mapEls (s.on pm) (fun e => arith ff fi s.ctl s.elem [(s.lineElt b0 e {}).1, (s.lineElt b1 e {}).1])
          (512 / fmtWidth (bitsOf s.me.fmt 3 0)) 0 (s.lineRaise (s.on pm) b1 (s.lineRaise (s.on pm) b0 s.calm)))) ∧
    (s.lineFits b0 = false → exec i s = .next (s.pinned.raise (s.lineTrap b0))) ∧
    (s.lineFits b0 = true → s.lineFits b1 = false → exec i s = .next (s.pinned.raise (s.lineTrap b1))) := by
  obtain ⟨hboth, hfirst, hsecond⟩ := readSrcs_lines (pm := pm) hx htags h hp0 hp1
  have heff := arithEff_pinned s d pm [vs1, vs2] false ff fi
  rw [elementsOf, if_neg Bool.false_ne_true] at heff
  have heff := heff.trans (withBlocks_eq h (srcs' := [s.src vs1, s.src vs2]) rfl (s.on pm) none rfl _)
  rw [Option.toList_none, List.map_nil, List.append_nil] at heff
  have htrap : ∀ t, arithEff d [vs1, vs2] false pm ff fi s.envOf s.pinned = .trap t s.pinned →
      exec i s = .next (s.pinned.raise t) := fun t ht => by
    rw [hex, longChk_none (fmtChk_none hx), longOp_ready h.toReadyUnit, State.start, if_pos hp, ht]
  refine ⟨fun f0 f1 => ?_, fun f0 => htrap _ (heff.trans ?_), fun f0 f1 => htrap _ (heff.trans ?_)⟩
  · obtain ⟨v0, v1, hv, hcodes⟩ := hboth f0 f1
    rw [hex, longChk_none (fmtChk_none hx)]
    have hels : mapEls (s.on pm) (fun e => arith ff fi s.ctl s.elem
          ([v0, v1].map fun v => elt (fmtWidth (bitsOf s.me.fmt 3 0)) v e)) (512 / fmtWidth (bitsOf s.me.fmt 3 0)) 0
          (s.lineRaise (s.on pm) b1 (s.lineRaise (s.on pm) b0 s.calm)) = mapEls (s.on pm)
        (fun e => arith ff fi s.ctl s.elem [(s.lineElt b0 e {}).1, (s.lineElt b1 e {}).1]) (512 / fmtWidth (bitsOf s.me.fmt 3 0)) 0
          (s.lineRaise (s.on pm) b1 (s.lineRaise (s.on pm) b0 s.calm)) :=
      mapEls_congr _ _ _ fun e he ho => by
        obtain ⟨c0, c1⟩ := hcodes e (by omega) ho
        simp only [List.map_cons, List.map_nil, c0, c1]
    refine longOp_vecPut h hp hx (.refl _) (inBlocks_mapEls _ _ _ _) ?_
    rw [heff, ← hels]
    simp only [hv, s.fmt_pinned]
    rfl
  · simp only [hfirst f0]
  · simp only [hsecond f0 f1]

end

/-! ### Integer functions of elements -/

/-- A list of two, or of one. -/
theorem forall_length_two {P : List Nat → Prop} (h : ∀ a b, P [a, b]) (l : List Nat) (hl : l.length = 2) : P l := by
  obtain ⟨a, b, rfl⟩ := List.length_eq_two.1 hl
  exact h a b

theorem forall_length_one {P : List Nat → Prop} (h : ∀ a, P [a]) (l : List Nat) (hl : l.length = 1) : P l := by
  obtain ⟨a, rfl⟩ := List.length_eq_one_iff.1 hl
  exact h a

/-- The value functions of one and of two elements as codes of width w (R158, R159). -/
def ofVal1 (c : Ctl) (el : Elem) (g : Int → Nat) (l : List Nat) (r : Raise) : Nat × Raise :=
  let u := r.int el c.uns (l.getD 0 0)
  (g u.1, u.2)

def ofVal2 (c : Ctl) (el : Elem) (g : Int → Int → Nat) (l : List Nat) (r : Raise) : Nat × Raise :=
  let u := r.int el c.uns (l.getD 0 0)
  let v := u.2.int el c.uns (l.getD 1 0)
  (g u.1 v.1, v.2)

theorem minmaxEl_two {el : Elem} {w : Nat} (hw : el.width = w) (isMax : Bool) (c : Ctl) (p q : Nat) : minmaxEl isMax c el [p, q] =
    (match el with
      | .f g => fun (l : List Nat) (r : Raise) => ((g.round rne (Fv.minmax isMax (g.value (l.getD 0 0)) (g.value (l.getD 1 0)))).1, r)
      | _ => ofVal2 c el fun u v => codeI w (clampI (intLo el c.uns) (intHi el c.uns) (if isMax then max u v else min u v))) [p, q] := by
  subst hw
  funext r
  cases el with
  | f f => rfl
  | i w => rfl
  | tern => rfl

theorem signEl_one {el : Elem} {w : Nat} (hw : el.width = w) (ff : Nat → Nat → Nat) (fi : Int → Int) (c : Ctl) (p : Nat) :
    signEl ff fi c el [p] = (match el with
      | .f g => fun (l : List Nat) (r : Raise) => (ff (g.width - 1) (l.getD 0 0), r)
      | _ => ofVal1 c el fun u => codeI w (clampI (intLo el c.uns) (intHi el c.uns) (fi u))) [p] := by
  subst hw
  funext r
  cases el with
  | f f => rfl
  | i w => rfl
  | tern => rfl

theorem isFI_of_isI {x : Nat} (h : isI x = true) : isFI x = true := by rw [isFI, h, Bool.or_true]

/-- Settles O22: every elementwise instruction reads, computes and writes as one; a line of another format is converted or refused. -/
theorem vectorElementwise : Obligations.VectorElementwise := by
  refine ⟨?arithmetic, ?others, ?tagged⟩
  case arithmetic =>
    intro i vd vs1 vs2 pm s bs ds peek ff fi x w src hi hx h
    have hof : ∀ {i : Instr} {peek ff fi}, exec i s = .next (longChk i (fmtChk i (elemChk isFI)) (arithEff vd [vs1, vs2] peek pm ff fi) s) →
        i.pins = true → s.VecReady i [src vs1, src vs2] vd 1 (if peek then .rw else .wr) bs ds → _ := fun hex hp h =>
      exec_elementsOf hex hp hx hx h rfl (arithEff_pinned s vd pm [vs1, vs2] _ _ _) fun _ _ => rfl
    rcases hi with ⟨rfl, rfl, rfl, rfl⟩ | ⟨rfl, rfl, rfl, rfl⟩ | ⟨rfl, rfl, rfl, rfl⟩ | ⟨rfl, rfl, rfl, rfl⟩
    · exact hof rfl rfl h
    · exact hof rfl rfl h
    · exact hof rfl rfl h
    · exact hof rfl rfl h
  case others =>
    intro i vd vs1 vs2 pm s bs ds two f x w el c src srcs a b lim val2 val1 hi h
    have hw : isFI x = true → s.elem.width = w := State.elem_eq
    have habs : ∀ u : Int, (u.natAbs : Int) = |u| := fun u => (Int.abs_eq_natAbs u).symm
    rcases hi with ⟨rfl, rfl, hx, hf⟩ | ⟨rfl, rfl, hx, hf⟩ | ⟨rfl, rfl, hx, hf⟩ | ⟨rfl, rfl, hx, hf⟩ | ⟨rfl, rfl, hx, hf⟩ |
      ⟨rfl, rfl, hx, hf⟩ | ⟨rfl, rfl, hx, hf⟩ | ⟨rfl, rfl, hx, hf⟩ | ⟨rfl, rfl, hx, hf⟩
    · exact exec_elements rfl rfl hx hx h rfl (minmaxEff_pinned s false vd vs1 vs2 pm)
        (forall_length_two fun p q => (minmaxEl_two (hw hx) false c p q).trans (congrFun hf.symm _))
    · exact exec_elements rfl rfl hx hx h rfl (minmaxEff_pinned s true vd vs1 vs2 pm)
        (forall_length_two fun p q => (minmaxEl_two (hw hx) true c p q).trans (congrFun hf.symm _))
    · simp only [← habs] at hf
      exact exec_elements rfl rfl hx hx h rfl (signEff_pinned s _ _ vd vs1 pm)
        (forall_length_one fun p => (signEl_one (hw hx) _ _ c p).trans (congrFun hf.symm _))
    · exact exec_elements rfl rfl hx hx h rfl (signEff_pinned s _ _ vd vs1 pm)
        (forall_length_one fun p => (signEl_one (hw hx) _ _ c p).trans (congrFun hf.symm _))
    · exact exec_elements rfl rfl hx hx h rfl (bitEff_pinned s _ vd vs1 vs2 pm) fun _ _ => hf ▸ rfl
    · exact exec_elements rfl rfl hx hx h rfl (bitEff_pinned s _ vd vs1 vs2 pm) fun _ _ => hf ▸ rfl
    · exact exec_elements rfl rfl hx hx h rfl (bitEff_pinned s _ vd vs1 vs2 pm) fun _ _ => hf ▸ rfl
    · exact exec_elements rfl rfl hx (isFI_of_isI hx) h (srcs' := [src vs1, { src vs2 with uns := some true }]) rfl
        (shiftEff_pinned s true vd vs1 vs2 pm) (forall_length_two fun p q =>
        (funext fun r => hw (isFI_of_isI hx) ▸ shiftEl_left c s.elem p q r).trans (congrFun hf.symm _))
    · exact exec_elements rfl rfl hx (isFI_of_isI hx) h (srcs' := [src vs1, { src vs2 with uns := some true }]) rfl
        (shiftEff_pinned s false vd vs1 vs2 pm) (forall_length_two fun p q =>
        (funext fun r => hw (isFI_of_isI hx) ▸ shiftEl_right c s.elem p q r).trans (congrFun hf.symm _))
  case tagged =>
    intro i vd vs1 vs2 pm s b0 b1 ds ff fi x w src tag fits code conv all refuse hi hx htags h hp0 hp1
    rcases hi with ⟨rfl, rfl, rfl⟩ | ⟨rfl, rfl, rfl⟩ | ⟨rfl, rfl, rfl⟩
    · exact exec_arith_tagged rfl rfl hx htags h hp0 hp1
    · exact exec_arith_tagged rfl rfl hx htags h hp0 hp1
    · exact exec_arith_tagged rfl rfl hx htags h hp0 hp1

end Sys2Proof.Machine
end

section
/-! Defined approximations of elements (R69 to R73, R170). -/

namespace Sys2Proof.Machine
open Sys2Proof

/-- The format of an element that the approximations take. -/
def approxFmt (x : Nat) : FpFmt := if x = 0 then fp64 else if x = 1 then fp32 else if x = 2 then bf16 else fp16

/-- An approximation in the element's own format, or in FP32 and then rounded. -/
def approxLane (g : FpFmt → Nat → Nat × Flags) (c : Ctl) (x : Nat) (a : Nat) (r : Raise) : Nat × Raise :=
  if x ≤ 1 then ((g (approxFmt x) a).1, r.flag (g (approxFmt x) a).2)
  else
    let v := g fp32 (fp32.round rne ((approxFmt x).value a)).1
    (r.flag v.2).deliver c (approxFmt x) (fp32.value v.1)

theorem approxEl_eq (g : FpFmt → Nat → Nat × Flags) (c : Ctl) {x : Nat} (hx : x ≤ 3) (a : Nat) (r : Raise) :
    approxEl g c ((elemOf x).getD (.i 8)) a r = approxLane g c x a r := by
  have hwide (f : FpFmt) (h : f = fp64 ∨ f = fp32) : approxEl g c (.f f) a r = r.take (g f a) := if_pos h
  have hnarrow (f : FpFmt) (h : ¬(f = fp64 ∨ f = fp32)) : approxEl g c (.f f) a r =
      ((r.take (g fp32 (fp32.round rne (f.value a)).1)).2).deliver c f (fp32.value (g fp32 (fp32.round rne (f.value a)).1).1) := if_neg h
  interval_cases x
  · exact hwide fp64 (Or.inl rfl)
  · exact hwide fp32 (Or.inr rfl)
  · exact hnarrow bf16 (by decide)
  · exact hnarrow fp16 (by decide)

theorem approxEff_pinned (g : FpFmt → Nat → Nat × Flags) (s : State) (d a pm : BitVec 4) : approxEff g d a pm s.envOf s.pinned =
    elementsOf d [s.src a] false (s.on pm) true (fun _ l => approxEl g s.ctl s.elem (l.getD 0 0)) s.pinned := by
  rw [approxEff, elementwise_pinned, s.ctl_pinned, s.elem_pinned]
  rfl

/-- Settles O27: each of the three is the model's approximation of an element, in the format that its width asks for. -/
theorem vectorApproximations : Obligations.VectorApproximations := by
  intro i vd vs1 pm s bs ds g x w f src lane hi hx h
  have hFI : isFI x = true := by
    have : x ≤ 6 := hx.trans (by decide)
    simp [isFI, isF, this]
  obtain ⟨b, rfl⟩ : ∃ b, bs = [b] := List.length_eq_one_iff.1 h.toVecSet.length
  have hof : ∀ {ok : Nat → Bool}, exec i s = .next (longChk i (fmtChk i (elemChk ok)) (approxEff g vd vs1 pm) s) → i.pins = true →
      ok x = true → _ := fun hex hp hok => exec_elements hex hp hok hFI h (srcs' := [src]) rfl (approxEff_pinned g s vd vs1 pm)
    (f' := fun l r => approxLane g s.ctl x (l.getD 0 0) r) fun l _ => funext fun r => approxEl_eq g s.ctl hx (l.getD 0 0) r
  rcases hi with ⟨rfl, rfl, h1⟩ | ⟨rfl, rfl⟩ | ⟨rfl, rfl⟩
  · exact hof rfl rfl (by simp [h1, hx])
  · exact hof rfl rfl (decide_eq_true hx)
  · exact hof rfl rfl (decide_eq_true hx)

end Sys2Proof.Machine
end

section
/-! Selection, permutation, broadcast and comparison of elements (R53, R161, R162). -/

namespace Sys2Proof.Machine
open Sys2Proof

/-! ### Results that do not depend on what was raised before -/

section
variable {on : Nat → Bool} {f : Nat → Raise → Nat × Raise} {c : Nat → Nat}

theorem mapEls_fst (h : ∀ e r, (f e r).1 = c e) (n e : Nat) (r : Raise) :
    (mapEls on f n e r).1 = ((List.range' e n).filter on).map fun e => (e, c e) := by
  induction n generalizing e r with
  | zero => rfl
  | succ n ih =>
    rw [List.range'_succ, List.filter_cons]
    by_cases ho : on e = true
    · simp only [mapEls, if_pos ho, ih, h, List.map_cons]
    · simp only [mapEls, if_neg ho, ih]

/-- What every element keeps of what was raised is kept by all of them. -/
theorem mapEls_snd_induction {P : Raise → Prop} (h : ∀ e r, P r → P (f e r).2) (n e : Nat) (r : Raise) (hr : P r) :
    P (mapEls on f n e r).2 := by
  induction n generalizing e r with
  | zero => exact hr
  | succ n ih =>
    by_cases ho : on e = true
    · simp only [mapEls, if_pos ho]
      exact ih _ _ (h e r hr)
    · simp only [mapEls, if_neg ho]
      exact ih _ _ hr

/-- Elements that raise nothing. -/
theorem mapEls_pure (on : Nat → Bool) (c : Nat → Nat) (n : Nat) (r : Raise) :
    mapEls on (fun e r => (c e, r)) n 0 r = (((List.range n).filter on).map fun e => (e, c e), r) :=
  Prod.ext (List.range_eq_range' ▸ mapEls_fst (c := c) (fun _ _ => rfl) n 0 r)
    (mapEls_snd_induction (P := fun q => q = r) (fun _ _ h => h) n 0 r rfl)

/-- All elements, some of which are counted as reserved codes. -/
theorem mapEls_counted (c : Nat → Nat × Bool) (n e : Nat) (r : Raise) :
    mapEls (fun _ => true) (fun e r => ((c e).1, if (c e).2 then { r with sub := r.sub + 1 } else r)) n e r =
      ((List.range' e n).map fun e => (e, (c e).1), { r with sub := r.sub + ((List.range' e n).filter fun e => (c e).2).length }) := by
  induction n generalizing e r with
  | zero => rfl
  | succ n ih =>
    rw [List.range'_succ, List.filter_cons]
    by_cases hc : (c e).2 = true
    · simp only [mapEls, if_true, if_pos hc, ih, List.map_cons, List.length_cons]
      rw [Nat.add_assoc, Nat.add_comm 1]
    · simp only [mapEls, if_true, if_neg hc, ih, List.map_cons]

end

/-! ### vsel, vperm, vbcast -/

/-- A code as it is moved, and whether it was a reserved one (R53, R159). -/
def movedCode (el : Elem) (uns : Bool) (code : Nat) : Nat × Bool :=
  match el with
  | .f _ => (code, false)
  | el => (codeI el.width (intVal el uns code).1, (intVal el uns code).2)

theorem Raise.moved_eq (r : Raise) (el : Elem) (uns : Bool) (code : Nat) : r.moved el uns code =
    ((movedCode el uns code).1, if (movedCode el uns code).2 then { r with sub := r.sub + 1 } else r) := by
  cases el <;> rfl

section
variable {s : State} {vd vs1 vs2 pm : BitVec 4} {bs : List (List Blk)} {ds : List Blk}

/-- A source whose elements pm does not disable. -/
def State.srcAll (s : State) (k : BitVec 4) : Src := { k := k, n := 1, fmt := some (bitsOf s.me.fmt 3 0), dis := false }

theorem exec_vsel (hx : isFI (bitsOf s.me.fmt 3 0) = true)
    (h : s.VecReady (.vsel 0 vd vs1 vs2 pm) [s.srcAll vs1, s.srcAll vs2] vd 1 .wr bs ds) :
    ∃ t, exec (.vsel 0 vd vs1 vs2 pm) s = .next t ∧ (∀ r, t.g r = s.g r) ∧
      s.VecOut t [s.srcAll vs1, s.srcAll vs2] vd (bitsOf s.me.fmt 3 0) ds
        (mapEls (fun _ => true) (fun e r => r.moved s.elem s.ctl.uns (if s.on pm e
          then elt (fmtWidth (bitsOf s.me.fmt 3 0)) (s.value (bs.getD 0 [])) e
          else elt (fmtWidth (bitsOf s.me.fmt 3 0)) (s.value (bs.getD 1 [])) e))
        (512 / fmtWidth (bitsOf s.me.fmt 3 0)) 0 s.calm) := by
  obtain ⟨p, q, rfl⟩ := List.length_eq_two.1 h.toVecSet.length
  have he : effVsel vd vs1 vs2 pm s.envOf s.pinned = elementsOf vd [s.srcAll vs1, s.srcAll vs2] false
      (s.on pm) false (fun e xs r => r.moved s.elem s.ctl.uns (if s.on pm e then xs.getD 0 0 else xs.getD 1 0)) s.pinned := by
    rw [effVsel, elementwise, s.on_pinned, s.ctl_pinned, s.elem_pinned, s.fmt_pinned]
    rfl
  have hex : exec (.vsel 0 vd vs1 vs2 pm) s = .next (longOp (.vsel 0 vd vs1 vs2 pm) (effVsel vd vs1 vs2 pm) s) :=
    congrArg _ (longChk_none (fmtChk_none hx))
  rw [hex]
  exact longOp_elementsOf (peek := false) h rfl rfl hx he

theorem exec_vperm (hx : isW8 (bitsOf s.me.fmt 3 0) = true)
    (h : s.VecReady (.vperm 0 vd vs1 vs2 pm) [s.srcAll vs1, { k := vs2, n := 1, fmt := none }] vd 1 .wr bs ds) :
    ∃ t, exec (.vperm 0 vd vs1 vs2 pm) s = .next t ∧ (∀ r, t.g r = s.g r) ∧
      s.VecOut t [s.srcAll vs1, { k := vs2, n := 1, fmt := none }] vd (bitsOf s.me.fmt 3 0) ds
        (mapEls (s.on pm) (fun e r => (if elt 8 (s.value (bs.getD 1 [])) e < 512 / fmtWidth (bitsOf s.me.fmt 3 0)
            then elt (fmtWidth (bitsOf s.me.fmt 3 0)) (s.value (bs.getD 0 [])) (elt 8 (s.value (bs.getD 1 [])) e) else 0, r))
          (512 / fmtWidth (bitsOf s.me.fmt 3 0)) 0 s.calm) := by
  obtain ⟨p, q, rfl⟩ := List.length_eq_two.1 h.toVecSet.length
  have hFI : isFI (bitsOf s.me.fmt 3 0) = true := (Bool.and_eq_true _ _ ▸ hx).1
  have hex : exec (.vperm 0 vd vs1 vs2 pm) s = .next (longOp (.vperm 0 vd vs1 vs2 pm) (effVperm vd vs1 vs2 pm) s) :=
    congrArg _ (longChk_none (fmtChk_none hx))
  rw [hex]
  refine longOp_withBlocks_vecPut (srcs' := [s.src vs1, { k := vs2, n := 1, fmt := none }]) (peek := none) h rfl rfl rfl hFI
    (on := fun i => (List.range (512 / fmtWidth (bitsOf s.me.fmt 3 0))).any fun e => s.on pm e && elt 8 (s.pinned.permIndex vs1 vs2) e == i)
    (m := fun xs r => mapEls (s.on pm) (fun e r => (if elt 8 (xs.getD 1 0) e < 512 / fmtWidth (bitsOf s.me.fmt 3 0)
      then elt (fmtWidth (bitsOf s.me.fmt 3 0)) (xs.getD 0 0) (elt 8 (xs.getD 1 0) e) else 0, r))
      (512 / fmtWidth (bitsOf s.me.fmt 3 0)) 0 r) ?_ fun _ _ => inBlocks_mapEls _ _ _ _
  rw [effVperm, s.on_pinned, s.fmt_pinned]
  rfl

theorem exec_vbcast (hx : isFI (bitsOf s.me.fmt 3 0) = true) (h : s.VecReady (.vbcast 0 vd vs1 pm) [] vd 1 .wr bs ds) :
    ∃ t, exec (.vbcast 0 vd vs1 pm) s = .next t ∧ (∀ r, t.g r = s.g r) ∧ s.VecOut t [] vd (bitsOf s.me.fmt 3 0) ds
      (mapEls (s.on pm) (fun _ r => ((s.g vs1).toNat, r)) (512 / fmtWidth (bitsOf s.me.fmt 3 0)) 0 s.calm) :=
  exec_elements (ok := isFI) rfl rfl hx hx h (srcs' := []) rfl (f' := fun _ r => ((s.g vs1).toNat, r))
    (elementwise_pinned s vd pm [] false fun _ _ r => ((s.g vs1).toNat, r)) fun _ _ => rfl

end

/-! ### Comparisons -/

/-- Predicates and va are changed while an instruction is under way. -/
theorem State.VecMid.modMe {s u : State} (h : s.VecMid u) {f : Core → Core} (hf : ∀ k, f k = { k with q := (f k).q, va := (f k).va }) :
    s.VecMid (u.modMe f) where
  rest := by
    have hm : u.modMe f = { u with cores := (u.modMe f).cores } := rfl
    have hr := h.rest
    rw [hm]
    rw [hr]
  cores d hd := (State.coreAt_modMe_ne u f d (h.core_eq ▸ hd)).trans (h.cores d hd)
  me := by rw [State.me_modMe, hf, h.me]
  st := (State.strandAt_modMe u f (fun k => by rw [hf]) u.core u.ctx).trans h.st
  strands y hy := (State.strandAt_modMe u f (fun k => by rw [hf]) s.core y).trans (h.strands y hy)
  spires := h.spires

/-- Which elements compare as asked, as the bits of a predicate. -/
theorem testBit_packEls_map (l : List Nat) (hl : l.Nodup) (c : Nat → Bool) (e : Nat) :
    (packEls 1 (l.map fun e => (e, (c e).toNat))).2.testBit e = (decide (e ∈ l) && c e) := by
  have hkeys : (l.map fun e => (e, (c e).toNat)).map (·.1) = l := by simp [Function.comp_def]
  have hnd : ((l.map fun e => (e, (c e).toNat)).map (·.1)).Nodup := by rwa [hkeys]
  rw [(testBit_packEls Nat.one_pos _ hnd e).2, Nat.div_one, Nat.mod_one]
  by_cases he : e ∈ l
  · rw [List.lookup_graph _ he]
    cases c e <;> simp [he]
  · have : (l.map fun e => (e, (c e).toNat)).lookup e = none := List.lookup_eq_none_iff.2 fun p hp => by
      obtain ⟨j, hj, rfl⟩ := List.mem_map.1 hp
      have : e ≠ j := fun h => he (h ▸ hj)
      simpa using this
    rw [this]
    simp [he]

theorem cmpEl_fst (c : Ctl) (el : Elem) (a b : Nat) (r r' : Raise) : (cmpEl c el a b r).1 = (cmpEl c el a b r').1 := by
  cases el <;> rfl

theorem Raise.int_fl (r : Raise) (el : Elem) (uns : Bool) (code : Nat) : (r.int el uns code).2.fl = r.fl := by
  simp only [Raise.int]
  split <;> rfl

theorem cmpEl_fl (c : Ctl) (el : Elem) (a b : Nat) (r : Raise) : (cmpEl c el a b r).2.fl = r.fl := by
  cases el with
  | f f => rfl
  | i w => exact (Raise.int_fl _ _ _ _).trans (Raise.int_fl _ _ _ _)
  | tern => exact (Raise.int_fl _ _ _ _).trans (Raise.int_fl _ _ _ _)

/-- What a comparison finds of the enabled elements of two operands. -/
def State.cmpEls (s : State) (f : Option Int → Bool) (pm : BitVec 4) (xs : List Nat) (r : Raise) : List (Nat × Nat) × Raise :=
  mapEls (s.on pm) (fun e r =>
    let v := cmpEl s.ctl s.elem (elt (fmtWidth (bitsOf s.me.fmt 3 0)) (xs.getD 0 0) e) (elt (fmtWidth (bitsOf s.me.fmt 3 0)) (xs.getD 1 0) e) r
    ((f v.1).toNat, v.2)) (512 / fmtWidth (bitsOf s.me.fmt 3 0)) 0 r

/-- An enabled element compares as asked. -/
def State.cmpBit (s : State) (f : Option Int → Bool) (xs : List Nat) (e : Nat) : Bool :=
  f (cmpEl s.ctl s.elem (elt (fmtWidth (bitsOf s.me.fmt 3 0)) (xs.getD 0 0) e) (elt (fmtWidth (bitsOf s.me.fmt 3 0)) (xs.getD 1 0) e) {}).1

theorem State.cmpEls_spec (s : State) (f : Option Int → Bool) (pm : BitVec 4) (xs : List Nat) (r : Raise) :
    (s.cmpEls f pm xs r).2.fl = r.fl ∧ ∀ e, (packEls 1 (s.cmpEls f pm xs r).1).2.testBit e =
      (decide (e < 512 / fmtWidth (bitsOf s.me.fmt 3 0)) && s.on pm e && s.cmpBit f xs e) := by
  constructor
  · exact mapEls_snd_induction (P := fun q => q.fl = r.fl) (fun e q hq => (cmpEl_fl _ _ _ _ q).trans hq) _ _ _ rfl
  · intro e
    have hels := mapEls_fst (on := s.on pm) (c := fun e => (s.cmpBit f xs e).toNat)
      (f := fun e r =>
        let v := cmpEl s.ctl s.elem (elt (fmtWidth (bitsOf s.me.fmt 3 0)) (xs.getD 0 0) e)
          (elt (fmtWidth (bitsOf s.me.fmt 3 0)) (xs.getD 1 0) e) r
        ((f v.1).toNat, v.2))
      (fun e q => congrArg (fun v => (f v).toNat) (cmpEl_fst _ _ _ _ q {})) (512 / fmtWidth (bitsOf s.me.fmt 3 0)) 0 r
    rw [State.cmpEls, hels, testBit_packEls_map _ (List.Nodup.filter _ List.nodup_range')]
    simp

/-- A predicate written with the elements named. -/
def putPred (vd : BitVec 4) (els : List (Nat × Nat)) (k : Core) : Core :=
  { k with q := fset k.q vd.toNat (BitVec.ofNat 128 (packEls 1 els).2) }

theorem cmpEff_pinned (s : State) (f : Option Int → Bool) (vd a b pm : BitVec 4) : cmpEff f vd a b pm s.envOf s.pinned =
    withBlocks (s.on pm) [s.src a, s.src b] none 0 0
      (fun xs _ ps r t => vecDone ps (s.cmpEls f pm xs r).2 (t.modMe (putPred vd (s.cmpEls f pm xs r).1))) s.pinned := by
  rw [cmpEff, s.on_pinned, s.ctl_pinned, s.elem_pinned, s.fmt_pinned]
  rfl

/-- A comparison writes one predicate (R161). -/
theorem exec_cmp {i : Instr} {s : State} {vd vs1 vs2 pm : BitVec 4} {bs : List (List Blk)} {f : Option Int → Bool}
    (hex : exec i s = .next (longChk i (fmtChk i (elemChk isFI)) (cmpEff f vd vs1 vs2 pm) s)) (hp : i.pins = true)
    (hx : isFI (bitsOf s.me.fmt 3 0) = true) (h : s.VecReady i [s.src vs1, s.src vs2] 0 0 .wr bs []) :
    ∃ t r, exec i s = .next t ∧ s.VecDone t (s.ptrsAfter [s.src vs1, s.src vs2] 0 0) r ∧ r.fl = 0 ∧ (∀ j, t.g j = s.g j) ∧
      t.me.va = s.me.va ∧ (∀ a, t.byte a = s.byte a) ∧ (∀ k, k ≠ vd.toNat → fget 0 t.me.q k = fget 0 s.me.q k) ∧
      ∀ e, e < 128 → (fget (0 : BitVec 128) t.me.q vd.toNat).getLsbD e =
        (decide (e < 512 / fmtWidth (bitsOf s.me.fmt 3 0)) && s.on pm e && s.cmpBit f (bs.map s.value) e) := by
  obtain ⟨u, hu, hw⟩ := withBlocks_ready h (srcs' := [s.src vs1, s.src vs2]) rfl (s.on pm) none rfl
    fun xs _ ps r t => vecDone ps (s.cmpEls f pm xs r).2 (t.modMe (putPred vd (s.cmpEls f pm xs r).1))
  have hbs : bs ++ (if (none : Option Nat).isSome then [[]] else []) = bs := List.append_nil bs
  rw [hbs] at hw
  obtain ⟨hfl, hbit⟩ := s.cmpEls_spec f pm (bs.map s.value) s.calm
  have hv := (s.vecMid_pinned.touched hu.touched).modMe (f := putPred vd (s.cmpEls f pm (bs.map s.value) s.calm).1) fun _ => rfl
  have hme : u.me = { s.me with ctxs := u.me.ctxs } := by rw [hu.me_eq, ← s.me_pinned]
  refine ⟨_, _, ?_, hv.vecDone _ _, hfl, hv.g_vecEnd _ _, ?_, fun a => ?_, fun k hk => ?_, fun e he => ?_⟩
  · rw [hex, longChk_none (fmtChk_none hx), longOp_vecDone h.toReadyUnit hp ((cmpEff_pinned s f vd vs1 vs2 pm).trans hw) hv]
  · rw [State.me_vecEnd, State.me_modMe, hme]
    rfl
  · rw [State.byte_vecEnd]
    exact (hu.sameView.byte a).trans (s.sameView_pinned.byte a)
  · rw [State.me_vecEnd, State.me_modMe, hme]
    exact fget_fset_ne _ _ _ _ _ hk
  · rw [State.me_vecEnd, State.me_modMe]
    change (fget (0 : BitVec 128) (fset u.me.q vd.toNat _) vd.toNat).getLsbD e = _
    rw [fget_fset_self, BitVec.getLsbD_ofNat, decide_eq_true he, Bool.true_and, hbit]

/-- Settles O23: selections, permutations and broadcasts write elements, comparisons a predicate. -/
theorem vectorSelectsAndCompares : Obligations.VectorSelectsAndCompares := by
  constructor
  · intro vd vs1 vs2 pm s bs ds x w src v sel read some'
    refine ⟨fun hx h => ?sel, fun hx h => ?perm, fun hx h => ?bcast⟩
    case sel =>
      have hv := exec_vsel hx h
      simp only [Raise.moved_eq] at hv
      have hz : ∀ n, s.calm.sub + n = n := Nat.zero_add
      rw [mapEls_counted (fun e => movedCode s.elem s.ctl.uns (sel e)), ← List.range_eq_range', hz] at hv
      exact hv
    case perm =>
      have hv := exec_vperm hx h
      rwa [mapEls_pure (s.on pm)] at hv
    case bcast =>
      have hv := exec_vbcast hx h
      rwa [mapEls_pure (s.on pm)] at hv
  · intro i vd vs1 vs2 pm s bs test x w src hi hx h rel
    obtain ⟨p, q, rfl⟩ := List.length_eq_two.1 h.toVecSet.length
    have hof : ∀ {f : Option Int → Bool}, exec i s = .next (longChk i (fmtChk i (elemChk isFI)) (cmpEff f vd vs1 vs2 pm) s) →
        i.pins = true → f = test → _ := fun hex hp hf => hf ▸ exec_cmp hex hp hx h
    rcases hi with ⟨rfl, ht⟩ | ⟨rfl, ht⟩ | ⟨rfl, ht⟩ | ⟨rfl, ht⟩
    · exact hof rfl rfl (ht ▸ funext fun v => by cases v <;> rfl)
    · exact hof rfl rfl (ht ▸ funext fun v => by cases v <;> rfl)
    · exact hof rfl rfl (ht ▸ funext fun v => by cases v <;> rfl)
    · exact hof rfl rfl (ht ▸ funext fun v => by cases v <;> rfl)

end Sys2Proof.Machine
end

section
/-! Reductions into va and the block-scaled dot product (R166, R167). -/

namespace Sys2Proof.Machine
open Sys2Proof

/-! ### Lanes -/

theorem fmtWidth_accCode (fmt : Word) : fmtWidth (accCode fmt) = 32 ∨ fmtWidth (accCode fmt) = 64 := by
  unfold accCode
  split <;> decide

theorem fmtWidth_accCode_le (fmt : Word) : fmtWidth (accCode fmt) ≤ 64 := by
  rcases fmtWidth_accCode fmt with h | h <;> omega

theorem lane_setLane (k : Core) (l v j : Nat) : (k.setLane l v).lane j = if j = l then v % 2 ^ fmtWidth (accCode k.fmt) else k.lane j := by
  rw [Core.lane, Core.setLane, fget_fset]
  by_cases h : j = l
  · rw [if_pos h, if_pos h, w64, BitVec.toNat_ofNat, Nat.mod_mod_of_dvd _ (Nat.pow_dvd_pow 2 (fmtWidth_accCode_le k.fmt))]
  · rw [if_neg h, if_neg h, Core.lane]

theorem lane_mod (k : Core) (l : Nat) : k.lane l % 2 ^ fmtWidth (accCode k.fmt) = k.lane l := Nat.mod_mod _ _

/-- One lane of a reduction: as it was where no term falls to it. -/
def laneAfter {α : Type} (g : Nat → List α → Nat) (cur : Nat) (t : List α) : Nat := if t.isEmpty then cur else g cur t

section
variable {α : Type} {ts : List (Nat × α)} {f : Nat → List α → Raise → Nat × Raise} {g : Nat → List α → Nat}

/-- One step of a reduction of the core k: a lane is updated from its terms. -/
def laneStep (k : Core) (ts : List (Nat × α)) (f : Nat → List α → Raise → Nat × Raise) (a : Core × Raise) (l : Nat) : Core × Raise :=
  let t := laneTerms l ts
  if t.isEmpty then a
  else
    let v := f (k.lane l) t a.2
    (a.1.setLane l v.1, v.2)

theorem lanesUpd_eq (k : Core) (r : Raise) : lanesUpd ts f k r = (List.range 32).foldl (laneStep k ts f) (k, r) := by
  rw [lanesUpd]
  rfl

variable (hf : ∀ cur t r, (f cur t r).1 = g cur t) (k : Core)
include hf

theorem laneStep_spec (a : Core × Raise) (l : Nat) (ha : a.1.lane l = k.lane l) :
    (laneStep k ts f a l).1 = { a.1 with va := (laneStep k ts f a l).1.va } ∧ ∀ j, (laneStep k ts f a l).1.lane j =
      if j = l then laneAfter g (k.lane l) (laneTerms l ts) % 2 ^ fmtWidth (accCode a.1.fmt) else a.1.lane j := by
  by_cases h : (laneTerms l ts).isEmpty = true
  · simp only [laneStep, laneAfter, if_pos h]
    refine ⟨trivial, fun j => ?_⟩
    split
    · next hj => rw [← ha, lane_mod, hj]
    · rfl
  · simp only [laneStep, laneAfter, if_neg h]
    exact ⟨rfl, fun j => by rw [lane_setLane, hf]⟩

theorem lanesFold_spec (ls : List Nat) (hls : ls.Nodup) (a : Core × Raise) (ha : ∀ l ∈ ls, a.1.lane l = k.lane l) :
    (ls.foldl (laneStep k ts f) a).1 = { a.1 with va := (ls.foldl (laneStep k ts f) a).1.va } ∧
    ∀ j, (ls.foldl (laneStep k ts f) a).1.lane j =
      if j ∈ ls then laneAfter g (k.lane j) (laneTerms j ts) % 2 ^ fmtWidth (accCode a.1.fmt) else a.1.lane j := by
  induction ls generalizing a with
  | nil => exact ⟨rfl, fun j => by simp⟩
  | cons l ls ih =>
    obtain ⟨hl, hls⟩ := List.nodup_cons.1 hls
    obtain ⟨h1, h2⟩ := laneStep_spec (ts := ts) hf k a l (ha l (by simp))
    have hkeep : ∀ j ∈ ls, (laneStep k ts f a l).1.lane j = k.lane j := fun j hj => by
      rw [h2, if_neg (fun h : j = l => hl (h ▸ hj)), ha j (by simp [hj])]
    obtain ⟨i1, i2⟩ := ih hls (laneStep k ts f a l) hkeep
    have hfmt : (laneStep k ts f a l).1.fmt = a.1.fmt := by rw [h1]
    rw [List.foldl_cons]
    constructor
    · rw [i1, h1]
    · intro j
      rw [i2 j, h2 j, hfmt]
      by_cases hj : j = l
      · subst hj
        simp [hl]
      · simp [hj]

/-- Every lane that a term falls to is updated from its terms. -/
theorem lanesUpd_spec (r : Raise) : (lanesUpd ts f k r).1 = { k with va := (lanesUpd ts f k r).1.va } ∧
    ∀ l, l < 32 → (lanesUpd ts f k r).1.lane l = laneAfter g (k.lane l) (laneTerms l ts) % 2 ^ fmtWidth (accCode k.fmt) := by
  obtain ⟨h1, h2⟩ := lanesFold_spec (ts := ts) hf k (List.range 32) List.nodup_range (k, r) fun _ _ => rfl
  rw [lanesUpd_eq]
  exact ⟨h1, fun l hl => (h2 l).trans (if_pos (List.mem_range.2 hl))⟩

end

/-- The terms that fall to a lane, of the enabled elements. -/
theorem laneTerms_map {α : Type} (on : Nat → Bool) (c : Nat → α) (n l : Nat) :
    laneTerms l (((List.range n).filter on).map fun e => (e, c e)) = ((List.range n).filter fun e => on e && e % 32 == l).map c := by
  rw [laneTerms, List.filter_map, List.map_map, List.filter_filter]
  refine congrArg₂ _ rfl (List.filter_congr fun e _ => ?_)
  exact Bool.and_comm _ _

/-! ### Values and products of elements -/

theorem valsI_fst (el : Elem) (uns : Bool) (w x : Nat) (on : Nat → Bool) (r : Raise) :
    (valsI el uns w x on r).1 = ((List.range (512 / w)).filter on).map fun e => (e, (intVal el uns (elt w x e)).1) := by
  have hgen : ∀ (l : List Nat) (a : List (Nat × Int) × Raise), (l.foldl (fun (a : List (Nat × Int) × Raise) e =>
      let v := a.2.int el uns (elt w x e)
      (a.1 ++ [(e, v.1)], v.2)) a).1 = a.1 ++ l.map fun e => (e, (intVal el uns (elt w x e)).1) := by
    intro l
    induction l with
    | nil => intro a; simp
    | cons e l ih => intro a; rw [List.foldl_cons, ih]; simp [Raise.int]
  exact (hgen _ _).trans (List.nil_append _)

theorem products_map (l : List Nat) (a b : Nat → Fv) : (products (l.map a) (l.map b)).1 = l.map fun e => ((a e).mul (b e)).1 := by
  induction l with
  | nil => rfl
  | cons e l ih => simp [products, ih]

/-! ### A reduction as a whole -/

section
variable {i : Instr} {eff : Eff} {s : State} {srcs srcs' : List Src} {pm : BitVec 4} {bs : List (List Blk)}

/-- An instruction that reads its sources and then changes va by what it read. -/
theorem longOp_withBlocks_va (h : s.VecReady i srcs 0 0 .wr bs []) (hp : i.pins = true)
    (hs : srcs'.map (fun a => (a.k, a.n)) = srcs.map fun a => (a.k, a.n)) {U : List Nat → Raise → Core → Core × Raise}
    (he : eff s.envOf s.pinned = withBlocks (s.on pm) srcs' none 0 0
      (fun xs _ ps r t => vecDone ps (U xs r t.me).2 (t.modMe fun k => (U xs r k).1)) s.pinned)
    (hU : ∀ xs r k, (U xs r k).1 = { k with va := (U xs r k).1.va }) :
    ∃ t r k, (.next (longOp i eff s) : Out) = .next t ∧ s.VecDone t (s.ptrsAfter srcs 0 0) r ∧ (∀ j, t.g j = s.g j) ∧ t.me.q = s.me.q ∧
      (∀ a, t.byte a = s.byte a) ∧ k = { s.me with ctxs := k.ctxs } ∧ t.me.va = (U (bs.map s.value) s.calm k).1.va := by
  obtain ⟨u, hu, hw⟩ := withBlocks_ready h hs (s.on pm) none rfl
    fun xs _ ps r t => vecDone ps (U xs r t.me).2 (t.modMe fun k => (U xs r k).1)
  have hbs : bs ++ (if (none : Option Nat).isSome then [[]] else []) = bs := List.append_nil bs
  rw [hbs] at hw
  have hv := (s.vecMid_pinned.touched hu.touched).modMe (f := fun k => (U (bs.map s.value) s.calm k).1) fun k => by rw [hU]
  have hme : u.me = { s.me with ctxs := u.me.ctxs } := by rw [hu.me_eq, ← s.me_pinned]
  refine ⟨_, _, u.me, congrArg _ (longOp_vecDone h.toReadyUnit hp (he.trans hw) hv), hv.vecDone _ _, hv.g_vecEnd _ _, ?_, fun a => ?_, hme, ?_⟩
  · rw [State.me_vecEnd, State.me_modMe, hU, hme]
  · rw [State.byte_vecEnd]
    exact (hu.sameView.byte a).trans (s.sameView_pinned.byte a)
  · rw [State.me_vecEnd, State.me_modMe]

/-- An instruction that updates the lanes of va from terms of the enabled elements. -/
theorem longOp_lanes {α : Type} (h : s.VecReady i srcs 0 0 .wr bs []) (hp : i.pins = true)
    (hs : srcs'.map (fun a => (a.k, a.n)) = srcs.map fun a => (a.k, a.n)) {T : List Nat → Raise → List (Nat × α) × Raise}
    {f : Nat → List α → Raise → Nat × Raise} {g : Nat → List α → Nat} {c : Nat → α} {n : Nat}
    (he : eff s.envOf s.pinned = withBlocks (s.on pm) srcs' none 0 0 (fun xs _ ps r t =>
      vecDone ps (lanesUpd (T xs r).1 f t.me (T xs r).2).2 (t.modMe fun k => (lanesUpd (T xs r).1 f k (T xs r).2).1)) s.pinned)
    (hT : (T (bs.map s.value) s.calm).1 = ((List.range n).filter (s.on pm)).map fun e => (e, c e))
    (hf : ∀ cur t r, (f cur t r).1 = g cur t) :
    ∃ t r, (.next (longOp i eff s) : Out) = .next t ∧ s.VecDone t (s.ptrsAfter srcs 0 0) r ∧ (∀ j, t.g j = s.g j) ∧ t.me.q = s.me.q ∧
      (∀ a, t.byte a = s.byte a) ∧ ∀ l, l < 32 → t.me.lane l =
        laneAfter g (s.me.lane l) (((List.range n).filter fun e => s.on pm e && e % 32 == l).map c) % 2 ^ fmtWidth (accCode s.me.fmt) := by
  obtain ⟨t, r, k, hex, hdone, hg, hq, hb, hk, hva⟩ := longOp_withBlocks_va h hp hs he fun xs r k => (lanesUpd_spec hf k _).1
  refine ⟨t, r, hex, hdone, hg, hq, hb, fun l hl => ?_⟩
  obtain ⟨-, hlanes⟩ := lanesUpd_spec (ts := (T (bs.map s.value) s.calm).1) hf k (T (bs.map s.value) s.calm).2
  have hfmt : k.fmt = s.me.fmt := by rw [hk]
  have hfmt' : (lanesUpd (T (bs.map s.value) s.calm).1 f k (T (bs.map s.value) s.calm).2).1.fmt = s.me.fmt := by
    rw [(lanesUpd_spec hf k _).1, hfmt]
  have hlane : t.me.lane l = (lanesUpd (T (bs.map s.value) s.calm).1 f k (T (bs.map s.value) s.calm).2).1.lane l := by
    rw [Core.lane, Core.lane, hva, hfmt', hdone.me]
  have hcur : k.lane l = s.me.lane l := by rw [hk]; rfl
  rw [hlane, hlanes l hl, hT, laneTerms_map, hfmt, hcur]

end

/-- The format of F lanes. -/
def laneFmt (fmt : Word) : FpFmt := if fmtWidth (accCode fmt) = 64 then fp64 else fp32

/-- The exact terms of F elements: their values, or the products of two operands'. -/
def State.termsF (s : State) (f : FpFmt) (pm : BitVec 4) (len : Nat) (xs : List Nat) (r : Raise) : List (Nat × Fv) × Raise :=
  let w := fmtWidth (bitsOf s.me.fmt 3 0)
  let a := valsF f w (xs.getD 0 0) (s.on pm)
  let t : List (Nat × Fv) × Flags := if len = 1 then (a, 0)
    else
      let p := products (a.map (·.2)) ((valsF f w (xs.getD 1 0) (s.on pm)).map (·.2))
      ((a.map (·.1)).zip p.1, p.2)
  (t.1, r.flag t.2)

/-- The exact terms of I elements. -/
def State.termsI (s : State) (pm : BitVec 4) (len : Nat) (xs : List Nat) (r : Raise) : List (Nat × Int) × Raise :=
  let w := fmtWidth (bitsOf s.me.fmt 3 0)
  let a := valsI s.elem s.ctl.uns w (xs.getD 0 0) (s.on pm) r
  if len = 1 then a
  else
    let b := valsI s.elem s.ctl.uns w (xs.getD 1 0) (s.on pm) a.2
    ((a.1.zip b.1).map (fun p => (p.1.1, p.1.2 * p.2.2)), b.2)

section
variable {s : State} {ks : List (BitVec 4)} {pm : BitVec 4} {ff : FpFmt → Nat → List Fv → Raise → Nat × Raise}
  {fi : Nat → Nat → List Int → Raise → Nat × Raise}

theorem reduceEff_pinned_f {f : FpFmt} (hel : s.elem = .f f) : reduceEff ks pm ff fi s.envOf s.pinned =
    withBlocks (s.on pm) (ks.map s.src) none 0 0 (fun xs _ ps r t =>
      vecDone ps (lanesUpd (s.termsF f pm ks.length xs r).1 (ff (laneFmt s.me.fmt)) t.me (s.termsF f pm ks.length xs r).2).2
        (t.modMe fun k => (lanesUpd (s.termsF f pm ks.length xs r).1 (ff (laneFmt s.me.fmt)) k (s.termsF f pm ks.length xs r).2).1))
      s.pinned := by
  rw [reduceEff, s.on_pinned, s.ctl_pinned, s.elem_pinned, s.fmt_pinned, hel]
  rfl

theorem reduceEff_pinned_i (hel : ∀ f, s.elem ≠ .f f) : reduceEff ks pm ff fi s.envOf s.pinned =
    withBlocks (s.on pm) (ks.map s.src) none 0 0 (fun xs _ ps r t =>
      vecDone ps (lanesUpd (s.termsI pm ks.length xs r).1 (fi (fmtWidth (accCode s.me.fmt))) t.me (s.termsI pm ks.length xs r).2).2
        (t.modMe fun k => (lanesUpd (s.termsI pm ks.length xs r).1 (fi (fmtWidth (accCode s.me.fmt))) k
          (s.termsI pm ks.length xs r).2).1)) s.pinned := by
  simp only [State.termsI]
  rw [reduceEff, s.on_pinned, s.ctl_pinned, s.elem_pinned, s.fmt_pinned]
  cases he : s.elem with
  | f f => exact absurd he (hel f)
  | i w => rfl
  | tern => rfl

variable {p q : List Blk} (f : FpFmt)

theorem termsF_one (r : Raise) : (s.termsF f pm 1 ([p].map s.value) r).1 =
    ((List.range (512 / fmtWidth (bitsOf s.me.fmt 3 0))).filter (s.on pm)).map fun e =>
      (e, f.value (elt (fmtWidth (bitsOf s.me.fmt 3 0)) (s.value p) e)) := rfl

theorem termsF_two (r : Raise) : (s.termsF f pm 2 ([p, q].map s.value) r).1 =
    ((List.range (512 / fmtWidth (bitsOf s.me.fmt 3 0))).filter (s.on pm)).map fun e =>
      (e, ((f.value (elt (fmtWidth (bitsOf s.me.fmt 3 0)) (s.value p) e)).mul
        (f.value (elt (fmtWidth (bitsOf s.me.fmt 3 0)) (s.value q) e))).1) := by
  have hkeys : ∀ (l : List Nat) (g : Nat → Fv), (l.map fun e => (e, g e)).map (·.1) = l ∧ (l.map fun e => (e, g e)).map (·.2) = l.map g :=
    fun l g => by simp [Function.comp_def]
  simp only [State.termsF, valsF, (hkeys _ _).1, (hkeys _ _).2, products_map, OfNat.ofNat_ne_one, if_false]
  rw [List.map_prod_left_eq_zip]
  rfl

theorem termsI_one (r : Raise) : (s.termsI pm 1 ([p].map s.value) r).1 =
    ((List.range (512 / fmtWidth (bitsOf s.me.fmt 3 0))).filter (s.on pm)).map fun e =>
      (e, (intVal s.elem s.ctl.uns (elt (fmtWidth (bitsOf s.me.fmt 3 0)) (s.value p) e)).1) := valsI_fst _ _ _ _ _ _

theorem termsI_two (r : Raise) : (s.termsI pm 2 ([p, q].map s.value) r).1 =
    ((List.range (512 / fmtWidth (bitsOf s.me.fmt 3 0))).filter (s.on pm)).map fun e =>
      (e, (intVal s.elem s.ctl.uns (elt (fmtWidth (bitsOf s.me.fmt 3 0)) (s.value p) e)).1 *
        (intVal s.elem s.ctl.uns (elt (fmtWidth (bitsOf s.me.fmt 3 0)) (s.value q) e)).1) := by
  have hzip : ∀ (l : List Nat) (a b : Nat → Int), ((l.map fun e => (e, a e)).zip (l.map fun e => (e, b e))).map
      (fun p => (p.1.1, p.1.2 * p.2.2)) = l.map fun e => (e, a e * b e) := fun l a b => by
    rw [List.zip_map', List.map_map]
    rfl
  simp only [State.termsI, valsI_fst, OfNat.ofNat_ne_one, if_false]
  exact hzip _ _ _

end

theorem laneAfter_map {α : Type} (g : Nat → List α → Nat) (cur : Nat) (l : List Nat) (c : Nat → α) :
    laneAfter g cur (l.map c) = if l = [] then cur else g cur (l.map c) := by
  simp [laneAfter]

/-- What a reduction leaves: va's lanes are L, of the enabled elements' terms. -/
def State.Reduced (s : State) (i : Instr) (srcs : List Src) (L : Nat → Nat) : Prop :=
  ∃ t r, exec i s = .next t ∧ s.VecDone t (s.ptrsAfter srcs 0 0) r ∧ (∀ j, t.g j = s.g j) ∧ t.me.q = s.me.q ∧
    (∀ a, t.byte a = s.byte a) ∧ ∀ l, l < 32 → t.me.lane l = L l % 2 ^ fmtWidth (accCode s.me.fmt)

/-- The enabled elements that fall to a lane. -/
def State.laneEls (s : State) (pm : BitVec 4) (l : Nat) : List Nat :=
  (List.range (512 / fmtWidth (bitsOf s.me.fmt 3 0))).filter fun e => s.on pm e && e % 32 == l

section
variable {i : Instr} {eff : Eff} {s : State} {ks : List (BitVec 4)} {pm : BitVec 4} {ff : FpFmt → Nat → List Fv → Raise → Nat × Raise}
  {fi : Nat → Nat → List Int → Raise → Nat × Raise} {bs : List (List Blk)} {L : Nat → Nat}
variable (hex : exec i s = .next (longChk i (fmtChk i redChk) eff s)) (hp : i.pins = true) (hok : redChk s.me.fmt = true)
  (he : eff s.envOf s.pinned = reduceEff ks pm ff fi s.envOf s.pinned) (h : s.VecReady i (ks.map s.src) 0 0 .wr bs [])
include hex hp hok he h

/-- A reduction of F elements (R166). -/
theorem reduced_f {f : FpFmt} (hel : s.elem = .f f) {c : Nat → Fv} {g : Nat → List Fv → Nat}
    (hT : (s.termsF f pm ks.length (bs.map s.value) s.calm).1 =
      ((List.range (512 / fmtWidth (bitsOf s.me.fmt 3 0))).filter (s.on pm)).map fun e => (e, c e))
    (hf : ∀ cur t r, (ff (laneFmt s.me.fmt) cur t r).1 = g cur t)
    (hL : ∀ l, L l = if s.laneEls pm l = [] then s.me.lane l else g (s.me.lane l) ((s.laneEls pm l).map c)) :
    s.Reduced i (ks.map s.src) L := by
  obtain ⟨t, r, ht, hd, hg, hq, hb, hl⟩ := longOp_lanes h hp rfl (he.trans (reduceEff_pinned_f hel)) hT hf
  refine ⟨t, r, ?_, hd, hg, hq, hb, fun l hlt => ?_⟩
  · rw [hex, longChk_none (fmtChk_none hok), ht]
  · rw [hl l hlt, hL, laneAfter_map, State.laneEls]

/-- A reduction of I elements (R166). -/
theorem reduced_i (hel : ∀ f, s.elem ≠ .f f) {c : Nat → Int} {g : Nat → List Int → Nat}
    (hT : (s.termsI pm ks.length (bs.map s.value) s.calm).1 =
      ((List.range (512 / fmtWidth (bitsOf s.me.fmt 3 0))).filter (s.on pm)).map fun e => (e, c e))
    (hf : ∀ cur t r, (fi (fmtWidth (accCode s.me.fmt)) cur t r).1 = g cur t)
    (hL : ∀ l, L l = if s.laneEls pm l = [] then s.me.lane l else g (s.me.lane l) ((s.laneEls pm l).map c)) :
    s.Reduced i (ks.map s.src) L := by
  obtain ⟨t, r, ht, hd, hg, hq, hb, hl⟩ := longOp_lanes h hp rfl (he.trans (reduceEff_pinned_i hel)) hT hf
  refine ⟨t, r, ?_, hd, hg, hq, hb, fun l hlt => ?_⟩
  · rw [hex, longChk_none (fmtChk_none hok), ht]
  · rw [hl l hlt, hL, laneAfter_map, State.laneEls]

end

/-- An integer sum as a lane's code: wrapped at 64 bits, saturated at 32 (R67). -/
theorem sumI_fst (uns : Bool) (w cur : Nat) (ts : List Int) (r : Raise) : (sumI uns w cur ts r).1 =
    if w = 64 then codeI 64 ((intVal (.i w) uns cur).1 + ts.sum)
    else codeI w (clampI (intLo (.i w) uns) (intHi (.i w) uns) ((intVal (.i w) uns cur).1 + ts.sum)) := by
  rw [sumI, laneAdd, List.sum_eq_foldl]
  split <;> rfl

/-! ### The block-scaled dot product -/

/-- The value of an element in a scaled sum, 0 where it is disabled (R167). -/
def scaledVal (el : Elem) (uns : Bool) (w x : Nat) (on : Nat → Bool) (e : Nat) : Fv :=
  if on e then (match el with
    | .f f => f.value (elt w x e)
    | el => Fv.ofInt (intVal el uns (elt w x e)).1) else .fin false 0 0

theorem valsS_fst (el : Elem) (uns : Bool) (w x : Nat) (on : Nat → Bool) (r : Raise) :
    (valsS el uns w x on r).1 = (List.range (512 / w)).map (scaledVal el uns w x on) := by
  have hval : ∀ e (r : Raise), on e = true → (r.val el uns (elt w x e)).1 = scaledVal el uns w x on e := fun e r ho => by
    unfold scaledVal
    rw [if_pos ho]
    cases el <;> rfl
  have hgen : ∀ (l : List Nat) (a : List Fv × Raise), (l.foldl (fun (a : List Fv × Raise) e =>
      if on e then
        let v := a.2.val el uns (elt w x e)
        (a.1 ++ [v.1], v.2)
      else (a.1 ++ [.fin false 0 0], a.2)) a).1 = a.1 ++ l.map (scaledVal el uns w x on) := by
    intro l
    induction l with
    | nil => intro a; simp
    | cons e l ih =>
      intro a
      rw [List.foldl_cons, ih]
      by_cases ho : on e = true
      · simp [ho, hval]
      · have hz : scaledVal el uns w x on e = .fin false 0 0 := if_neg ho
        simp [ho, hz]
  exact (hgen _ _).trans (List.nil_append _)

/-- The running sum of R63 does not depend on what was raised before. -/
theorem blockSums_fst (bl sfmt : Nat) (sa sb : Nat → Fv) (n b : Nat) (as bs : List Fv) (acc : Option Nat) (r r' : Raise) :
    (blockSums bl sfmt sa sb n b as bs acc r).1 = (blockSums bl sfmt sa sb n b as bs acc r').1 := by
  induction n generalizing b as bs acc r r' with
  | zero => rfl
  | succ n ih =>
    by_cases hn : ((sa b).isNaN || (sb b).isNaN) = true
    · simp only [blockSums, if_pos hn]
      cases acc <;> exact ih _ _ _ _ _ _
    · simp only [blockSums, if_neg hn]
      cases acc <;> exact ih _ _ _ _ _ _

theorem scaledSum_fst (bl sfmt nb : Nat) (sa sb : Nat → Fv) (tsc : Word) (as bs : List Fv) (r : Raise) :
    (scaledSum bl sfmt nb sa sb tsc as bs r).1 = (scaledSum bl sfmt nb sa sb tsc as bs {}).1 := by
  have h := blockSums_fst bl sfmt sa sb nb 0 as bs none r {}
  simp only [scaledSum, Raise.near, Raise.take, h]

/-- va with its lane 0 added to by a scaled sum (R63, R167). -/
def State.dotS (s : State) (pm : BitVec 4) (ra rb : List Word) (xs : List Nat) (r : Raise) (k : Core) : Core × Raise :=
  let w := fmtWidth (bitsOf s.me.fmt 3 0)
  let sf := bitsOf s.me.fmt 9 8
  let a := valsS s.elem s.ctl.uns w (xs.getD 0 0) (s.on pm) r
  let b := valsS s.elem s.ctl.uns w (xs.getD 1 0) (s.on pm) a.2
  let t := scaledSum (blkLen s.me.fmt) sf (vecNb s.me.fmt) (scaleOf sf ra) (scaleOf sf rb) k.tsc a.1 b.1 b.2
  let v := t.2.near (laneFmt s.me.fmt) (((laneFmt s.me.fmt).value (k.lane 0)).add rne (fp32.value t.1))
  (k.setLane 0 v.1, v.2)

/-- Scale registers of the two operands of vdot.s. -/
def State.dotRegs (s : State) (vd : BitVec 4) : List Word × List Word :=
  (if vd = 0 then [] else if vecNb s.me.fmt ≤ 8 then [s.g vd] else [s.g vd, s.g (vd + 1)],
    if vd = 0 then [] else if vecNb s.me.fmt ≤ 8 then [s.g (vd + 1)] else [s.g (vd + 2), s.g (vd + 3)])

theorem effVdotS_pinned (s : State) (vd a b pm : BitVec 4) : effVdotS vd a b pm s.envOf s.pinned =
    withBlocks (s.on pm) [s.src a, s.src b] none 0 0 (fun xs _ ps r t =>
      vecDone ps (s.dotS pm (s.dotRegs vd).1 (s.dotRegs vd).2 xs r t.me).2
        (t.modMe fun k => (s.dotS pm (s.dotRegs vd).1 (s.dotRegs vd).2 xs r k).1)) s.pinned := by
  rw [effVdotS, s.on_pinned, s.ctl_pinned, s.elem_pinned, s.fmt_pinned]
  rfl

theorem chkVdotS_none {i : Instr} {vd : BitVec 4} {s : State} (hok : sclChk s.me.fmt = true)
    (hr : vd ≠ 0 → vd.toNat + (if 8 < vecNb s.me.fmt then 4 else 2) ≤ 16) : chkVdotS i vd s = none := by
  rw [chkVdotS, fmtChk_none hok]
  refine if_neg fun ⟨h0, h16⟩ => ?_
  have := hr h0
  split at this <;> split at h16 <;> omega

/-- Settles O25: a reduction updates each lane from the terms that fall to it; the scaled dot product, lane 0. -/
theorem vectorReductions : Obligations.VectorReductions := by
  constructor
  · intro i vs1 vs2 pm s bs x w aw acc src srcs c els fv iv cur cf ci lim fit sumF hi hx hacc h
    have hok : redChk s.me.fmt = true := by rw [redChk, Bool.and_eq_true]; exact ⟨hx, beq_iff_eq.2 hacc⟩
    rcases hi with rfl | rfl | rfl | rfl
    · obtain ⟨p, q, rfl⟩ := List.length_eq_two.1 h.toVecSet.length
      have he : effVdot vs1 vs2 pm s.envOf s.pinned = reduceEff [vs1, vs2] pm sumLaneF (sumI s.ctl.uns) s.envOf s.pinned := by
        rw [effVdot, s.ctl_pinned]
      cases hel : s.elem with
      | f f => exact reduced_f rfl rfl hok he h hel (termsF_two f _) (fun _ _ _ => rfl) fun _ => rfl
      | i v => exact reduced_i rfl rfl hok he h (fun f => by rw [hel]; simp) (termsI_two _) (sumI_fst _ _) fun _ => rfl
      | tern => exact reduced_i rfl rfl hok he h (fun f => by rw [hel]; simp) (termsI_two _) (sumI_fst _ _) fun _ => rfl
    · obtain ⟨p, rfl⟩ := List.length_eq_one_iff.1 h.toVecSet.length
      have he : effVsum vs1 pm s.envOf s.pinned = reduceEff [vs1] pm sumLaneF (sumI s.ctl.uns) s.envOf s.pinned := by
        rw [effVsum, s.ctl_pinned]
      cases hel : s.elem with
      | f f => exact reduced_f rfl rfl hok he h hel (termsF_one f _) (fun _ _ _ => rfl) fun _ => rfl
      | i v => exact reduced_i rfl rfl hok he h (fun f => by rw [hel]; simp) (termsI_one _) (sumI_fst _ _) fun _ => rfl
      | tern => exact reduced_i rfl rfl hok he h (fun f => by rw [hel]; simp) (termsI_one _) (sumI_fst _ _) fun _ => rfl
    · obtain ⟨p, rfl⟩ := List.length_eq_one_iff.1 h.toVecSet.length
      have he : effVredMax vs1 pm s.envOf s.pinned = reduceEff [vs1] pm (redLaneF true)
          (fun w cur ts r => (redLaneI true s.ctl.uns w cur ts, r)) s.envOf s.pinned := by rw [effVredMax, s.ctl_pinned]
      cases hel : s.elem with
      | f f => exact reduced_f rfl rfl hok he h hel (termsF_one f _) (fun _ _ _ => rfl) fun _ => rfl
      | i v => exact reduced_i rfl rfl hok he h (fun f => by rw [hel]; simp) (termsI_one _) (fun _ _ _ => rfl) fun _ => rfl
      | tern => exact reduced_i rfl rfl hok he h (fun f => by rw [hel]; simp) (termsI_one _) (fun _ _ _ => rfl) fun _ => rfl
    · obtain ⟨p, rfl⟩ := List.length_eq_one_iff.1 h.toVecSet.length
      have he : effVredMin vs1 pm s.envOf s.pinned = reduceEff [vs1] pm (redLaneF false)
          (fun w cur ts r => (redLaneI false s.ctl.uns w cur ts, r)) s.envOf s.pinned := by rw [effVredMin, s.ctl_pinned]
      cases hel : s.elem with
      | f f => exact reduced_f rfl rfl hok he h hel (termsF_one f _) (fun _ _ _ => rfl) fun _ => rfl
      | i v => exact reduced_i rfl rfl hok he h (fun f => by rw [hel]; simp) (termsI_one _) (fun _ _ _ => rfl) fun _ => rfl
      | tern => exact reduced_i rfl rfl hok he h (fun f => by rw [hel]; simp) (termsI_one _) (fun _ _ _ => rfl) fun _ => rfl
  · intro vd vs1 vs2 pm s bs fmt x w acc src two ra rb val vals sum hx hacc hr h
    obtain ⟨p, q, rfl⟩ := List.length_eq_two.1 h.toVecSet.length
    have hok : sclChk s.me.fmt = true := by rw [sclChk, Bool.and_eq_true]; exact ⟨hx, hacc⟩
    obtain ⟨t, r, k, ht, hd, hg, hq, hb, hk, hva⟩ := longOp_withBlocks_va h rfl (srcs' := [s.src vs1, s.src vs2]) rfl
      (effVdotS_pinned s vd vs1 vs2 pm) fun _ _ _ => rfl
    have hlane : ∀ l, t.me.lane l = (s.dotS pm (s.dotRegs vd).1 (s.dotRegs vd).2 [s.value p, s.value q] s.calm k).1.lane l := fun l => by
      rw [Core.lane, Core.lane, hva, hd.me, hk]
      rfl
    refine ⟨t, r, ?_, hd, hg, hq, hb, fun l hl => ?_, ?_⟩
    · exact (congrArg _ (longChk_none (chkVdotS_none hok hr))).trans ht
    · rw [hlane, State.dotS, lane_setLane, if_neg (by omega), hk]
      rfl
    · have hregs : (s.dotRegs vd).1 = ra ∧ (s.dotRegs vd).2 = rb := by
        by_cases h8 : vecNb s.me.fmt ≤ 8
        · simp [State.dotRegs, ra, rb, two, fmt, h8, not_lt.2 h8]
        · simp [State.dotRegs, ra, rb, two, fmt, h8, lt_of_not_ge h8]
      have h0 : (List.range (512 / w)).map (scaledVal s.elem s.ctl.uns w (s.value p) (s.on pm)) = vals 0 := rfl
      have h1 : (List.range (512 / w)).map (scaledVal s.elem s.ctl.uns w (s.value q) (s.on pm)) = vals 1 := rfl
      rw [hlane, State.dotS, lane_setLane, if_pos rfl, hregs.1, hregs.2]
      simp only [valsS_fst, List.getD_cons_zero, List.getD_cons_succ]
      rw [scaledSum_fst, h0, h1, hk]
      rfl

end Sys2Proof.Machine
end

section
/-! The matrix products of R188: a step's check of earlier requests counts one operation more than the instruction's own at issue. -/

namespace Sys2Proof.Machine
open Sys2Proof

/-- A copy from the first line of valley store 0, held at the valley's node, accepted as operation 0. -/
def heldCopyOp : EngOp :=
  { ctx := 1000, order := 0, lix := none, job := .copy (.mem [{ va := 0x8000000000, ga := 0x8000000000, n := 64 }]) [] {} 0 true true }

/-- tshape of a 1 x 1 x 1 product of BF16 operands. -/
def unitShape : Word := 0x08800000

/-- Compute core 2 with a system strand and that line in a0; that copy is at the head of its engine's queue, and its next operation gets
the copy's number. -/
def heldCopySt : State :=
  { State.reset with cores := [(2, { ctxs := [(0, { pc := 0x1000, sys := true, life := .ready })], tvec := 0x2000, tshape := unitShape,
                                     ptr := [(0, { base := 0x8000000000, c1 := 64 })], eng := [heldCopyOp] })] }

/-- The product of the line in a0. -/
def lineProduct : Instr := .mma 0 0 0 0 0 0 0 0 0

theorem heldCopySt_ready : heldCopySt.MatReady lineProduct where
  pend := by decide
  found := by decide
  live := by decide
  awake := by decide
  replay := by decide
  moving := by decide
  seen := by decide
  assigned := by decide
  core := by decide
  mode := by decide
  fast := by decide
  idle := by decide
  alone := by decide
  nobody := by decide
  noBad := by decide
  noSoft := by decide
  noTags := by decide
  shape := by decide

theorem heldCopySt_waits : (match exec lineProduct heldCopySt with | .next t => t.st.pend.isEmpty | _ => true) = false := by decide

/-- At issue the copy counts as a later operation, so that nothing holds the line back. -/
theorem heldCopySt_through : heldCopySt.MatThrough lineProduct 0 1 .rd [{ va := 0x8000000000, ga := 0x8000000000 }] where
  toMatReady := heldCopySt_ready
  blks := by
    have h : (match heldCopySt.blks .rd ((ptrOf heldCopySt.me.ptr 0).run 1).1 with
      | .ok bs => decide (bs = [{ va := 0x8000000000, ga := 0x8000000000 }])
      | .error _ => false) = true := by decide
    split at h
    · next bs hbs => rw [hbs, of_decide_eq_true h]
    · exact absurd h Bool.false_ne_true
  quiet := by decide
  disjoint := List.pairwise_singleton _ _

/-- Refutes O30: the line is free at issue, where the number of the product itself is the first that does not count as earlier; its first
step, taken with the next number, finds the copy of that number held at the valley's node, and waits. -/
theorem not_matrixProducts : ¬ Obligations.MatrixProducts := by
  intro h
  obtain ⟨u, hu, -, -, hpend, -⟩ := h lineProduct 0 0 0 0 0 0 0 0 heldCopySt _ (Or.inl rfl) (by decide)
    (fun h => absurd h (by decide)) heldCopySt_through
  have hwaits := heldCopySt_waits
  rw [hu] at hwaits
  simp [hpend] at hwaits

end Sys2Proof.Machine
end

section
/-! One step of the operation whose turn it is, and what each of its answers leaves (R182, R184). -/

namespace Sys2Proof.Machine
open Sys2Proof

/-! ### Whose turn it is -/

theorem mem_pendInsert {e d : Nat × Pend} {l : List (Nat × Pend)} : d ∈ pendInsert e l ↔ d = e ∨ d ∈ l := by
  induction l with
  | nil => simp [pendInsert]
  | cons a l ih =>
    unfold pendInsert
    split
    · simp
    · rw [List.mem_cons, ih, List.mem_cons]
      tauto

theorem mem_foldl_pendInsert {d : Nat × Pend} {l acc : List (Nat × Pend)} :
    d ∈ l.foldl (fun l e => pendInsert e l) acc ↔ d ∈ l ∨ d ∈ acc := by
  induction l generalizing acc with
  | nil => simp
  | cons a l ih =>
    rw [List.foldl_cons, ih, mem_pendInsert, List.mem_cons]
    tauto

theorem Core.trap_of_mem_pendOf {k : Core} {unit : Nat} {e : Nat × Pend} (h : e ∈ k.pendOf unit) : e.2.trap = none := by
  unfold Core.pendOf at h
  rw [mem_foldl_pendInsert] at h
  simp only [List.mem_flatMap, List.mem_map, List.mem_filter, List.not_mem_nil, or_false] at h
  obtain ⟨c, -, p, ⟨-, hp⟩, rfl⟩ := h
  simp only [Bool.and_eq_true, Option.isNone_iff_eq_none] at hp
  exact hp.1.2

theorem Core.mem_pendOf_of_turn {k : Core} {unit : Nat} {e : Nat × Pend} (h : e ∈ k.turn unit) : e ∈ k.pendOf unit := by
  unfold Core.turn at h
  split at h
  · rcases List.mem_append.1 h with h | h
    · exact List.mem_of_mem_filter h
    · exact List.mem_of_mem_filter (List.mem_of_mem_take h)
  · split at h
    · exact List.mem_of_mem_filter (List.mem_of_mem_take h)
    · exact List.mem_of_mem_take h

/-- What a pending instruction reads of its issue. -/
def Pend.env (p : Pend) : Env := { g := p.g, tag := p.order, pc := p.pc, prep := p.prep }

/-- An operation of the matrix unit that has begun, whose turn it is, on a core whose sequencer runs; its rngs are those of its core. -/
structure State.StepTurn (s : State) (p : Pend) (op : Env → State → MatOp) : Prop where
  mat : matOf p.instr = some op
  turn : s.me.turn 4 = [(s.ctx, p)]
  started : p.started = true
  com : p.com = true
  free : s.mstepOther = false
  pend : s.pendAt p.order = some p
  frozen : s.me.frozen = false
  rngs : p.rngs = s.me.rngs
  steps : p.step < (op p.env s).n

section
variable {s u : State} {p : Pend} {op : Env → State → MatOp} {rows : List Nat} {x : Trap}

theorem State.StepTurn.trap (h : s.StepTurn p op) : p.trap = none :=
  Core.trap_of_mem_pendOf (Core.mem_pendOf_of_turn (k := s.me) (unit := 4) (e := (s.ctx, p)) (by simp [h.turn]))

/-- MACRO_STEP_COMMIT runs one step of it. -/
theorem State.StepTurn.exec_eq (h : s.StepTurn p op) :
    exec (.macroStepCommit s.core) s = .next { (s.stepMat p (op p.env s)).1 with core := s.core, ctx := s.ctx } := by
  have hn : Nat.min 1 (op p.env s).n = 1 := Nat.min_eq_left (by have := h.steps; omega)
  have hrun : s.runPend s.ctx p 1 = some (s.stepMat p (op p.env s)).1 := by
    change (match matOf p.instr with
      | some op => if s.mstepOther then none else some (s.runMat p.order (op p.env s) (Nat.min 1 (op p.env s).n))
      | none => _) = _
    rw [h.mat]
    simp only [h.free, Bool.false_eq_true, if_false, hn, State.runMat, h.pend, h.trap, h.started, if_true, Option.isSome_none, ite_self]
  have : s.runUnit s.core 4 1 = { (s.stepMat p (op p.env s)).1 with core := s.core, ctx := s.ctx } := by
    change (if 4 = 4 ∧ s.me.frozen = true then s else
      match s.firstPend 1 (s.me.turn 4) with
      | some t => { t with core := s.core, ctx := s.ctx }
      | none => s) = _
    simp only [h.frozen, Bool.false_eq_true, and_false, if_false, h.turn, State.firstPend, h.com, if_true, hrun]
  exact congrArg Host.Outcome.next this

/-- A step of its own generator state is the step itself. -/
theorem State.stepUnder_same (hr : p.rngs = s.me.rngs) (f : State → StepOut) : s.stepUnder p f = (f s, (f s).state.me.rngs) := by
  rw [State.stepUnder, if_pos hr]

theorem State.with_core_ctx (hc : u.core = s.core) (hx : u.ctx = s.ctx) : ({ u with core := s.core, ctx := s.ctx } : State) = u := by
  rw [← hc, ← hx]

section
variable (h : s.StepTurn p op)
include h

/-- A step that commits before the last moves its operation on. -/
theorem State.StepTurn.exec_ok (hstep : (op p.env s).step p.step p.rows s = .ok rows u) (hn : p.step + 1 < (op p.env s).n)
    (hc : u.core = s.core) (hx : u.ctx = s.ctx) :
    exec (.macroStepCommit s.core) s =
      .next (u.modPend p.order fun q => { q with step := p.step + 1, rows := rows, rngs := u.me.rngs }) := by
  have hlast : decide ((op p.env s).n ≤ p.step + 1) = false := decide_eq_false (by omega)
  rw [h.exec_eq]
  simp only [State.stepMat, State.stepUnder_same h.rngs, hstep, hlast, StepOut.state, Bool.false_eq_true, if_false]
  exact congrArg Host.Outcome.next (State.with_core_ctx hc hx)

/-- A step that stalls before the last leaves what it answers. -/
theorem State.StepTurn.exec_stall (hstep : (op p.env s).step p.step p.rows s = .stall u) (hn : p.step + 1 < (op p.env s).n)
    (hc : u.core = s.core) (hx : u.ctx = s.ctx) : exec (.macroStepCommit s.core) s = .next u := by
  have hlast : decide ((op p.env s).n ≤ p.step + 1) = false := decide_eq_false (by omega)
  rw [h.exec_eq]
  simp only [State.stepMat, State.stepUnder_same h.rngs, hstep, hlast, Bool.false_eq_true, if_false]
  exact congrArg Host.Outcome.next (State.with_core_ctx hc hx)

/-- What a trap at a step keeps for the replay (R184). -/
def State.keptFor (u s : State) (p : Pend) (o : MatOp) : State := u.modMe fun k => { k with
  mstep := mstepWord u.ctx o.acc p.step
  lrSlot := if o.lr then p.ptrs.head?.bind fun e => s.heldSlot e.2.addr else none
  mrngs := some p.rngs
  ptr := p.ptrs.foldl (fun m e => fset m e.1 e.2) k.ptr }

/-- A step that traps before the last keeps what a replay needs, and raises its trap. -/
theorem State.StepTurn.exec_trap (hstep : (op p.env s).step p.step p.rows s = .trap x u) (hn : p.step + 1 < (op p.env s).n) :
    exec (.macroStepCommit s.core) s =
      .next { (u.keptFor s p (op p.env s)).failed u.core u.ctx p.order x with core := s.core, ctx := s.ctx } := by
  have hlast : decide ((op p.env s).n ≤ p.step + 1) = false := decide_eq_false (by omega)
  rw [h.exec_eq]
  simp only [State.stepMat, State.stepUnder_same h.rngs, hstep, hlast, Bool.false_eq_true, if_false]
  rfl

/-- The last step of an operation without a last-read mark completes it. -/
theorem State.StepTurn.exec_last (hstep : (op p.env s).step p.step p.rows s = .ok rows u) (hn : p.step + 1 = (op p.env s).n)
    (hlr : (op p.env s).lr = false) : exec (.macroStepCommit s.core) s =
      .next { u.clearMstep.completed u.clearMstep.core u.clearMstep.ctx p.order with core := s.core, ctx := s.ctx } := by
  have hlast : decide ((op p.env s).n ≤ p.step + 1) = true := decide_eq_true (by omega)
  have hbody : ∀ t, lastRead p.order none ((op p.env s).step p.step p.rows) t = (op p.env s).step p.step p.rows t := fun t => by
    unfold lastRead
    split
    · next h => cases h
    · rfl
  rw [h.exec_eq]
  simp only [State.stepMat, State.stepUnder_same h.rngs, hlast, hlr, Bool.false_eq_true, if_false, if_true, hbody, hstep]
  rfl

end
end

/-! ### The last step -/

section
variable {u : State} {p : Pend}

/-- A strand whose only pending instruction completes has none pending, and goes on where it is. -/
theorem State.completed_only (hpend : u.st.pend = [p]) (hrep : u.st.replay = none) (hfound : u.st.found = none) (hend : u.st.ended = false) :
    u.completed u.core u.ctx p.order = u.modSt fun t => { t with
      pend := []
      life := if p.yields then .ready else t.life
      since := if p.yields && t.life != .ready then u.tick else t.since } := by
  have hst : u.strandAt u.core u.ctx = u.st := rfl
  have hs : ∀ v : State, v.core = u.core → v.ctx = u.ctx → v.strandAt u.core u.ctx = v.st := fun v hc hx => by rw [State.st, hc, hx]
  set v := u.modSt fun t => { t with
      pend := []
      life := if p.yields then .ready else t.life
      since := if p.yields && t.life != .ready then u.tick else t.since } with hv
  have hvst := State.st_modSt u fun t => { t with
      pend := []
      life := if p.yields then .ready else t.life
      since := if p.yields && t.life != .ready then u.tick else t.since }
  rw [← hv] at hvst
  have hreplayed : v.replayed u.core u.ctx = v := by
    simp only [State.replayed, hs v rfl rfl, hvst, hrep]
  have hsettle : v.settle u.core u.ctx = v := by
    simp [State.settle, hs v rfl rfl, hvst, hfound, hend]
  have hcompl : u.completed u.core u.ctx p.order =
      (if p.re then v.replayed u.core u.ctx else v).settle u.core u.ctx := by
    simp [State.completed, hst, hpend, hv, State.modSt]
  rw [hcompl, hreplayed, ite_self, hsettle]

end

/-! ### The generator state that a replay draws from -/

/-- Every core keeps the generator state that a replay of its interrupted operation draws from. -/
def State.KeepsMrngs (s t : State) : Prop := ∀ c, (t.coreAt c).mrngs = (s.coreAt c).mrngs

theorem State.KeepsMrngs.refl (s : State) : s.KeepsMrngs s := fun _ => rfl

theorem State.KeepsMrngs.trans {s t u : State} (h : s.KeepsMrngs t) (k : t.KeepsMrngs u) : s.KeepsMrngs u := fun c => (k c).trans (h c)

theorem State.KeepsMrngs.of_cores {s t : State} (h : t.cores = s.cores) : s.KeepsMrngs t := fun c => by
  rw [State.coreAt, State.coreAt, h]

theorem State.keepsMrngs_modCore (s : State) (c : Nat) (f : Core → Core) (hf : ∀ k, (f k).mrngs = k.mrngs) : s.KeepsMrngs (s.modCore c f) :=
  fun d => by
  rw [State.coreAt_modCore]
  split
  · next h => rw [hf, h]
  · rfl

theorem State.keepsMrngs_modStrand (s : State) (c x : Nat) (f : Strand → Strand) : s.KeepsMrngs (s.modStrand c x f) :=
  s.keepsMrngs_modCore c _ fun _ => rfl

theorem State.keepsMrngs_foldl {α : Type} {f : State → α → State} (hf : ∀ (s : State) a, s.KeepsMrngs (f s a)) (l : List α) (s : State) :
    s.KeepsMrngs (l.foldl f s) := by
  induction l generalizing s with
  | nil => exact .refl s
  | cons a l ih => exact (hf s a).trans (ih (f s a))

theorem State.keepsMrngs_net (s : State) (fs : List Flight) : s.KeepsMrngs { s with net := fs } := fun _ => rfl

theorem State.keepsMrngs_spires (s : State) (ps : List (Nat × Spire)) : s.KeepsMrngs { s with spires := ps } := fun _ => rfl

theorem State.keepsMrngs_plains (s : State) (ps : List (Nat × Plain)) : s.KeepsMrngs { s with plains := ps } := fun _ => rfl

theorem State.keepsMrngs_modSpire (s : State) (p : Nat) (f : Spire → Spire) : s.KeepsMrngs (s.modSpire p f) := fun _ => rfl

theorem State.keepsMrngs_ite {s t u : State} {c : Prop} [Decidable c] (ht : s.KeepsMrngs t) (hu : s.KeepsMrngs u) :
    s.KeepsMrngs (if c then t else u) := by
  split
  · exact ht
  · exact hu

theorem fget_map (f : Core → Core) (d : Core) (hd : f d = d) (m : List (Nat × Core)) (k : Nat) :
    fget d (m.map fun e => (e.1, f e.2)) k = f (fget d m k) := by
  induction m with
  | nil => exact hd.symm
  | cons e m ih =>
    obtain ⟨j, v⟩ := e
    simp only [List.map_cons, fget]
    split
    · rfl
    · exact ih

theorem Core.mrngs_recheck (k : Core) (now : Nat) : (k.recheck now).mrngs = k.mrngs := by
  unfold Core.recheck
  split <;> rfl

theorem State.keepsMrngs_rekey (s : State) (c x y : Nat) : s.KeepsMrngs (s.rekey c x y) := by
  unfold State.rekey
  refine .trans (s.keepsMrngs_modCore c _ ?_) ((State.keepsMrngs_net _ _).trans
    (State.keepsMrngs_ite (.refl _) (State.keepsMrngs_modSpire _ _ _)))
  exact fun _ => rfl

theorem State.keepsMrngs_disownLeft (s : State) (t : Strand) : s.KeepsMrngs (s.disownLeft t) :=
  State.keepsMrngs_foldl (fun s _ => s.keepsMrngs_rekey _ _ _) _ s

theorem State.keepsMrngs_trimTakes (s : State) (c x n : Nat) : s.KeepsMrngs (s.trimTakes c x n) :=
  State.keepsMrngs_ite (.refl s) (s.keepsMrngs_modSpire _ _)

theorem State.keepsMrngs_freeCtx (s : State) (c x : Nat) : s.KeepsMrngs (s.freeCtx c x) := by
  unfold State.freeCtx
  refine .trans (s.keepsMrngs_modCore c _ ?_) ((State.keepsMrngs_net _ _).trans (State.keepsMrngs_trimTakes _ _ _ _))
  exact fun _ => rfl

theorem State.keepsMrngs_unhold (s : State) (t : Strand) : s.KeepsMrngs (s.unhold t) := by
  unfold State.unhold
  refine State.keepsMrngs_ite (s.keepsMrngs_modCore _ _ fun k => ?_) (.refl s)
  dsimp only
  split
  · split <;> rfl
  · rfl

theorem State.keepsMrngs_quit (s : State) (c x : Nat) (t : Strand) : s.KeepsMrngs (s.quit c x t) :=
  .trans (s.keepsMrngs_modCore c _ fun k => Core.mrngs_recheck (k.quit x) _) (.trans (State.keepsMrngs_unhold _ t) (State.keepsMrngs_disownLeft _ t))

theorem State.keepsMrngs_handBack (s : State) (c : Nat) : s.KeepsMrngs (s.handBack c) := by
  unfold State.handBack
  refine .trans (State.keepsMrngs_foldl (fun s m => s.keepsMrngs_modCore m _ ?_) _ s) (State.keepsMrngs_modCore _ c _ ?_) <;> exact fun _ => rfl

theorem State.keepsMrngs_endStrandOf (s : State) (c x : Nat) : s.KeepsMrngs (s.endStrandOf c x) := by
  unfold State.endStrandOf
  refine State.keepsMrngs_ite (.refl s) (.trans (t := if (s.strandAt c x).cmp then s.handBack c else s)
    (State.keepsMrngs_ite (s.keepsMrngs_handBack c) (.refl s)) (.trans (State.keepsMrngs_quit _ c x (s.strandAt c x)) ?_))
  exact State.keepsMrngs_ite (State.keepsMrngs_freeCtx _ c x)
    (.trans (State.keepsMrngs_trimTakes _ c x _) (State.keepsMrngs_modStrand _ c x _))

theorem State.keepsMrngs_disownParked (s : State) (l : Nat) : s.KeepsMrngs (s.disownParked l) :=
  State.keepsMrngs_foldl (fun s _ => (s.keepsMrngs_rekey _ _ _).trans (State.keepsMrngs_disownLeft _ _)) _ s

theorem State.keepsMrngs_dropLaunch (s : State) (l : Nat) :
    s.KeepsMrngs { s with cores := s.cores.map fun (e : Nat × Core) => (e.1, e.2.dropLaunch l) } := fun c => by
  change (fget {} (s.cores.map fun (e : Nat × Core) => (e.1, e.2.dropLaunch l)) c).mrngs = _
  rw [fget_map (fun k => k.dropLaunch l) {} rfl]
  rfl

theorem State.keepsMrngs_endLaunch (s : State) (l : Nat) (why : Nat × Word × Nat × Nat) : s.KeepsMrngs (s.endLaunch l why) := by
  unfold State.endLaunch
  refine State.keepsMrngs_ite (.refl s) ?_
  refine .trans (t := s.modLaunch l _) (.of_cores rfl) (.trans (State.keepsMrngs_spires _ _) ((State.keepsMrngs_disownParked _ l).trans
    ((State.keepsMrngs_plains _ _).trans ((State.keepsMrngs_dropLaunch _ l).trans
      (State.keepsMrngs_foldl (f := fun s (e : Nat × Nat) => s.endStrandOf e.1 e.2) (fun s e => s.keepsMrngs_endStrandOf e.1 e.2) _ _)))))

theorem State.keepsMrngs_stopStrand (s : State) (c x : Nat) (t : Trap) (pc : BitVec 48) (reason : Nat) :
    s.KeepsMrngs (s.stopStrand c x t pc reason) := by
  have h := (s.keepsMrngs_quit c x (s.strandAt c x)).trans (State.keepsMrngs_freeCtx _ c x)
  unfold State.stopStrand
  dsimp only
  split
  · exact h
  · exact h.trans (State.keepsMrngs_endLaunch _ _ _)

theorem State.keepsMrngs_abortHandler (s : State) (c x : Nat) : s.KeepsMrngs (s.abortHandler c x) := by
  unfold State.abortHandler
  extract_lets q rq id rq' v
  have hv : s.KeepsMrngs v := s.keepsMrngs_modCore c _ fun k => Core.mrngs_recheck _ s.tick
  exact hv.trans (State.keepsMrngs_modStrand v c x _)

theorem State.keepsMrngs_enterTrap (s : State) (c x : Nat) (t : Trap) (pc : BitVec 48) (w : Nat) (cont : BitVec 48) :
    s.KeepsMrngs (s.enterTrap c x t pc w cont) := by
  unfold State.enterTrap
  extract_lets cmp v k st sw hab v1 v2 v3
  have hv : s.KeepsMrngs v :=
    State.keepsMrngs_ite ((s.keepsMrngs_handBack c).trans (State.keepsMrngs_modStrand _ c x _)) (.refl s)
  have hv2 : v1.KeepsMrngs v2 := State.keepsMrngs_ite (State.keepsMrngs_abortHandler _ c x) (.refl _)
  have hv3 : v2.KeepsMrngs v3 := State.keepsMrngs_modStrand _ c x _
  refine hv.trans (State.keepsMrngs_ite ((State.keepsMrngs_quit v c x st).trans (State.keepsMrngs_freeCtx _ c x))
    (State.keepsMrngs_ite (State.keepsMrngs_stopStrand v c x t pc 0) (State.keepsMrngs_ite (State.keepsMrngs_stopStrand v c x t pc 1) ?_)))
  exact (v.keepsMrngs_trimTakes c x 0).trans (hv2.trans (hv3.trans (State.keepsMrngs_modCore _ c _ fun _ => rfl)))

theorem State.keepsMrngs_settle (s : State) (c x : Nat) : s.KeepsMrngs (s.settle c x) := by
  unfold State.settle
  extract_lets t
  split
  · next cont live v v1 _ _ _ =>
    have hv : s.KeepsMrngs v := s.keepsMrngs_modStrand c x _
    have hv1 : v.KeepsMrngs v1 := State.keepsMrngs_ite (.refl v) (v.keepsMrngs_trimTakes c x _)
    refine hv.trans (hv1.trans (State.keepsMrngs_ite (v1.keepsMrngs_modStrand c x _) ?_))
    clear_value v1 v live
    split
    · exact .refl v1
    · refine State.keepsMrngs_ite (v1.keepsMrngs_freeCtx c x) ?_
      extract_lets held v2 wc
      have hv2 : v1.KeepsMrngs v2 := v1.keepsMrngs_modStrand c x _
      split
      · exact hv2.trans (v2.keepsMrngs_enterTrap c x _ _ _ _)
      · exact hv2
  · refine State.keepsMrngs_ite (.refl s) (State.keepsMrngs_ite (s.keepsMrngs_freeCtx c x) ?_)
    split
    · exact (State.keepsMrngs_modStrand s c x _).trans (State.keepsMrngs_enterTrap _ c x _ _ _ _)
    · exact .refl s

theorem State.keepsMrngs_failed (s : State) (c x order : Nat) (t : Trap) : s.KeepsMrngs (s.failed c x order t) :=
  (s.keepsMrngs_modStrand c x _).trans (State.keepsMrngs_settle _ c x)

/-- A begun replay draws from the generator state kept for it, from the step kept on (R61). -/
theorem State.beginMat_replay {s v : State} {p q : Pend} {o : MatOp} {rows : List Nat} {w : Word} (hact : mstepAct s.me.mstep = true)
    (hctx : mstepCtx s.me.mstep = s.ctx) (h : s.beginMat p o = .ok rows v) (hw : v.me.mrngs = some w) (hq : q ∈ v.st.pend)
    (ho : q.order = p.order) : q.rngs = w ∧ q.step = Nat.min (bitsOf s.me.mstep 15 0) (o.n - 1) := by
  have hown : (mstepAct s.me.mstep && mstepCtx s.me.mstep == s.ctx) = true := by simp [hact, hctx]
  simp only [State.beginMat, hown, if_true] at h
  split at h
  · simp only [StepOut.ok.injEq] at h
    obtain ⟨-, rfl⟩ := h
    simp only [State.modPend, State.me_modSt] at hw
    simp only [State.modPend, State.st_modSt, List.mem_map] at hq
    obtain ⟨a, -, rfl⟩ := hq
    have ha : a.order = p.order := by
      split at ho <;> exact ho
    simp [ha, hw]
  · next hne => exact absurd h (hne rows v)

end Sys2Proof.Machine
end

section
/-! What MACRO_STEP_COMMIT leaves by what a step answers (R182, R184, R61). -/

namespace Sys2Proof.Machine
open Sys2Proof

section
variable {s u : State} {p : Pend} {op : Env → State → MatOp} {rows : List Nat} {x : Trap}

theorem State.me_clearMstep (h : mstepAct u.me.mstep = false) : u.clearMstep.me = u.me := by
  rw [State.clearMstep, State.me_modMe, h, Bool.false_and, if_neg Bool.false_ne_true]

theorem State.st_clearMstep (h : mstepAct u.me.mstep = false) : u.clearMstep.st = u.st :=
  congrArg (fun k : Core => fget ({} : Strand) k.ctxs u.ctx) (State.me_clearMstep h)

/-- The last step of an operation, the strand's only pending instruction: the strand goes on, ready when it waited there. -/
theorem State.StepTurn.exec_done (h : s.StepTurn p op) (hstep : (op p.env s).step p.step p.rows s = .ok rows u)
    (hn : p.step + 1 = (op p.env s).n) (hlr : (op p.env s).lr = false) (hact : mstepAct u.me.mstep = false) (hpend : u.st.pend = [p])
    (hc : u.core = s.core) (hx : u.ctx = s.ctx) (hrep : u.st.replay = none) (hfound : u.st.found = none) (hend : u.st.ended = false) :
    ∃ t, exec (.macroStepCommit s.core) s = .next t ∧
      t.st = { u.st with pend := [], life := if p.yields then .ready else u.st.life, since := t.st.since } ∧
      (∀ a, t.byte a = u.byte a) ∧ t.me = { u.me with ctxs := t.me.ctxs } := by
  have hst := State.st_clearMstep hact
  have hme := State.me_clearMstep hact
  have hcompl := State.completed_only (u := u.clearMstep) (p := p) (by rw [hst, hpend]) (by rw [hst, hrep]) (by rw [hst, hfound])
    (by rw [hst, hend])
  refine ⟨_, h.exec_last hstep hn hlr, ?_⟩
  rw [hcompl, State.with_core_ctx (u := u.clearMstep.modSt _) hc hx]
  refine ⟨?_, fun _ => rfl, ?_⟩
  · rw [State.st_modSt, hst]
  · rw [State.me_modSt, hme]

/-- A trap at a step leaves the generator state that the step would have drawn from. -/
theorem State.StepTurn.exec_trap_mrngs (h : s.StepTurn p op) (hstep : (op p.env s).step p.step p.rows s = .trap x u)
    (hn : p.step + 1 < (op p.env s).n) (hc : u.core = s.core) :
    ∃ t, exec (.macroStepCommit s.core) s = .next t ∧ t.me.mrngs = some p.rngs := by
  refine ⟨_, h.exec_trap hstep hn, ?_⟩
  have hk := State.keepsMrngs_failed (u.keptFor s p (op p.env s)) u.core u.ctx p.order x u.core
  have hm : ((u.keptFor s p (op p.env s)).coreAt u.core).mrngs = some p.rngs := by
    rw [State.keptFor, State.modMe, State.coreAt_modCore_self]
  rw [hm, hc] at hk
  rw [hc]
  exact hk

end

end Sys2Proof.Machine
end

section
/-! The elements of an accumulator that a step of a product updates, and the value each gets (R188, R189). -/

namespace Sys2Proof.Machine
open Sys2Proof

/-! ### Elements of accumulators -/

/-- Words of an element. -/
def AccWidth (cw : Nat) : Prop := cw = 1 ∨ cw = 2

theorem accW_width (t : Word) : AccWidth (accW t) := by
  unfold accW
  split
  · exact .inr rfl
  · exact .inl rfl

section
variable {cw m i n a j x : Nat} {k : Core} {v : Nat} (hw : AccWidth cw) (hi : i < 128) (hn : n < 128 / cw) (hj : j < 128) (hx : x < 128 / cw)
include hw hi hn hj hx

/-- An element reads as written, modulo its width; every other as before. -/
theorem Core.accGet_accPut : (k.accPut cw m i n v).accGet cw a j x =
    if a = m ∧ j = i ∧ x = n then v % 2 ^ (32 * cw) else k.accGet cw a j x := by
  by_cases h : a = m ∧ j = i ∧ x = n
  · obtain ⟨rfl, rfl, rfl⟩ := h
    rcases hw with rfl | rfl
    · simp [Core.accGet, Core.accPut]
    · simp only [Core.accGet, Core.accPut, if_true, fget_fset, and_self, Nat.left_eq_add, one_ne_zero, if_false, BitVec.toNat_ofNat]
      omega
  · rw [if_neg h]
    rcases hw with rfl | rfl
    · have h0 : a * 16384 + j * 128 + x ≠ m * 16384 + i * 128 + n := fun e => h (by omega)
      simp [Core.accGet, Core.accPut, fget_fset, h0]
    · have hn' : n < 64 := hn
      have hx' : x < 64 := hx
      have h0 : a * 16384 + j * 128 + x * 2 ≠ m * 16384 + i * 128 + n * 2 := fun e => h (by omega)
      have he : a * 16384 + j * 128 + x * 2 = 2 * (a * 8192 + j * 64 + x) := by ring
      have he' : m * 16384 + i * 128 + n * 2 = 2 * (m * 8192 + i * 64 + n) := by ring
      have h1 : a * 16384 + j * 128 + x * 2 ≠ m * 16384 + i * 128 + n * 2 + 1 := by rw [he, he']; exact Nat.two_mul_ne_two_mul_add_one
      have h2 : a * 16384 + j * 128 + x * 2 + 1 ≠ m * 16384 + i * 128 + n * 2 := by rw [he, he']; exact Nat.two_mul_ne_two_mul_add_one.symm
      simp [Core.accGet, Core.accPut, fget_fset, h0, h1, h2]

end

/-- Of the elements of accumulators, those of m that cells names have become v; nothing else of the core has changed. -/
structure Core.AccSet (cw m : Nat) (cells : Nat → Nat → Prop) (v : Nat → Nat → Nat) (k l : Core) : Prop where
  rest : l = { k with acc := l.acc }
  set : ∀ i n, i < 128 → n < 128 / cw → cells i n → l.accGet cw m i n = v i n
  held : ∀ a i n, i < 128 → n < 128 / cw → ¬(a = m ∧ cells i n) → l.accGet cw a i n = k.accGet cw a i n

section
variable {cw m : Nat} {P Q : Nat → Nat → Prop} {v : Nat → Nat → Nat} {k l l' : Core}

theorem Core.AccSet.none (k : Core) : Core.AccSet cw m (fun _ _ => False) v k k := ⟨rfl, fun _ _ _ _ h => h.elim, fun _ _ _ _ _ _ => rfl⟩

theorem Core.AccSet.trans (h : Core.AccSet cw m P v k l) (h' : Core.AccSet cw m Q v l l') :
    Core.AccSet cw m (fun i n => P i n ∨ Q i n) v k l' where
  rest := by
    have := h'.rest
    rw [h.rest] at this
    exact this
  set i n hi hn hc := by
    by_cases hq : Q i n
    · exact h'.set i n hi hn hq
    · rw [h'.held m i n hi hn (fun e => hq e.2), h.set i n hi hn (hc.resolve_right hq)]
  held a i n hi hn hc := by
    rw [h'.held a i n hi hn fun e => hc ⟨e.1, .inr e.2⟩, h.held a i n hi hn fun e => hc ⟨e.1, .inl e.2⟩]

theorem Core.AccSet.congr (h : Core.AccSet cw m P v k l) (hPQ : ∀ i n, P i n ↔ Q i n) : Core.AccSet cw m Q v k l := by
  have : P = Q := funext fun i => funext fun n => propext (hPQ i n)
  exact this ▸ h

theorem Core.accSet_accPut (hw : AccWidth cw) {i n : Nat} (hi : i < 128) (hn : n < 128 / cw) {x : Nat} (hx : x % 2 ^ (32 * cw) = v i n) :
    Core.AccSet cw m (fun j y => j = i ∧ y = n) v k (k.accPut cw m i n x) where
  rest := rfl
  set j y hj hy := by
    rintro ⟨rfl, rfl⟩
    rw [Core.accGet_accPut hw hi hn hj hy, if_pos ⟨rfl, rfl, rfl⟩, hx]
  held a j y hj hy hc := by rw [Core.accGet_accPut hw hi hn hj hy, if_neg hc]

end

/-! ### Roundings to nearest -/

/-- A computation that rounds to nearest only: its code does not depend on what was raised before, and it draws no random number. -/
structure NearOnly (f : Raise → Nat × Raise) : Prop where
  code : ∀ r, (f r).1 = (f {}).1
  rng : ∀ r, (f r).2.rng = r.rng

theorem NearOnly.pure (c : Nat) : NearOnly fun r => (c, r) := ⟨fun _ => rfl, fun _ => rfl⟩

theorem nearOnly_near (f : FpFmt) (x : Fv × Flags) : NearOnly fun r => r.near f x := ⟨fun _ => rfl, fun _ => rfl⟩

theorem NearOnly.bind {f : Raise → Nat × Raise} {g : Nat → Raise → Nat × Raise} (hf : NearOnly f) (hg : ∀ c, NearOnly (g c)) :
    NearOnly fun r => g (f r).1 (f r).2 where
  code r := by rw [hf.code r, (hg _).code, (hg _).code (f {}).2]
  rng r := by rw [(hg _).rng, hf.rng]

theorem nearOnly_foldl {α : Type} {g : α → Nat → Raise → Nat × Raise} (hg : ∀ e c, NearOnly (g e c)) (l : List α) (c : Nat) :
    NearOnly fun r => l.foldl (fun x e => g e x.1 x.2) (c, r) := by
  induction l generalizing c with
  | nil => exact .pure c
  | cons e l ih => exact (hg e c).bind fun c => ih c

theorem nearOnly_blockSums (bl sfmt : Nat) (sa sb : Nat → Fv) (n b : Nat) (as bs : List Fv) (acc : Option Nat) :
    NearOnly fun r => blockSums bl sfmt sa sb n b as bs acc r := by
  constructor
  · exact fun r => blockSums_fst bl sfmt sa sb n b as bs acc r {}
  · induction n generalizing b as bs acc with
    | zero => exact fun _ => rfl
    | succ n ih =>
      intro r
      by_cases hn : ((sa b).isNaN || (sb b).isNaN) = true
      · simp only [blockSums, if_pos hn]
        cases acc <;> exact ih _ _ _ _ _
      · simp only [blockSums, if_neg hn]
        cases acc <;> exact ih _ _ _ _ _

theorem nearOnly_scaledSum (bl sfmt nb : Nat) (sa sb : Nat → Fv) (tsc : Word) (as bs : List Fv) :
    NearOnly fun r => scaledSum bl sfmt nb sa sb tsc as bs r :=
  (nearOnly_blockSums bl sfmt sa sb nb 0 as bs none).bind fun c =>
    (nearOnly_near fp32 ((fp32.value c).mul (bf16.value (bitsOf tsc 31 16)))).bind fun d =>
      nearOnly_near fp32 ((fp32.value d).mul (bf16.value (bitsOf tsc 15 0)))

/-! ### Updating a grid of elements -/

section
variable {cw m : Nat} {f : Nat → Nat → Nat → Raise → Nat × Raise} {old : Nat → Nat → Nat} (hw : AccWidth cw) (hf : ∀ i n c, NearOnly (f i n c))

/-- The code that an update gives an element, from the one held. -/
def newCode (cw : Nat) (f : Nat → Nat → Nat → Raise → Nat × Raise) (old : Nat → Nat → Nat) (i n : Nat) : Nat :=
  (f i n (old i n) {}).1 % 2 ^ (32 * cw)

/-- An element updated, and what was raised. -/
def putEl (cw m : Nat) (f : Nat → Nat → Nat → Raise → Nat × Raise) (i : Nat) (a : Core × Raise) (n : Nat) : Core × Raise :=
  let v := f i n (a.1.accGet cw m i n) a.2
  (a.1.accPut cw m i n v.1, v.2)

include hw hf

theorem foldl_putEl {i : Nat} (hi : i < 128) {ns : List Nat} (hns : ∀ n ∈ ns, n < 128 / cw) (hnd : ns.Nodup) (a : Core × Raise)
    (hold : ∀ n ∈ ns, a.1.accGet cw m i n = old i n) :
    Core.AccSet cw m (fun j y => j = i ∧ y ∈ ns) (newCode cw f old) a.1 (ns.foldl (putEl cw m f i) a).1 ∧
      (ns.foldl (putEl cw m f i) a).2.rng = a.2.rng := by
  induction ns generalizing a with
  | nil => exact ⟨(Core.AccSet.none a.1).congr fun _ _ => by simp, rfl⟩
  | cons n ns ih =>
    rw [List.nodup_cons] at hnd
    rw [List.forall_mem_cons] at hns
    have hset : Core.AccSet cw m (fun j y => j = i ∧ y = n) (newCode cw f old) a.1 (putEl cw m f i a n).1 :=
      Core.accSet_accPut hw hi hns.1 (by rw [newCode, (hf _ _ _).code, hold n List.mem_cons_self])
    obtain ⟨hrest, hrng⟩ := ih hns.2 hnd.2 (putEl cw m f i a n) fun y hy => by
      rw [hset.held m i y hi (hns.2 y hy) (by rintro ⟨-, -, rfl⟩; exact hnd.1 hy), hold y (List.mem_cons_of_mem _ hy)]
    refine ⟨(hset.trans hrest).congr fun j y => ?_, hrng.trans ((hf _ _ _).rng _)⟩
    rw [List.mem_cons]
    tauto

/-- A grid update gives every element of it its new code, and draws no random number. -/
theorem gridUpd_accSet {rs ns : List Nat} (hrs : ∀ i ∈ rs, i < 128) (hns : ∀ n ∈ ns, n < 128 / cw) (hndr : rs.Nodup) (hndn : ns.Nodup)
    (k : Core) (r : Raise) (hold : ∀ i ∈ rs, ∀ n ∈ ns, k.accGet cw m i n = old i n) :
    Core.AccSet cw m (fun i n => i ∈ rs ∧ n ∈ ns) (newCode cw f old) k (gridUpd cw m rs ns f k r).1 ∧ (gridUpd cw m rs ns f k r).2.rng = r.rng := by
  induction rs generalizing k r with
  | nil => exact ⟨(Core.AccSet.none k).congr fun _ _ => by simp, rfl⟩
  | cons i rs ih =>
    rw [List.nodup_cons] at hndr
    rw [List.forall_mem_cons] at hrs
    obtain ⟨hset, hrng⟩ := foldl_putEl hw hf (m := m) (old := old) hrs.1 hns hndn (k, r) (hold i List.mem_cons_self)
    have hnext := ih hrs.2 hndr.2 (ns.foldl (putEl cw m f i) (k, r)).1 (ns.foldl (putEl cw m f i) (k, r)).2 fun j hj n hn => by
      rw [hset.held m j n (hrs.2 j hj) (hns n hn) (by rintro ⟨-, rfl, -⟩; exact hndr.1 hj), hold j (List.mem_cons_of_mem _ hj) n hn]
    obtain ⟨hrest, hrng'⟩ := hnext
    refine ⟨(hset.trans hrest).congr fun j y => ?_, hrng'.trans hrng⟩
    rw [List.mem_cons]
    tauto

end

/-! ### Steps of a product -/

theorem mem_grp {g m x : Nat} : x ∈ grp g m ↔ x < m ∧ x / 16 = g := by
  simp only [grp, List.mem_filterMap, List.mem_range, Option.ite_none_right_eq_some, Option.some.injEq]
  constructor
  · rintro ⟨i, hi, hm, rfl⟩
    omega
  · rintro ⟨hm, rfl⟩
    exact ⟨x % 16, by omega, by omega, by omega⟩

theorem grp_pairwise (g m : Nat) : (grp g m).Pairwise (· < ·) := by
  refine List.Pairwise.filterMap _ (fun i j hij a ha b hb => ?_) (List.pairwise_lt_range (n := 16))
  simp only [Option.ite_none_right_eq_some, Option.some.injEq] at ha hb
  omega

/-- Row group g of m rows, or chunk g of m products, is the numbers below m of that sixteen. -/
theorem grp_eq (g m : Nat) : grp g m = (List.range m).filter fun r => r / 16 == g :=
  (grp_pairwise g m).eq_of_mem_iff ((List.pairwise_lt_range (n := m)).filter _) fun x => by simp [mem_grp]

/-- The value of an element's code; that of an integer element, which no dome product has, is 0. -/
def elemVal (el : Elem) (x : Nat) : Fv :=
  match el with
  | .f f => f.value x
  | _ => .fin false 0 0

/-- The values of the A elements of row i in step (g, c), a i x being the code of element x of the chunk in row i of the group. -/
def Dome.aVals (d : Dome) (g c : Nat) (a : Nat → Nat → Nat) (i : Nat) : List Fv :=
  (List.range (d.ks c).length).map fun x => elemVal ((elemOf (tAf d.t)).getD (.f bf16)) (a (i - 16 * g) x)

/-- The values of the B elements of column n in chunk c. -/
def Dome.bVals (d : Dome) (c : Nat) (k : Core) (n : Nat) : List Fv :=
  (d.ks c).map fun x => elemVal ((elemOf (tBf d.t)).getD (.f bf16)) (k.fbGet d.fb (fmtWidth (tBf d.t)) x n)

/-- An element's update in chunk c. -/
def Dome.cell (d : Dome) (c : Nat) (as bs : List Fv) (old : Nat) (r : Raise) : Nat × Raise :=
  let acc := if c = 0 ∧ d.nacc then 0 else old
  if d.scl then
    let v := scaledSum (blkLen d.fmt) (bitsOf d.fmt 9 8) (matNb d.fmt d.t) (scaleOf (bitsOf d.fmt 9 8) d.sa)
      (scaleOf (bitsOf d.fmt 9 8) d.sb) d.tsc (if d.neg then as.map Fv.neg else as) bs r
    v.2.near fp32 ((fp32.value acc).add rne (fp32.value v.1))
  else domeChunk (tAf d.t == 0) d.neg acc as bs r

theorem nearOnly_domeChunk (f64 neg : Bool) (acc : Nat) (as bs : List Fv) : NearOnly fun r => domeChunk f64 neg acc as bs r := by
  cases f64
  · exact (nearOnly_near fp32 (dotFv (if neg then as.map Fv.neg else as) bs)).bind fun c =>
      nearOnly_near fp32 ((fp32.value acc).add rne (fp32.value c))
  · exact nearOnly_foldl (g := fun (p : Fv × Fv) c r => r.near fp64 (Fv.fma rne p.1 p.2 (fp64.value c))) (fun _ _ => nearOnly_near _ _) _ acc

theorem Dome.nearOnly_cell (d : Dome) (c : Nat) (as bs : List Fv) (old : Nat) : NearOnly fun r => d.cell c as bs old r := by
  have hscaled := (nearOnly_scaledSum (blkLen d.fmt) (bitsOf d.fmt 9 8) (matNb d.fmt d.t) (scaleOf (bitsOf d.fmt 9 8) d.sa)
    (scaleOf (bitsOf d.fmt 9 8) d.sb) d.tsc (if d.neg then as.map Fv.neg else as) bs).bind fun v =>
      nearOnly_near fp32 ((fp32.value (if c = 0 ∧ d.nacc then 0 else old)).add rne (fp32.value v))
  have hplain := nearOnly_domeChunk (tAf d.t == 0) d.neg (if c = 0 ∧ d.nacc then 0 else old) as bs
  unfold Dome.cell
  dsimp only
  split
  · exact hscaled
  · exact hplain

theorem Dome.step_eq (d : Dome) (g c : Nat) (a : Nat → Nat → Nat) (k : Core) (r : Raise) :
    d.step g c a k r = gridUpd (accW d.t) d.m (grp g (tM d.t)) (List.range (tN d.t))
      (fun i n old r => d.cell c (d.aVals g c a i) (d.bVals c k n) old r) k r := rfl

/-- The code that step (g, c) gives element (i, n), when the A elements of its rows are data. -/
def Dome.el (d : Dome) (k : Core) (g c : Nat) (data : List (List Nat)) (i n : Nat) : Nat :=
  (d.cell c (d.aVals g c (fun i x => (data.getD i []).getD x 0) i) (d.bVals c k n) (k.accGet (accW d.t) d.m i n) {}).1

theorem bitsOf_lt (w : Word) (hi lo : Nat) : bitsOf w hi lo < 2 ^ (hi + 1 - lo) := Nat.mod_lt _ (Nat.two_pow_pos _)

theorem tM_le (t : Word) : tM t ≤ 128 := by
  have := bitsOf_lt t 21 15
  unfold tM
  omega

/-- The columns of a dome product are elements of an accumulator's row. -/
theorem tN_le_of_isDome {t : Word} (h : isDome t = true) : tN t ≤ 128 / accW t := by
  have hb := bitsOf_lt t 14 8
  unfold isDome at h
  unfold accW
  split
  · next hc =>
    simp only [hc, if_true, Bool.and_eq_true, decide_eq_true_eq] at h
    omega
  · unfold tN
    omega

/-- Step (g, c) gives its elements their new codes; nothing else of the core changes, and no random number is drawn. -/
theorem Dome.step_accSet (d : Dome) (hd : isDome d.t = true) (g c : Nat) (data : List (List Nat)) (k : Core) (r : Raise) :
    let z := d.step g c (fun i x => (data.getD i []).getD x 0) k r
    Core.AccSet (accW d.t) d.m (fun i n => i ∈ grp g (tM d.t) ∧ n ∈ List.range (tN d.t))
      (fun i n => d.el k g c data i n % 2 ^ (32 * accW d.t)) k z.1 ∧ z.2.rng = r.rng := by
  have hm := tM_le d.t
  have hn := tN_le_of_isDome hd
  exact gridUpd_accSet (accW_width d.t) (fun i n c' => d.nearOnly_cell c _ _ c') (old := fun i n => k.accGet (accW d.t) d.m i n)
    (fun i hi => (mem_grp.1 hi).1.trans_le hm) (fun n hn' => (List.mem_range.1 hn').trans_le hn) ((grp_pairwise g _).imp Nat.ne_of_lt)
    List.nodup_range k r fun _ _ _ _ => rfl

end Sys2Proof.Machine
end

section
/-! A step of a product on the machine: its rows read, its elements committed, its messages sent (R182, R188, R191). -/

namespace Sys2Proof.Machine
open Sys2Proof

/-! ### Messages sent -/

/-- Of the machine only the network and the sequence numbers of cores' messages have changed. -/
structure State.Posted (s t : State) : Prop where
  rest : t = { s with cores := t.cores, net := t.net }
  cores : ∀ c, t.coreAt c = { s.coreAt c with txSeq := (t.coreAt c).txSeq }

theorem State.Posted.refl (s : State) : s.Posted s := ⟨rfl, fun _ => rfl⟩

theorem State.Posted.trans {s t u : State} (h : s.Posted t) (k : t.Posted u) : s.Posted u where
  rest := by
    have := k.rest
    rw [h.rest] at this
    exact this
  cores c := by rw [k.cores c, h.cores c]

section
variable {s t : State} (h : s.Posted t)
include h

theorem State.Posted.core_eq : t.core = s.core := by rw [h.rest]
theorem State.Posted.ctx_eq : t.ctx = s.ctx := by rw [h.rest]
theorem State.Posted.byte (a : Nat) : t.byte a = s.byte a := by rw [h.rest]; rfl
theorem State.Posted.me_eq : t.me = { s.me with txSeq := t.me.txSeq } := by
  have := h.cores s.core
  rw [← h.core_eq] at this
  rw [State.me, this, State.me, h.core_eq]
theorem State.Posted.st_eq : t.st = s.st := by
  change fget ({} : Strand) t.me.ctxs t.ctx = fget ({} : Strand) s.me.ctxs s.ctx
  rw [h.me_eq, h.ctx_eq]

end

/-- What a message says, and where it goes: all but its number, its launch and its context. -/
def Flight.gist (f : Flight) : Nat × Nat × Nat × Pay := (f.src, f.dst, f.net, f.pay)

theorem State.coreAt_post (s : State) (src dst net ctx : Nat) (lix : Option Nat) (tag : Nat) (pay : Pay) (c : Nat) :
    (s.post src dst net ctx lix tag pay).coreAt c = if c = src then
      { s.coreAt src with txSeq := fset (s.coreAt src).txSeq (dst * 8 + net) ((s.nextSeq src dst net + 1) % 65536) } else s.coreAt c :=
  fget_fset ({} : Core) _ s.cores src c

theorem State.posted_post (s : State) (src dst net ctx : Nat) (lix : Option Nat) (tag : Nat) (pay : Pay) :
    s.Posted (s.post src dst net ctx lix tag pay) where
  rest := rfl
  cores c := by
    rw [State.coreAt_post]
    split
    · next h => rw [h]
    · rfl

theorem State.net_post (s : State) (src dst net ctx : Nat) (lix : Option Nat) (tag : Nat) (pay : Pay) :
    ∃ f, (s.post src dst net ctx lix tag pay).net = s.net ++ [f] ∧ f.gist = (src, dst, net, pay) := ⟨_, rfl, rfl⟩

/-- One message to each of a list of cores, which may speak of what sending leaves alone. -/
theorem State.foldl_post (pay : State → Pay) (hpay : ∀ {s t : State}, s.Posted t → pay t = pay s) (ms : List Nat) (s : State) :
    let t := ms.foldl (fun s m => s.post s.core m 2 s.ctx s.st.lix 0 (pay s)) s
    s.Posted t ∧ ∃ fs, t.net = s.net ++ fs ∧ fs.map Flight.gist = ms.map fun d => (s.core, d, 2, pay s) := by
  induction ms generalizing s with
  | nil => exact ⟨.refl s, [], by simp⟩
  | cons m ms ih =>
    have hp := s.posted_post s.core m 2 s.ctx s.st.lix 0 (pay s)
    obtain ⟨f, hf, hg⟩ := s.net_post s.core m 2 s.ctx s.st.lix 0 (pay s)
    obtain ⟨hps, fs, hfs, hgs⟩ := ih (s.post s.core m 2 s.ctx s.st.lix 0 (pay s))
    refine ⟨hp.trans hps, f :: fs, ?_, ?_⟩
    · rw [List.foldl_cons, hfs, hf, List.append_assoc]
      rfl
    · rw [List.map_cons, hg, hgs, hp.core_eq, hpay hp]
      rfl

/-! ### Rows read -/

theorem State.rowOf_drop (s : State) (bs : List Blk) (bpr i : Nat) : s.rowOf (bs.drop bpr) bpr i = s.rowOf bs bpr (i + 1) := by
  rw [State.rowOf, State.rowOf, List.drop_drop, Nat.succ_mul, Nat.add_comm]

/-- Operand rows read with the tag check off: their numbers. -/
theorem State.readGroups_ok {s : State} (hbad : s.bad = []) (hsoft : s.soft = []) (htags : s.me.fmt.getLsbD 15 = false)
    (bpr fmt els n : Nat) (bs : List Blk) (r : Raise) :
    ∃ u, s.readGroups bpr fmt els n bs r = (.ok ((List.range n).map (s.rowOf bs bpr), r), u) ∧ s.Powered u := by
  induction n generalizing s bs with
  | zero => exact ⟨s, rfl, .refl s⟩
  | succ n ih =>
    obtain ⟨t, ht, hpt⟩ := State.readBlks_ok hbad hsoft htags s.ctl (some fmt) (fun e => decide (e < els)) (bs.take bpr) 0 r
    obtain ⟨u, hu, hpu⟩ := ih (s := t) (hpt.bad_eq.trans hbad) (hpt.soft_eq.trans hsoft) (by rw [hpt.me_eq, htags]) (bs.drop bpr)
    refine ⟨u, ?_, hpt.trans hpu⟩
    have hrow : ∀ i, t.rowOf (bs.drop bpr) bpr i = s.rowOf bs bpr (i + 1) := fun i =>
      (hpt.sameView.value _).trans (s.rowOf_drop bs bpr i)
    simp only [State.readGroups, ht, hu, List.range_succ_eq_map, List.map_cons, List.map_map]
    have hfirst : s.value (bs.take bpr) = s.rowOf bs bpr 0 := by simp [State.rowOf]
    rw [hfirst]
    simp [hrow, Function.comp_def]

/-- Rows read through a pointer: nothing holds them back, and the pointer has moved past them. -/
theorem withRows_ok {s : State} (hbad : s.bad = []) (hsoft : s.soft = []) (htags : s.me.fmt.getLsbD 15 = false) {p : BitVec 4}
    {n bpr : Nat} {bs : List Blk} (hblks : s.blks .rd ((ptrOf s.me.ptr p).run (n * bpr)).1 = .ok bs) (hbusy : bs.any s.blkBusy = false)
    (fmt els : Nat) (f : List Nat → Raise → State → StepOut) :
    ∃ u, s.Powered u ∧ withRows p n bpr fmt els f s =
      f ((List.range n).map (s.rowOf bs bpr)) s.calm
        (u.modMe fun k => { k with ptr := fset k.ptr p.toNat ((ptrOf s.me.ptr p).run (n * bpr)).2 }) := by
  obtain ⟨u, hu, hp⟩ := State.readGroups_ok hbad hsoft htags bpr fmt els n bs s.calm
  refine ⟨u, hp, ?_⟩
  simp only [withRows, hblks, State.walkedBlks_eq hsoft, hbusy, Bool.false_eq_true, if_false, hu]

/-! ### Elements committed -/

/-- The A elements that a step uses are those of its chunk. -/
theorem Dome.step_congr (d : Dome) (g c : Nat) {a b : Nat → Nat → Nat} (h : ∀ i x, x < (d.ks c).length → a i x = b i x) (k : Core) (r : Raise) :
    d.step g c a k r = d.step g c b k r := by
  have : d.aVals g c a = d.aVals g c b := funext fun i => List.map_congr_left fun x hx => by rw [h _ x (List.mem_range.1 hx)]
  rw [Dome.step_eq, Dome.step_eq, this]

theorem elt_zero (w e : Nat) : elt w 0 e = 0 := by simp [elt]

/-- The A elements of a step, read from the rows as they came, are those sent. -/
theorem stepRows_getD (d : Dome) (c : Nat) (rows : List Nat) (i : Nat) {x : Nat} (hx : x < (d.ks c).length) :
    ((stepRows d c rows).getD i []).getD x 0 = elt (fmtWidth (tAf d.t)) (rows.getD i 0) ((d.ks c).getD x 0) := by
  by_cases hi : i < rows.length
  · simp [stepRows, List.getD_eq_getElem?_getD, hi, hx]
  · simp [stepRows, List.getD_eq_getElem?_getD, List.getElem?_eq_none (Nat.le_of_not_lt hi), elt_zero]

/-- A step (g, c) of a product on A elements data has been committed from v, with a generator state of rng. -/
structure State.StepCommitted (v u : State) (d : Dome) (g c : Nat) (data : List (List Nat)) (rng : BitVec 32) : Prop where
  rest : u = { v with cores := u.cores }
  st : u.st = { v.st with flags := u.st.flags }
  rowBuf : u.me.rowBuf = v.me.rowBuf
  rngs : u.me.rngs = rng.setWidth 64
  acc : ∀ a i n, i < 128 → n < 128 / accW d.t → u.me.accGet (accW d.t) a i n =
    if a = d.m ∧ i ∈ grp g (tM d.t) ∧ n < tN d.t then d.el v.me g c data i n % 2 ^ (32 * accW d.t) else v.me.accGet (accW d.t) a i n

theorem accGet_congr {k l : Core} (h : l.acc = k.acc) (cw a i n : Nat) : l.accGet cw a i n = k.accGet cw a i n := by
  rw [Core.accGet, Core.accGet, h]

theorem stepDone_committed (v : State) {d : Dome} (hd : isDome d.t = true) (g c : Nat) (data : List (List Nat)) (rows : List Nat) (r : Raise) :
    ∃ u, stepDone rows (d.step g c (fun i x => (data.getD i []).getD x 0) v.me r) v = .ok rows u ∧ v.StepCommitted u d g c data r.rng := by
  obtain ⟨hset, hrng⟩ := d.step_accSet hd g c data v.me r
  generalize hz : d.step g c (fun i x => (data.getD i []).getD x 0) v.me r = z at hset hrng
  have hwme : (v.setCore v.core z.1).me = z.1 := by
    change (v.setCore v.core z.1).coreAt v.core = z.1
    rw [State.coreAt_setCore, if_pos rfl]
  have hwst : (v.setCore v.core z.1).st = v.st := by
    change fget ({} : Strand) (v.setCore v.core z.1).me.ctxs v.ctx = fget ({} : Strand) v.me.ctxs v.ctx
    rw [hwme, hset.rest]
  have hme := State.me_commit (v.setCore v.core z.1) z.2
  rw [hwme] at hme
  refine ⟨_, rfl, ?_, ?_, ?_, ?_, ?_⟩
  · rw [State.commit_eq]
    rfl
  · rw [State.st_commit, hwst]
  · rw [hme, hset.rest]
  · rw [hme, hrng]
  · intro a i n hi hn
    rw [hme]
    change z.1.accGet (accW d.t) a i n = _
    split
    · next h =>
      obtain ⟨rfl, hc⟩ := h
      exact hset.set i n hi hn ⟨hc.1, List.mem_range.2 hc.2⟩
    · next h => exact hset.held a i n hi hn fun e => h ⟨e.1, e.2.1, List.mem_range.1 e.2.2⟩

end Sys2Proof.Machine
end

section
/-! A step of a cooperative product, by member and by what the row buffer holds (R184, R190, R191). -/

namespace Sys2Proof.Machine
open Sys2Proof

/-! ### States that a product's step does not tell apart -/

/-- v has what a step of a product uses and keeps of s: memory, the strand, accumulators, the B buffers, the generator. -/
structure State.SameProduct (s v : State) : Prop where
  core : v.core = s.core
  ctx : v.ctx = s.ctx
  byte : ∀ a, v.byte a = s.byte a
  st : v.st = s.st
  acc : v.me.acc = s.me.acc
  fb : v.me.fb = s.me.fb
  rngs : v.me.rngs = s.me.rngs

theorem State.SameProduct.refl (s : State) : s.SameProduct s := ⟨rfl, rfl, fun _ => rfl, rfl, rfl, rfl, rfl⟩

theorem State.SameProduct.trans {s t u : State} (h : s.SameProduct t) (k : t.SameProduct u) : s.SameProduct u where
  core := k.core.trans h.core
  ctx := k.ctx.trans h.ctx
  byte a := (k.byte a).trans (h.byte a)
  st := k.st.trans h.st
  acc := k.acc.trans h.acc
  fb := k.fb.trans h.fb
  rngs := k.rngs.trans h.rngs

theorem State.Powered.sameProduct {s t : State} (h : s.Powered t) : s.SameProduct t where
  core := h.core_eq
  ctx := by rw [h.rest]
  byte := h.sameView.byte
  st := h.st_eq
  acc := by rw [h.me_eq]
  fb := by rw [h.me_eq]
  rngs := by rw [h.me_eq]

theorem State.Posted.sameProduct {s t : State} (h : s.Posted t) : s.SameProduct t where
  core := h.core_eq
  ctx := h.ctx_eq
  byte := h.byte
  st := h.st_eq
  acc := by rw [h.me_eq]
  fb := by rw [h.me_eq]
  rngs := by rw [h.me_eq]

/-- A change of the acting core that leaves its contexts, accumulators, B buffers and generator. -/
theorem State.sameProduct_modMe (s : State) {f : Core → Core} (hc : ∀ k, (f k).ctxs = k.ctxs) (ha : ∀ k, (f k).acc = k.acc)
    (hb : ∀ k, (f k).fb = k.fb) (hr : ∀ k, (f k).rngs = k.rngs) : s.SameProduct (s.modMe f) where
  core := rfl
  ctx := rfl
  byte _ := rfl
  st := s.strandAt_modMe f hc _ _
  acc := by rw [State.me_modMe, ha]
  fb := by rw [State.me_modMe, hb]
  rngs := by rw [State.me_modMe, hr]

theorem Dome.el_congr (d : Dome) {k l : Core} (hacc : l.acc = k.acc) (hfb : l.fb = k.fb) (g c : Nat) (data : List (List Nat)) (i n : Nat) :
    d.el l g c data i n = d.el k g c data i n := by
  have hb : d.bVals c l n = d.bVals c k n := by simp only [Dome.bVals, Core.fbGet, hfb]
  rw [Dome.el, Dome.el, hb, accGet_congr hacc]

/-! ### A step that commits -/

/-- The step after step p.step of a pending product: what a committed step leaves pending. -/
def Pend.stepped (p : Pend) (rows : List Nat) (rng : Word) : Pend := { p with step := p.step + 1, rows := rows, rngs := rng }

section
variable {s v : State} {p : Pend} {op : Env → State → MatOp} {d : Dome} {g c : Nat} {data : List (List Nat)} {rows : List Nat}

/-- What is left of a step of a product that commits from v, of which the operation kept what it uses of s. -/
structure State.ProductStepped (s v t : State) (p : Pend) (d : Dome) (g c : Nat) (data : List (List Nat)) (rows : List Nat) : Prop where
  acc : ∀ a i n, i < 128 → n < 128 / accW d.t → t.me.accGet (accW d.t) a i n =
    if a = d.m ∧ i ∈ grp g (tM d.t) ∧ n < tN d.t then d.el s.me g c data i n % 2 ^ (32 * accW d.t) else s.me.accGet (accW d.t) a i n
  byte : ∀ a, t.byte a = s.byte a
  regs : ∀ r, t.g r = s.g r
  pc : t.st.pc = s.st.pc
  pend : t.st.pend = [p.stepped rows ((s.me.rngs.setWidth 32).setWidth 64)]
  net : t.net = v.net
  rowBuf : t.me.rowBuf = v.me.rowBuf

theorem State.StepTurn.productStepped (h : s.StepTurn p op) (hd : isDome d.t = true) (hv : s.SameProduct v) (hpend : s.st.pend = [p])
    (hn : p.step + 1 < (op p.env s).n)
    (hstep : (op p.env s).step p.step p.rows s = stepDone rows (d.step g c (fun i x => (data.getD i []).getD x 0) v.me s.calm) v) :
    ∃ t, exec (.macroStepCommit s.core) s = .next t ∧ s.ProductStepped v t p d g c data rows := by
  obtain ⟨u, hu, hcom⟩ := stepDone_committed v hd g c data rows s.calm
  have hcore : u.core = s.core := (by rw [hcom.rest] : u.core = v.core).trans hv.core
  have hctx : u.ctx = s.ctx := (by rw [hcom.rest] : u.ctx = v.ctx).trans hv.ctx
  refine ⟨_, h.exec_ok (hstep.trans hu) hn hcore hctx, ?_, ?_, ?_, ?_, ?_, ?_, ?_⟩
  · intro a i n hi hn
    rw [State.modPend, State.me_modSt]
    refine (hcom.acc a i n hi hn).trans ?_
    rw [d.el_congr hv.acc hv.fb, accGet_congr hv.acc]
  · intro a
    refine Eq.trans ?_ (hv.byte a)
    rw [hcom.rest]
    rfl
  · intro r
    rw [State.g, State.modPend, State.st_modSt, hcom.st, hv.st, State.g]
  · rw [State.modPend, State.st_modSt, hcom.st, hv.st]
  · rw [State.modPend, State.st_modSt, hcom.st, hv.st, hpend, hcom.rngs]
    simp [Pend.stepped, State.calm]
  · rw [State.modPend]
    rw [hcom.rest]
    rfl
  · rw [State.modPend, State.me_modSt]
    exact hcom.rowBuf

end

/-! ### A step that traps -/

section
variable {u : State} {p : Pend} {x : Trap}

theorem State.trimTakes_eq (u : State) (c x n : Nat) : u.trimTakes c x n = { u with spires := (u.trimTakes c x n).spires } := by
  unfold State.trimTakes
  dsimp only
  split <;> rfl

/-- A strand, no handler and no part of a composed core, as its trap handler begins (R349). -/
def Strand.trapped (x : Trap) (pc : BitVec 48) (w : Nat) (cont : BitVec 48) (tvec : Word) (tick : Nat) (t : Strand) : Strand :=
  { t with
    tCode := BitVec.ofNat 8 x.code, tInfo := x.info, tPc := pc, tW := BitVec.ofNat 4 w, tDfr := x.dfr,
    tCont := if w = 0 then pc + 4 else cont, tRe := trapRe x, tCmp := false, tSwHi := t.sw.extractLsb' 48 16, tHab := false,
    tHeld := BitVec.ofNat 4 t.held.length,
    sys := true, pc := BitVec.ofNat 48 (bitsOf tvec 47 2 * 4), tAct := true, wd := 0,
    since := if t.life = .ready then t.since else tick, life := .ready, awaiting := false, waitBar := none, waitEv := none,
    cond := false, waitSq := false, found := none, replay := none }

/-- A trap counted. -/
def Core.trapCounted (k : Core) : Core := { k with tcount := if k.tcount.toNat < 0xFFFFFFFF then k.tcount + 1 else k.tcount }

/-- Trap entry of the acting strand, no handler and of no composed core, with a trap vector and no trap taken (R349). -/
theorem State.enterTrap_acting (hcmp : u.st.cmp = false) (hhnd : u.st.hnd = false) (hact : u.st.tAct = false) (hvec : bitsOf u.me.tvec 47 2 ≠ 0)
    (pc : BitVec 48) (w : Nat) (cont : BitVec 48) : u.enterTrap u.core u.ctx x pc w cont =
      ((u.trimTakes u.core u.ctx 0).modSt (Strand.trapped x pc w cont u.me.tvec u.tick)).modMe Core.trapCounted := by
  have hst : u.strandAt u.core u.ctx = u.st := rfl
  have hme : u.coreAt u.core = u.me := rfl
  simp only [State.enterTrap, hst, hcmp, hhnd, hact, hme, hvec, Bool.false_eq_true, if_false, Bool.false_and]
  have hv := u.trimTakes_eq u.core u.ctx 0
  generalize u.trimTakes u.core u.ctx 0 = v at hv
  have hcore : v.core = u.core := by rw [hv]
  have hctx : v.ctx = u.ctx := by rw [hv]
  have htick : v.tick = u.tick := by rw [hv]
  have hvst : v.strandAt u.core u.ctx = u.st := by rw [hv]; rfl
  simp only [State.modSt, State.modMe, State.modStrand, State.setStrand_core, hcore, hctx, hvst, htick, Strand.trapped]
  rfl

/-- The only pending instruction of a strand, a committed one, has trapped: its trap is taken (R98, R349). -/
theorem State.failed_only (hpend : u.st.pend = [p]) (hcom : p.com = true) (hrep : u.st.replay = none) (hheld : u.st.held = [])
    (hend : u.st.ended = false) (hcmp : u.st.cmp = false) (hhnd : u.st.hnd = false) (hact : u.st.tAct = false)
    (hvec : bitsOf u.me.tvec 47 2 ≠ 0) :
    let t := u.failed u.core u.ctx p.order x
    t.st.tCode = BitVec.ofNat 8 x.code ∧ t.st.tPc = p.pc ∧ t.st.tAct = true ∧ t.st.pend = [] ∧ t.core = u.core ∧ t.ctx = u.ctx ∧
      t.me = { u.me with ctxs := t.me.ctxs, tcount := t.me.tcount } := by
  intro t
  have hst : u.strandAt u.core u.ctx = u.st := rfl
  let life := if p.yields then Life.ready else u.st.life
  let since := if p.yields && u.st.life != .ready then u.tick else u.st.since
  let w : State := u.modSt fun t => { t with life := life, since := since, pend := [], found := none, held := [], pc := p.pc }
  have ht : t = w.enterTrap u.core u.ctx x p.pc p.w u.st.pc := by
    simp only [t, State.failed, State.settle, State.strandAt_modStrand, hst, hpend, and_self, if_true, List.map_cons, List.map_nil, List.find?_cons,
      Option.isSome_some, contOf, hcom, Bool.not_true, List.find?_nil, List.filter_cons, List.filter_nil, List.any_cons, List.any_nil,
      Option.isNone_some, Bool.or_false, Bool.false_eq_true, if_false, hend, List.filterMap_nil, List.nil_append, hheld, hrep,
      List.length_cons]
    refine congrArg (fun w : State => w.enterTrap u.core u.ctx x p.pc p.w u.st.pc) ?_
    change ((u.modSt _).modSt _).modSt _ = _
    rw [State.modSt_modSt, State.modSt_modSt]
    refine congrArg (u.setStrand u.core u.ctx) ?_
    change _ = ({ u.st with life := life, since := since, pend := [], found := none, held := [], pc := p.pc } : Strand)
    simp only [beq_self_eq_true, Bool.true_and, life, since]
    rfl
  have hwst := State.st_modSt u fun t => { t with life := life, since := since, pend := [], found := none, held := [], pc := p.pc }
  have hwme : w.me = _ := State.me_modSt u _
  have hacting := State.enterTrap_acting (u := w) (x := x) (by rw [hwst]; exact hcmp) (by rw [hwst]; exact hhnd) (by rw [hwst]; exact hact)
    (by rw [hwme]; exact hvec) p.pc p.w u.st.pc
  have hv := w.trimTakes_eq w.core w.ctx 0
  generalize w.trimTakes w.core w.ctx 0 = v at hv hacting
  have hvst : v.st = w.st := by rw [hv]; rfl
  have hvme : v.me = w.me := by rw [hv]; rfl
  have ht' : t = _ := ht.trans hacting
  have htst : t.st = Strand.trapped x p.pc p.w u.st.pc w.me.tvec w.tick w.st := by
    rw [ht']
    refine (State.strandAt_modMe _ _ (by intro; rfl) _ _).trans ?_
    rw [← hvst]
    exact State.st_modSt v _
  have htme : t.me = _ := (congrArg State.me ht').trans ((State.me_modMe _ _).trans (congrArg Core.trapCounted (State.me_modSt v _)))
  rw [htst, hwst]
  refine ⟨rfl, rfl, rfl, rfl, ?_, ?_, ?_⟩
  · rw [ht']; change v.core = _; rw [hv]; rfl
  · rw [ht']; change v.ctx = _; rw [hv]; rfl
  · rw [htme, hvme, hwme]
    rfl

end

end Sys2Proof.Machine
end

section
/-! Cooperative products: the first member of a row sends, the others receive (R190, R191). -/

namespace Sys2Proof.Machine
open Sys2Proof

/-! ### What the row buffer gives -/

theorem Core.coOwn_eq_false_of_coNew {k : Core} {desc : Word} {b : CoRows} (h : k.coOrd b.desc < b.ord) : k.coOwn desc b = false := by
  rw [Core.coOwn, Bool.and_eq_false_iff]
  by_cases hd : b.desc = desc
  · subst hd
    right
    simp
    omega
  · left
    simpa using hd

theorem coDrop_of_not_own {own : CoRows → Bool} (j : Nat) {l : List CoRows} (h : ∀ b ∈ l, own b = false) : coDrop own j l = l := by
  induction l with
  | nil => rfl
  | cons b l ih =>
    rw [List.forall_mem_cons] at h
    rw [coDrop, h.1, ih h.2]
    rfl

section
variable {k : Core} {desc : Word} {j : Nat} {b : CoRows} {rest : List CoRows}

/-- A buffer of products to come keeps all it holds. -/
theorem Core.coLive_of_new (h : ∀ e ∈ k.rowBuf, k.coOrd e.desc < e.ord) : k.coLive desc j = k.rowBuf := by
  have hf : (k.rowBuf.filter fun b => k.coNew b || (decide (0 < j) && k.coOwn desc b)) = k.rowBuf :=
    List.filter_eq_self.2 fun e he => by simp [Core.coNew, h e he]
  rw [Core.coLive, hf, coDrop_of_not_own j fun e he => Core.coOwn_eq_false_of_coNew (h e he)]

/-- A buffer whose first rows are those of the own product's step, and the others of its later ones, keeps all it holds. -/
theorem Core.coLive_of_own (hj : 0 < j) (hbuf : k.rowBuf = b :: rest) (hrest : ∀ e ∈ rest, e.desc = desc ∧ k.coOrd desc ≤ e.ord)
    (hdesc : b.desc = desc) (hord : b.ord = k.coOrd desc) (hstep : b.step = j) : k.coLive desc j = k.rowBuf := by
  have hown : k.coOwn desc b = true := by simp [Core.coOwn, hdesc, hord]
  have hf : (k.rowBuf.filter fun b => k.coNew b || (decide (0 < j) && k.coOwn desc b)) = b :: rest := by
    rw [hbuf, List.filter_eq_self]
    intro e he
    rcases List.mem_cons.1 he with rfl | he
    · simp [hown, hj]
    · obtain ⟨hd, ho⟩ := hrest e he
      rcases Nat.eq_or_lt_of_le ho with ho | ho
      · simp [Core.coOwn, hd, hj, ho]
      · simp [Core.coNew, hd, ho]
  rw [Core.coLive, hf, coDrop, hown, hstep, hbuf]
  simp

end

section
variable {s : State} {desc : Word} {j : Nat} {b : CoRows} {rest live : List CoRows}

/-- No rows of the own product: a member waits while rows of it are on their way, or there are none of another descriptor. -/
theorem State.coPick_none (hj : j ≠ 0) (hown : ∀ e ∈ live, s.me.coOwn desc e = false)
    (h : s.coOwed s.core desc = true ∨ ∀ e ∈ live, e.desc = desc) : s.coPick desc j live = none := by
  have hfind : live.find? (s.me.coOwn desc) = none := List.find?_eq_none.2 fun e he => by simp [hown e he]
  rw [State.coPick, if_neg hj, hfind]
  rcases h with h | h
  · simp [h]
  · have : (live.find? fun b => b.desc != desc) = none := List.find?_eq_none.2 fun e he => by simp [h e he]
    simp [this]

/-- Rows of another descriptor are taken when no rows of the own product are there or on their way. -/
theorem State.coPick_other (hj : j ≠ 0) (hown : ∀ e ∈ b :: rest, s.me.coOwn desc e = false) (howed : s.coOwed s.core desc = false)
    (hdesc : b.desc ≠ desc) : s.coPick desc j (b :: rest) = some b := by
  have hfind : (b :: rest).find? (s.me.coOwn desc) = none := List.find?_eq_none.2 fun e he => by simp [hown e he]
  rw [State.coPick, if_neg hj, hfind]
  simp [howed, hdesc]

theorem State.coPick_own (hj : j ≠ 0) (hdesc : b.desc = desc) (hord : b.ord = s.me.coOrd desc) : s.coPick desc j (b :: rest) = some b := by
  have hown : s.me.coOwn desc b = true := by simp [Core.coOwn, hdesc, hord]
  rw [State.coPick, if_neg hj, List.find?_cons, hown]

end

/-! ### A member that receives -/

/-- The row buffer written. -/
def State.withRowBuf (s : State) (l : List CoRows) : State := s.modMe fun c => { c with rowBuf := l }

theorem State.me_withRowBuf (s : State) (l : List CoRows) : (s.withRowBuf l).me = { s.me with rowBuf := l } := s.me_modMe _

theorem State.st_withRowBuf (s : State) (l : List CoRows) : (s.withRowBuf l).st = s.st := s.strandAt_modMe _ (by intro; rfl) _ _

theorem State.sameProduct_withRowBuf (s : State) (l : List CoRows) : s.SameProduct (s.withRowBuf l) :=
  s.sameProduct_modMe (by intro; rfl) (by intro; rfl) (by intro; rfl) (by intro; rfl)

/-- Rows b taken from a buffer that then holds rest: their number is the number of the member's product. -/
def State.tookRows (s : State) (b : CoRows) (rest : List CoRows) : State :=
  ((s.withRowBuf s.me.rowBuf).modMe fun c => c.setOrd b.desc b.ord).withRowBuf rest

theorem State.me_tookRows (s : State) (b : CoRows) (rest : List CoRows) :
    (s.tookRows b rest).me = { s.me with coCnt := fset s.me.coCnt b.desc.toNat b.ord, rowBuf := rest } := by
  rw [State.tookRows, State.me_withRowBuf, State.me_modMe, State.me_withRowBuf]
  rfl

theorem State.sameProduct_tookRows (s : State) (b : CoRows) (rest : List CoRows) : s.SameProduct (s.tookRows b rest) :=
  (s.sameProduct_withRowBuf _).trans ((State.sameProduct_modMe _ (by intro; rfl) (by intro; rfl) (by intro; rfl) (by intro; rfl)).trans
    (State.sameProduct_withRowBuf _ rest))

section
variable {s : State} {d : Dome} {desc : Word} {j : Nat} {i : Instr} {b : CoRows} {rest : List CoRows} (hlive : s.me.coLive desc j = s.me.rowBuf)

theorem State.coPick_withRowBuf (s : State) (desc : Word) (j : Nat) (l : List CoRows) :
    (s.withRowBuf s.me.rowBuf).coPick desc j l = s.coPick desc j l := by
  have hme : (s.withRowBuf s.me.rowBuf).me = s.me := s.me_withRowBuf _
  have howed : (s.withRowBuf s.me.rowBuf).coOwed (s.withRowBuf s.me.rowBuf).core desc = s.coOwed s.core desc := by
    have hat : (s.withRowBuf s.me.rowBuf).coreAt (s.withRowBuf s.me.rowBuf).core = s.coreAt s.core := hme
    rw [State.coOwed, State.coOwed, hat]
    rfl
  rw [State.coPick, State.coPick, hme, howed]

include hlive

theorem coReceive_none (hpick : s.coPick desc j s.me.rowBuf = none) : coReceive d desc j i s = .stall (s.withRowBuf s.me.rowBuf) := by
  have h := s.coPick_withRowBuf desc j s.me.rowBuf
  rw [hpick] at h
  simp only [State.withRowBuf] at h ⊢
  simp only [coReceive, hlive, h]

theorem coReceive_own (hbuf : s.me.rowBuf = b :: rest) (hpick : s.coPick desc j s.me.rowBuf = some b) (hdesc : b.desc = desc)
    (hk : b.k = tK d.t) (haf : b.af = tAf d.t) : coReceive d desc j i s =
      stepDone [] (d.step (j / d.nk) (j % d.nk) (fun i x => (b.rows.getD i []).getD x 0) (s.tookRows b rest).me s.calm) (s.tookRows b rest) := by
  have h := s.coPick_withRowBuf desc j s.me.rowBuf
  have hcalm : (s.tookRows b rest).calm = s.calm := by rw [State.calm, s.me_tookRows]; rfl
  rw [hpick] at h
  have herase : s.me.rowBuf.erase b = rest := by rw [hbuf, List.erase_cons_head]
  rw [← hcalm]
  simp only [State.tookRows, State.withRowBuf] at h ⊢
  simp [coReceive, hlive, h, herase, hdesc, hk, haf]

theorem coReceive_trap (hj : j ≠ 0) (hbuf : s.me.rowBuf = b :: rest) (hpick : s.coPick desc j s.me.rowBuf = some b)
    (hbad : b.desc ≠ desc ∨ b.k ≠ tK d.t ∨ b.af ≠ tAf d.t) (hrest : ∀ e ∈ rest, ¬(e.desc = b.desc ∧ e.ord = b.ord)) :
    coReceive d desc j i s = .trap (tr cReservedField (i.word + w64 (bitsOf d.t 31 0 * 2 ^ 32))) (s.tookRows b rest) := by
  have h := s.coPick_withRowBuf desc j s.me.rowBuf
  rw [hpick] at h
  have herase : s.me.rowBuf.erase b = rest := by rw [hbuf, List.erase_cons_head]
  have hfilter : (rest.filter fun a => !(a.desc == b.desc && a.ord == b.ord)) = rest :=
    List.filter_eq_self.2 fun e he => by simpa [imp_iff_not_or] using hrest e he
  simp only [State.tookRows, State.withRowBuf] at h ⊢
  simp only [coReceive, hlive, h, herase, if_pos hbad, hfilter, if_neg hj]

end

end Sys2Proof.Machine
end

section
/-! One step of mma.co, on the first member of a row and on another (R190, R191). -/

namespace Sys2Proof.Machine
open Sys2Proof

/-! ### What the first member of a row does with a step's rows -/

/-- At its first step a product gets its number, and the addresses of its A are kept (R192). -/
def State.coBegun (d : Dome) (desc : Word) (ptr : Ptr) (j : Nat) (s : State) : State :=
  if j = 0 then s.modMe fun k => { k.setOrd desc (k.coOrd desc + 1) with
    coops := { desc := desc, ord := k.coOrd desc + 1, ptr := ptr, tsh := d.t, fmt := d.fmt, scl := d.scl,
               lix := s.st.lix, sys := s.st.sys, ctx := s.ctx } :: k.coops }
  else s

/-- The message of a step's A elements. -/
def Dome.rowsMsg (d : Dome) (desc : Word) (j c : Nat) (rows : List Nat) (s : State) : Pay :=
  .rows desc (s.me.coOrd desc) (tK d.t) (tAf d.t) j (stepRows d c rows)

/-- The first member's part of a step: the product has its number, and each member to its right is sent the step's A elements. -/
def State.coSent (d : Dome) (desc : Word) (ptr : Ptr) (j c : Nat) (rows : List Nat) (s : State) : State :=
  let s := s.coBegun d desc ptr j
  (coRow desc s.core).foldl (fun s m => s.post s.core m 2 s.ctx s.st.lix 0 (d.rowsMsg desc j c rows s)) s

section
variable (d : Dome) (desc : Word) (ptr : Ptr) (j c : Nat) (rows : List Nat) (s : State)

theorem State.sameProduct_coBegun : s.SameProduct (s.coBegun d desc ptr j) := by
  unfold State.coBegun
  split
  · exact s.sameProduct_modMe (by intro; rfl) (by intro; rfl) (by intro; rfl) (by intro; rfl)
  · exact .refl s

theorem State.coOrd_coBegun : (s.coBegun d desc ptr j).me.coOrd desc = if j = 0 then s.me.coOrd desc + 1 else s.me.coOrd desc := by
  unfold State.coBegun
  split
  · rw [State.me_modMe]
    exact fget_fset_self 0 _ s.me.coCnt desc.toNat
  · rfl

theorem State.net_coBegun : (s.coBegun d desc ptr j).net = s.net := by
  unfold State.coBegun
  split <;> rfl

/-- Sending leaves what a step uses, and puts a message to each member into the network. -/
theorem State.coSent_spec : s.SameProduct (s.coSent d desc ptr j c rows) ∧
    ∃ fs, (s.coSent d desc ptr j c rows).net = s.net ++ fs ∧ fs.map Flight.gist = (coRow desc s.core).map fun x => (s.core, x, 2,
      Pay.rows desc (if j = 0 then s.me.coOrd desc + 1 else s.me.coOrd desc) (tK d.t) (tAf d.t) j (stepRows d c rows)) := by
  obtain ⟨hp, fs, hnet, hgist⟩ := State.foldl_post (d.rowsMsg desc j c rows)
    (fun {s t} h => by rw [Dome.rowsMsg, Dome.rowsMsg, h.me_eq]; rfl) (coRow desc (s.coBegun d desc ptr j).core) (s.coBegun d desc ptr j)
  rw [State.net_coBegun] at hnet
  rw [Dome.rowsMsg, State.coOrd_coBegun, (s.sameProduct_coBegun d desc ptr j).core] at hgist
  exact ⟨(s.sameProduct_coBegun d desc ptr j).trans hp.sameProduct, fs, hnet, hgist⟩

end

section
variable {s : State} {d : Dome} {k : BitVec 4} {j : Nat} {held rows : List Nat} {bs : List Blk}

/-- A step on A elements as they lie in rows is the step on the elements that it sends. -/
theorem Dome.step_rows (d : Dome) (g c : Nat) (rows : List Nat) (k : Core) (r : Raise) :
    d.step g c (fun i x => elt (fmtWidth (tAf d.t)) (rows.getD i 0) ((d.ks c).getD x 0)) k r =
      d.step g c (fun i x => ((stepRows d c rows).getD i []).getD x 0) k r :=
  d.step_congr g c (fun i _ hx => (stepRows_getD d c rows i hx).symm) k r

/-- A step that holds its group's rows goes on with them. -/
theorem domeStep_held (hc : j % d.nk ≠ 0) (hrows : rows ≠ []) (after : Nat → List Nat → State → State) :
    domeStep d k j rows after s = stepDone rows (d.step (j / d.nk) (j % d.nk)
      (fun i x => ((stepRows d (j % d.nk) rows).getD i []).getD x 0) (after (j % d.nk) rows s).me s.calm) (after (j % d.nk) rows s) := by
  have hne : rows.isEmpty = false := by simpa using hrows
  simp only [domeStep, hc, hne, Bool.false_eq_true, or_self, if_false, Dome.step_rows]

/-- The first step of a group reads its rows through the pointer. -/
theorem domeStep_first (hc : j % d.nk = 0) (hbad : s.bad = []) (hsoft : s.soft = []) (htags : s.me.fmt.getLsbD 15 = false)
    (hblks : s.blks .rd ((ptrOf s.me.ptr k).run ((grp (j / d.nk) (tM d.t)).length * rowBlks (tK d.t) (tAf d.t))).1 = .ok bs)
    (hbusy : bs.any s.blkBusy = false) (after : Nat → List Nat → State → State) :
    ∃ w, s.SameProduct w ∧ w.net = s.net ∧ w.me.coCnt = s.me.coCnt ∧
      let rows := (List.range (grp (j / d.nk) (tM d.t)).length).map (s.rowOf bs (rowBlks (tK d.t) (tAf d.t)))
      domeStep d k j held after s = stepDone rows (d.step (j / d.nk) (j % d.nk)
        (fun i x => ((stepRows d (j % d.nk) rows).getD i []).getD x 0) (after (j % d.nk) rows w).me s.calm) (after (j % d.nk) rows w) := by
  obtain ⟨u, hp, hu⟩ := withRows_ok hbad hsoft htags hblks hbusy (tAf d.t) (tK d.t) fun rows r t =>
    stepDone rows (d.step (j / d.nk) (j % d.nk) (fun i x => elt (fmtWidth (tAf d.t)) (rows.getD i 0) ((d.ks (j % d.nk)).getD x 0))
      (after (j % d.nk) rows t).me (if j % d.nk = 0 then r else t.calm)) (after (j % d.nk) rows t)
  refine ⟨u.modMe fun c => { c with
      ptr := fset c.ptr k.toNat ((ptrOf s.me.ptr k).run ((grp (j / d.nk) (tM d.t)).length * rowBlks (tK d.t) (tAf d.t))).2 },
    hp.sameProduct.trans (u.sameProduct_modMe (by intro; rfl) (by intro; rfl) (by intro; rfl) (by intro; rfl)), ?_, ?_, ?_⟩
  · rw [State.modMe_net, hp.rest]
  · rw [State.me_modMe, hp.me_eq]
  · simp only [domeStep, if_pos (Or.inl hc : j % d.nk = 0 ∨ held.isEmpty = true)]
    refine hu.trans ?_
    rw [if_pos hc, Dome.step_rows]

end

/-! ### mma.co -/

section
variable {s : State} {p : Pend} {la : BitVec 4} {m : BitVec 2} {k ga gb : BitVec 4} {neg nacc fb scl : BitVec 1}

/-- A step of mma.co (R190). -/
theorem opMmaCo_step (s : State) (e : Env) (j : Nat) (rows : List Nat) (t : State) :
    (opMmaCo la m k ga gb neg nacc fb scl e s).step j rows t =
      if !(coX s.core == coX0 (e.r 13)) then
        coReceive (domeOf m ga gb neg nacc fb scl e s) (e.r 13) j (.mmaCo la m k ga gb neg nacc fb scl) t
      else if (coRow (e.r 13) t.core).any fun d => t.rowsFull t.core d then .stall t
      else domeStep (domeOf m ga gb neg nacc fb scl e s) k j rows
        (State.coSent (domeOf m ga gb neg nacc fb scl e s) (e.r 13) (ptrOf t.me.ptr k) j) t := rfl

/-- A step of another member than the first of a row. -/
theorem opMmaCo_member (hx : coX s.core ≠ coX0 (gread p.g 13)) (j : Nat) (rows : List Nat) (t : State) :
    (opMmaCo la m k ga gb neg nacc fb scl p.env s).step j rows t =
      coReceive (domeOf m ga gb neg nacc fb scl p.env s) (gread p.g 13) j (.mmaCo la m k ga gb neg nacc fb scl) t := by
  have hfirst : (coX s.core == coX0 (p.env.r 13)) = false := beq_eq_false_iff_ne.2 hx
  rw [opMmaCo_step, hfirst]
  rfl

/-- A step of the first member of a row, when every other has room for it. -/
theorem opMmaCo_first (hx : coX s.core = coX0 (gread p.g 13))
    (hroom : ((coRow (gread p.g 13) s.core).any fun d => s.rowsFull s.core d) = false) (j : Nat) (rows : List Nat) :
    (opMmaCo la m k ga gb neg nacc fb scl p.env s).step j rows s = domeStep (domeOf m ga gb neg nacc fb scl p.env s) k j rows
      (State.coSent (domeOf m ga gb neg nacc fb scl p.env s) (gread p.g 13) (ptrOf s.me.ptr k) j) s := by
  have hfirst : (coX s.core == coX0 (p.env.r 13)) = true := beq_iff_eq.2 hx
  have hfull : ((coRow (p.env.r 13) s.core).any fun d => s.rowsFull s.core d) = false := hroom
  rw [opMmaCo_step, hfirst, hfull]
  rfl

end

end Sys2Proof.Machine
end

section
/-! The outcomes of a step of mma.co, by member and by what its row buffer holds (R184, R190, R191). -/

namespace Sys2Proof.Machine
open Sys2Proof

/-- What a trap at a step keeps for its replay leaves the row buffer, the accumulators and the trap vector, and names the step in mstep. -/
theorem State.me_keptFor (u s : State) (p : Pend) (o : MatOp) :
    (u.keptFor s p o).me.rowBuf = u.me.rowBuf ∧ (u.keptFor s p o).me.acc = u.me.acc ∧ (u.keptFor s p o).me.tvec = u.me.tvec ∧
      (u.keptFor s p o).me.mstep = mstepWord u.ctx o.acc p.step := by
  rw [State.keptFor, State.me_modMe]
  exact ⟨rfl, rfl, rfl, rfl⟩

section
variable {s : State} {p : Pend} {la : BitVec 4} {m : BitVec 2} {k ga gb : BitVec 4} {neg nacc fb scl : BitVec 1} {d : Dome}
  {rows : List Nat} {bs : List Blk} {b : CoRows} {rest : List CoRows}

/-- A step of mma.co before the last, of the strand's only pending instruction; d is its product. -/
structure State.CoTurn (s : State) (p : Pend) (la : BitVec 4) (m : BitVec 2) (k ga gb : BitVec 4) (neg nacc fb scl : BitVec 1) (d : Dome) :
    Prop extends s.StepTurn p (opMmaCo la m k ga gb neg nacc fb scl) where
  dome_eq : d = domeOf m ga gb neg nacc fb scl p.env s
  only : s.st.pend = [p]
  dome : isDome s.me.tshape = true
  more : p.step + 1 < (opMmaCo la m k ga gb neg nacc fb scl p.env s).n

variable (h : s.CoTurn p la m k ga gb neg nacc fb scl d)
include h

theorem State.CoTurn.isDome_t : isDome d.t = true := by
  rw [h.dome_eq]
  exact h.dome

/-- The first member of a row, with room at the others, commits a step on the rows of its group, those held or those read through the
pointer, and sends the step's A elements. -/
theorem State.CoTurn.first (hx : coX s.core = coX0 (gread p.g 13))
    (hroom : ((coRow (gread p.g 13) s.core).any fun d => s.rowsFull s.core d) = false) (hbad : s.bad = []) (hsoft : s.soft = [])
    (htags : s.me.fmt.getLsbD 15 = false)
    (hrows : (p.step % d.nk ≠ 0 ∧ p.rows = rows ∧ rows ≠ []) ∨ (p.step % d.nk = 0 ∧
      s.blks .rd ((ptrOf s.me.ptr k).run ((grp (p.step / d.nk) (tM d.t)).length * rowBlks (tK d.t) (tAf d.t))).1 = .ok bs ∧
      bs.any s.blkBusy = false ∧
      rows = (List.range (grp (p.step / d.nk) (tM d.t)).length).map (s.rowOf bs (rowBlks (tK d.t) (tAf d.t))))) :
    ∃ t v, exec (.macroStepCommit s.core) s = .next t ∧
      s.ProductStepped v t p d (p.step / d.nk) (p.step % d.nk) (stepRows d (p.step % d.nk) rows) rows ∧
      ∃ fs, v.net = s.net ++ fs ∧ fs.map Flight.gist = (coRow (gread p.g 13) s.core).map fun x => (s.core, x, 2,
        Pay.rows (gread p.g 13) (if p.step = 0 then s.me.coOrd (gread p.g 13) + 1 else s.me.coOrd (gread p.g 13)) (tK d.t) (tAf d.t) p.step
          (stepRows d (p.step % d.nk) rows)) := by
  have hop := opMmaCo_first (la := la) (m := m) (k := k) (ga := ga) (gb := gb) (neg := neg) (nacc := nacc) (fb := fb) (scl := scl) hx hroom
    p.step p.rows
  rw [← h.dome_eq] at hop
  obtain ⟨w, hw, hnet, hcnt, hstep⟩ : ∃ w, s.SameProduct w ∧ w.net = s.net ∧ w.me.coCnt = s.me.coCnt ∧
      domeStep d k p.step p.rows (State.coSent d (gread p.g 13) (ptrOf s.me.ptr k) p.step) s =
        stepDone rows (d.step (p.step / d.nk) (p.step % d.nk) (fun i x => ((stepRows d (p.step % d.nk) rows).getD i []).getD x 0)
          (State.coSent d (gread p.g 13) (ptrOf s.me.ptr k) p.step (p.step % d.nk) rows w).me s.calm)
          (State.coSent d (gread p.g 13) (ptrOf s.me.ptr k) p.step (p.step % d.nk) rows w) := by
    rcases hrows with ⟨hc, rfl, hne⟩ | ⟨hc, hblks, hbusy, rfl⟩
    · exact ⟨s, .refl s, rfl, rfl, domeStep_held hc hne _⟩
    · exact domeStep_first hc hbad hsoft htags hblks hbusy _
  obtain ⟨hsent, fs, hfs, hgist⟩ := w.coSent_spec d (gread p.g 13) (ptrOf s.me.ptr k) p.step (p.step % d.nk) rows
  obtain ⟨t, ht, hps⟩ := h.toStepTurn.productStepped h.isDome_t (hw.trans hsent) h.only h.more (hop.trans hstep)
  have hord : w.me.coOrd (gread p.g 13) = s.me.coOrd (gread p.g 13) := by rw [Core.coOrd, Core.coOrd, hcnt]
  rw [hnet] at hfs
  rw [hw.core, hord] at hgist
  exact ⟨t, _, ht, hps, fs, hfs, hgist⟩

variable (hx : coX s.core ≠ coX0 (gread p.g 13)) (hj : 0 < p.step)
include hx hj

/-- Another member waits while its buffer holds rows of products to come only, when rows of its own product are on their way, or the buffer
holds rows of no other descriptor. -/
theorem State.CoTurn.waits (hnew : ∀ e ∈ s.me.rowBuf, s.me.coOrd e.desc < e.ord)
    (hwait : s.coOwed s.core (gread p.g 13) = true ∨ ∀ e ∈ s.me.rowBuf, e.desc = gread p.g 13) :
    exec (.macroStepCommit s.core) s = .next (s.withRowBuf s.me.rowBuf) := by
  refine h.exec_stall ?_ h.more rfl rfl
  rw [opMmaCo_member hx]
  exact coReceive_none (Core.coLive_of_new hnew)
    (State.coPick_none (Nat.ne_of_gt hj) (fun e he => Core.coOwn_eq_false_of_coNew (hnew e he)) hwait)

/-- Another member commits its step on the rows that have come for it. -/
theorem State.CoTurn.takes (hbuf : s.me.rowBuf = b :: rest)
    (hrest : ∀ e ∈ rest, e.desc = gread p.g 13 ∧ s.me.coOrd (gread p.g 13) ≤ e.ord) (hdesc : b.desc = gread p.g 13)
    (hord : b.ord = s.me.coOrd (gread p.g 13)) (hstep : b.step = p.step) (hk : b.k = tK d.t) (haf : b.af = tAf d.t) :
    ∃ t, exec (.macroStepCommit s.core) s = .next t ∧
      s.ProductStepped (s.tookRows b rest) t p d (p.step / d.nk) (p.step % d.nk) b.rows [] := by
  refine h.toStepTurn.productStepped h.isDome_t (s.sameProduct_tookRows b rest) h.only h.more ?_
  rw [opMmaCo_member hx, ← h.dome_eq]
  exact coReceive_own (Core.coLive_of_own hj hbuf hrest hdesc hord hstep) hbuf
    (by rw [hbuf]; exact State.coPick_own (Nat.ne_of_gt hj) hdesc hord) hdesc hk haf

/-- Another member traps on rows, the oldest that it holds, that are none of its product's. -/
theorem State.CoTurn.refuses (hbuf : s.me.rowBuf = b :: rest) (hlive : s.me.coLive (gread p.g 13) p.step = s.me.rowBuf)
    (hpick : s.coPick (gread p.g 13) p.step s.me.rowBuf = some b) (hbad : b.desc ≠ gread p.g 13 ∨ b.k ≠ tK d.t ∨ b.af ≠ tAf d.t)
    (hrest : ∀ e ∈ rest, ¬(e.desc = b.desc ∧ e.ord = b.ord)) (hvec : bitsOf s.me.tvec 47 2 ≠ 0) (hact : s.st.tAct = false)
    (hrep : s.st.replay = none) (hheld : s.st.held = []) (hcmp : s.st.cmp = false) (hhnd : s.st.hnd = false) (hend : s.st.ended = false) :
    ∃ u, exec (.macroStepCommit s.core) s = .next u ∧ u.me.rowBuf = rest ∧ u.st.tCode = 0x02 ∧ u.st.tPc = p.pc ∧ u.st.tAct = true ∧
      u.st.pend = [] ∧ u.me.mstep = mstepWord s.ctx m.toNat p.step ∧ u.me.acc = s.me.acc := by
  have hop := opMmaCo_member (la := la) (m := m) (k := k) (ga := ga) (gb := gb) (neg := neg) (nacc := nacc) (fb := fb) (scl := scl) hx p.step
    p.rows s
  rw [← h.dome_eq, coReceive_trap hlive (Nat.ne_of_gt hj) hbuf hpick hbad hrest] at hop
  have hv := s.sameProduct_tookRows b rest
  set o := opMmaCo la m k ga gb neg nacc fb scl p.env s with ho
  set v := (s.tookRows b rest).keptFor s p o with hvdef
  have hvst : v.st = s.st := (State.strandAt_modMe _ _ (by intro; rfl) _ _).trans hv.st
  obtain ⟨hbuf', hacc', hvec', hmstep'⟩ := (s.tookRows b rest).me_keptFor s p o
  rw [s.me_tookRows b rest] at hbuf' hacc' hvec'
  rw [hv.ctx] at hmstep'
  have hfail := State.failed_only (u := v) (p := p) (x := tr cReservedField ((Instr.mmaCo la m k ga gb neg nacc fb scl).word +
      w64 (bitsOf d.t 31 0 * 2 ^ 32)))
    (by rw [hvst, h.only]) h.com (by rw [hvst, hrep]) (by rw [hvst, hheld]) (by rw [hvst, hend]) (by rw [hvst, hcmp]) (by rw [hvst, hhnd])
    (by rw [hvst, hact]) (by rw [hvdef, hvec']; exact hvec)
  obtain ⟨hcode, hpc, htact, hpend, hcore, hctx, hme⟩ := hfail
  refine ⟨_, h.exec_trap hop h.more, ?_⟩
  rw [State.with_core_ctx (u := v.failed (s.tookRows b rest).core (s.tookRows b rest).ctx p.order _) (hcore.trans hv.core) (hctx.trans hv.ctx)]
  exact ⟨(congrArg Core.rowBuf hme).trans hbuf', hcode, hpc, htact, hpend, (congrArg Core.mstep hme).trans hmstep',
    (congrArg Core.acc hme).trans hacc'⟩

end

end Sys2Proof.Machine
end

section
/-! The elements that a product of one step computes, as the statement of MacroOperationSteps writes them (R188, R189). -/

namespace Sys2Proof.Machine
open Sys2Proof

theorem elemOf_of_domeGroup {c : Nat} (h : domeGroup c ≠ 0) : ∃ f, elemOf c = some (.f f) := by
  unfold domeGroup at h
  split at h
  · exact ⟨_, rfl⟩
  · exact ⟨_, rfl⟩
  · exact ⟨_, rfl⟩
  · exact ⟨_, rfl⟩
  · exact ⟨_, rfl⟩
  · exact ⟨_, rfl⟩
  · exact absurd rfl h

/-- The operands of a dome product are floating point. -/
theorem elemOf_of_isDome {t : Word} (h : isDome t = true) : (∃ f, elemOf (tAf t) = some (.f f)) ∧ ∃ f, elemOf (tBf t) = some (.f f) := by
  unfold isDome at h
  split at h
  · simp only [Bool.and_eq_true, beq_iff_eq] at h
    obtain ⟨⟨⟨ha, hb⟩, -⟩, -⟩ := h
    rw [ha, hb]
    exact ⟨⟨_, rfl⟩, ⟨_, rfl⟩⟩
  · simp only [Bool.and_eq_true, beq_iff_eq, bne_iff_ne] at h
    obtain ⟨⟨⟨-, ha⟩, hab⟩, -⟩ := h
    exact ⟨elemOf_of_domeGroup ha, elemOf_of_domeGroup (hab ▸ ha)⟩

section
variable {s : State} {p : Pend} {m : BitVec 2} {ga gb : BitVec 4} {neg nacc fb scl : BitVec 1} {num : Nat → Nat → Fv}

/-- Steps of a row group. -/
theorem nk_domeOf (e : Env) : (domeOf m ga gb neg nacc fb scl e s).nk = if scl = 1 then 1 else (tK s.me.tshape + 15) / 16 := by
  simp [Dome.nk, domeOf, groups]

theorem ks_domeOf (e : Env) (c : Nat) : (domeOf m ga gb neg nacc fb scl e s).ks c =
    (List.range (tK s.me.tshape)).filter fun x => scl == 1 || x / 16 == c := by
  simp only [Dome.ks, domeOf, chunkIx, grp_eq]
  cases scl == 1
  · simp only [Bool.false_eq_true, if_false, Bool.false_or]
  · simp only [if_true, Bool.true_or, List.filter_true]

variable (hnum : ∀ f F c, elemOf f = some (.f F) → num f c = F.value c) (hd : isDome s.me.tshape = true)
include hnum hd

theorem aVals_domeOf (g c : Nat) (a : Nat → Nat → Nat) (i : Nat) :
    (let as := (domeOf m ga gb neg nacc fb scl p.env s).aVals g c a i
      if (neg == 1) = true then as.map Fv.neg else as) =
    (List.range ((domeOf m ga gb neg nacc fb scl p.env s).ks c).length).map fun x =>
      let v := num (tAf s.me.tshape) (a (i - 16 * g) x)
      if neg = 1 then v.neg else v := by
  obtain ⟨⟨F, hF⟩, -⟩ := elemOf_of_isDome hd
  have ht : (domeOf m ga gb neg nacc fb scl p.env s).t = s.me.tshape := rfl
  simp only [Dome.aVals, ht, hF, hnum _ _ _ hF, elemVal, Option.getD_some]
  by_cases hn : neg = 1
  · simp only [beq_iff_eq.2 hn, if_pos hn, if_true, List.map_map]
    rfl
  · simp only [beq_eq_false_iff_ne.2 hn, if_neg hn, Bool.false_eq_true, if_false]

theorem bVals_domeOf (c n : Nat) : (domeOf m ga gb neg nacc fb scl p.env s).bVals c s.me n =
    ((domeOf m ga gb neg nacc fb scl p.env s).ks c).map fun q =>
      num (tBf s.me.tshape) (s.me.fbGet fb.toNat (fmtWidth (tBf s.me.tshape)) q n) := by
  obtain ⟨-, G, hG⟩ := elemOf_of_isDome hd
  have ht : (domeOf m ga gb neg nacc fb scl p.env s).t = s.me.tshape := rfl
  simp only [Dome.bVals, ht, hG, hnum _ _ _ hG, elemVal, Option.getD_some]
  rfl

/-- The code that a step gives an element: by one scaled sum, by fused products, or by a chunk's exact sum. -/
theorem el_domeOf (g c : Nat) {ks : List Nat} (hks : (domeOf m ga gb neg nacc fb scl p.env s).ks c = ks) (data : List (List Nat)) (r n : Nat) :
    let t := s.me.tshape
    let fmt := s.me.fmt
    let d := domeOf m ga gb neg nacc fb scl p.env s
    let nb := ceilDiv (tK t) (blkLen fmt)
    let regs (g : BitVec 4) : List Word := if g = 0 then [] else if nb ≤ 8 then [gread p.g g] else [gread p.g g, gread p.g (g + 1)]
    let as := (List.range ks.length).map fun x =>
      let v := num (tAf t) ((data.getD (r - 16 * g) []).getD x 0)
      if neg = 1 then v.neg else v
    let xs := ks.map fun q => num (tBf t) (s.me.fbGet fb.toNat (fmtWidth (tBf t)) q n)
    let old := if c = 0 ∧ nacc = 1 then 0 else s.me.accGet (accW t) m.toNat r n
    d.el s.me g c data r n = if scl = 1 then
        let v := scaledSum (blkLen fmt) (bitsOf fmt 9 8) nb (scaleOf (bitsOf fmt 9 8) (regs ga)) (scaleOf (bitsOf fmt 9 8) (regs gb))
          s.me.tsc as xs {}
        (v.2.near fp32 ((fp32.value old).add rne (fp32.value v.1))).1
      else if tAf t = 0 then
        ((as.zip xs).foldl (fun (a : Nat × Raise) e => a.2.near fp64 (Fv.fma rne e.1 e.2 (fp64.value a.1))) (old, {})).1
      else
        let d := ({} : Raise).near fp32 (dotFv as xs)
        (d.2.near fp32 ((fp32.value old).add rne (fp32.value d.1))).1 := by
  subst hks
  intro t fmt d nb regs as xs old
  have has := aVals_domeOf (p := p) (m := m) (ga := ga) (gb := gb) (neg := neg) (nacc := nacc) (fb := fb) (scl := scl) hnum hd g c
    (fun i x => (data.getD i []).getD x 0) r
  have hbs := bVals_domeOf (p := p) (m := m) (ga := ga) (gb := gb) (neg := neg) (nacc := nacc) (fb := fb) (scl := scl) hnum hd c n
  have hold : (if c = 0 ∧ d.nacc = true then 0 else s.me.accGet (accW d.t) d.m r n) = old := by
    simp only [d, old, domeOf, beq_iff_eq]
    rfl
  rw [Dome.el, Dome.cell, hbs]
  simp only [hold]
  by_cases hs : scl = 1
  · have hs' : d.scl = true := beq_iff_eq.2 hs
    rw [if_pos hs, if_pos hs']
    have : (if d.neg = true then List.map Fv.neg (d.aVals g c (fun i x => (data.getD i []).getD x 0) r) else _) = as := has
    rw [this]
    rfl
  · have hs' : ¬ d.scl = true := fun e => hs (beq_iff_eq.1 e)
    rw [if_neg hs, if_neg hs', domeChunk]
    have : (if d.neg = true then List.map Fv.neg (d.aVals g c (fun i x => (data.getD i []).getD x 0) r) else _) = as := has
    rw [this]
    by_cases ha : tAf t = 0
    · have ha' : (tAf d.t == 0) = true := beq_iff_eq.2 ha
      rw [if_pos ha, if_pos ha']
    · have ha' : ¬ (tAf d.t == 0) = true := fun e => ha (beq_iff_eq.1 e)
      rw [if_neg ha, if_neg ha']

end

end Sys2Proof.Machine
end

section
/-! Rows that arrive, and rows that a replaying member asks for (R191, R192). -/

namespace Sys2Proof.Machine
open Sys2Proof

/-! ### Arrivals -/

section
variable {s : State} {k : Nat} {f : Flight} {desc : Word} {ord kk af st : Nat} {data : List (List Nat)} {x : Nat} {w : Strand} {q : Pend}
  {la : BitVec 4} {m : BitVec 2} {p ga gb : BitVec 4} {neg nacc fb scl : BitVec 1}

/-- What COOPERATIVE_ROW_ARRIVAL does with an arriving message of rows. -/
theorem exec_cooperativeRowArrival (harr : s.arriving k = some f) (hpay : f.pay = .rows desc ord kk af st data) :
    let b : CoRows := { desc := desc, ord := ord, k := kk, af := af, step := st, rows := data }
    exec (.cooperativeRowArrival k) s = .next (if !(s.coreAt f.dst).coWanted b then s.take k f
      else if decide (2 ≤ (s.coreAt f.dst).rowBuf.length) && !(s.coreAt f.dst).coNext b then s
      else (s.take k f).modCore f.dst fun c => { c with rowBuf := c.rowBuf ++ [b] }) := by
  change Host.Outcome.next (match s.arriving k with
    | some f => match f.pay with
      | .rows desc ord kk af st data => _
      | _ => s
    | none => s.bounced k) = _
  rw [harr]
  change Host.Outcome.next (match f.pay with
      | .rows desc ord kk af st data => _
      | _ => s) = _
  rw [hpay]

/-- Rows of a product still to begin are of use, and are none that a replay waits for. -/
theorem Core.coWanted_of_new {c : Core} {b : CoRows} (h : c.coOrd b.desc < b.ord) : c.coWanted b = true ∧ c.coNext b = false := by
  have hne : (c.coOrd b.desc == b.ord) = false := beq_eq_false_iff_ne.2 (Nat.ne_of_lt h)
  simp [Core.coWanted, Core.coNew, Core.coNext, h, hne]

/-- The step of the only product that a core runs. -/
theorem Core.coStep_of_running {c : Core} (hctxs : c.ctxs = [(x, w)]) (hpend : w.pend = [q])
    (hi : q.instr = .mmaCo la m p ga gb neg nacc fb scl) (hstarted : q.started = true) (htrap : q.trap = none) :
    c.coStep (gread q.g 13) = some q.step := by
  simp [Core.coStep, hctxs, hpend, hi, hstarted, htrap]

/-- A core with nothing pending runs no product. -/
theorem Core.coStep_of_idle {c : Core} (h : ∀ e ∈ c.ctxs, e.2.pend = []) (desc : Word) : c.coStep desc = none := by
  have : c.ctxs.flatMap (·.2.pend) = [] := List.flatMap_eq_nil_iff.2 h
  rw [Core.coStep, this]
  rfl

/-- Rows of the product that a member is in, past its first step, are of use; it waits for those of its step that it does not hold. -/
theorem Core.coWanted_of_running {c : Core} {b : CoRows} (hord : c.coOrd b.desc = b.ord) {j : Nat} (hstep : c.coStep b.desc = some j)
    (hj : 0 < j) : c.coWanted b = true ∧
      (j = b.step → (∀ a ∈ c.rowBuf, ¬(a.desc = b.desc ∧ a.ord = b.ord ∧ a.step = b.step)) → c.coNext b = true) := by
  constructor
  · simp [Core.coWanted, hord, hstep, hj]
  · rintro rfl hbuf
    have : (c.rowBuf.any fun a => a.desc == b.desc && a.ord == b.ord && a.step == b.step) = false :=
      List.any_eq_false.2 fun a ha => by simpa [and_assoc] using hbuf a ha
    simp [Core.coNext, hord, hstep, this]

/-- Rows of a product past, or of one that an idle member has finished or given up, are of no use. -/
theorem Core.coWanted_of_past {c : Core} {b : CoRows}
    (h : b.ord < c.coOrd b.desc ∨ (b.ord = c.coOrd b.desc ∧ mstepAct c.mstep = false ∧ ∀ e ∈ c.ctxs, e.2.pend = [])) : c.coWanted b = false := by
  rcases h with h | ⟨h, hact, hidle⟩
  · have hne : (c.coOrd b.desc == b.ord) = false := beq_eq_false_iff_ne.2 (Nat.ne_of_gt h)
    simp [Core.coWanted, Core.coNew, hne, Nat.le_of_lt h]
  · simp [Core.coWanted, Core.coNew, h, hact, Core.coStep_of_idle hidle]

end

/-! ### Translation and serving -/

/-- A page-table walk does not look at the network. -/
theorem State.walk_net (s : State) (fs : List Flight) (c va k lvl r : Nat) : State.walk { s with net := fs } c va k lvl r = s.walk c va k lvl r := by
  induction k generalizing lvl r with
  | zero => rfl
  | succ k ih =>
    simp only [State.walk, ih]
    rfl

theorem State.physOf_net (s : State) (fs : List Flight) (c : Nat) (l : Option Nat) (sys : Bool) (va n : Nat) (a : Acc) :
    State.physOf { s with net := fs } c l sys va n a = s.physOf c l sys va n a := by
  have hl : ∀ l, State.lookup { s with net := fs } c l va = s.lookup c l va := fun l => by
    cases l with
    | none => rfl
    | some l =>
      simp only [State.lookup, State.walk_net]
      rfl
  simp only [State.physOf, hl]
  rfl

/-- Messages have been sent and taken and banks powered up, and nothing else happened. -/
structure State.Served (s t : State) : Prop where
  rest : t = { s with cores := t.cores, net := t.net, spires := t.spires }
  cores : ∀ c, t.coreAt c = { s.coreAt c with txSeq := (t.coreAt c).txSeq, rxSeq := (t.coreAt c).rxSeq }
  spire : ∀ p, t.spireAt p = { s.spireAt p with up := (t.spireAt p).up }

theorem State.Served.trans {s t u : State} (h : s.Served t) (k : t.Served u) : s.Served u where
  rest := by
    have := k.rest
    rw [h.rest] at this
    exact this
  cores c := by rw [k.cores c, h.cores c]
  spire p := by rw [k.spire p, h.spire p]

theorem State.coreAt_take (s : State) (k : Nat) (f : Flight) (c : Nat) : (s.take k f).coreAt c = if c = f.dst then
    { s.coreAt f.dst with rxSeq := fset (s.coreAt f.dst).rxSeq (f.src * 8 + f.net) ((f.seq + 1) % 65536) } else s.coreAt c :=
  fget_fset ({} : Core) _ s.cores f.dst c

theorem State.served_take (s : State) (k : Nat) (f : Flight) : s.Served (s.take k f) where
  rest := rfl
  cores c := by
    rw [s.coreAt_take]
    split
    · next h => rw [h]
    · rfl
  spire _ := rfl

theorem State.Powered.served {s t : State} (h : s.Powered t) : s.Served t where
  rest := by rw [h.rest]
  cores c := by rw [h.coreAt c]
  spire := h.spire

theorem State.Posted.served {s t : State} (h : s.Posted t) : s.Served t where
  rest := by
    rw [h.rest]
  cores c := by rw [h.cores c]
  spire p := by
    rw [h.rest]
    rfl

section
variable {s t : State} (h : s.Served t)
include h

theorem State.Served.st_eq : t.st = s.st := by
  have hcore : t.core = s.core := by rw [h.rest]
  have hctx : t.ctx = s.ctx := by rw [h.rest]
  change fget ({} : Strand) (t.coreAt t.core).ctxs t.ctx = fget ({} : Strand) (s.coreAt s.core).ctxs s.ctx
  rw [h.cores, hcore, hctx]

theorem State.Served.sameView : State.SameView { s with net := t.net } t where
  rest := h.rest
  tlb c := by rw [h.cores c]; rfl
  lost c := by rw [h.cores c]; rfl
  eng c := by rw [h.cores c]; rfl
  sendq c := by rw [h.cores c]; rfl
  seqNo c := by rw [h.cores c]; rfl
  fmt c := by rw [h.cores c]; rfl
  lix := by rw [h.st_eq]; rfl
  sys := by rw [h.st_eq]; rfl
  hnd := by rw [h.st_eq]; rfl
  carve p := by rw [h.spire p]; rfl
  tags p := by rw [h.spire p]; rfl

theorem State.Served.physOf (c : Nat) (l : Option Nat) (sys : Bool) (va n : Nat) (a : Acc) : t.physOf c l sys va n a = s.physOf c l sys va n a :=
  (h.sameView.physOf c l sys va n a).trans (s.physOf_net t.net c l sys va n a)

theorem State.Served.byte (a : Nat) : t.byte a = s.byte a := h.sameView.byte a

theorem State.Served.rowOf (bs : List Blk) (bpr i : Nat) : t.rowOf bs bpr i = s.rowOf bs bpr i := value_congr fun _ _ j _ _ => h.byte j

theorem State.Served.globalOf (c pa : Nat) : t.globalOf c pa = s.globalOf c pa := by rw [h.rest]; rfl

theorem State.Served.fmt (c : Nat) : (t.coreAt c).fmt = (s.coreAt c).fmt := by rw [h.cores c]

theorem State.Served.bad_eq : t.bad = s.bad := by rw [h.rest]
theorem State.Served.soft_eq : t.soft = s.soft := by rw [h.rest]

end

/-! ### A pointer's addresses, by parts -/

theorem Ptr.length_run (p : Ptr) (n : Nat) : (p.run n).1.length = n := by
  induction n generalizing p with
  | zero => rfl
  | succ n ih => simp [Ptr.run, ih]

theorem Ptr.run_add (p : Ptr) (a b : Nat) : (p.run (a + b)).1 = (p.run a).1 ++ ((p.run a).2.run b).1 := by
  induction a generalizing p with
  | zero => rw [Nat.zero_add]; rfl
  | succ a ih => rw [Nat.add_right_comm, Ptr.run, Ptr.run, ih]; rfl

/-- The addresses of b reads after a are those of n reads from the a-th on. -/
theorem Ptr.run_run (p : Ptr) {a b n : Nat} (h : a + b ≤ n) : ((p.run a).2.run b).1 = ((p.run n).1.drop a).take b := by
  obtain ⟨c, rfl⟩ := Nat.exists_eq_add_of_le h
  rw [Ptr.run_add, Ptr.run_add, List.append_assoc, List.drop_left' (p.length_run a), List.take_left' (Ptr.length_run _ b)]

theorem grp_eq_map (g m : Nat) : grp g m = (List.range (min 16 (m - 16 * g))).map (16 * g + ·) := by
  refine (grp_pairwise g m).eq_of_mem_iff (List.pairwise_lt_range.map _ fun a b h => by omega) fun x => ?_
  rw [mem_grp, List.mem_map]
  constructor
  · rintro ⟨hx, rfl⟩
    exact ⟨x % 16, List.mem_range.2 (by omega), by omega⟩
  · rintro ⟨i, hi, rfl⟩
    rw [List.mem_range] at hi
    omega

theorem length_grp (g m : Nat) : (grp g m).length = min 16 (m - 16 * g) := by rw [grp_eq_map, List.length_map, List.length_range]

/-- Row i of a part of an operand's blocks. -/
theorem State.rowOf_part (s : State) (bs : List Blk) (bpr a : Nat) {i n : Nat} (hi : i < n) :
    s.rowOf ((bs.drop (a * bpr)).take (n * bpr)) bpr i = s.rowOf bs bpr (a + i) := by
  have h : (i + 1) * bpr ≤ n * bpr := Nat.mul_le_mul_right _ hi
  have h' : min bpr (n * bpr - i * bpr) = bpr := by
    rw [Nat.succ_mul] at h
    omega
  rw [State.rowOf, State.rowOf, List.drop_take, List.take_take, h', List.drop_drop, Nat.add_mul]

/-! ### Serving -/

/-- The product whose rows are served. -/
def Coop.dome (co : Coop) : Dome :=
  { t := co.tsh, fmt := co.fmt, tsc := 0, m := 0, fb := 0, neg := false, nacc := false, scl := co.scl, sa := [], sb := [] }
/-- Blocks of a row, and the addresses of all its rows. -/
def Coop.bpr (co : Coop) : Nat := rowBlks (tK co.tsh) (tAf co.tsh)
def Coop.addrs (co : Coop) : List Nat := (co.ptr.run (tM co.tsh * co.bpr)).1
/-- The rows of step j, read from blocks bs. -/
def Coop.stepMsg (co : Coop) (s : State) (bs : List Blk) (j : Nat) : Pay :=
  .rows co.desc co.ord (tK co.tsh) (tAf co.tsh) j
    (stepRows co.dome (j % co.dome.nk) ((grp (j / co.dome.nk) (tM co.tsh)).map (s.rowOf bs co.bpr)))

section
variable {s t : State} {c dst : Nat} {co : Coop} {pa : Nat → Nat} (hbad : s.bad = []) (hsoft : s.soft = [])
  (htags : (s.coreAt c).fmt.getLsbD 15 = false) (hphys : ∀ va ∈ co.addrs, s.physOf c co.lix co.sys va 64 .rd = .ok (pa va))

/-- The block of an address that translates. -/
def State.blkAt (s : State) (c : Nat) (pa : Nat → Nat) (va : Nat) : Blk := { va := va, ga := s.globalOf c (pa va) }

include hsoft in
theorem State.foldl_walkedAll (c : Nat) (lix : Option Nat) (n : Nat) (l : List Nat) : l.foldl (fun s va => s.walkedAll c lix va n) s = s := by
  have h : ∀ va, s.walkedAll c lix va n = s := fun va => by simp [State.walkedAll, hsoft]
  induction l with
  | nil => rfl
  | cons va l ih => rw [List.foldl_cons, h, ih]

include hbad hsoft htags hphys

/-- A served step: its rows are read and sent. -/
theorem State.serveRows_succ (hs : s.Served t) {j : Nat} (hj : j / co.dome.nk < groups (tM co.tsh)) (n : Nat) :
    ∃ u, t.serveRows c dst co co.dome (n + 1) j = u.serveRows c dst co co.dome n (j + 1) ∧ s.Served u ∧
      ∃ f, u.net = t.net ++ [f] ∧ f.gist = (c, dst, 2, co.stepMsg s (co.addrs.map (s.blkAt c pa)) j) := by
  set g := j / co.dome.nk with hg
  set cnt := (grp g (tM co.tsh)).length with hcnt
  have hfit : 16 * g * co.bpr + cnt * co.bpr ≤ tM co.tsh * co.bpr := by
    rw [← Nat.add_mul]
    refine Nat.mul_le_mul_right _ ?_
    rw [hcnt, length_grp]
    unfold groups at hj
    omega
  have haddrs : ((co.ptr.run (16 * g * co.bpr)).2.run (cnt * co.bpr)).1 = (co.addrs.drop (16 * g * co.bpr)).take (cnt * co.bpr) :=
    co.ptr.run_run hfit
  set l := (co.addrs.drop (16 * g * co.bpr)).take (cnt * co.bpr) with hl
  have hmem : ∀ va ∈ l, va ∈ co.addrs := fun va h => List.mem_of_mem_drop (List.mem_of_mem_take h)
  have hnone : (l.map (some ∘ s.blkAt c pa)).any Option.isNone = false := by simp
  have hid : (l.map (some ∘ s.blkAt c pa)).filterMap id = l.map (s.blkAt c pa) := by simp [List.filterMap_map]
  obtain ⟨v, hv, hpv⟩ := State.readGroups_ok (s := { t with core := c, ctx := co.ctx }) (hs.bad_eq.trans hbad) (hs.soft_eq.trans hsoft)
    ((congrArg (fun w : Word => w.getLsbD 15) (hs.fmt c)).trans htags) co.bpr (tAf co.tsh) (tK co.tsh) cnt (l.map (s.blkAt c pa)) {}
  have hrows : (List.range cnt).map (State.rowOf { t with core := c, ctx := co.ctx } (l.map (s.blkAt c pa)) co.bpr) =
      (grp g (tM co.tsh)).map (s.rowOf (co.addrs.map (s.blkAt c pa)) co.bpr) := by
    rw [grp_eq_map, List.map_map, ← length_grp]
    refine List.map_congr_left fun i hi => ?_
    rw [hl, List.map_take, List.map_drop]
    have hat : ∀ bs, State.rowOf { t with core := c, ctx := co.ctx } bs co.bpr i = t.rowOf bs co.bpr i := fun _ =>
      value_congr fun _ _ _ _ _ => rfl
    rw [hat, hs.rowOf]
    exact s.rowOf_part _ co.bpr (16 * g) (List.mem_range.1 hi)
  rw [hrows] at hv
  have hw : t.Powered { v with core := t.core, ctx := t.ctx } := ⟨by rw [hpv.rest], fun p => hpv.spire p⟩
  refine ⟨State.post { v with core := t.core, ctx := t.ctx } c dst 2 1000 co.lix 0 (co.stepMsg s (co.addrs.map (s.blkAt c pa)) j), ?_,
    hs.trans (hw.served.trans (State.posted_post _ c dst 2 1000 co.lix 0 _).served), ?_⟩
  · rw [State.serveRows]
    rw [show ((co.ptr.run (16 * (j / co.dome.nk) * rowBlks (tK co.tsh) (tAf co.tsh))).2.run
      ((grp (j / co.dome.nk) (tM co.tsh)).length * rowBlks (tK co.tsh) (tAf co.tsh))).1 = l from haddrs,
      State.foldl_walkedAll (hs.soft_eq.trans hsoft), List.map_congr_left (g := some ∘ s.blkAt c pa) ?_, hnone, hid]
    · rw [if_neg Bool.false_ne_true]
      change (match State.readGroups { t with core := c, ctx := co.ctx } co.bpr (tAf co.tsh) (tK co.tsh) cnt (l.map (s.blkAt c pa)) {} with
        | (.error _, _) => _
        | (.ok (rows, _), u) => _) = _
      rw [hv]
      rfl
    · intro va hva
      rw [hs.physOf, hphys va (hmem va hva)]
      simp only [hs.globalOf]
      rfl
  · obtain ⟨f, hf, hgist⟩ := State.net_post { v with core := t.core, ctx := t.ctx } c dst 2 1000 co.lix 0
      (co.stepMsg s (co.addrs.map (s.blkAt c pa)) j)
    refine ⟨f, hf.trans ?_, hgist⟩
    rw [hpv.rest]

/-- Served steps, in order: every one's rows are sent, and memory is as it was. -/
theorem State.serveRows_spec (n j : Nat) (hs : s.Served t) (hj : j + n ≤ groups (tM co.tsh) * co.dome.nk) :
    s.Served (t.serveRows c dst co co.dome n j) ∧ ∃ fs, (t.serveRows c dst co co.dome n j).net = t.net ++ fs ∧
      fs.map Flight.gist = (List.range' j n).map fun i => (c, dst, 2, co.stepMsg s (co.addrs.map (s.blkAt c pa)) i) := by
  induction n generalizing t j with
  | zero => exact ⟨hs, [], (List.append_nil _).symm, rfl⟩
  | succ n ih =>
    have hlt : j / co.dome.nk < groups (tM co.tsh) := Nat.div_lt_of_lt_mul (by rw [Nat.mul_comm]; omega)
    obtain ⟨u, hu, hsu, f, hf, hgist⟩ := State.serveRows_succ (dst := dst) hbad hsoft htags hphys hs hlt n
    obtain ⟨hsv, fs, hfs, hgists⟩ := ih (j + 1) hsu (by omega)
    rw [hu]
    refine ⟨hsv, f :: fs, ?_, ?_⟩
    · rw [hfs, hf, List.append_assoc]
      rfl
    · rw [List.map_cons, hgist, hgists, List.range'_succ, List.map_cons]

end

/-- A served step's message: the A elements of its row group, by its chunk of K. -/
theorem Coop.stepMsg_eq (co : Coop) (s : State) (bs : List Blk) (j : Nat) : co.stepMsg s bs j =
    .rows co.desc co.ord (tK co.tsh) (tAf co.tsh) j (((List.range (tM co.tsh)).filter fun r => r / 16 == j / co.dome.nk).map fun r =>
      ((List.range (tK co.tsh)).filter fun x => co.scl || x / 16 == j % co.dome.nk).map fun x =>
        elt (fmtWidth (tAf co.tsh)) (s.rowOf bs co.bpr r) x) := by
  have hks : co.dome.ks (j % co.dome.nk) = (List.range (tK co.tsh)).filter fun x => co.scl || x / 16 == j % co.dome.nk := by
    change (if co.scl = true then List.range (tK co.tsh) else grp (j % co.dome.nk) (tK co.tsh)) = _
    rw [grp_eq]
    cases co.scl
    · simp only [Bool.false_eq_true, if_false, Bool.false_or]
    · simp only [if_true, Bool.true_or, List.filter_true]
  rw [Coop.stepMsg, stepRows, hks, grp_eq, List.map_map]
  rfl

/-- Addresses that all translate, each to its own. -/
theorem exists_translation {F : Nat → Except Nat Nat} {l pas : List Nat} (h : l.map F = pas.map .ok) :
    ∃ pa : Nat → Nat, (∀ va ∈ l, F va = .ok (pa va)) ∧ pas = l.map pa := by
  refine ⟨fun va => (F va).toOption.getD 0, ?_⟩
  induction l generalizing pas with
  | nil =>
    cases pas with
    | nil => exact ⟨fun _ h => (List.not_mem_nil h).elim, rfl⟩
    | cons a pas => cases h
  | cons va l ih =>
    cases pas with
    | nil => cases h
    | cons a pas =>
      rw [List.map_cons, List.map_cons, List.cons.injEq] at h
      obtain ⟨hall, hpas⟩ := ih h.2
      have ha : (F va).toOption.getD 0 = a := by rw [h.1]; rfl
      exact ⟨List.forall_mem_cons.2 ⟨h.1.trans (congrArg _ ha.symm), hall⟩, by rw [List.map_cons, ha, ← hpas]⟩

/-- What ROW_REPLAY_REQUEST does with an arriving request. -/
theorem exec_rowReplayRequest {s : State} {k : Nat} {f : Flight} {desc : Word} {ord st : Nat} (harr : s.arriving k = some f)
    (hpay : f.pay = .rowReq desc ord st) : exec (.rowReplayRequest k) s =
      .next (match (s.coreAt f.dst).coops.find? fun co => co.desc == desc && co.ord == ord with
        | none => s.take k f
        | some co => (s.take k f).serveRows f.dst f.src co co.dome (groups (tM co.tsh) * co.dome.nk - st) st) := by
  change Host.Outcome.next (match s.arriving k with
    | some f => match f.pay with
      | .rowReq desc ord st => _
      | _ => s
    | none => s.bounced k) = _
  rw [harr]
  change Host.Outcome.next (match f.pay with
      | .rowReq desc ord st => _
      | _ => s) = _
  rw [hpay]
  rfl

/-- A replaying member's request: the rows of every step from the one named on are sent, and memory is as it was. -/
theorem exec_rowReplayRequest_served {s : State} {k : Nat} {f : Flight} {desc : Word} {ord st : Nat} {co : Coop} {pa : Nat → Nat}
    (harr : s.arriving k = some f) (hpay : f.pay = .rowReq desc ord st)
    (hfind : ((s.coreAt f.dst).coops.find? fun c => c.desc == desc && c.ord == ord) = some co) (hbad : s.bad = []) (hsoft : s.soft = [])
    (htags : (s.coreAt f.dst).fmt.getLsbD 15 = false)
    (hphys : ∀ va ∈ co.addrs, s.physOf f.dst co.lix co.sys va 64 .rd = .ok (pa va)) (hst : st < groups (tM co.tsh) * co.dome.nk) :
    ∃ u, exec (.rowReplayRequest k) s = .next u ∧ (∀ a, u.byte a = s.byte a) ∧
      (u.net.drop (s.take k f).net.length).map Flight.gist = ((List.range (groups (tM co.tsh) * co.dome.nk)).drop st).map fun j =>
        (f.dst, f.src, 2, co.stepMsg s (co.addrs.map (s.blkAt f.dst pa)) j) := by
  obtain ⟨hserved, fs, hfs, hgist⟩ := State.serveRows_spec (dst := f.src) hbad hsoft htags hphys (groups (tM co.tsh) * co.dome.nk - st) st
    (s.served_take k f) (Nat.le_of_eq (Nat.add_sub_cancel' hst.le))
  refine ⟨_, (exec_rowReplayRequest harr hpay).trans (by rw [hfind]), hserved.byte, ?_⟩
  rw [hfs, List.drop_left, hgist, List.range_eq_range', List.drop_range', Nat.mul_one, Nat.zero_add]

end Sys2Proof.Machine
end

section
/-! The steps of operations of the matrix unit (R61, R182, R184, R190 to R192). -/

namespace Sys2Proof.Machine
open Sys2Proof

/-- Settles O31: a step by what the operation answers (State.StepTurn), a cooperative product's by member and by what its row buffer holds
(State.CoTurn), an arrival by whether its rows are of use (Core.coWanted), and a request by induction on the steps served. -/
theorem macroOperationSteps : Obligations.MacroOperationSteps := by
  unfold Obligations.MacroOperationSteps
  refine ⟨?_, ?_, ?_⟩
  · intro s p op rows u hmat hturn hstarted hcom hfree hpend hfrozen hrngs o
    have h : p.step < o.n → s.StepTurn p op := fun hn => ⟨hmat, hturn, hstarted, hcom, hfree, hpend, hfrozen, hrngs, hn⟩
    refine ⟨fun hstep hn hc hx => ⟨_, (h (Nat.lt_of_succ_lt hn)).exec_ok hstep hn hc hx, rfl⟩, ?_, ?_, ?_, ?_⟩
    · exact fun hstep hn hlr hact hp hc hx hrep hfound hend => (h (hn ▸ Nat.lt_succ_self _)).exec_done hstep hn hlr hact hp hc hx hrep hfound hend
    · exact fun hstep hn => (h (Nat.lt_of_succ_lt hn)).exec_stall hstep hn rfl rfl
    · exact fun x hstep hn hc _ => (h (Nat.lt_of_succ_lt hn)).exec_trap_mrngs hstep hn hc
    · exact fun w v hact hctx hb hw q hq ho => State.beginMat_replay hact hctx hb hw hq ho
  · intro s p la m k ga gb neg nacc fb scl bs rows b rest t fmt desc nk g c ks rs bpr nb regs num el grid hi hdome hturn hstarted hcom hfree
      hpend honly hfrozen hrngs hmore
    have hnk : (domeOf m ga gb neg nacc fb scl p.env s).nk = nk := nk_domeOf p.env
    have hks : (domeOf m ga gb neg nacc fb scl p.env s).ks c = ks := ks_domeOf p.env c
    have hrs : grp g (tM t) = rs := grp_eq g (tM t)
    have hn : p.step + 1 < (opMmaCo la m k ga gb neg nacc fb scl p.env s).n := by
      change _ < groups (tM t) * (domeOf m ga gb neg nacc fb scl p.env s).nk
      rw [hnk]
      exact hmore
    have h : s.CoTurn p la m k ga gb neg nacc fb scl (domeOf m ga gb neg nacc fb scl p.env s) :=
      { mat := by rw [hi]; rfl, turn := hturn, started := hstarted, com := hcom, free := hfree, pend := hpend, frozen := hfrozen,
        rngs := hrngs, steps := Nat.lt_of_succ_lt hn, dome_eq := rfl, only := honly, dome := hdome, more := hn }
    have hel : ∀ data r n, (domeOf m ga gb neg nacc fb scl p.env s).el s.me g c data r n = el data r n := fun data r n => by
      have hnum : ∀ f F x, elemOf f = some (.f F) → num f x = F.value x := fun f F x hf => by simp only [num, hf]
      exact el_domeOf hnum hdome g c hks data r n
    have hgrid : ∀ data (v u : State) rows, s.ProductStepped v u p (domeOf m ga gb neg nacc fb scl p.env s) g c data rows → grid data u := by
      intro data v u rows hp a i n _ hi hn
      refine (hp.acc a i n hi hn).trans ?_
      rw [hel, ← hrs]
      rfl
    refine ⟨?_, ?_⟩
    · intro hx hroom hbad hsoft htags hrows data
      have hsent : stepRows (domeOf m ga gb neg nacc fb scl p.env s) c rows = data := by
        rw [stepRows, hks]
        rfl
      have hfirst := h.first (rows := rows) (bs := bs) hx hroom hbad hsoft htags
      rw [hnk] at hfirst
      obtain ⟨u, v, hu, hp, fs, hfs, hgist⟩ := hfirst (by
        change (c ≠ 0 ∧ _) ∨ (c = 0 ∧ s.blks .rd ((ptrOf s.me.ptr k).run ((grp g (tM t)).length * bpr)).1 = _ ∧ _ ∧
          rows = (List.range (grp g (tM t)).length).map _)
        rw [hrs]
        exact hrows)
      change s.ProductStepped v u p _ g c (stepRows _ c rows) rows at hp
      change fs.map Flight.gist = (coRow desc s.core).map fun x => (s.core, x, 2, Pay.rows desc
        (if p.step = 0 then s.me.coOrd desc + 1 else s.me.coOrd desc) (tK t) (tAf t) p.step (stepRows _ c rows)) at hgist
      rw [hsent] at hp hgist
      refine ⟨u, hu, hgrid _ _ _ _ hp, hp.byte, hp.regs, hp.pend, ?_⟩
      rw [hp.net, hfs, List.drop_left]
      exact hgist
    · intro hx hj newer
      have hnew : newer → ∀ e ∈ rest, s.me.coOrd e.desc < e.ord := fun hn e he => by
        obtain ⟨hd, ho⟩ := hn e he
        rw [hd]
        exact ho
      refine ⟨fun hn hbuf => ?_, fun hbuf hrest hdesc hord hstep hk haf => ?_, fun hn hbuf hbad hvec hact hrep hheld hcmp hhnd hend => ?_⟩
      · have hwait := h.waits hx hj (by
          rcases hbuf with hbuf | ⟨hbuf, -, hord, -⟩
          · rw [hbuf]
            exact hnew hn
          · rw [hbuf, List.forall_mem_cons]
            exact ⟨hord, hnew hn⟩) (by
          rcases hbuf with hbuf | ⟨-, -, -, howed⟩
          · rw [hbuf]
            exact .inr fun e he => (hn e he).1
          · exact .inl howed)
        exact ⟨_, hwait, s.me_withRowBuf _, s.st_withRowBuf _, rfl, fun _ => rfl⟩
      · have htakes := h.takes hx hj hbuf hrest hdesc hord hstep hk haf
        rw [hnk] at htakes
        obtain ⟨u, hu, hp⟩ := htakes
        refine ⟨u, hu, hgrid _ _ _ _ hp, ?_, hp.pc, hp.regs, hp.byte, hp.net, hp.pend⟩
        rw [hp.rowBuf, s.me_tookRows]
      · rcases hbad with ⟨hdesc, hord, howed⟩ | ⟨hdesc, hord, hstep, hbad⟩
        · have hall : ∀ e ∈ s.me.rowBuf, s.me.coOrd e.desc < e.ord := by
            rw [hbuf, List.forall_mem_cons]
            exact ⟨hord, hnew hn⟩
          refine h.refuses hx hj hbuf (Core.coLive_of_new hall) ?_ (.inl hdesc) (fun e he hb => hdesc (hb.1 ▸ (hn e he).1)) hvec hact hrep hheld hcmp
            hhnd hend
          rw [hbuf] at hall ⊢
          exact State.coPick_other (Nat.ne_of_gt hj) (fun e he => Core.coOwn_eq_false_of_coNew (hall e he)) howed hdesc
        · refine h.refuses hx hj hbuf (Core.coLive_of_own hj hbuf (fun e he => ⟨(hn e he).1, (hn e he).2.le⟩) hdesc hord hstep) ?_ (.inr hbad)
            (fun e he hb => Nat.ne_of_lt (hn e he).2 (hord.symm.trans hb.2.symm)) hvec hact hrep hheld hcmp hhnd hend
          rw [hbuf]
          exact State.coPick_own (Nat.ne_of_gt hj) hdesc hord
  · intro k s f desc ord kk af st data co pas x w q la m p ga gb neg nacc fb scl harr
    refine ⟨?_, ?_⟩
    · intro hpay c b kept inIt
      have hexec := exec_cooperativeRowArrival harr hpay
      refine ⟨fun hnew hroom => ?_, fun hnew hfull => ?_, fun hown hin hroom => ?_, fun hpast => ?_⟩
      · obtain ⟨hwanted, -⟩ := Core.coWanted_of_new (c := c) (b := b) hnew
        have hlt : decide (2 ≤ c.rowBuf.length) = false := decide_eq_false (Nat.not_le_of_lt hroom)
        rw [hexec, hwanted, hlt]
        rfl
      · obtain ⟨hwanted, hnext⟩ := Core.coWanted_of_new (c := c) (b := b) hnew
        rw [hexec, hwanted, hnext, decide_eq_true hfull]
        rfl
      · obtain ⟨hctxs, hpend, hi, hstarted, htrap, hdesc, hj⟩ := hin
        have hstep : c.coStep desc = some q.step := hdesc ▸ Core.coStep_of_running hctxs hpend hi hstarted htrap
        obtain ⟨hwanted, hnext⟩ := Core.coWanted_of_running (c := c) (b := b) hown hstep hj
        have henters : (decide (2 ≤ c.rowBuf.length) && !c.coNext b) = false := by
          rcases hroom with hroom | ⟨hq, hbuf⟩
          · rw [decide_eq_false (Nat.not_le_of_lt hroom), Bool.false_and]
          · rw [hnext hq hbuf, Bool.not_true, Bool.and_false]
        rw [hexec, hwanted, henters]
        rfl
      · rw [hexec, Core.coWanted_of_past (c := c) (b := b) hpast]
        rfl
    · intro hpay
      refine ⟨fun hnone => ?_, ?_⟩
      · have hfind : ((s.coreAt f.dst).coops.find? fun co => co.desc == desc && co.ord == ord) = none :=
          List.find?_eq_none.2 fun c hc => by simpa using hnone c hc
        rw [exec_rowReplayRequest harr hpay, hfind]
      · intro hfind hbad hsoft htags t w bpr nk n all bs hphys hst
        obtain ⟨pa, hpa, rfl⟩ := exists_translation hphys
        have hbs : bs = co.addrs.map (s.blkAt f.dst pa) := by
          change ((all.zip (all.map pa)).map fun e => ({ va := e.1, ga := s.globalOf f.dst e.2 } : Blk)) = _
          rw [← List.map_prod_left_eq_zip, List.map_map]
          rfl
        obtain ⟨u, hu, hbyte, hnet⟩ := exec_rowReplayRequest_served harr hpay hfind hbad hsoft htags hpa hst
        have hid := List.find?_some hfind
        simp only [Bool.and_eq_true, beq_iff_eq] at hid
        refine ⟨u, hu, hbyte, hnet.trans ?_⟩
        rw [← hbs, ← hid.1, ← hid.2]
        exact List.map_congr_left fun j _ => by rw [Coop.stepMsg_eq]; rfl

end Sys2Proof.Machine
end

section
/-! Words as fields in fixed bits (R77, R79): a segment (lo, w) of a word is its w bits from bit lo on. A word whose fields lie apart, over
bits that are fixed as 0, holds in each segment what was put there; and two words that agree in segments that cover them are equal. -/

namespace Sys2Proof

/-- Every segment of ss lies below bit s. -/
def segsBelow (ss : List (Nat × Nat)) (s : Nat) : Bool := ss.all fun g => Nat.ble (g.1 + g.2) s

/-- No segment of ss begins at s or meets the k bits from s on. -/
def segsApart (ss : List (Nat × Nat)) (s k : Nat) : Bool :=
  ss.all fun g => !(g.1 == s) && (Nat.ble (g.1 + g.2) s || Nat.ble (s + k) g.1)

/-- The segments lie apart from each other, over zero bits of b. -/
def segsFit (b : Nat) : List (Nat × Nat) → Bool
  | [] => true
  | g :: ss => b / 2 ^ g.1 % 2 ^ g.2 == 0 && segsApart ss g.1 g.2 && segsFit b ss

/-- The segments cover a word. -/
def segsCover (ss : List (Nat × Nat)) : Bool := (List.range 32).all fun i => ss.any fun g => Nat.ble g.1 i && Nat.blt i (g.1 + g.2)

/-- The value among the fields l that lies at bit s. -/
@[simp] def fieldAt : List (Nat × Nat) → Nat → Nat
  | [], _ => 0
  | (v, lo) :: l, s => if lo = s then v else fieldAt l s

/-- The fields l, each of the width of its bit vector, lie in the segments ss. -/
inductive Laid : List (Nat × Nat) → List (Nat × Nat) → Prop
  | nil : Laid [] []
  | cons {w lo : Nat} (v : BitVec w) {l ss : List (Nat × Nat)} : Laid l ss → Laid ((v.toNat, lo) :: l) ((lo, w) :: ss)

/-- What the segments of a word n hold whose fixed bits are b and whose fields l lie in ss. -/
structure Layout (n b : Nat) (l ss : List (Nat × Nat)) : Prop where
  fixed : ∀ {s k : Nat}, segsApart ss s k = true → n / 2 ^ s % 2 ^ k = b / 2 ^ s % 2 ^ k
  top : ∀ {s : Nat}, segsBelow ss s = true → n / 2 ^ s = b / 2 ^ s
  field : ∀ {s k : Nat}, ss.contains (s, k) = true → fd k s n = BitVec.ofNat k (fieldAt l s)

@[simp] theorem segsBelow_nil (s : Nat) : segsBelow [] s = true := List.all_eq_true.2 fun _ hg => nomatch hg

@[simp] theorem segsBelow_cons {g : Nat × Nat} {ss : List (Nat × Nat)} {s : Nat} :
    segsBelow (g :: ss) s = true ↔ g.1 + g.2 ≤ s ∧ segsBelow ss s = true := by
  simp [segsBelow]

@[simp] theorem segsApart_nil (s k : Nat) : segsApart [] s k = true := List.all_eq_true.2 fun _ hg => nomatch hg

@[simp] theorem segsApart_cons {g : Nat × Nat} {ss : List (Nat × Nat)} {s k : Nat} :
    segsApart (g :: ss) s k = true ↔ (g.1 ≠ s ∧ (g.1 + g.2 ≤ s ∨ s + k ≤ g.1)) ∧ segsApart ss s k = true := by
  simp [segsApart]

theorem segsApart_mem {ss : List (Nat × Nat)} {lo w s k : Nat} (h : segsApart ss lo w = true) (hm : (s, k) ∈ ss) :
    s ≠ lo ∧ (lo + w ≤ s ∨ s + k ≤ lo) := by
  have := List.all_eq_true.1 h _ hm
  simp only [Bool.and_eq_true, Bool.not_eq_true', beq_eq_false_iff_ne, Bool.or_eq_true, Nat.ble_eq] at this
  exact ⟨this.1, this.2.symm⟩

theorem fd_toNat (k s n : Nat) : (fd k s n).toNat = n / 2 ^ s % 2 ^ k := BitVec.toNat_ofNat _ _

/-- Words that agree in segments that cover them are equal. -/
theorem eq_of_segsCover {m n : Nat} {ss : List (Nat × Nat)} (hc : segsCover ss = true) (hm : m < 2 ^ 32) (hn : n < 2 ^ 32)
    (h : ∀ g ∈ ss, m / 2 ^ g.1 % 2 ^ g.2 = n / 2 ^ g.1 % 2 ^ g.2) : m = n := by
  refine Nat.eq_of_testBit_eq fun i => ?_
  by_cases hi : i < 32
  · obtain ⟨g, hg, hlo, hhi⟩ : ∃ g ∈ ss, g.1 ≤ i ∧ i < g.1 + g.2 := by
      simpa [segsCover, Nat.blt_eq] using List.all_eq_true.1 hc i (List.mem_range.2 hi)
    have hbit := congrArg (Nat.testBit · (i - g.1)) (h g hg)
    have hlt : i - g.1 < g.2 := by omega
    simpa [Nat.testBit_mod_two_pow, Nat.testBit_div_two_pow, hlt, Nat.sub_add_cancel hlo] using hbit
  · have hp : 2 ^ 32 ≤ 2 ^ i := Nat.pow_le_pow_right (by decide) (Nat.not_lt.1 hi)
    rw [Nat.testBit_lt_two_pow (hm.trans_le hp), Nat.testBit_lt_two_pow (hn.trans_le hp)]

section
variable {w lo r : Nat} (v : BitVec w) (h0 : r / 2 ^ lo % 2 ^ w = 0)

theorem put_div (v r lo : Nat) : (v * 2 ^ lo + r) / 2 ^ lo = v + r / 2 ^ lo := by
  rw [Nat.add_comm, Nat.add_mul_div_right _ _ (Nat.two_pow_pos lo), Nat.add_comm]

include h0

/-- A field put over zero bits is read where it lies. -/
theorem put_same : (v.toNat * 2 ^ lo + r) / 2 ^ lo % 2 ^ w = v.toNat := by
  rw [put_div, Nat.add_mod, h0, Nat.add_zero, Nat.mod_mod, Nat.mod_eq_of_lt v.isLt]

/-- What lies above a field put over zero bits stays. -/
theorem put_above {s : Nat} (hs : lo + w ≤ s) : (v.toNat * 2 ^ lo + r) / 2 ^ s = r / 2 ^ s := by
  obtain ⟨d, rfl⟩ := Nat.exists_eq_add_of_le hs
  have hhigh : (v.toNat + r / 2 ^ lo) / 2 ^ w = r / 2 ^ lo / 2 ^ w := by
    obtain ⟨c, hc⟩ := Nat.dvd_of_mod_eq_zero h0
    rw [hc, Nat.add_mul_div_left _ _ (Nat.two_pow_pos w), Nat.div_eq_of_lt v.isLt, Nat.zero_add,
      Nat.mul_div_cancel_left _ (Nat.two_pow_pos w)]
  simp only [Nat.pow_add, ← Nat.div_div_eq_div_mul, put_div, hhigh]

omit h0 in
/-- What lies below a field stays. -/
theorem put_below {s k : Nat} (hs : s + k ≤ lo) : (v.toNat * 2 ^ lo + r) / 2 ^ s % 2 ^ k = r / 2 ^ s % 2 ^ k := by
  obtain ⟨d, rfl⟩ := Nat.exists_eq_add_of_le hs
  have hmul : v.toNat * 2 ^ (s + k + d) = 2 ^ s * (2 ^ k * (v.toNat * 2 ^ d)) := by
    simp only [Nat.pow_add]; ring
  rw [hmul, Nat.mul_add_div (Nat.two_pow_pos s), Nat.mul_add_mod]

end

/-- The segments of a word whose fields fit. -/
theorem Laid.layout {b : Nat} {l ss : List (Nat × Nat)} (hl : Laid l ss) (hf : segsFit b ss = true) : Layout (encSum b l) b l ss := by
  induction hl with
  | nil => exact ⟨fun _ => rfl, fun _ => rfl, fun h => nomatch h⟩
  | @cons w lo v l ss _ ih =>
    simp only [segsFit, Bool.and_eq_true, beq_iff_eq] at hf
    obtain ⟨⟨hzero, hapart⟩, hfit⟩ := hf
    obtain ⟨hfixed, htop, hfield⟩ := ih hfit
    have h0 : encSum b l / 2 ^ lo % 2 ^ w = 0 := (hfixed hapart).trans hzero
    have hother : ∀ {s k : Nat}, lo + w ≤ s ∨ s + k ≤ lo → encSum b ((v.toNat, lo) :: l) / 2 ^ s % 2 ^ k = encSum b l / 2 ^ s % 2 ^ k := by
      rintro s k (hs | hs)
      · exact congrArg (· % 2 ^ k) (put_above v h0 hs)
      · exact put_below v hs
    refine ⟨fun {s k} ha => ?_, fun {s} hb => ?_, fun {s k} hm => ?_⟩
    · obtain ⟨⟨-, hvs⟩, hss⟩ := segsApart_cons.1 ha
      exact (hother hvs).trans (hfixed hss)
    · obtain ⟨hvs, hss⟩ := segsBelow_cons.1 hb
      exact (put_above v h0 hvs).trans (htop hss)
    · replace hm := List.contains_iff_mem.1 hm
      apply BitVec.eq_of_toNat_eq
      rw [fd_toNat, BitVec.toNat_ofNat]
      rcases List.mem_cons.1 hm with hg | hg
      · cases hg
        rw [encSum, put_same v h0, fieldAt, if_pos rfl, Nat.mod_eq_of_lt v.isLt]
      · obtain ⟨hne, hapart⟩ := segsApart_mem hapart hg
        rw [hother hapart, fieldAt, if_neg (Ne.symm hne), ← fd_toNat, hfield (List.contains_iff_mem.2 hg), BitVec.toNat_ofNat]

/-- The fields l hold what the segments ss of n hold. -/
inductive Reads (n : Nat) : List (Nat × Nat) → List (Nat × Nat) → Prop
  | nil : Reads n [] []
  | cons {w lo : Nat} {l ss : List (Nat × Nat)} : Reads n l ss → Reads n (((fd w lo n).toNat, lo) :: l) ((lo, w) :: ss)

theorem Reads.laid {n : Nat} {l ss : List (Nat × Nat)} (h : Reads n l ss) : Laid l ss := by
  induction h with
  | nil => exact .nil
  | cons _ ih => exact .cons _ ih

theorem Reads.fieldAt {n b s k : Nat} {l ss : List (Nat × Nat)} (h : Reads n l ss) (hf : segsFit b ss = true) (hm : (s, k) ∈ ss) :
    fieldAt l s = n / 2 ^ s % 2 ^ k := by
  induction h with
  | nil => cases hm
  | @cons w lo l ss _ ih =>
    simp only [segsFit, Bool.and_eq_true] at hf
    obtain ⟨⟨-, hapart⟩, hfit⟩ := hf
    rcases List.mem_cons.1 hm with hg | hg
    · cases hg
      rw [Sys2Proof.fieldAt, if_pos rfl, fd_toNat]
    · rw [Sys2Proof.fieldAt, if_neg (Ne.symm (segsApart_mem hapart hg).1), ih hfit hg]

/-- n is the word of the well-formed instruction i. -/
structure IsWord (i : Instr) (n : Nat) : Prop where
  word : encodeNat i = some n
  wf : i.wf = true
  instr : i.isEvent = false

/-- The segments zs of a word are zero. -/
def segsZero (n : Nat) (zs : List (Nat × Nat)) : Bool := zs.all fun z => n / 2 ^ z.1 % 2 ^ z.2 == 0

theorem chk_no_reserved (n : Nat) (i : Instr) : chk true i = chk (segsZero n []) i := rfl

theorem chk_reserved (n s k : Nat) (i : Instr) : chk (n / 2 ^ s % 2 ^ k == 0) i = chk (segsZero n [(s, k)]) i := by
  simp only [segsZero, List.all_cons, List.all_nil, Bool.and_true]

theorem chk_two_reserved (n s k s' k' : Nat) (i : Instr) :
    chk (n / 2 ^ s % 2 ^ k == 0 && n / 2 ^ s' % 2 ^ k' == 0) i = chk (segsZero n [(s, k), (s', k')]) i := by
  simp only [segsZero, List.all_cons, List.all_nil, Bool.and_true]

theorem chk_eq_ok {z : Bool} {i j : Instr} : chk z i = .ok j ↔ z = true ∧ i.wf = true ∧ i = j := by
  by_cases h : (z && i.wf) = true
  · rw [chk, if_pos h]
    obtain ⟨hz, hwf⟩ := Bool.and_eq_true_iff.1 h
    simp [hz, hwf]
  · rw [chk, if_neg h]
    refine iff_of_false (fun he => ?_) fun hj => h (Bool.and_eq_true_iff.2 ⟨hj.1, hj.2.1⟩)
    split at he <;> cases he

/-- What the fixed bits b, the fields' segments ss and the reserved segments zs of a row of R79 to R85 must satisfy: major, function code
(at p, of q bits) and zeros are those of b, and nothing is left over. -/
def rowOk (b M p q o : Nat) (ss zs : List (Nat × Nat)) : Bool :=
  segsFit b ss && segsBelow ss 26 && b / 2 ^ 26 == M && Nat.blt M 64 && b / 2 ^ p % 2 ^ q == o && segsApart ss p q && segsZero b zs &&
    (zs.all fun z => segsApart ss z.1 z.2) && segsCover ((26, 6) :: (p, q) :: zs ++ ss)

/-- A word that passes the check of its row is the word of the instruction that the row gives. -/
theorem isWord_of_chk {n b M p q o : Nat} {l ss zs : List (Nat × Nat)} {i j : Instr} (hn : n < 2 ^ 32) (hM : n / 2 ^ 26 = M)
    (ho : n / 2 ^ p % 2 ^ q = o) (h : chk (segsZero n zs) j = .ok i) (hw : encodeNat j = some (encSum b l)) (hj : j.isEvent = false)
    (hr : Reads n l ss) (hrow : rowOk b M p q o ss zs = true) : IsWord i n := by
  obtain ⟨hz, hwf, rfl⟩ := chk_eq_ok.1 h
  simp only [rowOk, Bool.and_eq_true, beq_iff_eq] at hrow
  obtain ⟨⟨⟨⟨⟨⟨⟨⟨hfit, hbelow⟩, hbM⟩, hlt⟩, hbo⟩, hpapart⟩, hbz⟩, hzapart⟩, hcover⟩ := hrow
  have hlay := hr.laid.layout hfit
  have htop : encSum b l / 2 ^ 26 = M := (hlay.top hbelow).trans hbM
  have hsum : encSum b l < 2 ^ 32 := by
    have := Nat.le_of_ble_eq_true hlt
    omega
  have heq : encSum b l = n := by
    refine eq_of_segsCover hcover hsum hn fun g hg => ?_
    simp only [List.cons_append, List.mem_cons, List.mem_append] at hg
    rcases hg with rfl | rfl | hg | hg
    · rw [htop, hM]
    · exact (hlay.fixed hpapart).trans (hbo.trans ho.symm)
    · have hzero : ∀ {m : Nat}, segsZero m zs = true → m / 2 ^ g.1 % 2 ^ g.2 = 0 := fun hm => by
        simpa using List.all_eq_true.1 hm g hg
      exact (hlay.fixed (List.all_eq_true.1 hzapart g hg)).trans ((hzero hbz).trans (hzero hz).symm)
    · have := congrArg BitVec.toNat (hlay.field (List.contains_iff_mem.2 hg))
      rwa [fd_toNat, BitVec.toNat_ofNat, hr.fieldAt hfit hg, Nat.mod_mod] at this
  exact ⟨hw.trans (congrArg some heq), hwf, hj⟩

/-- The same of a major with one row. -/
theorem isWord_of_chk_major {n b M : Nat} {l ss zs : List (Nat × Nat)} {i j : Instr} (hn : n < 2 ^ 32) (hM : n / 2 ^ 26 = M)
    (h : chk (segsZero n zs) j = .ok i) (hw : encodeNat j = some (encSum b l)) (hj : j.isEvent = false) (hr : Reads n l ss)
    (hrow : rowOk b M 26 6 M ss zs = true) : IsWord i n :=
  isWord_of_chk hn hM (by omega) h hw hj hr hrow

/-- A well-formed instruction has a word, which decodes to it. -/
def RoundTrip (i : Instr) : Prop := i.wf = true → ∃ n < 2 ^ 32, encodeNat i = some n ∧ decodeNat n = .ok i

/-- The word of an instruction decodes to it when its row is the one the word's fixed segments choose. -/
theorem roundTrip_of_row {b : Nat} {l ss : List (Nat × Nat)} {i : Instr} (hw : encodeNat i = some (encSum b l)) (hl : Laid l ss)
    (hrow : (segsFit b ss && segsBelow ss 32 && Nat.blt b (2 ^ 32)) = true) (hd : ∀ n, Layout n b l ss → decodeNat n = chk true i) :
    RoundTrip i := by
  simp only [Bool.and_eq_true, Nat.blt_eq] at hrow
  obtain ⟨⟨hfit, hbelow⟩, hb⟩ := hrow
  have hlay := hl.layout hfit
  have hlt : encSum b l < 2 ^ 32 := by
    have := hlay.top hbelow
    omega
  exact fun hwf => ⟨_, hlt, hw, (hd _ hlay).trans (chk_eq_ok.2 ⟨rfl, hwf, rfl⟩)⟩

end Sys2Proof
end

section
/-! Every word that decodes is the word of its instruction (R77 to R87): row by row, what the decoder has looked at and the fields it has
taken cover the word. -/

namespace Sys2Proof

section
variable {n : Nat} {i : Instr} (hn : n < 2 ^ 32)
include hn

theorem isWord_of_dec1 (hM : n / 2 ^ 26 = 1) (h : dec1 n = .ok i) : IsWord i n := by
  simp only [dec1, chk_reserved, chk_two_reserved] at h
  split at h
  case h_28 => cases h
  all_goals
    next ho => exact isWord_of_chk hn hM ho h rfl rfl (by repeat constructor) (by rfl)

theorem isWord_of_dec3 (hM : n / 2 ^ 26 = 3) (h : dec3 n = .ok i) : IsWord i n := by
  simp only [dec3, chk_reserved] at h
  split at h
  case h_4 => cases h
  all_goals
    next ho => exact isWord_of_chk hn hM ho h rfl rfl (by repeat constructor) (by rfl)

theorem isWord_of_dec21 (hM : n / 2 ^ 26 = 21) (h : dec21 n = .ok i) : IsWord i n := by
  simp only [dec21, chk_reserved, chk_two_reserved] at h
  split at h
  case h_10 => cases h
  all_goals
    next ho => exact isWord_of_chk hn hM ho h rfl rfl (by repeat constructor) (by rfl)

theorem isWord_of_dec22 (hM : n / 2 ^ 26 = 22) (h : dec22 n = .ok i) : IsWord i n := by
  simp only [dec22, chk_no_reserved n, chk_reserved, chk_two_reserved] at h
  split at h
  case h_17 => cases h
  all_goals
    next ho => exact isWord_of_chk hn hM ho h rfl rfl (by repeat constructor) (by rfl)

theorem isWord_of_dec23 (hM : n / 2 ^ 26 = 23) (h : dec23 n = .ok i) : IsWord i n := by
  simp only [dec23, chk_no_reserved n] at h
  split at h
  case h_8 => cases h
  all_goals
    next ho => exact isWord_of_chk hn hM ho h rfl rfl (by repeat constructor) (by rfl)

theorem isWord_of_dec24 (hM : n / 2 ^ 26 = 24) (h : dec24 n = .ok i) : IsWord i n := by
  simp only [dec24, chk_no_reserved n] at h
  split at h
  case h_5 => cases h
  all_goals
    next ho => exact isWord_of_chk hn hM ho h rfl rfl (by repeat constructor) (by rfl)

theorem isWord_of_dec32 (hM : n / 2 ^ 26 = 32) (h : dec32 n = .ok i) : IsWord i n := by
  simp only [dec32, chk_reserved] at h
  split at h
  case h_4 => cases h
  all_goals
    next ho => exact isWord_of_chk hn hM ho h rfl rfl (by repeat constructor) (by rfl)

theorem isWord_of_dec33 (hM : n / 2 ^ 26 = 33) (h : dec33 n = .ok i) : IsWord i n := by
  simp only [dec33, chk_no_reserved n, chk_reserved] at h
  split at h
  case h_21 => cases h
  all_goals
    next ho => exact isWord_of_chk hn hM ho h rfl rfl (by repeat constructor) (by rfl)

theorem isWord_of_dec34 (hM : n / 2 ^ 26 = 34) (h : dec34 n = .ok i) : IsWord i n := by
  simp only [dec34, chk_no_reserved n, chk_reserved] at h
  split at h
  case h_5 => cases h
  all_goals
    next ho => exact isWord_of_chk hn hM ho h rfl rfl (by repeat constructor) (by rfl)

theorem isWord_of_dec35 (hM : n / 2 ^ 26 = 35) (h : dec35 n = .ok i) : IsWord i n := by
  simp only [dec35, chk_no_reserved n, chk_reserved, chk_two_reserved] at h
  split at h
  case h_9 => cases h
  all_goals
    next ho => exact isWord_of_chk hn hM ho h rfl rfl (by repeat constructor) (by rfl)

theorem isWord_of_dec36 (hM : n / 2 ^ 26 = 36) (h : dec36 n = .ok i) : IsWord i n := by
  simp only [dec36, chk_reserved] at h
  split at h
  case h_4 => cases h
  all_goals
    next ho => exact isWord_of_chk hn hM ho h rfl rfl (by repeat constructor) (by rfl)

theorem isWord_of_dec37 (hM : n / 2 ^ 26 = 37) (h : dec37 n = .ok i) : IsWord i n := by
  simp only [dec37, chk_no_reserved n] at h
  split at h
  case h_5 => cases h
  all_goals
    next ho => exact isWord_of_chk hn hM ho h rfl rfl (by repeat constructor) (by rfl)

theorem isWord_of_dec48 (hM : n / 2 ^ 26 = 48) (h : dec48 n = .ok i) : IsWord i n := by
  simp only [dec48, chk_reserved, chk_two_reserved] at h
  split at h
  case h_7 => cases h
  all_goals
    next ho => exact isWord_of_chk hn hM ho h rfl rfl (by repeat constructor) (by rfl)

theorem isWord_of_dec49 (hM : n / 2 ^ 26 = 49) (h : dec49 n = .ok i) : IsWord i n := by
  simp only [dec49, chk_no_reserved n, chk_two_reserved] at h
  split at h
  case h_6 => cases h
  all_goals
    next ho => exact isWord_of_chk hn hM ho h rfl rfl (by repeat constructor) (by rfl)

theorem isWord_of_dec50 (hM : n / 2 ^ 26 = 50) (h : dec50 n = .ok i) : IsWord i n := by
  simp only [dec50, chk_reserved, chk_two_reserved] at h
  split at h
  case h_9 => cases h
  all_goals
    next ho => exact isWord_of_chk hn hM ho h rfl rfl (by repeat constructor) (by rfl)

theorem isWord_of_dec51 (hM : n / 2 ^ 26 = 51) (h : dec51 n = .ok i) : IsWord i n := by
  simp only [dec51, chk_reserved] at h
  split at h
  case h_4 => cases h
  all_goals
    next ho => exact isWord_of_chk hn hM ho h rfl rfl (by repeat constructor) (by rfl)

theorem isWord_of_dec56 (hM : n / 2 ^ 26 = 56) (h : dec56 n = .ok i) : IsWord i n := by
  simp only [dec56, chk_no_reserved n, chk_reserved] at h
  split at h
  case h_7 => cases h
  all_goals
    next ho => exact isWord_of_chk hn hM ho h rfl rfl (by repeat constructor) (by rfl)

theorem isWord_of_dec57 (hM : n / 2 ^ 26 = 57) (h : dec57 n = .ok i) : IsWord i n := by
  simp only [dec57, chk_no_reserved n, chk_reserved] at h
  split at h
  case h_14 => cases h
  all_goals
    next ho => exact isWord_of_chk hn hM ho h rfl rfl (by repeat constructor) (by rfl)

theorem isWord_of_dec58 (hM : n / 2 ^ 26 = 58) (h : dec58 n = .ok i) : IsWord i n := by
  simp only [dec58, chk_no_reserved n, chk_reserved, chk_two_reserved] at h
  split at h
  case h_12 => cases h
  all_goals
    next ho => exact isWord_of_chk hn hM ho h rfl rfl (by repeat constructor) (by rfl)

theorem isWord_of_dec59 (hM : n / 2 ^ 26 = 59) (h : dec59 n = .ok i) : IsWord i n := by
  simp only [dec59, chk_reserved, chk_two_reserved] at h
  split at h
  case h_9 => cases h
  all_goals
    next ho => exact isWord_of_chk hn hM ho h rfl rfl (by repeat constructor) (by rfl)

theorem isWord_of_dec60 (hM : n / 2 ^ 26 = 60) (h : dec60 n = .ok i) : IsWord i n := by
  simp only [dec60, chk_reserved, chk_two_reserved] at h
  split at h
  case h_9 => cases h
  all_goals
    next ho => exact isWord_of_chk hn hM ho h rfl rfl (by repeat constructor) (by rfl)

theorem isWord_of_dec62 (hM : n / 2 ^ 26 = 62) (h : dec62 n = .ok i) : IsWord i n := by
  simp only [dec62, chk_no_reserved n, chk_reserved, chk_two_reserved] at h
  split at h
  case h_13 => cases h
  all_goals
    next ho => exact isWord_of_chk hn hM ho h rfl rfl (by repeat constructor) (by rfl)

/-- Every word that decodes is the word of the instruction it gives, which is well formed. -/
theorem isWord_of_decodeNat (h : decodeNat n = .ok i) : IsWord i n := by
  simp only [decodeNat] at h
  split at h
  case h_1 hM => exact isWord_of_dec1 hn hM h
  case h_2 hM => exact isWord_of_dec3 hn hM h
  case h_20 hM => exact isWord_of_dec21 hn hM h
  case h_21 hM => exact isWord_of_dec22 hn hM h
  case h_22 hM => exact isWord_of_dec23 hn hM h
  case h_23 hM => exact isWord_of_dec24 hn hM h
  case h_24 hM => exact isWord_of_dec32 hn hM h
  case h_25 hM => exact isWord_of_dec33 hn hM h
  case h_26 hM => exact isWord_of_dec34 hn hM h
  case h_27 hM => exact isWord_of_dec35 hn hM h
  case h_28 hM => exact isWord_of_dec36 hn hM h
  case h_29 hM => exact isWord_of_dec37 hn hM h
  case h_30 hM => exact isWord_of_dec48 hn hM h
  case h_31 hM => exact isWord_of_dec49 hn hM h
  case h_32 hM => exact isWord_of_dec50 hn hM h
  case h_33 hM => exact isWord_of_dec51 hn hM h
  case h_34 hM => exact isWord_of_dec56 hn hM h
  case h_35 hM => exact isWord_of_dec57 hn hM h
  case h_36 hM => exact isWord_of_dec58 hn hM h
  case h_37 hM => exact isWord_of_dec59 hn hM h
  case h_38 hM => exact isWord_of_dec60 hn hM h
  case h_39 hM => exact isWord_of_dec62 hn hM h
  case h_40 => cases h
  all_goals
    next hM =>
      simp only [chk_no_reserved n, chk_reserved, dec4, dec5, dec6, dec7, dec8, dec9, dec10, dec11, dec12, dec13, dec14, dec15, dec16, dec17,
        dec18, dec19, dec20] at h
      exact isWord_of_chk_major hn hM h rfl rfl (by repeat constructor) (by rfl)

end

/-- Settles O56: what a word that decodes was looked at for, and the fields taken from it, cover it, row by row. -/
theorem wordsHaveOneMeaning : Obligations.WordsHaveOneMeaning := by
  intro w i h
  obtain ⟨hw, hwf, hi⟩ := isWord_of_decodeNat w.isLt h
  refine ⟨hwf, hi, ?_⟩
  rw [encode, hw, Option.map_some, BitVec.ofNat_toNat, BitVec.setWidth_eq]

end Sys2Proof
end

section
/-! Every well-formed instruction has a word, which decodes to it (R77 to R87): row by row, the fixed bits of the word choose the row, and
its fields are read where they were put. -/

namespace Sys2Proof

section
variable {n : Nat}

theorem decodeNat_major1 (h : n / 2 ^ 26 = 1) : decodeNat n = dec1 n := by simp only [decodeNat, h]
theorem decodeNat_major3 (h : n / 2 ^ 26 = 3) : decodeNat n = dec3 n := by simp only [decodeNat, h]
theorem decodeNat_major21 (h : n / 2 ^ 26 = 21) : decodeNat n = dec21 n := by simp only [decodeNat, h]
theorem decodeNat_major22 (h : n / 2 ^ 26 = 22) : decodeNat n = dec22 n := by simp only [decodeNat, h]
theorem decodeNat_major23 (h : n / 2 ^ 26 = 23) : decodeNat n = dec23 n := by simp only [decodeNat, h]
theorem decodeNat_major24 (h : n / 2 ^ 26 = 24) : decodeNat n = dec24 n := by simp only [decodeNat, h]
theorem decodeNat_major32 (h : n / 2 ^ 26 = 32) : decodeNat n = dec32 n := by simp only [decodeNat, h]
theorem decodeNat_major33 (h : n / 2 ^ 26 = 33) : decodeNat n = dec33 n := by simp only [decodeNat, h]
theorem decodeNat_major34 (h : n / 2 ^ 26 = 34) : decodeNat n = dec34 n := by simp only [decodeNat, h]
theorem decodeNat_major35 (h : n / 2 ^ 26 = 35) : decodeNat n = dec35 n := by simp only [decodeNat, h]
theorem decodeNat_major36 (h : n / 2 ^ 26 = 36) : decodeNat n = dec36 n := by simp only [decodeNat, h]
theorem decodeNat_major37 (h : n / 2 ^ 26 = 37) : decodeNat n = dec37 n := by simp only [decodeNat, h]
theorem decodeNat_major48 (h : n / 2 ^ 26 = 48) : decodeNat n = dec48 n := by simp only [decodeNat, h]
theorem decodeNat_major49 (h : n / 2 ^ 26 = 49) : decodeNat n = dec49 n := by simp only [decodeNat, h]
theorem decodeNat_major50 (h : n / 2 ^ 26 = 50) : decodeNat n = dec50 n := by simp only [decodeNat, h]
theorem decodeNat_major51 (h : n / 2 ^ 26 = 51) : decodeNat n = dec51 n := by simp only [decodeNat, h]
theorem decodeNat_major56 (h : n / 2 ^ 26 = 56) : decodeNat n = dec56 n := by simp only [decodeNat, h]
theorem decodeNat_major57 (h : n / 2 ^ 26 = 57) : decodeNat n = dec57 n := by simp only [decodeNat, h]
theorem decodeNat_major58 (h : n / 2 ^ 26 = 58) : decodeNat n = dec58 n := by simp only [decodeNat, h]
theorem decodeNat_major59 (h : n / 2 ^ 26 = 59) : decodeNat n = dec59 n := by simp only [decodeNat, h]
theorem decodeNat_major60 (h : n / 2 ^ 26 = 60) : decodeNat n = dec60 n := by simp only [decodeNat, h]
theorem decodeNat_major62 (h : n / 2 ^ 26 = 62) : decodeNat n = dec62 n := by simp only [decodeNat, h]

end

theorem roundTrip_of_no_unit {i : Instr} (hi : i.isEvent = false) (hu : i.unit = 0) : RoundTrip i := by
  cases i
  case addi | andi | ori | xori | slti | sltiu | lui | apc | beq | bne | blt | bge | bltu | bgeu | dbnz | jal | jalr =>
    refine roundTrip_of_row rfl (by repeat constructor) (by rfl) fun n hl => ?_
    simp [decodeNat, ↓hl.top, ↓hl.fixed, ↓hl.field,
      dec4, dec5, dec6, dec7, dec8, dec9, dec10, dec11, dec12, dec13, dec14, dec15, dec16, dec17, dec18, dec19, dec20]
  case add | sub | and | or | xor | andn | orn | sll | srl | sra | rol | ror | slli | srli | srai | rori | slt | sltu | seq | min | max | minu
      | maxu | clz | ctz | pop | sadd =>
    refine roundTrip_of_row rfl (by repeat constructor) (by rfl) fun n hl => ?_
    rw [decodeNat_major1 (hl.top rfl), dec1, hl.fixed rfl]
    simp [↓hl.fixed, ↓hl.field]
  case bfx | bfxu | bfi =>
    refine roundTrip_of_row rfl (by repeat constructor) (by rfl) fun n hl => ?_
    rw [decodeNat_major3 (hl.top rfl), dec3, hl.fixed rfl]
    simp [↓hl.fixed, ↓hl.field]
  case nop | crr | crw | crs | crc | svc | trap | tret | brk | await | pin | unpin =>
    refine roundTrip_of_row rfl (by repeat constructor) (by rfl) fun n hl => ?_
    rw [decodeNat_major62 (hl.top rfl), dec62, hl.fixed rfl]
    simp [↓hl.fixed, ↓hl.field]
  all_goals exact nomatch hi, hu

theorem roundTrip_of_unit {i : Instr} (hu : i.unit ≠ 0) : RoundTrip i := by
  cases i
  case mul | mulh | mulhu | mulhsu | div | divu | rem | remu | madd =>
    refine roundTrip_of_row rfl (by repeat constructor) (by rfl) fun n hl => ?_
    rw [decodeNat_major21 (hl.top rfl), dec21, hl.fixed rfl]
    simp [↓hl.fixed, ↓hl.field]
  case fadd | fsub | fmul | fdiv | fsqrt | fmin | fmax | fma | feq | flt | fle | fcvti | fcvtf | fcvt | fsgnj | fclass =>
    refine roundTrip_of_row rfl (by repeat constructor) (by rfl) fun n hl => ?_
    rw [decodeNat_major22 (hl.top rfl), dec22, hl.fixed rfl]
    simp [↓hl.fixed, ↓hl.field]
  case ldb | ldbu | ldh | ldhu | ldw | ldwu | ldd =>
    refine roundTrip_of_row rfl (by repeat constructor) (by rfl) fun n hl => ?_
    rw [decodeNat_major23 (hl.top rfl), dec23, hl.fixed rfl]
    simp [↓hl.field]
  case stb | sth | stw | std =>
    refine roundTrip_of_row rfl (by repeat constructor) (by rfl) fun n hl => ?_
    rw [decodeNat_major24 (hl.top rfl), dec24, hl.fixed rfl]
    simp [↓hl.field]
  case ptrset | ptrdim | ptrget =>
    refine roundTrip_of_row rfl (by repeat constructor) (by rfl) fun n hl => ?_
    rw [decodeNat_major32 (hl.top rfl), dec32, hl.fixed rfl]
    simp [↓hl.fixed, ↓hl.field]
  case vadd | vsub | vmul | vmin | vmax | vabs | vneg | vand | vor | vxor | vshl | vshr | vfma | vsel | vcmpEq | vcmpNe | vcmpLt | vcmpLe |
      vperm | vbcast =>
    refine roundTrip_of_row rfl (by repeat constructor) (by rfl) fun n hl => ?_
    rw [decodeNat_major33 (hl.top rfl), dec33, hl.fixed rfl]
    simp [↓hl.fixed, ↓hl.field]
  case vcvt | vcvtS | vpack | vunpack =>
    refine roundTrip_of_row rfl (by repeat constructor) (by rfl) fun n hl => ?_
    rw [decodeNat_major34 (hl.top rfl), dec34, hl.fixed rfl]
    simp [↓hl.fixed, ↓hl.field]
  case vdot | vdotS | vsum | vredMax | vredMin | vaccClr | vaccSt | vaccRd =>
    refine roundTrip_of_row rfl (by repeat constructor) (by rfl) fun n hl => ?_
    rw [decodeNat_major35 (hl.top rfl), dec35, hl.fixed rfl]
    simp [↓hl.fixed, ↓hl.field]
  case vexp2 | vrcp | vrsqrt =>
    refine roundTrip_of_row rfl (by repeat constructor) (by rfl) fun n hl => ?_
    rw [decodeNat_major36 (hl.top rfl), dec36, hl.fixed rfl]
    simp [↓hl.fixed, ↓hl.field]
  case vgath | vscat | vcprs | vhamf =>
    refine roundTrip_of_row rfl (by repeat constructor) (by rfl) fun n hl => ?_
    rw [decodeNat_major37 (hl.top rfl), dec37, hl.fixed rfl]
    simp [↓hl.field]
  case tcfg | tcfgD | mzero | mwait | mexc | mscale =>
    refine roundTrip_of_row rfl (by repeat constructor) (by rfl) fun n hl => ?_
    rw [decodeNat_major48 (hl.top rfl), dec48, hl.fixed rfl]
    simp [↓hl.fixed, ↓hl.field]
  case mma | mmaCo | mmi | mmt | msig =>
    refine roundTrip_of_row rfl (by repeat constructor) (by rfl) fun n hl => ?_
    rw [decodeNat_major49 (hl.top rfl), dec49, hl.fixed rfl]
    simp [↓hl.fixed, ↓hl.field]
  case mldb | mrd | mwr | mdrain | mdrainAdd | mmov | mrowRd | mrowWr =>
    refine roundTrip_of_row rfl (by repeat constructor) (by rfl) fun n hl => ?_
    rw [decodeNat_major50 (hl.top rfl), dec50, hl.fixed rfl]
    simp [↓hl.fixed, ↓hl.field]
  case msmx | mmrg | mfin =>
    refine roundTrip_of_row rfl (by repeat constructor) (by rfl) fun n hl => ?_
    rw [decodeNat_major51 (hl.top rfl), dec51, hl.fixed rfl]
    simp [↓hl.fixed, ↓hl.field]
  case send | sendl | reply | hret | mpoll | rsend =>
    refine roundTrip_of_row rfl (by repeat constructor) (by rfl) fun n hl => ?_
    rw [decodeNat_major56 (hl.top rfl), dec56, hl.fixed rfl]
    simp [↓hl.fixed, ↓hl.field]
  case barInit | barArr | barExp | barWait | barTest | barFlags | ecSet | ecInc | ecArm | ecRd | semPost | semTake | fence =>
    refine roundTrip_of_row rfl (by repeat constructor) (by rfl) fun n hl => ?_
    rw [decodeNat_major57 (hl.top rfl), dec57, hl.fixed rfl]
    simp [↓hl.fixed, ↓hl.field]
  case atom | atomRet | acq | rel | bind | unbind | copy | collCfg | collRdy | strmOpen | strmClose =>
    refine roundTrip_of_row rfl (by repeat constructor) (by rfl) fun n hl => ?_
    rw [decodeNat_major58 (hl.top rfl), dec58, hl.fixed rfl]
    simp [↓hl.fixed, ↓hl.field]
  case itreq | itreqX | ithold | itrel | itstat | itland | bdeal | bdpat =>
    refine roundTrip_of_row rfl (by repeat constructor) (by rfl) fun n hl => ?_
    rw [decodeNat_major59 (hl.top rfl), dec59, hl.fixed rfl]
    simp [↓hl.fixed, ↓hl.field]
  case spawn | spawnR | yield | halt | trig | awaitEv | cmp | dcmp =>
    refine roundTrip_of_row rfl (by repeat constructor) (by rfl) fun n hl => ?_
    rw [decodeNat_major60 (hl.top rfl), dec60, hl.fixed rfl]
    simp [↓hl.fixed, ↓hl.field]
  all_goals exact absurd rfl hu

theorem roundTrip {i : Instr} (hi : i.isEvent = false) : RoundTrip i := by
  by_cases hu : i.unit = 0
  · exact roundTrip_of_no_unit hi hu
  · exact roundTrip_of_unit hu

/-- Settles O57: each of the words evaluates. -/
theorem wordsOfTheSpec : Obligations.WordsOfTheSpec :=
  ⟨rfl, rfl, rfl, rfl, rfl, rfl, rfl, rfl, rfl, rfl, rfl, rfl, rfl, rfl, rfl, rfl, rfl, rfl, rfl, rfl⟩

/-- Settles O55: the fixed bits of an instruction's word choose its row of the decoder, and the row reads each field where it was put. -/
theorem encodeDecode : Obligations.EncodeDecode := by
  intro i hi hwf
  obtain ⟨n, hn, hw, hd⟩ := roundTrip hi hwf
  refine ⟨BitVec.ofNat 32 n, by rw [encode, hw, Option.map_some], ?_⟩
  rw [decode, BitVec.toNat_ofNat, Nat.mod_eq_of_lt hn, hd]

end Sys2Proof
end

section
/-! The checks of decoding (R88, R89, R142): whatever way an instruction issues, it meets them before it does anything. -/

namespace Sys2Proof.Machine
open Sys2Proof

/-- The ways in which an instruction issues, with the state each leads to (R91). -/
inductive Issues (i : Instr) (s : State) : State → Prop
  | atOnce (adv : Bool) (body : State → Res) : Issues i s (issueNow i adv body s)
  | onUnit (prep : Prepare) (fin : Eff) : Issues i s (longPrep i prep fin s)
  | checked (chk : State → Option Trap) (eff : Eff) : Issues i s (longChk i chk eff s)
  | matrix (chk : State → Option Trap) (prep : Prepare) (op : Env → State → MatOp) : Issues i s (matPrep i chk prep op s)
  | memory (ra : BitVec 4) (off : BitVec 11) (size : Nat) (a : Acc) (eff : Eff) : Issues i s (memOp i ra off size a eff s)

/-- Every instruction issues in one of them. -/
theorem exec_issues {i : Instr} (hi : i.isEvent = false) (s : State) : ∃ t, exec i s = .next t ∧ Issues i s t := by
  cases i
  case add | sub | and | or | xor | andn | orn | sll | srl | sra | rol | ror | slli | srli | srai | rori | slt | sltu | seq | min | max |
      minu | maxu | clz | ctz | pop | sadd | bfx | bfxu | bfi | addi | andi | ori | xori | slti | sltiu | lui | apc | beq | bne | blt | bge |
      bltu | bgeu | dbnz | jal | jalr | nop | crr | crw | crs | crc | svc | trap | tret | brk | await | pin | unpin =>
    exact ⟨_, rfl, .atOnce _ _⟩
  case ldb | ldbu | ldh | ldhu | ldw | ldwu | ldd | stb | sth | stw | std =>
    exact ⟨_, rfl, .memory _ _ _ _ _⟩
  case vadd | vsub | vmul | vmin | vmax | vabs | vneg | vand | vor | vxor | vshl | vshr | vfma | vsel | vcmpEq | vcmpNe | vcmpLt | vcmpLe |
      vperm | vbcast | vcvt | vcvtS | vpack | vunpack | vdot | vdotS | vsum | vredMax | vredMin | vexp2 | vrcp | vrsqrt | vgath | vscat |
      vcprs | tcfg | tcfgD | mwait =>
    exact ⟨_, rfl, .checked _ _⟩
  case mzero | mexc | mscale | mma | mmaCo | mmi | mmt | msig | mldb | mrd | mwr | mmov | mrowRd | mrowWr | mmrg | mfin | mdrain |
      mdrainAdd | msmx =>
    exact ⟨_, rfl, .matrix _ _ _⟩
  case mul | mulh | mulhu | mulhsu | div | divu | rem | remu | madd | fadd | fsub | fmul | fdiv | fsqrt | fmin | fmax | fma | feq | flt |
      fle | fcvti | fcvtf | fcvt | fsgnj | fclass | ptrset | ptrdim | ptrget | vaccClr | vaccSt | vaccRd | vhamf | send | sendl | reply |
      hret | mpoll | rsend | barInit | barArr | barExp | barWait | barTest | barFlags | ecSet | ecInc | ecArm | ecRd | semPost | semTake |
      fence | atom | atomRet | acq | rel | bind | unbind | copy | collCfg | collRdy | strmOpen | strmClose | itreq | itreqX | ithold | itrel |
      itstat | itland | bdeal | bdpat | spawn | spawnR | yield | halt | trig | awaitEv | cmp | dcmp =>
    exact ⟨_, rfl, .onUnit _ _⟩
  all_goals cases hi

theorem longChk_decodeTrap {i : Instr} {chk : State → Option Trap} {eff : Eff} {s : State} {x : Trap} (h : s.Clear)
    (hu : s.unitBusy i.unit = false) (hd : s.decodeTrap i = some x) : longChk i chk eff s = s.raise x := by
  rw [longChk, if_neg (by simp [hd])]
  exact longPrep_decodeTrap h hu hd

theorem matPrep_decodeTrap {i : Instr} {chk : State → Option Trap} {prep : Prepare} {op : Env → State → MatOp} {s : State} {x : Trap}
    (h : s.Clear) (hd : s.decodeTrap i = some x) : matPrep i chk prep op s = s.raise x := by
  simp [matPrep, h.gate, hd]

theorem memOp_decodeTrap {i : Instr} {ra : BitVec 4} {off : BitVec 11} {size : Nat} {a : Acc} {eff : Eff} {s : State} {x : Trap}
    (h : s.Clear) (hu : s.unitBusy i.unit = false) (hd : s.decodeTrap i = some x) : memOp i ra off size a eff s = s.raise x := by
  cases hr : s.remote? (accAddr s.st.g ra off size) size a with
  | none =>
    simp only [memOp, hr]
    exact longPrep_decodeTrap h hu hd
  | some pa =>
    simp only [memOp, hr, h.pend, List.isEmpty_nil, Bool.not_true, Bool.and_false, Bool.false_eq_true, if_false]
    exact issueNow_decodeTrap h hd

/-- A trap of decoding is all that an instruction of a strand with nothing pending does. -/
theorem exec_decodeTrap {i : Instr} {s : State} {x : Trap} (hi : i.isEvent = false) (h : s.Clear) (hu : s.unitBusy i.unit = false)
    (hd : s.decodeTrap i = some x) : exec i s = .next (s.raise x) := by
  obtain ⟨t, he, hissue⟩ := exec_issues hi s
  rw [he]
  cases hissue with
  | atOnce => rw [issueNow_decodeTrap h hd]
  | onUnit => rw [longPrep_decodeTrap h hu hd]
  | checked => rw [longChk_decodeTrap h hu hd]
  | matrix => rw [matPrep_decodeTrap h hd]
  | memory => rw [memOp_decodeTrap h hu hd]

section
variable {i : Instr} {s : State}

theorem decodeTrap_unassigned (ha : i.unassigned = true) : s.decodeTrap i = some (tr cIllegalOp i.word) := by
  rw [State.decodeTrap, if_pos ha]

theorem decodeTrap_wrongCore {c : Nat} (ha : i.unassigned = false) (hc : clsTrap i.cls s.core = some c) :
    s.decodeTrap i = some (tr c i.word) := by
  simp [State.decodeTrap, ha, hc]

theorem decodeTrap_priv (ha : i.unassigned = false) (hc : clsTrap i.cls s.core = none) (hp : i.priv = true) (hs : s.st.sys = false) :
    s.decodeTrap i = some (tr cPriv i.word) := by
  simp [State.decodeTrap, ha, hc, hp, hs]

end

/-- Settles O18: decoding finds the first of the three, and whatever way the instruction issues, that trap is all it does. -/
theorem decodeTraps : Obligations.DecodeTraps := by
  intro i s hi h hu saddle wrong
  have hwrong : wrong = clsTrap i.cls s.core := by
    unfold wrong clsTrap
    cases i.cls <;> rfl
  refine ⟨fun ha => ?_, fun c ha hc => ?_, fun ha hc hp hs => ?_⟩
  · exact exec_decodeTrap hi h hu (decodeTrap_unassigned ha)
  · exact exec_decodeTrap hi h hu (decodeTrap_wrongCore ha (hwrong ▸ hc))
  · exact exec_decodeTrap hi h hu (decodeTrap_priv ha (hwrong ▸ hc) hp hs)

end Sys2Proof.Machine
end

section
/-! LONG_LATENCY_COMPLETE (R90, R91, R93, R96): the pending instruction whose turn it is, with the state of its issue. -/

namespace Sys2Proof.Machine
open Sys2Proof

section
variable {s u v : State} {p : Pend} {f : Eff} {k : Nat}

/-- The control registers of a core after a pending instruction: dflt and sqcfg of s, rngs r (R34, R60). -/
def State.putBack (u s : State) (r : Word) : State :=
  u.modCore s.core fun k => { k with dflt := s.me.dflt, sqcfg := s.me.sqcfg, rngs := r }

theorem State.strandAt_putBack (u s : State) (r : Word) (c x : Nat) : (u.putBack s r).strandAt c x = u.strandAt c x := by
  unfold State.strandAt State.putBack
  rw [State.coreAt_modCore]
  split
  · next h => rw [h]
  · rfl

theorem State.me_putBack {r : Word} (h : u.core = s.core) :
    (u.putBack s r).me = { u.me with dflt := s.me.dflt, sqcfg := s.me.sqcfg, rngs := r } := by
  have hu : u.coreAt s.core = u.me := by rw [State.me, h]
  have hcore : (u.putBack s r).core = s.core := h
  rw [State.me, hcore, State.putBack, State.coreAt_modCore_self, hu]

/-- An effect done under the control registers of its issue leaves those of now behind; its draws count when rngs is that of its issue. -/
theorem State.atIssue_done {g : State → Res}
    (h : g (s.modMe fun k => { k with dflt := p.dflt, sqcfg := p.sqcfg, rngs := p.rngs }) = .done u) :
    ∃ r, s.atIssue p g = .done (u.putBack s r) ∧ (p.rngs = s.me.rngs → r = (u.coreAt s.core).rngs) := by
  refine ⟨if p.rngs = s.me.rngs then (u.coreAt s.core).rngs else
    ((g (s.modMe fun k => { k with dflt := p.dflt, sqcfg := p.sqcfg, rngs := s.me.rngs })).state.coreAt s.core).rngs, ?_,
    fun hr => if_pos hr⟩
  simp only [State.atIssue, h]
  rfl

/-- The unit completes the instruction whose turn it is, when its effect is done. -/
theorem exec_longLatencyComplete_done (hmat : matOf p.instr = none) (heff : effOf p.instr = some f) (hturn : s.me.turn k = [(s.ctx, p)])
    (hcom : p.com = true) (hmoving : k = 4 → s.me.frozen = false)
    (hdone : s.atIssue p (f { g := p.g, tag := p.order, pc := p.pc, prep := p.prep }) = .done v) :
    exec (.longLatencyComplete s.core k) s = .next { v.completed v.core s.ctx p.order with core := s.core, ctx := s.ctx } := by
  have hrun : s.runPend s.ctx p 65536 = some (v.completed v.core s.ctx p.order) := by
    simp only [State.runPend, hmat, heff]
    rw [hdone]
  have hunit : s.runUnit s.core k 65536 = { v.completed v.core s.ctx p.order with core := s.core, ctx := s.ctx } := by
    change (if k = 4 ∧ s.me.frozen = true then s else
      match s.firstPend 65536 (s.me.turn k) with
      | some t => { t with core := s.core, ctx := s.ctx }
      | none => s) = _
    rw [if_neg fun h => by simp [hmoving h.1] at h, hturn]
    simp only [State.firstPend, hcom, if_true, hrun]
  exact congrArg Host.Outcome.next hunit

end

/-- Settles O20: the effect is performed under the state of the issue, and the strand's only pending instruction completes. -/
theorem longLatencyCompletes : Obligations.LongLatencyCompletes := by
  intro k p f s u hmat heff hturn hcom hmoving hdone hcore hctx hpend hrep hfound hend
  obtain ⟨r, hat, hr⟩ := State.atIssue_done hdone
  have hst : (u.putBack s r).st = u.st := State.strandAt_putBack u s r _ _
  have hvcore : (u.putBack s r).core = s.core := hcore
  have hvctx : (u.putBack s r).ctx = s.ctx := hctx
  have hexec := exec_longLatencyComplete_done hmat heff hturn hcom hmoving hat
  rw [← hvctx, State.completed_only (hst ▸ hpend) (hst ▸ hrep) (hst ▸ hfound) (hst ▸ hend), hvctx] at hexec
  have hme := State.me_putBack hcore (r := r)
  refine ⟨_, hexec.trans (congrArg Host.Outcome.next (State.with_core_ctx hvcore hvctx)), ?_, ?_, ?_, fun hp => ?_, fun _ => rfl,
    fun y hy => ?_⟩
  · rw [State.st_modSt, hst]
  · rw [State.me_modSt, hme]
  · rw [State.me_modSt, hme]
  · rw [State.me_modSt, hme]
    exact (hr hp).trans (by rw [State.me, hcore])
  · rw [State.strandAt_modSt_ne _ _ _ _ (fun h => hy (h.2.trans hvctx)), State.strandAt_putBack]

end Sys2Proof.Machine
end

section
/-! The fetch and the step (R76, R88, R289, R313, R339, R340, R345, R420): what a fetch leaves unchanged, what enters the instruction
cache, and whose instruction a step runs. -/

namespace Sys2Proof.Machine
open Sys2Proof

/-! ### What a fetch changes -/

/-- What a fetch reads of the state beside memory: the acting strand, where the cores stand, and the instruction caches. -/
structure State.SameCode (s t : State) : Prop where
  core : t.core = s.core
  ctx : t.ctx = s.ctx
  cores : t.cores = s.cores
  place : t.place = s.place
  icache : ∀ v, (t.valleyAt v).icache = (s.valleyAt v).icache

namespace State.SameCode
variable {s t u : State}

theorem refl (s : State) : s.SameCode s := ⟨rfl, rfl, rfl, rfl, fun _ => rfl⟩

theorem trans (h : s.SameCode t) (k : t.SameCode u) : s.SameCode u where
  core := k.core.trans h.core
  ctx := k.ctx.trans h.ctx
  cores := k.cores.trans h.cores
  place := k.place.trans h.place
  icache v := (k.icache v).trans (h.icache v)

theorem of_powered (h : s.Powered t) : s.SameCode t := by
  rw [h.rest]
  exact ⟨rfl, rfl, rfl, rfl, fun _ => rfl⟩

theorem st_eq (h : s.SameCode t) : t.st = s.st := by
  rw [State.st, State.strandAt, State.coreAt, h.core, h.ctx, h.cores]
  rfl

theorem globalOf_eq (h : s.SameCode t) (c pa : Nat) : t.globalOf c pa = s.globalOf c pa := by
  rw [State.globalOf, State.spireOf, State.placeOf, h.place]
  rfl

theorem icOf_eq (h : s.SameCode t) (c : Nat) : t.icOf c = s.icOf c := by
  rw [State.icOf, State.placeOf, h.place]
  rfl

theorem icLine_eq (h : s.SameCode t) (ga : Nat) : t.icLine ga = s.icLine ga := by
  simp only [State.icLine, h.core, h.icOf_eq, h.icache, h.st_eq]

end State.SameCode

section
variable (s : State)

theorem State.sameCode_corrected (d : Nat) : s.SameCode (s.corrected d) := by
  have hv (w : Nat) : s.SameCode (s.modValley w fun v => { v with corr := Nat.min (v.corr + 1) 0xFFFFFFFF }) := by
    refine ⟨rfl, rfl, rfl, rfl, fun v => ?_⟩
    rw [State.valleyAt_modValley]
    split
    · next h => rw [h]
    · rfl
  unfold State.corrected
  dsimp only
  split
  · exact hv _
  · exact (hv _).trans ⟨rfl, rfl, rfl, rfl, fun _ => rfl⟩

theorem State.sameCode_scrub (a n : Nat) : s.SameCode (s.scrub a n) := by
  unfold State.scrub
  dsimp only
  split
  · exact .refl s
  · refine List.foldlRecOn (motive := fun t => s.SameCode t) _ _ (.refl s) fun t ht e _ => ht.trans ?_
    have hdel : t.SameCode { t with soft := fdel e.1 t.soft } := ⟨rfl, rfl, rfl, rfl, fun _ => rfl⟩
    exact hdel.trans (State.sameCode_corrected _ e.1)

theorem State.sameCode_walkScrub (c va k lvl root : Nat) : s.SameCode (s.walkScrub c va k lvl root) := by
  induction k generalizing s lvl root with
  | zero => exact .refl s
  | succ k ih =>
    unfold State.walkScrub
    dsimp only
    generalize root + 8 * _ = a
    split
    · exact .refl s
    · split
      · exact s.sameCode_scrub _ 8
      · exact (s.sameCode_scrub _ 8).trans (ih _ _ _)

theorem State.sameCode_walked (c : Nat) (lix : Option Nat) (va : Nat) : s.SameCode (s.walked c lix va) := by
  cases lix with
  | none => exact .refl s
  | some l =>
    unfold State.walked
    dsimp only
    split
    · exact .refl s
    · exact s.sameCode_walkScrub ..

theorem State.sameCode_fetchWalked : s.SameCode s.fetchWalked := by
  have hw := s.sameCode_walked s.core s.st.lix s.st.pc.toNat
  unfold State.fetchWalked
  dsimp only
  split
  · exact hw
  · exact hw.trans (.of_powered (State.powered_power _ _))

end

section
variable {s : State} {pa v : Nat}

/-! ### A fetch where no single-bit error lies -/

theorem State.scrub_of_soft_nil (h : s.soft = []) (a n : Nat) : s.scrub a n = s := by simp [State.scrub, h]

theorem State.walked_of_soft_nil (h : s.soft = []) (c : Nat) (lix : Option Nat) (va : Nat) : s.walked c lix va = s := by
  cases lix <;> simp [State.walked, h]

theorem State.power_of_lt {a : Nat} (h : a < 2 ^ 60) : s.power a = s := if_pos h

theorem State.fetchWalked_of_ok (h : s.soft = []) (hx : s.xlate s.st.pc.toNat 4 .fx = .ok pa) :
    s.fetchWalked = s.power (s.globalOf s.core pa) := by
  simp only [State.fetchWalked, hx, State.walked_of_soft_nil h]

theorem State.powered_fetchWalked (h : s.soft = []) : s.Powered s.fetchWalked := by
  cases hx : s.xlate s.st.pc.toNat 4 .fx with
  | error t => simp only [State.fetchWalked, hx, State.walked_of_soft_nil h, State.Powered.refl]
  | ok pa => rw [State.fetchWalked_of_ok h hx]; exact s.powered_power _

/-- A word that the instruction cache holds: the fetch reads no memory for it (R345). -/
theorem State.fetched_of_line {l : ICLine} (hx : s.xlate s.st.pc.toNat 4 .fx = .ok pa) (hl : s.icLine (s.globalOf s.core pa) = some l) :
    s.fetched = s.fetchWalked := by
  have hw := s.sameCode_fetchWalked
  simp only [State.fetched, hx, hw.core, hw.globalOf_eq, hw.icLine_eq, hl, Option.isSome_some, if_true]

/-- A word of the core's valley that the cache does not hold: where its line can be read, that enters the cache (R345). -/
theorem State.fetched_of_miss (h : s.soft = []) (hx : s.xlate s.st.pc.toNat 4 .fx = .ok pa)
    (hl : s.icLine (s.globalOf s.core pa) = none) (hv : s.icOf s.core = some v) :
    s.fetched = if pa < 2 ^ 37 ∧ (s.badIn (s.globalOf s.core pa / 64 * 64) 64).isNone = true
      then s.fetchWalked.icPut v (s.globalOf s.core pa / 64 * 64) else s.fetchWalked := by
  have hw := s.sameCode_fetchWalked
  have hp := State.powered_fetchWalked h
  have hsoft : s.fetchWalked.soft = [] := hp.soft_eq.trans h
  have hbad (a n : Nat) : s.fetchWalked.badIn a n = s.badIn a n := by rw [State.badIn, hp.bad_eq]; rfl
  simp only [State.fetched, hx, hw.core, hw.globalOf_eq, hw.icLine_eq, hl, hw.icOf_eq, hv, hbad, State.scrub_of_soft_nil hsoft,
    Option.isSome_none, Bool.false_eq_true, if_false]
  rw [State.scrub_of_soft_nil]
  exact hsoft

/-- A word that neither the cache holds nor the core's fetches bring in. -/
theorem State.fetched_of_uncached (h : s.soft = []) (hx : s.xlate s.st.pc.toNat 4 .fx = .ok pa)
    (hl : s.icLine (s.globalOf s.core pa) = none) (hv : s.icOf s.core = none) : s.fetched = s.fetchWalked := by
  have hw := s.sameCode_fetchWalked
  have hsoft : s.fetchWalked.soft = [] := (State.powered_fetchWalked h).soft_eq.trans h
  simp only [State.fetched, hx, hw.core, hw.globalOf_eq, hw.icLine_eq, hl, hw.icOf_eq, hv, State.scrub_of_soft_nil hsoft,
    Option.isSome_none, Bool.false_eq_true, if_false]

/-- A fetch that corrects nothing powers up a bank and may bring in a line. -/
theorem State.fetched_cases (h : s.soft = []) : s.fetched = s.fetchWalked ∨ ∃ v ga, s.fetched = s.fetchWalked.icPut v ga := by
  cases hx : s.xlate s.st.pc.toNat 4 .fx with
  | error t => left; simp only [State.fetched, hx]
  | ok pa =>
    cases hl : s.icLine (s.globalOf s.core pa) with
    | some l => exact .inl (State.fetched_of_line hx hl)
    | none =>
      cases hv : s.icOf s.core with
      | none => exact .inl (State.fetched_of_uncached h hx hl hv)
      | some v =>
        rw [State.fetched_of_miss h hx hl hv]
        split
        · exact .inr ⟨v, _, rfl⟩
        · exact .inl rfl

theorem State.valleyAt_icPut (s : State) (v ga w : Nat) : (s.icPut v ga).valleyAt w = if w = v
    then { s.valleyAt v with
      icache := ({ lix := s.st.lix, ga := ga, data := s.bytes ga 64 } :: (s.valleyAt v).icache).take Config.icacheLines }
    else s.valleyAt w := State.valleyAt_modValley ..

theorem State.head_icPut (s : State) (v ga : Nat) :
    ((s.icPut v ga).valleyAt v).icache.head? = some { lix := s.st.lix, ga := ga, data := s.bytes ga 64 } := by
  rw [State.valleyAt_icPut, if_pos rfl]
  rfl

theorem State.valley_icPut (s : State) (v ga w : Nat) : { (s.icPut v ga).valleyAt w with icache := (s.valleyAt w).icache } = s.valleyAt w := by
  rw [State.valleyAt_icPut]
  split
  · next h => rw [h]
  · rfl

theorem State.Powered.spire_eq {s t : State} (h : s.Powered t) (p : Nat) : { t.spireAt p with up := (s.spireAt p).up } = s.spireAt p := by
  rw [h.spire p]

/-- A fetch that corrects nothing changes the instruction caches and the power of the banks alone (R289, R345). -/
theorem State.fetched_frame (h : s.soft = []) : ∃ vs ps, s.fetched = { s with valleys := vs, spires := ps } ∧
    (∀ v, { s.fetched.valleyAt v with icache := (s.valleyAt v).icache } = s.valleyAt v) ∧
    ∀ p, { s.fetched.spireAt p with up := (s.spireAt p).up } = s.spireAt p := by
  have hp := State.powered_fetchWalked h
  have hval (w : Nat) : s.fetchWalked.valleyAt w = s.valleyAt w := by rw [hp.rest]; rfl
  rcases State.fetched_cases h with hf | ⟨v, ga, hf⟩
  · refine ⟨s.valleys, s.fetchWalked.spires, hf.trans hp.rest, fun w => ?_, fun p => ?_⟩
    · rw [hf, hval]
    · rw [hf, hp.spire_eq]
  · refine ⟨(s.fetchWalked.icPut v ga).valleys, s.fetchWalked.spires, ?_, fun w => ?_, fun p => ?_⟩
    · rw [hf]
      conv_lhs => rw [State.icPut, State.modValley, hp.rest]
      rw [hp.rest]
      rfl
    · rw [hf, ← hval, State.valley_icPut]
    · rw [hf]
      exact hp.spire_eq p

/-! ### The bank of a fetch from the scratchpad, and the line of one from device memory -/

theorem getLsbD_putBit_self {n : Nat} (x : BitVec n) {i : Nat} (h : i < n) : (putBit x i true).getLsbD i = true := by
  unfold putBit
  rw [if_pos rfl, BitVec.getLsbD_or, BitVec.getLsbD_ofNat, Nat.testBit_two_pow_self]
  simp [h]

theorem State.power_bank (s : State) (p : Nat) {o : Nat} (h : o < 2 ^ 20) :
    ((s.power (spBase p + o)).spireAt p).up.getLsbD (o / 0x20000) = true := by
  have hge : ¬ spBase p + o < 2 ^ 60 := by unfold spBase; omega
  have hp : (spBase p + o - 2 ^ 60) / 2 ^ 20 = p := by unfold spBase; omega
  have ho : (spBase p + o - 2 ^ 60) % 2 ^ 20 = o := by unfold spBase; omega
  unfold State.power
  rw [if_neg hge]
  dsimp only
  rw [hp, ho]
  split
  · next hup => exact hup
  · rw [State.spireAt_modSpire, if_pos rfl]
    exact getLsbD_putBit_self _ (by omega)

theorem isSpPa_iff (pa : Nat) : isSpPa pa = true ↔ 0xFF0000000000 ≤ pa ∧ pa < 0xFF0000100000 := by simp [isSpPa]

/-- A fetch from the scratchpad powers its bank up (R289). -/
theorem State.fetched_bank (h : s.soft = []) (hx : s.xlate s.st.pc.toNat 4 .fx = .ok pa) (hsp : isSpPa pa = true) :
    (s.fetched.spireAt s.mySpire).up.getLsbD ((pa - 0xFF0000000000) / 0x20000) = true := by
  have hup : (s.fetchWalked.spireAt s.mySpire).up.getLsbD ((pa - 0xFF0000000000) / 0x20000) = true := by
    rw [State.fetchWalked_of_ok h hx, State.globalOf, if_pos hsp]
    exact s.power_bank _ (by have := (isSpPa_iff pa).mp hsp; omega)
  rcases State.fetched_cases h with hf | ⟨v, ga, hf⟩
  · rw [hf]
    exact hup
  · rw [hf]
    exact hup

/-- The global address of device memory lies below the scratchpads. -/
theorem State.globalOf_lt (s : State) {c : Nat} (hc : c < 2 ^ 20) (hpa : pa < 2 ^ 37) : s.globalOf c pa < 2 ^ 60 := by
  have hsp : ¬ isSpPa pa = true := by rw [isSpPa_iff]; omega
  rw [State.globalOf, if_neg hsp, pkgOf]
  omega

/-- A miss in device memory brings its line in as the newest, where that can be read, and else changes nothing (R345). -/
theorem State.fetched_line (hc : s.core < 2 ^ 20) (hx : s.xlate s.st.pc.toNat 4 .fx = .ok pa) (h : s.soft = [])
    (hl : s.icLine (s.globalOf s.core pa) = none) (hv : s.icOf s.core = some v) (hpa : pa < 2 ^ 37) :
    (s.badIn (s.globalOf s.core pa / 64 * 64) 64 = none → (s.fetched.valleyAt v).icache.head? =
      some { lix := s.st.lix, ga := s.globalOf s.core pa / 64 * 64, data := s.bytes (s.globalOf s.core pa / 64 * 64) 64 }) ∧
    (s.badIn (s.globalOf s.core pa / 64 * 64) 64 ≠ none → s.fetched = s) := by
  have hw : s.fetchWalked = s := (State.fetchWalked_of_ok h hx).trans (State.power_of_lt (s.globalOf_lt hc hpa))
  have hf := State.fetched_of_miss h hx hl hv
  rw [hw] at hf
  constructor
  · intro hb
    rw [hf, if_pos ⟨hpa, by rw [hb]; rfl⟩]
    exact s.head_icPut v _
  · intro hb
    rw [hf, if_neg fun hn => hb (Option.isNone_iff_eq_none.mp hn.2)]

/-- A word that the instruction cache holds is the line's, whatever memory holds (R345). -/
theorem State.fetch_of_line {l : ICLine} (hx : s.xlate s.st.pc.toNat 4 .fx = .ok pa) (hh : isHostPa pa = false)
    (hl : s.icLine (s.globalOf s.core pa) = some l) : s.fetch = .ok (ofLe ((l.data.drop (s.globalOf s.core pa % 64)).take 4)) := by
  simp only [State.fetch, hx, hh, hl, Bool.false_eq_true, if_false]

end

/-! ### The next instruction, or the trap it meets (R88) -/

section
variable {s : State} {n : Nat} {tp : Trap} {cls : CoreClass} {priv : Bool}

theorem State.nextInstr_of_ok {i : Instr} (hf : s.fetch = .ok n) (hd : decodeNat n = .ok i) : s.nextInstr = .ok i := by
  simp only [State.nextInstr, hf, hd]

theorem State.nextInstr_of_fetch_error (hf : s.fetch = .error tp) : s.nextInstr = .error tp := by simp only [State.nextInstr, hf]

theorem State.nextInstr_of_illegalOp (hf : s.fetch = .ok n) (hd : decodeNat n = .error .illegalOp) :
    s.nextInstr = .error { code := 0x01, info := w64 n } := by
  simp only [State.nextInstr, hf, hd]
  rfl

/-- A reserved field of a privileged instruction is PRIV to a user strand, every other one RESERVED_FIELD. -/
theorem State.nextInstr_of_reservedField (hf : s.fetch = .ok n) (hd : decodeNat n = .error (.reservedField cls priv))
    (hc : clsTrap cls s.core = none) :
    s.nextInstr = .error { code := if priv && !s.st.sys then 0x04 else 0x02, info := w64 n } := by
  simp only [State.nextInstr, hf, hd, hc]
  split <;> rfl

theorem State.trapNext_of_error (hf : s.fetch = .error tp) (t : Trap) :
    s.trapNext t = (s.fetchWalked.logErr (s.fetchResp t) t).raise t := by simp only [State.trapNext, hf]

theorem State.trapNext_of_ok (hf : s.fetch = .ok n) (t : Trap) : s.trapNext t = s.fetched.raise t := by simp only [State.trapNext, hf]

end

/-! ### The strand that issues (R340) -/

section
variable {s t : State} {e : Nat × Strand} {r : List (Nat × Strand)} {i : Instr} {tp : Trap}

theorem issueFirst_nil (s : State) : issueFirst [] s = .next s := by rw [issueFirst]

/-- The leading strand's instruction runs; the next one's chance comes when it cannot issue. -/
theorem issueFirst_of_ok (hi : State.nextInstr { s with ctx := e.1, stalled := false } = .ok i)
    (ht : exec i (State.fetched { s with ctx := e.1, stalled := false }) = .next t) :
    issueFirst (e :: r) s = if t.stalled && !r.isEmpty then issueFirst r t else .next t := by
  simp only [issueFirst, hi, ht]

theorem issueFirst_issued (hi : State.nextInstr { s with ctx := e.1, stalled := false } = .ok i)
    (ht : exec i (State.fetched { s with ctx := e.1, stalled := false }) = .next t) (h : t.stalled = false ∨ r = []) :
    issueFirst (e :: r) s = .next t := by
  rw [issueFirst_of_ok hi ht]
  rcases h with h | h <;> simp [h]

theorem issueFirst_stalled (hi : State.nextInstr { s with ctx := e.1, stalled := false } = .ok i)
    (ht : exec i (State.fetched { s with ctx := e.1, stalled := false }) = .next t) (h : t.stalled = true) (hr : r ≠ []) :
    issueFirst (e :: r) s = issueFirst r t := by
  rw [issueFirst_of_ok hi ht]
  simp [h, hr]

theorem issueFirst_trap (hi : State.nextInstr { s with ctx := e.1, stalled := false } = .error tp)
    (hg : State.gate { s with ctx := e.1, stalled := false } = true) :
    issueFirst (e :: r) s = .next (State.trapNext { s with ctx := e.1, stalled := false } tp) := by
  simp only [issueFirst, hi, hg, if_true]

end

/-! ### The acting core stays the same while conditions are noted (R339) -/

section
variable (s : State) (c : Nat)

theorem State.core_promoteParked : (s.promoteParked c).core = s.core := by
  unfold State.promoteParked
  split <;> rfl

theorem State.core_promote : (s.promote c).core = s.core := by
  unfold State.promote
  rw [State.core_promoteParked]
  exact List.foldlRecOn (motive := fun t : State => t.core = s.core) _ _ rfl fun _ ht _ _ => ht

theorem State.core_noted : s.noted.core = s.core :=
  List.foldlRecOn (motive := fun t : State => t.core = s.core) _ _ rfl fun t ht e _ => (t.core_promote e.1).trans ht

theorem State.core_begun : s.begun.core = s.core := State.core_noted _

end

/-! ### The step (R420, log 1) -/

section
variable {s t : State} {c x n : Nat} {slow : Bool} {acts : List Act} {st : Strand} {rest : List (Nat × Strand)} {i e : Instr}

theorem step_core (h : s.acts = .core c slow :: acts) (hc : coreOk c = true) :
    step s = coreStep { s with acts := acts, core := c, split := slow } := by
  simp only [step, h, hc, if_true]

theorem step_core_none (h : s.acts = .core c slow :: acts) (hc : coreOk c = false) : step s = .next { s with acts := acts } := by
  simp only [step, h, hc, Bool.false_eq_true, if_false]

theorem step_event (h : s.acts = .event e :: acts) (he : (e.isEvent && e.wf) = true) :
    step s = exec e (State.noted { s with acts := acts, split := false, tick := s.tick + 1 }) := by
  simp only [step, h, he, if_true]

theorem step_event_none (h : s.acts = .event e :: acts) (he : (e.isEvent && e.wf) = false) : step s = .next { s with acts := acts } := by
  simp only [step, h, he, Bool.false_eq_true, if_false]

theorem coreStep_off (h : s.islandOff s.core = true) : coreStep s = .next s.begun := by rw [coreStep, if_pos h]

theorem coreStep_on (h : s.islandOff s.core = false) : coreStep s = issueFirst s.begun.me.ranked s.begun := by
  simp only [coreStep, h, Bool.false_eq_true, if_false]

/-- With no schedule, a core that has a ready strand and issues: that is the step. -/
theorem freeStep_issued (htick : s.tick / 2 % 16 ≠ 15) (hon : s.islandOff s.core = false) (hr : s.begun.me.ranked = (x, st) :: rest)
    (h : coreStep s = .next t) (hs : t.stalled = false) : freeStep s = .next t := by
  simp [freeStep, hr, hon, htick, h, hs]

theorem step_free (h : s.acts = []) : step s = freeStep { s with split := false } := by simp only [step, h]

end

/-- Settles O58: the fetch by the layer above, the step by the cases of its schedule. -/
theorem stepRunsDecodedInstruction : Obligations.StepRunsDecodedInstruction := by
  unfold Obligations.StepRunsDecodedInstruction
  intro s t c x n v slow priv acts st rest i e tp cls b u f
  have hcore : u.core = c := State.core_begun { s with acts := acts, core := c, split := slow }
  refine ⟨State.fetched_frame, fun pa hx h => State.fetched_bank h hx, fun pa hc hx h hl hv => State.fetched_line hc hx h hl hv,
    fun pa l hx hh hl => ⟨State.fetch_of_line hx hh hl, State.fetched_of_line hx hl⟩, fun ha hc hoff => ?_, fun ha hc hon => ?_,
    step_core_none, step_event, step_event_none, fun ha htick hon hr hf hd ht hs => ?_⟩
  · rw [step_core ha hc]
    exact coreStep_off hoff
  · have hstep : step s = issueFirst b.me.ranked b := (step_core ha hc).trans (coreStep_on hon)
    refine ⟨fun hr => ?_, fun hr => ⟨fun hf hd ht => ⟨fun h => ?_, fun h hne => ?_⟩, fun hg => ?_⟩⟩
    · rw [hstep, hr, issueFirst_nil]
    · rw [hstep, hr]
      exact issueFirst_issued (State.nextInstr_of_ok hf hd) ht h
    · rw [hstep, hr]
      exact issueFirst_stalled (State.nextInstr_of_ok hf hd) ht h hne
    · have htrap {tp : Trap} (hn : u.nextInstr = .error tp) : step s = .next (u.trapNext tp) := by
        rw [hstep, hr]
        exact issueFirst_trap hn hg
      refine ⟨fun hf => ?_, fun hf hd => ?_, fun hf hd hcls hsys => ?_, fun hf hd hcls hpriv hsys => ?_⟩
      · rw [htrap (State.nextInstr_of_fetch_error hf), State.trapNext_of_error hf]
      · rw [htrap (State.nextInstr_of_illegalOp hf hd), State.trapNext_of_ok hf]
      · rw [htrap (State.nextInstr_of_reservedField hf hd (by rwa [hcore])), State.trapNext_of_ok hf, if_neg]
        cases priv with
        | false => simp
        | true => simp [hsys rfl]
      · rw [htrap (State.nextInstr_of_reservedField hf hd (by rwa [hcore])), State.trapNext_of_ok hf, if_pos]
        simp [hpriv, hsys]
  · have hstep : coreStep { s with split := false } = issueFirst f.me.ranked f := coreStep_on hon
    rw [step_free ha]
    refine freeStep_issued htick hon hr (hstep.trans ?_) hs
    rw [hr]
    exact issueFirst_issued (State.nextInstr_of_ok hf hd) ht (.inl hs)

end Sys2Proof.Machine
end

section
/-! Words as numbers, and the integer register operations on them (R14, R119 to R124). -/

namespace Sys2Proof.Machine
open Sys2Proof

/-! ### Words as numbers modulo 2^64 -/

section
variable (a b : Word) (n : Nat)

theorem w64_toNat : w64 a.toNat = a := BitVec.ofNat_toNat 64 a |>.trans (BitVec.setWidth_eq a)

theorem i64_natCast : i64 n = w64 n := BitVec.ofInt_natCast 64 n

theorem i64_toInt : i64 a.toInt = a := BitVec.ofInt_toInt

theorem i64_toNat : i64 a.toNat = a := by rw [i64_natCast, w64_toNat]

theorem add_eq_w64 : a + b = w64 (a.toNat + b.toNat) := by
  rw [w64, BitVec.ofNat_add, ← w64, ← w64, w64_toNat, w64_toNat]

theorem mul_eq_w64 : a * b = w64 (a.toNat * b.toNat) := by
  rw [w64, BitVec.ofNat_mul, ← w64, ← w64, w64_toNat, w64_toNat]

theorem sub_eq_i64 : a - b = i64 ((a.toNat : Int) - b.toNat) := by
  rw [i64, Int.sub_eq_add_neg, BitVec.ofInt_add, BitVec.ofInt_neg, ← i64, ← i64, i64_toNat, i64_toNat, BitVec.sub_eq_add_neg]

theorem shiftLeft_eq_w64 : a <<< n = w64 (a.toNat * 2 ^ n) := by
  apply BitVec.eq_of_toNat_eq
  simp [w64, Nat.shiftLeft_eq]

theorem shiftRight_eq_w64 : a >>> n = w64 (a.toNat / 2 ^ n) := by
  rw [← w64_toNat (a >>> n), BitVec.toNat_ushiftRight, Nat.shiftRight_eq_div_pow]

theorem sraW_eq_i64 : sraW a n = i64 (a.toInt / 2 ^ n) := by
  rw [← i64_toInt (sraW a n), sraW, BitVec.toInt_sshiftRight, Int.shiftRight_eq_div_pow]
  norm_cast

theorem rolW_eq_w64 : rolW a n = w64 (a.toNat * 2 ^ n) ||| w64 (a.toNat / 2 ^ (64 - n)) := by
  rw [rolW, shiftLeft_eq_w64, shiftRight_eq_w64]

theorem rorW_eq_w64 : rorW a n = w64 (a.toNat / 2 ^ n) ||| w64 (a.toNat * 2 ^ (64 - n)) := by
  rw [rorW, shiftLeft_eq_w64, shiftRight_eq_w64]

theorem add_shiftLeft_eq_w64 : a + b <<< n = w64 (a.toNat + b.toNat * 2 ^ n) := by
  rw [shiftLeft_eq_w64, w64, w64, BitVec.ofNat_add, ← w64, ← w64, w64_toNat]

/-! ### Immediates (R121) -/

theorem setWidth_eq_w64 {m : Nat} (x : BitVec m) : x.setWidth 64 = w64 x.toNat := (BitVec.ofNat_toNat 64 x).symm

theorem signExtend_eq_i64 {m : Nat} (x : BitVec m) : x.signExtend 64 = i64 x.toInt := rfl

theorem add_signExtend_eq_i64 {m : Nat} (x : BitVec m) : a + x.signExtend 64 = i64 ((a.toNat : Int) + x.toInt) := by
  rw [i64, BitVec.ofInt_add, ← i64, i64_toNat, signExtend_eq_i64, i64]

theorem signExtend_shiftLeft_eq_i64 {m : Nat} (x : BitVec m) : x.signExtend 64 <<< n = i64 (x.toInt * 2 ^ n) := by
  have hpow : BitVec.ofInt 64 (2 ^ n) = BitVec.twoPow 64 n := BitVec.eq_of_toNat_eq (by
    rw [show (2 : Int) ^ n = (2 ^ n : Nat) by push_cast; rfl, BitVec.ofInt_natCast, BitVec.toNat_ofNat, BitVec.toNat_twoPow])
  rw [i64, BitVec.ofInt_mul, hpow, ← i64, ← signExtend_eq_i64, BitVec.shiftLeft_eq_mul_twoPow]

/-! ### Comparisons -/

theorem b2w_slt : b2w (a.slt b) = if a.toInt < b.toInt then 1 else 0 := by simp [b2w, BitVec.slt]

theorem b2w_ult : b2w (a.ult b) = if a.toNat < b.toNat then 1 else 0 := by simp [b2w, BitVec.ult]

theorem b2w_beq : b2w (a == b) = if a = b then 1 else 0 := by simp [b2w]

/-- A choice between values that are the same in a tie does not depend on how the tie is decided. -/
theorem ite_lt_eq_ite_le {α β : Type} [LinearOrder α] {p q : α} {x y : β} (h : p = q → x = y) :
    (if p < q then x else y) = if p ≤ q then x else y := by
  rcases lt_trichotomy p q with hlt | heq | hgt
  · rw [if_pos hlt, if_pos hlt.le]
  · rw [h heq, ite_self, ite_self]
  · rw [if_neg hgt.not_gt, if_neg hgt.not_ge]

theorem ite_slt {x y : Word} (h : a = b → x = y) : (if a.slt b then x else y) = if a.toInt ≤ b.toInt then x else y :=
  (if_congr BitVec.slt_iff_toInt_lt rfl rfl).trans (ite_lt_eq_ite_le fun k => h (BitVec.eq_of_toInt_eq k))

theorem ite_ult {x y : Word} (h : a = b → x = y) : (if a.ult b then x else y) = if a.toNat ≤ b.toNat then x else y :=
  (if_congr BitVec.ult_iff_lt rfl rfl).trans (ite_lt_eq_ite_le (p := a.toNat) fun k => h (BitVec.eq_of_toNat_eq k))

/-! ### Counts of bits -/

/-- The number of leading zeros (R119). -/
theorem clzW_spec : ∃ k : Nat, k ≤ 64 ∧ a.toNat < 2 ^ (64 - k) ∧ (k < 64 → 2 ^ (63 - k) ≤ a.toNat) ∧ clzW a = w64 k := by
  by_cases ha : a = 0
  · subst ha
    exact ⟨64, le_rfl, by decide, fun h => absurd h (by decide), rfl⟩
  · have hn : a.toNat ≠ 0 := fun h => ha (BitVec.eq_of_toNat_eq h)
    have hlog : a.toNat.log2 < 64 := (Nat.log2_lt hn).2 a.isLt
    refine ⟨63 - a.toNat.log2, by omega, ?_, fun _ => ?_, if_neg ha⟩
    · rw [show 64 - (63 - a.toNat.log2) = a.toNat.log2 + 1 by omega]
      exact Nat.lt_log2_self
    · rw [show 63 - (63 - a.toNat.log2) = a.toNat.log2 by omega]
      exact Nat.log2_self_le hn

/-- The number of trailing zeros of the low n bits (R119). -/
theorem ctzN_spec (v : Nat) : ctzN n v ≤ n ∧ v % 2 ^ ctzN n v = 0 ∧ (ctzN n v < n → v / 2 ^ ctzN n v % 2 = 1) := by
  induction n generalizing v with
  | zero => simp [ctzN, Nat.mod_one]
  | succ n ih =>
    obtain ⟨hle, hlow, htop⟩ := ih (v / 2)
    by_cases hv : v % 2 = 1
    · simp [ctzN, hv, Nat.mod_one]
    · simp only [ctzN, hv, if_false]
      refine ⟨by omega, ?_, fun h => ?_⟩
      · rw [Nat.pow_succ', Nat.mod_mul, hlow]
        omega
      · rw [Nat.pow_succ', ← Nat.div_div_eq_div_mul]
        exact htop (by omega)

/-- The population count is the number of bits set (R119). -/
theorem popCount_eq_length (v : Nat) : popCount n v = ((List.range n).filter v.testBit).length := by
  induction n generalizing v with
  | zero => rfl
  | succ n ih =>
    have hshift : v.testBit ∘ Nat.succ = (v / 2).testBit := funext fun j => Nat.testBit_succ v j
    rw [popCount, ih, List.range_succ_eq_map, List.filter_cons, List.filter_map, hshift, Nat.testBit_zero]
    rcases Nat.mod_two_eq_zero_or_one v with h | h <;> simp [h, Nat.add_comm]

/-! ### Bit fields (R122) -/

theorem bfxuW_eq (pos lm1 : BitVec 6) : bfxuW a pos lm1 = w64 (a.toNat / 2 ^ pos.toNat % 2 ^ (lm1.toNat + 1)) := by
  rw [bfxuW, fld, show pos.toNat + lm1.toNat + 1 - pos.toNat = lm1.toNat + 1 by omega]

/-- Sign extension looks at the field's own bits only. -/
theorem bfxW_eq (pos lm1 : BitVec 6) : bfxW a pos lm1 = i64 (sextI (a.toNat / 2 ^ pos.toNat) (lm1.toNat + 1)) := by
  rw [bfxW, fld, show pos.toNat + lm1.toNat + 1 - pos.toNat = lm1.toNat + 1 by omega]
  simp only [sextI, Nat.mod_mod]

/-- The field of the destination is the source's low bits, every other bit is kept. -/
theorem getLsbD_bfiW (d : Word) (pos lm1 : BitVec 6) {j : Nat} (hj : j < 64) : (bfiW d a pos lm1).getLsbD j =
    if pos.toNat ≤ j ∧ j < pos.toNat + lm1.toNat + 1 then a.getLsbD (j - pos.toNat) else d.getLsbD j := by
  have hmask : (w64 (2 ^ (lm1.toNat + 1) - 1) <<< pos.toNat).getLsbD j = decide (pos.toNat ≤ j ∧ j < pos.toNat + lm1.toNat + 1) := by
    rw [BitVec.getLsbD_shiftLeft, w64, BitVec.getLsbD_ofNat, Nat.testBit_two_pow_sub_one, Bool.eq_iff_iff]
    simp only [Bool.and_eq_true, Bool.not_eq_true', decide_eq_true_eq, decide_eq_false_iff_not]
    omega
  rw [bfiW, BitVec.getLsbD_or, BitVec.getLsbD_and, BitVec.getLsbD_and, BitVec.getLsbD_not, hmask, BitVec.getLsbD_shiftLeft]
  by_cases hin : pos.toNat ≤ j ∧ j < pos.toNat + lm1.toNat + 1
  · simp [hin, hj, Nat.not_lt.2 hin.1]
  · rw [if_neg hin, decide_eq_false hin]
    simp [hj]

/-! ### Quotients and remainders (R124) -/

theorem remW_eq : remW a b = if b = 0 then a else i64 (a.toInt - a.toInt.tdiv b.toInt * b.toInt) := by
  rw [remW, Int.tmod_def, Int.mul_comm]

theorem remuW_eq : remuW a b = if b = 0 then a else w64 (a.toNat - a.toNat / b.toNat * b.toNat) := by
  rw [remuW, Nat.mod_eq_sub_div_mul]

end

/-! ### The instructions -/

/-- A register operation of a ready strand, with its result (R119). -/
theorem next_scalar {i : Instr} {rd : BitVec 4} {f : State → Word} {s : State} {v : Word} (h : s.Ready i) (hv : f s = v) :
    (.next (scalar i rd f s) : Out) = .next (s.setG rd v).advance := by rw [scalar_ready h, hv]

/-- Settles O1: a register operation writes what its function of the operands' values is. -/
theorem aluResults : Obligations.AluResults := by
  intro rd ra rb sh sc s a b n out
  refine ⟨
    fun h => next_scalar h (add_eq_w64 a b), fun h => next_scalar h (sub_eq_i64 a b),
    fun h => next_scalar h rfl, fun h => next_scalar h rfl, fun h => next_scalar h rfl, fun h => next_scalar h rfl,
    fun h => next_scalar h rfl,
    fun h => next_scalar h (shiftLeft_eq_w64 a n), fun h => next_scalar h (shiftRight_eq_w64 a n), fun h => next_scalar h (sraW_eq_i64 a n),
    fun h => next_scalar h (rolW_eq_w64 a n), fun h => next_scalar h (rorW_eq_w64 a n),
    fun h => next_scalar h (shiftLeft_eq_w64 a _), fun h => next_scalar h (shiftRight_eq_w64 a _), fun h => next_scalar h (sraW_eq_i64 a _),
    fun h => next_scalar h (rorW_eq_w64 a _),
    fun h => next_scalar h (b2w_slt a b), fun h => next_scalar h (b2w_ult a b), fun h => next_scalar h (b2w_beq a b),
    fun h => next_scalar h (ite_slt a b id), fun h => next_scalar h (ite_slt a b Eq.symm),
    fun h => next_scalar h (ite_ult a b id), fun h => next_scalar h (ite_ult a b Eq.symm),
    fun h => ?clz, fun h => ?ctz, fun h => next_scalar h ?pop, fun h => next_scalar h (add_shiftLeft_eq_w64 a b _)⟩
  case clz =>
    obtain ⟨k, hle, hlt, htop, hk⟩ := clzW_spec a
    exact ⟨k, hle, hlt, htop, next_scalar h hk⟩
  case ctz =>
    obtain ⟨hle, hlow, htop⟩ := ctzN_spec 64 a.toNat
    exact ⟨ctzN 64 a.toNat, hle, hlow, htop, next_scalar h rfl⟩
  case pop => exact congrArg w64 (popCount_eq_length 64 a.toNat)

/-- Settles O2: the same of bit fields and immediates. -/
theorem fieldAndImmediateResults : Obligations.FieldAndImmediateResults := by
  intro rd ra pos lm1 imm up s a out
  refine ⟨
    fun h => next_scalar h (bfxW_eq a pos lm1), fun h => next_scalar h (bfxuW_eq a pos lm1),
    fun h => ⟨_, next_scalar h rfl, fun j hj => getLsbD_bfiW a (s.g rd) pos lm1 hj⟩,
    fun h => next_scalar h (add_signExtend_eq_i64 a imm),
    fun h => next_scalar h (congrArg (a &&& ·) (setWidth_eq_w64 imm)), fun h => next_scalar h (congrArg (a ||| ·) (setWidth_eq_w64 imm)),
    fun h => next_scalar h (congrArg (a ^^^ ·) (setWidth_eq_w64 imm)), fun h => next_scalar h ?slti, fun h => next_scalar h (b2w_ult a _),
    fun h => next_scalar h (signExtend_shiftLeft_eq_i64 18 up), fun h => next_scalar h ?apc⟩
  case slti => rw [b2w_slt, BitVec.toInt_signExtend_of_le (by decide)]
  case apc =>
    rw [setWidth_eq_w64, signExtend_shiftLeft_eq_i64, i64, i64, BitVec.ofInt_add, ← i64, ← i64, i64_natCast]

/-- Settles O4: a product or quotient of a unit writes what its function of the operands' values is. -/
theorem divisionResults : Obligations.DivisionResults := by
  intro rd ra rb rc s a b out
  refine ⟨
    fun h => (next_longOp_setG h rfl rfl).trans (congrArg out (mul_eq_w64 a b)),
    fun h => next_longOp_setG h rfl rfl, fun h => next_longOp_setG h rfl rfl, fun h => next_longOp_setG h rfl rfl,
    fun h => next_longOp_setG h rfl rfl, fun h => next_longOp_setG h rfl rfl,
    fun h => (next_longOp_setG h rfl rfl).trans (congrArg out (remW_eq a b)),
    fun h => (next_longOp_setG h rfl rfl).trans (congrArg out (remuW_eq a b)),
    fun h => (next_longOp_setG h rfl rfl).trans (congrArg out ?madd)⟩
  case madd =>
    change a * b + s.g rc = _
    rw [mul_eq_w64, w64, w64, BitVec.ofNat_add, ← w64, ← w64, w64_toNat]

/-! ### Branches and jumps (R126 to R128) -/

/-- A displacement in words, added to a pc. -/
theorem pc_add_offset {m : Nat} (pc : BitVec 48) (off : BitVec m) :
    pc + off.signExtend 48 * 4 = BitVec.ofInt 48 ((pc.toNat : Int) + 4 * off.toInt) := by
  rw [BitVec.ofInt_add, BitVec.ofInt_mul, BitVec.mul_comm, BitVec.ofInt_natCast, BitVec.ofNat_toNat, BitVec.setWidth_eq]
  rfl

/-- A branch of a ready strand, by its condition on the operands' values (R126). -/
theorem next_branch {i : Instr} {off : BitVec 18} {c : State → Bool} {s : State} {p : Prop} [Decidable p] (h : s.Ready i)
    (hc : c s = true ↔ p) : (.next (branch i off c s) : Out) =
      .next (s.goto (if p then BitVec.ofInt 48 ((s.st.pc.toNat : Int) + 4 * off.toInt) else s.st.pc + 4)) := by
  rw [branch_ready h, pc_add_offset]
  simp only [hc]

/-- An instruction that writes a register and sets the pc: execution goes on there. -/
theorem issueNow_setG_goto {i : Instr} {body : State → Res} {s : State} {rd : BitVec 4} {v : Word} {f : Strand → BitVec 48} (h : s.Ready i)
    (hb : body s = .done ((s.setG rd v).modSt fun t => { t with pc := f t })) :
    issueNow i false body s = (s.setG rd v).goto (f (s.setG rd v).st) := by
  rw [issueNow_done h hb, State.retire_goto]
  · rw [State.goto, State.modSt_modSt, State.st_modSt, State.goto]
  all_goals rw [State.st_modSt, State.setG_st]
  · exact h.pend
  · exact h.replay
  · exact h.awake

/-- Settles O3: branches by their conditions; a jump writes its link and goes on, or traps. -/
theorem branchesAndJumps : Obligations.BranchesAndJumps := by
  intro rd ra rb off imm far s a b pc tgt br
  have hpc (r : BitVec 4) (v : Word) : (s.setG r v).st.pc = pc := by rw [State.setG_st]
  have htgt : a + imm.signExtend 64 = i64 ((a.toNat : Int) + imm.toInt) := add_signExtend_eq_i64 a imm
  refine ⟨
    fun h => next_branch h (by simp [a, b]), fun h => next_branch h (by simp [a, b]),
    fun h => next_branch h BitVec.slt_iff_toInt_lt,
    fun h => next_branch h (by rw [Bool.not_eq_true', ← Bool.not_eq_true, BitVec.slt_iff_toInt_lt, not_lt]),
    fun h => next_branch h BitVec.ult_iff_lt,
    fun h => next_branch h (by rw [Bool.not_eq_true', ← Bool.not_eq_true, BitVec.ult_iff_lt, BitVec.not_lt]; rfl),
    fun h => ?dbnz, fun h => ?jal, fun h hal hin => ?jalr, fun h hal => ?misaligned, fun h hal hout => ?outside⟩
  case dbnz =>
    refine congrArg _ ((issueNow_setG_goto h rfl).trans ?_)
    simp only [hpc, pc_add_offset, bne_iff_ne]
    rfl
  case jal =>
    refine congrArg _ ((issueNow_setG_goto h rfl).trans ?_)
    rw [hpc, pc_add_offset, setWidth_eq_w64]
  case jalr =>
    rw [← htgt] at hal hin ⊢
    refine congrArg _ ((issueNow_setG_goto h ((if_neg (not_not.2 hal)).trans (if_neg (Nat.not_le.2 hin)))).trans ?_)
    rw [setWidth_eq_w64, BitVec.ofNat_toNat]
  case misaligned =>
    rw [← htgt] at hal ⊢
    exact congrArg _ (issueNow_trap h (if_pos hal))
  case outside =>
    rw [← htgt] at hal hout ⊢
    exact congrArg _ (issueNow_trap h ((if_neg (not_not.2 hal)).trans (if_pos hout)))

end Sys2Proof.Machine
end

section
/-! What the reads of page tables and of memory correct (R302, R313), and what it leaves as it was. -/

namespace Sys2Proof
open Sys2Proof

variable {α : Type}

theorem mem_fdel {k : Nat} {m : List (Nat × α)} {e : Nat × α} (h : e ∈ fdel k m) : e ∈ m := by
  induction m with
  | nil => exact h
  | cons a r ih =>
    obtain ⟨j, w⟩ := a
    simp only [fdel] at h
    split at h
    · exact List.mem_cons_of_mem _ (ih h)
    · rcases List.mem_cons.1 h with rfl | hr
      · exact List.mem_cons_self
      · exact List.mem_cons_of_mem _ (ih hr)

theorem mem_fins {k : Nat} {v : α} {m : List (Nat × α)} {e : Nat × α} (h : e ∈ fins k v m) : e = (k, v) ∨ e ∈ m := by
  induction m with
  | nil => exact .inl (List.mem_singleton.1 h)
  | cons a r ih =>
    obtain ⟨j, w⟩ := a
    simp only [fins] at h
    split at h
    · exact (List.mem_cons.1 h).imp_right id
    · rcases List.mem_cons.1 h with rfl | hr
      · exact .inr List.mem_cons_self
      · exact (ih hr).imp_right (List.mem_cons_of_mem _)

/-- What a map lists after a write: the pair written, and of the others what it listed. -/
theorem mem_fset {k : Nat} {v : α} {m : List (Nat × α)} {e : Nat × α} (h : e ∈ fset m k v) : e = (k, v) ∨ (e ∈ m ∧ e.1 ≠ k) :=
  (mem_fins h).imp_right fun hm => ⟨mem_fdel hm, fdel_keys k m e hm⟩

/-- A value that is not the default is listed. -/
theorem fget_mem (d : α) (m : List (Nat × α)) (k : Nat) : fget d m k = d ∨ (k, fget d m k) ∈ m := by
  induction m with
  | nil => exact .inl rfl
  | cons a r ih =>
    obtain ⟨j, w⟩ := a
    simp only [fget]
    split
    · next h => exact .inr (h ▸ List.mem_cons_self)
    · exact ih.imp_right (List.mem_cons_of_mem _)

end Sys2Proof

namespace Sys2Proof.Machine
open Sys2Proof

/-- Single-bit errors have been corrected and counted, and nothing else happened (R313). -/
structure State.Scrubbed (s t : State) : Prop where
  rest : t = { s with valleys := t.valleys, soft := t.soft, corrLine := t.corrLine }
  node : ∀ e ∈ t.valleys, e.2.node = [] ∨ ∃ d ∈ s.valleys, d.2.node = e.2.node
  tlb : ∀ v, (t.valleyAt v).tlb = (s.valleyAt v).tlb

theorem State.Scrubbed.refl (s : State) : s.Scrubbed s := ⟨rfl, fun e he => .inr ⟨e, he, rfl⟩, fun _ => rfl⟩

theorem State.Scrubbed.trans {s t u : State} (h : s.Scrubbed t) (k : t.Scrubbed u) : s.Scrubbed u where
  rest := by
    have := k.rest
    rw [h.rest] at this
    exact this
  node e he := by
    rcases k.node e he with hn | ⟨d, hd, hde⟩
    · exact .inl hn
    · exact (h.node d hd).imp (hde ▸ ·) fun ⟨f, hf, hfd⟩ => ⟨f, hf, hfd.trans hde⟩
  tlb v := (k.tlb v).trans (h.tlb v)

theorem State.Scrubbed.foldl {α : Type} {f : State → α → State} (hf : ∀ (s : State) a, s.Scrubbed (f s a)) (l : List α) (s : State) :
    s.Scrubbed (l.foldl f s) := by
  induction l generalizing s with
  | nil => exact .refl s
  | cons a l ih => exact (hf s a).trans (ih (f s a))

section
variable (s : State)

theorem State.scrubbed_corrected (d : Nat) : s.Scrubbed (s.corrected d) := by
  have hv (w : Nat) : s.Scrubbed (s.modValley w fun v => { v with corr := Nat.min (v.corr + 1) 0xFFFFFFFF }) := by
    refine ⟨rfl, fun e he => ?_, fun v => ?_⟩
    · rcases mem_fset he with rfl | ⟨hm, -⟩
      · rcases fget_mem {} s.valleys w with hd | hm
        · exact .inl (congrArg Valley.node hd)
        · exact .inr ⟨_, hm, rfl⟩
      · exact .inr ⟨e, hm, rfl⟩
    · rw [State.valleyAt_modValley]
      split
      · next h => rw [h]
      · rfl
  unfold State.corrected
  dsimp only
  split
  · exact hv _
  · exact (hv _).trans ⟨rfl, fun e he => .inr ⟨e, he, rfl⟩, fun _ => rfl⟩

theorem State.scrubbed_scrub (a n : Nat) : s.Scrubbed (s.scrub a n) := by
  unfold State.scrub
  dsimp only
  split
  · exact .refl s
  · refine State.Scrubbed.foldl (fun t e => ?_) _ s
    have hdel : t.Scrubbed { t with soft := fdel e.1 t.soft } := ⟨rfl, fun e he => .inr ⟨e, he, rfl⟩, fun _ => rfl⟩
    exact hdel.trans (State.scrubbed_corrected _ e.1)

theorem State.scrubbed_walkScrub (c va k lvl root : Nat) : s.Scrubbed (s.walkScrub c va k lvl root) := by
  induction k generalizing s lvl root with
  | zero => exact .refl s
  | succ k ih =>
    unfold State.walkScrub
    dsimp only
    generalize root + 8 * _ = a
    split
    · exact .refl s
    · split
      · exact s.scrubbed_scrub _ 8
      · exact (s.scrubbed_scrub _ 8).trans (ih _ _ _)

theorem State.scrubbed_walked (c : Nat) (lix : Option Nat) (va : Nat) : s.Scrubbed (s.walked c lix va) := by
  cases lix with
  | none => exact .refl s
  | some l =>
    unfold State.walked
    dsimp only
    split
    · exact .refl s
    · exact s.scrubbed_walkScrub ..

theorem State.scrubbed_walkedAll (c : Nat) (lix : Option Nat) (va n : Nat) : s.Scrubbed (s.walkedAll c lix va n) := by
  unfold State.walkedAll
  split
  · exact .refl s
  · exact State.Scrubbed.foldl (fun t _ => t.scrubbed_walked _ _ _) _ s

theorem State.scrubbed_xlated (va n : Nat) : s.Scrubbed (s.xlated va n) := s.scrubbed_walkedAll _ _ va n

end

namespace State.Scrubbed
variable {s t : State} (h : s.Scrubbed t)
include h

theorem core_eq : t.core = s.core := by rw [h.rest]
theorem ctx_eq : t.ctx = s.ctx := by rw [h.rest]
theorem net_eq : t.net = s.net := by rw [h.rest]
theorem split_eq : t.split = s.split := by rw [h.rest]
theorem coreAt (c : Nat) : t.coreAt c = s.coreAt c := by rw [h.rest]; rfl
theorem strandAt (c x : Nat) : t.strandAt c x = s.strandAt c x := by rw [State.strandAt, State.strandAt, h.coreAt]
theorem me_eq : t.me = s.me := by rw [h.rest]; rfl
theorem st_eq : t.st = s.st := by rw [h.rest]; rfl
theorem g_eq (r : BitVec 4) : t.g r = s.g r := by rw [State.g, h.st_eq, State.g]
theorem byte (a : Nat) : t.byte a = s.byte a := by rw [h.rest]; rfl
theorem globalOf (c pa : Nat) : t.globalOf c pa = s.globalOf c pa := by rw [h.rest]; rfl
theorem badIn (a n : Nat) : t.badIn a n = s.badIn a n := by rw [h.rest]; rfl
theorem badPart (a n : Nat) : t.badPart a n = s.badPart a n := by rw [h.rest]; rfl
theorem linkDown (c d : Nat) : t.linkDown c d = s.linkDown c d := by rw [h.rest]; rfl
theorem away (d : Nat) : t.away d = s.away d := by rw [h.rest]; rfl
theorem unacked (c x : Nat) : t.unacked c x = s.unacked c x := by rw [h.rest]; rfl
theorem places : t.places = s.places := by rw [h.rest]; rfl
theorem queuedTo (d : Nat) : t.queuedTo d = s.queuedTo d := by rw [h.rest]; rfl

/-- What no valley's node held, none holds now. -/
theorem flyingTo {d n : Nat} (hf : s.flyingTo d n = false) : t.flyingTo d n = false := by
  have hcopy : t.heldCopy s.core d n = s.heldCopy s.core d n := by rw [h.rest]; rfl
  simp only [State.flyingTo, Bool.or_eq_false_iff, h.net_eq, h.core_eq, hcopy] at hf ⊢
  obtain ⟨⟨hnet, htile⟩, hheld⟩ := hf
  refine ⟨⟨hnet, ?_⟩, hheld⟩
  rw [State.heldTile, List.any_eq_false] at htile ⊢
  intro e he
  rcases h.node e he with hn | ⟨e', he', hn⟩
  · rw [hn]
    exact Bool.false_ne_true
  · rw [← hn]
    exact htile e' he'

end State.Scrubbed

end Sys2Proof.Machine
end

section
/-! Loads and stores of local addresses (R130, R131, R135, R318). -/

namespace Sys2Proof.Machine
open Sys2Proof

/-! ### The effect, by what the address is -/

/-- The bytes of a store at a global address: its bank is powered up, whole doublewords are cleared of errors, and the bytes are written. -/
def State.putBytes (s : State) (ga : Nat) (bs : List Byte) : State := ((s.power ga).cleared ga bs.length).poke ga bs

theorem State.writeAt_ok {s : State} {ga : Nat} {bs : List Byte} (h : s.badPart ga bs.length = none) (va : Nat) :
    s.writeAt ga va bs = (.ok (), s.putBytes ga bs) := by
  have hb : (s.power ga).badPart ga bs.length = none := by rw [State.badPart, (s.powered_power ga).bad_eq]; exact h
  simp only [State.writeAt, hb, State.putBytes]

/-- The walks of the acting strand's access. -/
def State.accWalked (s : State) (ra : BitVec 4) (off : BitVec 11) (n : Nat) : State := s.xlated (accAddr s.st.g ra off n).toNat n

theorem State.scrubbed_accWalked (s : State) (ra : BitVec 4) (off : BitVec 11) (n : Nat) : s.Scrubbed (s.accWalked ra off n) :=
  s.scrubbed_xlated _ n

/-- An operation of the acting core counted (R91). -/
def State.counted (s : State) : State := s.modMe fun k => { k with seqNo := k.seqNo + 1 }

theorem State.split_counted (s : State) : s.counted.split = s.split := rfl

theorem State.coreAt_counted (s : State) (c : Nat) : s.counted.coreAt c = { s.coreAt c with seqNo := (s.counted.coreAt c).seqNo } := by
  rw [State.counted, State.modMe, State.coreAt_modCore]
  split
  · next h => rw [h]
  · rfl

theorem State.away_counted (s : State) (d : Nat) : s.counted.away d = s.away d := by
  rw [State.away, s.coreAt_counted d]
  rfl

theorem State.flyingTo_counted (s : State) (d n : Nat) : s.counted.flyingTo d n = s.flyingTo d n := by
  have hcopy : s.counted.heldCopy s.core d n = s.heldCopy s.core d n := by rw [State.heldCopy, s.coreAt_counted s.core]; rfl
  change (_ || _ || s.counted.heldCopy s.core d n) = _
  rw [hcopy]
  rfl

section
variable {s : State} {ra : BitVec 4} {off : BitVec 11} {n pa : Nat}

/-- A load writes rd with the bytes (R130, R135). -/
theorem loadEff_local (hacc : s.accPhys (accAddr s.st.g ra off n) n .rd = .ok pa) (hbad : s.badIn (s.globalOf s.core pa) n = none)
    (hord : isStorePa pa = true → s.queuedTo (saddleOf (pkgOf s.core) pa) = false ∧ s.flyingTo (saddleOf (pkgOf s.core) pa) s.me.seqNo = false)
    (sgn : Bool) (rd : BitVec 4) : loadEff n sgn rd ra off s.envOf s =
      .done ((((s.accWalked ra off n).power (s.globalOf s.core pa)).scrub (s.globalOf s.core pa) n).setG rd
        (if sgn then i64 (sextI (ofLe (s.bytes (s.globalOf s.core pa) n)) (8 * n)) else w64 (ofLe (s.bytes (s.globalOf s.core pa) n)))) := by
  have hw := s.scrubbed_accWalked ra off n
  have hp := (s.accWalked ra off n).powered_power (s.globalOf s.core pa)
  have hnow : (isStorePa pa && ((s.accWalked ra off n).queuedTo (saddleOf (pkgOf s.core) pa) ||
      (s.accWalked ra off n).flyingTo (saddleOf (pkgOf s.core) pa) s.me.seqNo)) = false := by
    cases hst : isStorePa pa with
    | false => rfl
    | true => rw [hw.queuedTo, (hord hst).1, hw.flyingTo (hord hst).2]; rfl
  have hb : ((s.accWalked ra off n).power (s.globalOf s.core pa)).badIn (s.globalOf s.core pa) n = none := by
    rw [State.badIn, hp.bad_eq]
    exact (hw.badIn _ _).trans hbad
  have hby : ((s.accWalked ra off n).power (s.globalOf s.core pa)).bytes (s.globalOf s.core pa) n = s.bytes (s.globalOf s.core pa) n :=
    bytes_congr fun j _ _ => (hp.sameView.byte j).trans (hw.byte j)
  simp only [loadEff, State.envOf, hacc]
  change (if (isStorePa pa && ((s.accWalked ra off n).queuedTo (saddleOf (pkgOf (s.accWalked ra off n).core) pa) ||
      (s.accWalked ra off n).flyingTo (saddleOf (pkgOf (s.accWalked ra off n).core) pa) s.me.seqNo)) = true then _ else
      match (s.accWalked ra off n).readAt ((s.accWalked ra off n).globalOf (s.accWalked ra off n).core pa) n _ with
      | (.error t, s) => s.failAt _ t
      | (.ok bs, s) => _) = _
  rw [hw.core_eq, hw.globalOf, if_neg (Bool.eq_false_iff.1 hnow)]
  simp only [State.readAt, hb, hby]

section
variable (hacc : s.accPhys (accAddr s.st.g ra off n) n .wr = .ok pa) (rd : BitVec 4)
include hacc

/-- A store, from its walks on. -/
theorem storeEff_walked : storeEff n rd ra off s.envOf s =
    let w := s.accWalked ra off n
    let ga := s.globalOf s.core pa
    let d := saddleOf (pkgOf s.core) pa
    let va := (accAddr s.st.g ra off n).toNat
    if isSpPa pa || isSaddle s.core then
      match w.writeAt ga va (leBytes n (s.g rd).toNat) with
      | (.error t, s) => s.failAt ga t
      | (.ok _, s) => .done s
    else if w.queuedTo d then .wait false w
    else if w.counted.split || w.counted.flyingTo d s.me.seqNo || w.counted.away d then
      .done (w.counted.post s.core d 0 s.ctx s.st.lix s.me.seqNo (.store pa n va (s.g rd)))
    else
      let r := w.counted.performStore s.core s.st.lix ga va n (s.g rd)
      .done (if r.2 = 0 then r.1 else r.1.keep s.core s.ctx { kind := 0, order := s.me.seqNo, code := cUncorrectable, addr := r.2 - 1 }) := by
  have hw := s.scrubbed_accWalked ra off n
  simp only [storeEff, State.envOf, hacc]
  have hcore : (s.xlated (accAddr s.st.g ra off n).toNat n).core = s.core := hw.core_eq
  have hctx : (s.xlated (accAddr s.st.g ra off n).toNat n).ctx = s.ctx := hw.ctx_eq
  have hst : (s.xlated (accAddr s.st.g ra off n).toNat n).st = s.st := hw.st_eq
  have hga (c p : Nat) : (s.xlated (accAddr s.st.g ra off n).toNat n).globalOf c p = s.globalOf c p := hw.globalOf c p
  have hst' : ((s.xlated (accAddr s.st.g ra off n).toNat n).modMe fun k => { k with seqNo := k.seqNo + 1 }).st = s.st :=
    (State.strandAt_modMe _ _ (by intro; rfl) _ _).trans hst
  simp only [State.modMe_core, State.modMe_ctx, hcore, hctx, hga, hst']
  rfl

variable (hbad : s.badPart (s.globalOf s.core pa) n = none)
include hbad

/-- A store to the scratchpad, or at a saddle, is performed at completion (R318). -/
theorem storeEff_here (hhere : isSpPa pa = true ∨ isSaddle s.core = true) : storeEff n rd ra off s.envOf s =
    .done ((s.accWalked ra off n).putBytes (s.globalOf s.core pa) (leBytes n (s.g rd).toNat)) := by
  have hw := s.scrubbed_accWalked ra off n
  have hb : (s.accWalked ra off n).badPart (s.globalOf s.core pa) (leBytes n (s.g rd).toNat).length = none := by
    rw [length_leBytes, hw.badPart, hbad]
  rw [storeEff_walked hacc rd]
  simp only [Bool.or_eq_true, hhere, if_true, State.writeAt_ok hb]

section
variable (hspire : ¬(isSpPa pa = true ∨ isSaddle s.core = true)) (hqueue : s.queuedTo (saddleOf (pkgOf s.core) pa) = false)
  (hsplit : s.split = false)
include hspire hqueue hsplit

/-- One to the own valley store that no earlier request stands before is performed at once (R318). -/
theorem storeEff_performed (hfly : s.flyingTo (saddleOf (pkgOf s.core) pa) s.me.seqNo = false)
    (haway : s.away (saddleOf (pkgOf s.core) pa) = false) : storeEff n rd ra off s.envOf s =
    .done ((s.accWalked ra off n).counted.putBytes (s.globalOf s.core pa) (leBytes n (s.g rd).toNat)) := by
  have hw := s.scrubbed_accWalked ra off n
  have hb : (s.accWalked ra off n).counted.badPart (s.globalOf s.core pa) (leBytes n (s.g rd).toNat).length = none := by
    rw [length_leBytes]
    exact (hw.badPart _ _).trans hbad
  rw [storeEff_walked hacc rd]
  simp only [Bool.or_eq_true, hspire, if_false, hw.queuedTo, hqueue, Bool.false_eq_true, State.split_counted, State.flyingTo_counted,
    State.away_counted, hw.split_eq, hsplit, hw.flyingTo hfly, hw.away, haway, State.performStore, State.writeAt_ok hb, or_self, if_true]

omit hbad in
/-- One that an earlier request stands before, or whose saddle is out of reach, is on its way as a message (R318, log 20). -/
theorem storeEff_posted (h : (s.accWalked ra off n).flyingTo (saddleOf (pkgOf s.core) pa) s.me.seqNo = true ∨
      s.away (saddleOf (pkgOf s.core) pa) = true) : storeEff n rd ra off s.envOf s =
    .done ((s.accWalked ra off n).counted.post s.core (saddleOf (pkgOf s.core) pa) 0 s.ctx s.st.lix s.me.seqNo
      (.store pa n (accAddr s.st.g ra off n).toNat (s.g rd))) := by
  have hw := s.scrubbed_accWalked ra off n
  have hgo : ((s.accWalked ra off n).counted.split || (s.accWalked ra off n).counted.flyingTo (saddleOf (pkgOf s.core) pa) s.me.seqNo ||
      (s.accWalked ra off n).counted.away (saddleOf (pkgOf s.core) pa)) = true := by
    simpa only [State.split_counted, State.flyingTo_counted, State.away_counted, hw.split_eq, hsplit, hw.away, Bool.false_or,
      Bool.or_eq_true] using h
  rw [storeEff_walked hacc rd]
  simp only [Bool.or_eq_true, hspire, if_false, hw.queuedTo, hqueue, Bool.false_eq_true]
  exact if_pos (by simpa only [Bool.or_eq_true] using hgo)

end

end

end

/-! ### The instructions -/

/-- The meanings of loads and stores (R130): the effect of one, by its kind. -/
inductive Accesses (i : Instr) (ra : BitVec 4) (off : BitVec 11) (n : Nat) : Acc → Eff → Prop
  | load (sgn : Bool) (rd : BitVec 4) (hregs : ∀ fmt tshape, (i.regs fmt tshape).2 = gS rd) :
      Accesses i ra off n .rd (loadEff n sgn rd ra off)
  | store (rd : BitVec 4) : Accesses i ra off n .wr (storeEff n rd ra off)

/-- Every load and store is one access, on the local memory unit or by its strand's migration. -/
theorem exec_access {i : Instr} {ra : BitVec 4} {off : BitVec 11} {n : Nat} {k : Acc} (h : i.access = some (ra, off, n, k)) (s : State) :
    ∃ eff, exec i s = .next (memOp i ra off n k eff s) ∧ Accesses i ra off n k eff ∧ i.pins = false := by
  cases i with
  | ldb | ldh | ldw =>
    cases h
    exact ⟨_, rfl, .load true _ fun _ _ => rfl, rfl⟩
  | ldbu | ldhu | ldwu | ldd =>
    cases h
    exact ⟨_, rfl, .load false _ fun _ _ => rfl, rfl⟩
  | stb | sth | stw | std =>
    cases h
    exact ⟨_, rfl, .store _, rfl⟩
  | _ => cases h

section
variable {i : Instr} {ra : BitVec 4} {off : BitVec 11} {n pa : Nat} {k : Acc} {eff : Eff} {s : State}

theorem State.remote?_local (hacc : s.accPhys (accAddr s.st.g ra off n) n k = .ok pa) (hloc : s.isLocal s.core pa = true) :
    s.remote? (accAddr s.st.g ra off n) n k = none := by
  simp only [State.remote?, hacc, hloc, if_true]

theorem State.remote?_remote (hacc : s.accPhys (accAddr s.st.g ra off n) n k = .ok pa) (hrem : s.isLocal s.core pa = false) :
    s.remote? (accAddr s.st.g ra off n) n k = some pa := by
  simp only [State.remote?, hacc, hrem, Bool.false_eq_true, if_false]

theorem State.remote?_error {x : Trap × Bool} (hacc : s.accPhys (accAddr s.st.g ra off n) n k = .error x) :
    s.remote? (accAddr s.st.g ra off n) n k = none := by
  simp only [State.remote?, hacc]

/-- A local access of a ready strand whose effect completes: execution goes on (R130). -/
theorem memOp_local {t : State} (h : s.ReadyUnit i) (hp : i.pins = false) (hacc : s.accPhys (accAddr s.st.g ra off n) n k = .ok pa)
    (hloc : s.isLocal s.core pa = true) (he : eff s.envOf s = .done t) (hst : ∃ g, t.st = { s.st with g := g }) :
    memOp i ra off n k eff s = t.advance := by
  obtain ⟨g, hg⟩ := hst
  have hl : memOp i ra off n k eff s = longOp i eff s := by simp only [memOp, State.remote?_local hacc hloc]
  refine hl.trans (longOp_done h ?_ (by rw [hg]) (by rw [hg]) (by rw [hg]))
  rwa [State.start, hp, if_neg Bool.false_ne_true]

end

end Sys2Proof.Machine
end

section
/-! The frame of local loads and stores (R130), and a posted store that does not follow what it should (R318). -/

namespace Sys2Proof.Machine
open Sys2Proof

/-! ### What an access changes beside a register and the bytes it stores -/

/-- Memory, its errors and their counts, banks, and the acting core's count of operations: what the effect of a local access may change. -/
structure State.Accessed (s t : State) : Prop where
  rest : t = { s with
    cores := t.cores, spires := t.spires, valleys := t.valleys, mem := t.mem, bad := t.bad, soft := t.soft, corrLine := t.corrLine }
  cores : ∀ c, c ≠ s.core → t.coreAt c = s.coreAt c
  me : t.coreAt s.core = { s.coreAt s.core with seqNo := (t.coreAt s.core).seqNo }

theorem State.Accessed.of_cores {s t : State} (h : t = { s with
    spires := t.spires, valleys := t.valleys, mem := t.mem, bad := t.bad, soft := t.soft, corrLine := t.corrLine }) : s.Accessed t := by
  rw [h]
  exact ⟨rfl, fun _ _ => rfl, rfl⟩

theorem State.Scrubbed.accessed {s t : State} (h : s.Scrubbed t) : s.Accessed t := .of_cores (by rw [h.rest])

theorem State.accessed_counted (s : State) : s.Accessed s.counted :=
  ⟨rfl, fun c hc => State.coreAt_modMe_ne s _ c hc, s.coreAt_counted s.core⟩

theorem State.cleared_eq (s : State) (a n : Nat) : s.cleared a n = { s with bad := (s.cleared a n).bad, soft := (s.cleared a n).soft } := by
  unfold State.cleared
  split <;> rfl

theorem State.accessed_putBytes (s : State) (ga : Nat) (bs : List Byte) : s.Accessed (s.putBytes ga bs) := by
  refine .of_cores ?_
  rw [State.putBytes, State.cleared_eq, (s.powered_power ga).rest]
  rfl

namespace State.Accessed
variable {s t u : State}

theorem core_eq (h : s.Accessed t) : t.core = s.core := by rw [h.rest]
theorem ctx_eq (h : s.Accessed t) : t.ctx = s.ctx := by rw [h.rest]
theorem net_eq (h : s.Accessed t) : t.net = s.net := by rw [h.rest]

theorem trans (h : s.Accessed t) (k : t.Accessed u) : s.Accessed u where
  rest := by
    have := k.rest
    rw [h.rest] at this
    exact this
  cores c hc := (k.cores c (h.core_eq ▸ hc)).trans (h.cores c hc)
  me := by
    have := k.me
    rw [h.core_eq] at this
    rw [this, h.me]

theorem me_eq (h : s.Accessed t) : t.me = { s.me with seqNo := t.me.seqNo } := by
  have := h.me
  rw [State.me, h.core_eq]
  exact this

theorem strandAt (h : s.Accessed t) (c x : Nat) : t.strandAt c x = s.strandAt c x := by
  by_cases hc : c = s.core
  · rw [State.strandAt, hc, h.me, State.strandAt]
  · rw [State.strandAt, h.cores c hc, State.strandAt]

theorem st_eq (h : s.Accessed t) : t.st = s.st := by rw [State.st, h.strandAt, h.core_eq, h.ctx_eq, State.st]

theorem g_eq (h : s.Accessed t) (r : BitVec 4) : t.g r = s.g r := by rw [State.g, h.st_eq, State.g]

end State.Accessed

theorem State.byte_cleared (s : State) (a n j : Nat) : (s.cleared a n).byte j = s.byte j := by rw [State.cleared_eq]; rfl

theorem State.byte_power (s : State) (a j : Nat) : (s.power a).byte j = s.byte j := (s.powered_power a).sameView.byte j

theorem State.byte_putBytes_out (s : State) {ga : Nat} {bs : List Byte} {j : Nat} (h : j < ga ∨ ga + bs.length ≤ j) :
    (s.putBytes ga bs).byte j = s.byte j := by
  rw [State.putBytes, byte_poke_out _ _ _ _ h, State.byte_cleared, State.byte_power]

/-- A write that no error stands in covers none in part. -/
theorem State.badPart_of_badIn {s : State} {a n : Nat} (h : s.badIn a n = none) : s.badPart a n = none := by
  have hnil {l : List (Nat × Bool)} (hl : lowest l = none) : l = [] := by
    cases l with
    | nil => rfl
    | cons => cases hl
  have hfilter := List.filter_eq_nil_iff.1 (hnil h)
  rw [State.badPart, List.filter_eq_nil_iff.2]
  · rfl
  · intro e he hp
    exact hfilter e he (Bool.and_eq_true_iff.1 hp).1

/-! ### The two kinds of access -/

/-- What a local access leaves as it was (R130): its strand but for the pc and one register, other strands and cores, the network, and of
its core everything but the count of operations. -/
structure State.AccessFrame (s t : State) : Prop where
  pc : t.st.pc = s.st.pc + 4
  flags : t.st.flags = s.st.flags
  rest : s.st.SameRest t.st
  cores : ∀ c, c ≠ s.core → t.coreAt c = s.coreAt c
  strands : ∀ y, y ≠ s.ctx → t.strandAt s.core y = s.strandAt s.core y
  net : t.net = s.net
  me : t.me = { s.me with ctxs := t.me.ctxs, seqNo := t.me.seqNo }

/-- Going on behind an access whose register has been written keeps the frame. -/
theorem State.Accessed.frame {s u : State} (h : s.Accessed u) (rd : BitVec 4) (v : Word) : s.AccessFrame (u.setG rd v).advance := by
  have hs := u.onlyScalar_setG rd v
  have hc := hs.onlyCore_advance
  have hst : u.st = s.st := h.st_eq
  refine ⟨hst ▸ hs.pc_advance, ?flags, hst ▸ hs.sameRest_advance, ?cores, ?strands, hc.net.trans h.net_eq, ?me⟩
  case flags => rw [State.flags_advance, State.flags_setG, hst]
  case cores => exact fun c hne => (hc.cores c (h.core_eq ▸ hne)).trans (h.cores c hne)
  case strands =>
    exact fun y hy => (h.core_eq ▸ hs.strandAt_advance y (h.ctx_eq ▸ hy)).trans (h.strandAt s.core y)
  case me =>
    have hrngs : (u.setG rd v).advance.me.rngs = u.me.rngs := by rw [State.me_advance, State.rngs_setG]
    rw [hs.me_advance, hrngs, h.me_eq]

section
variable {s : State} {ra : BitVec 4} {off : BitVec 11} {n pa : Nat} (hbad : s.badIn (s.globalOf s.core pa) n = none)
  (hqueue : s.queuedTo (saddleOf (pkgOf s.core) pa) = false) (hfly : s.flyingTo (saddleOf (pkgOf s.core) pa) s.me.seqNo = false)
include hbad hqueue hfly

/-- The effect of a local load: a register, and what reads correct (R130). -/
theorem loadEff_frame (hacc : s.accPhys (accAddr s.st.g ra off n) n .rd = .ok pa) (sgn : Bool) (rd : BitVec 4) :
    ∃ u v, loadEff n sgn rd ra off s.envOf s = .done (u.setG rd v) ∧ s.Accessed u ∧ ∀ a, u.byte a = s.byte a := by
  have hw := s.scrubbed_accWalked ra off n
  have hp := (s.accWalked ra off n).powered_power (s.globalOf s.core pa)
  have hr := ((s.accWalked ra off n).power (s.globalOf s.core pa)).scrubbed_scrub (s.globalOf s.core pa) n
  refine ⟨_, _, loadEff_local hacc hbad (fun _ => ⟨hqueue, hfly⟩) sgn rd, ?_, fun a => ?_⟩
  · exact hw.accessed.trans ((State.Accessed.of_cores (by rw [hp.rest])).trans hr.accessed)
  · rw [hr.byte, State.byte_power, hw.byte]

/-- The effect of a local store that nothing stands before: the bytes, and what walks correct (R130, R318). -/
theorem storeEff_frame (hacc : s.accPhys (accAddr s.st.g ra off n) n .wr = .ok pa) (hloc : s.isLocal s.core pa = true)
    (hsplit : s.split = false) (haway : isStorePa pa = true → s.away (saddleOf (pkgOf s.core) pa) = false) (rd : BitVec 4) :
    ∃ u, storeEff n rd ra off s.envOf s = .done (u.putBytes (s.globalOf s.core pa) (leBytes n (s.g rd).toNat)) ∧ s.Accessed u ∧
      ∀ a, u.byte a = s.byte a := by
  have hw := s.scrubbed_accWalked ra off n
  have hpart := State.badPart_of_badIn hbad
  by_cases hhere : isSpPa pa = true ∨ isSaddle s.core = true
  · exact ⟨_, storeEff_here hacc rd hpart hhere, hw.accessed, hw.byte⟩
  · have hst : isStorePa pa = true := by
      obtain ⟨hsp, hsad⟩ := not_or.1 hhere
      simp only [State.isLocal, hsad, hsp, Bool.false_eq_true, if_false, Bool.false_or, Bool.and_eq_true] at hloc
      exact hloc.1
    exact ⟨_, storeEff_performed hacc rd hpart hhere hqueue hsplit hfly (haway hst), hw.accessed.trans (State.accessed_counted _), hw.byte⟩

end

/-- Only g0 is not among the registers that a destination names. -/
theorem eq_zero_of_gS {r : BitVec 4} (h : (gS r).contains r.toNat = false) : r = 0 := by
  by_contra hr
  rw [gS, if_neg hr, List.contains_cons, beq_self_eq_true, Bool.true_or] at h
  cases h

theorem State.setG_zero (s : State) (v : Word) : s.setG 0 v = s := if_pos rfl

/-- Settles O12: a load writes one register and a store its bytes; what walks and reads correct is no byte of memory. -/
theorem loadStoreFrame : Obligations.LoadStoreFrame := by
  intro i ra off n k s pa hi ga d hr hacc hloc hbad hqueue hfly haway
  obtain ⟨eff, hex, ha, hp⟩ := exec_access hi s
  cases ha with
  | load sgn rd hregs =>
    obtain ⟨u, v, he, hu, hbyte⟩ := loadEff_frame hbad hqueue hfly hacc sgn rd
    obtain ⟨hpc, hflags, hrest, hcores, hstrands, hnet, hme⟩ := hu.frame rd v
    refine ⟨(u.setG rd v).advance, hex.trans (congrArg _ (memOp_local hr hp hacc hloc he ?st)), hpc, hflags, hrest, ?mem, nofun, ?regs,
      hcores, hstrands, hnet, hme⟩
    case st => exact (State.setG_st_eq u rd v).imp fun g hg => by rw [hg, hu.st_eq]
    case mem =>
      intro a _
      rw [State.advance, State.byte_modSt, State.byte_setG, hbyte]
    case regs =>
      intro r hout
      rw [State.g_advance]
      by_cases hrd : r = rd
      · subst hrd
        rw [hregs] at hout
        rw [eq_zero_of_gS hout, State.setG_zero, hu.g_eq]
      · rw [State.g_setG, if_neg hrd, hu.g_eq]
  | store rd =>
    obtain ⟨u, he, hu, hbyte⟩ := storeEff_frame hbad hqueue hfly hacc hloc hr.fast haway rd
    have hput := hu.trans (u.accessed_putBytes ga (leBytes n (s.g rd).toNat))
    have hframe := hput.frame 0 0
    rw [State.setG_zero] at hframe
    obtain ⟨hpc, hflags, hrest, hcores, hstrands, hnet, hme⟩ := hframe
    have hregs (r : BitVec 4) : (u.putBytes ga (leBytes n (s.g rd).toNat)).advance.g r = s.g r := by rw [State.g_advance, hput.g_eq]
    refine ⟨_, hex.trans (congrArg _ (memOp_local hr hp hacc hloc he ⟨s.st.g, hput.st_eq⟩)), hpc, hflags, hrest, ?mem,
      fun _ => ⟨s.g rd, ?bytes, hregs⟩, fun r _ => hregs r, hcores, hstrands, hnet, hme⟩
    case mem =>
      intro a hout
      have hout' : a < ga ∨ ga + (leBytes n (s.g rd).toNat).length ≤ a := by
        rw [length_leBytes]
        exact hout.resolve_left nofun
      rw [State.advance, State.byte_modSt, State.byte_putBytes_out u hout', hbyte]
    case bytes =>
      have h := bytes_poke_self ((u.power ga).cleared ga (leBytes n (s.g rd).toNat).length) ga (leBytes n (s.g rd).toNat)
      rw [length_leBytes] at h
      exact (bytes_congr fun j _ _ => State.byte_modSt _ _ j).trans (by rw [State.putBytes, length_leBytes]; exact h)

end Sys2Proof.Machine
end

section
/-! A posted store that follows a request kept in an entry no lookup finds (R318). -/

namespace Sys2Proof.Machine
open Sys2Proof

/-- Operation 0 of compute core 2, held at its valley's node for the saddle of valley store 0: a tile request (R306). -/
def heldReq : Flight :=
  { src := 2, dst := 2048, net := 0, seq := 0, ctx := 0, lix := some 0, tag := 0,
    pay := .tileReq {} [] }

/-- Core 2 with a strand of launch 0, whose page table (at 0 and at 0x1000) maps the first page of valley store 0 on itself; a single-bit
error stands in the table. The map of valleys has two entries for valley 0, of which lookups see the first: the request is in the second. -/
def shadowSt : State :=
  { State.reset with
    cores := [(2, { ctxs := [(0, { pc := 0x1000, sys := true, life := .ready, lix := some 0, g := [(8, 0x8000000000)] })], tvec := 0x2000,
                    seqNo := 1 })]
    launches := [(0, { st := .placed })]
    mem := [(8, 0x01), (9, 0x10), (0x1000, 0x0F), (0x1004, 0x80)]
    soft := [(8, false)]
    valleys := [(0, {}), (0, { node := [.tiles [heldReq]] })] }

/-- A doubleword stored to the first bytes of valley store 0. -/
def shadowStore : Instr := .std 0 3 8 0

theorem shadowSt_ready : shadowSt.ReadyUnit shadowStore where
  pend := by decide
  found := by decide
  live := by decide
  awake := by decide
  replay := by decide
  moving := by decide
  seen := by decide
  assigned := by decide
  core := by decide
  mode := by decide
  fast := by decide
  idle := by decide
  alone := by decide

theorem shadowSt_accPhys : shadowSt.accPhys ((shadowSt.g 8).toNat + (0 : BitVec 11).toInt * (8 : Nat)) 8 .wr = .ok 0x8000000000 := by
  have h : (match shadowSt.accPhys ((shadowSt.g 8).toNat + (0 : BitVec 11).toInt * (8 : Nat)) 8 .wr with
    | .ok pa => decide (pa = 0x8000000000)
    | .error _ => false) = true := by decide
  split at h
  · next pa hpa => rw [hpa, of_decide_eq_true h]
  · exact absurd h Bool.false_ne_true

theorem shadowSt_flying : shadowSt.flyingTo 2048 1 = true := by decide

/-- No message is on its way behind the store. -/
theorem shadowSt_performed : (match exec shadowStore shadowSt with | .next t => t.net.isEmpty | _ => false) = true := by decide

/-- Refutes O11: the walk's correction writes valley 0's entry, and a map written at a key keeps one entry of it; the request in the
other is gone when the store asks what is under way, so that the store is performed at once. It takes a map with a repeated key, which
the statement does not rule out; where a request is under way still after the walk, `storeEff_posted` is what holds. -/
theorem not_localAccesses : ¬ Obligations.LocalAccesses := by
  intro h
  obtain ⟨-, -, hposted⟩ := h.2 shadowStore 3 8 0 8 shadowSt 0x8000000000 (.inr (.inr (.inr ⟨rfl, rfl⟩))) shadowSt_ready shadowSt_accPhys
    (by decide) (by decide)
  have hperformed := shadowSt_performed
  rw [hposted (by decide) (by decide) (.inl shadowSt_flying)] at hperformed
  exact absurd hperformed (by decide)

end Sys2Proof.Machine
end

section
/-! What renaming the work of a context and freeing a context leave as they were (R279, R350, R351). -/

namespace Sys2Proof.Machine
open Sys2Proof

/-! ### No strand changes -/

/-- Work of a strand has been renamed, its takes trimmed, a held message released, or a composed core handed back: every strand, and every
core but for its queues and its place in a composed core, is as it was. -/
structure State.KeepsStrands (s t : State) : Prop where
  rest : t = { s with cores := t.cores, spires := t.spires, net := t.net }
  cores : ∀ c, t.coreAt c = { s.coreAt c with
    eng := (t.coreAt c).eng, sendq := (t.coreAt c).sendq, outst := (t.coreAt c).outst, rq := (t.coreAt c).rq
    leader := (t.coreAt c).leader, members := (t.coreAt c).members }
  length_net : t.net.length = s.net.length

theorem State.KeepsStrands.refl (s : State) : s.KeepsStrands s := ⟨rfl, fun _ => rfl, rfl⟩

namespace State.KeepsStrands
variable {s t u : State} (h : s.KeepsStrands t)
include h

theorem trans (k : t.KeepsStrands u) : s.KeepsStrands u where
  rest := by
    have := k.rest
    rw [h.rest] at this
    exact this
  cores c := by
    have := k.cores c
    rw [h.cores c] at this
    exact this
  length_net := k.length_net.trans h.length_net

theorem ctxs (c : Nat) : (t.coreAt c).ctxs = (s.coreAt c).ctxs := by rw [h.cores c]
theorem strandAt (c x : Nat) : t.strandAt c x = s.strandAt c x := by rw [State.strandAt, h.ctxs, State.strandAt]
theorem core_eq : t.core = s.core := by rw [h.rest]
theorem ctx_eq : t.ctx = s.ctx := by rw [h.rest]
theorem launchAt (l : Nat) : t.launchAt l = s.launchAt l := by rw [h.rest]; rfl
theorem st_eq : t.st = s.st := by rw [State.st, h.strandAt, h.core_eq, h.ctx_eq, State.st]
theorem byte (a : Nat) : t.byte a = s.byte a := by rw [h.rest]; rfl

end State.KeepsStrands

theorem State.keepsStrands_modCore (s : State) (c : Nat) (f : Core → Core) (hf : ∀ k, f k = { k with
    eng := (f k).eng, sendq := (f k).sendq, outst := (f k).outst, rq := (f k).rq, leader := (f k).leader, members := (f k).members }) :
    s.KeepsStrands (s.modCore c f) := by
  refine ⟨rfl, fun d => ?_, rfl⟩
  rw [State.coreAt_modCore]
  split
  · next hd => rw [hd]; exact hf _
  · rfl

theorem State.keepsStrands_foldl {α : Type} {f : State → α → State} (hf : ∀ (s : State) a, s.KeepsStrands (f s a)) (l : List α) (s : State) :
    s.KeepsStrands (l.foldl f s) := by
  induction l generalizing s with
  | nil => exact .refl s
  | cons a l ih => exact (hf s a).trans (ih (f s a))

theorem State.keepsStrands_net (s : State) (f : Flight → Flight) : s.KeepsStrands { s with net := s.net.map f } :=
  ⟨rfl, fun _ => rfl, List.length_map f⟩

theorem State.keepsStrands_modSpire (s : State) (p : Nat) (f : Spire → Spire) : s.KeepsStrands (s.modSpire p f) :=
  ⟨rfl, fun _ => rfl, rfl⟩

theorem State.keepsStrands_ite {s t u : State} {c : Prop} [Decidable c] (ht : s.KeepsStrands t) (hu : s.KeepsStrands u) :
    s.KeepsStrands (if c then t else u) := by
  split
  · exact ht
  · exact hu

section
variable (s : State) (c x : Nat)

theorem State.keepsStrands_rekey (y : Nat) : s.KeepsStrands (s.rekey c x y) := by
  unfold State.rekey
  refine .trans (s.keepsStrands_modCore c _ ?_) ((State.keepsStrands_net _ _).trans
    (State.keepsStrands_ite (.refl _) (State.keepsStrands_modSpire _ _ _)))
  exact fun _ => rfl

theorem State.keepsStrands_disownLeft (t : Strand) : s.KeepsStrands (s.disownLeft t) :=
  State.keepsStrands_foldl (fun s _ => s.keepsStrands_rekey _ _ _) _ s

theorem State.keepsStrands_trimTakes (n : Nat) : s.KeepsStrands (s.trimTakes c x n) :=
  State.keepsStrands_ite (.refl s) (s.keepsStrands_modSpire _ _)

theorem State.keepsStrands_unhold (t : Strand) : s.KeepsStrands (s.unhold t) := by
  unfold State.unhold
  refine State.keepsStrands_ite (s.keepsStrands_modCore _ _ fun k => ?_) (.refl s)
  dsimp only
  split
  · split <;> rfl
  · rfl

theorem State.keepsStrands_handBack : s.KeepsStrands (s.handBack c) := by
  unfold State.handBack
  refine .trans (State.keepsStrands_foldl (fun s m => s.keepsStrands_modCore m _ ?_) _ s) (State.keepsStrands_modCore _ c _ ?_) <;>
    exact fun _ => rfl

/-- A core that is no member is as it was. -/
theorem State.coreAt_handBack_ne {d : Nat} (hd : d ≠ c) (hm : d ∉ (s.coreAt c).members) : (s.handBack c).coreAt d = s.coreAt d := by
  have hfold (ms : List Nat) (u : State) (h : d ∉ ms) :
      (ms.foldl (fun s m => s.modCore m fun k => { k with leader := none }) u).coreAt d = u.coreAt d := by
    induction ms generalizing u with
    | nil => rfl
    | cons m ms ih =>
      obtain ⟨hne, hms⟩ := not_or.1 (mt List.mem_cons.2 h)
      exact (ih _ hms).trans (State.coreAt_modCore_ne _ _ _ _ hne)
  exact (State.coreAt_modCore_ne _ _ _ _ hd).trans (hfold _ s hm)

/-! ### A context freed -/

/-- A core whose context x is free: what that left behind belongs to no strand. -/
def Core.freed (x : Nat) (k : Core) : Core :=
  { k with
    ctxs := fdel x k.ctxs
    bars := k.bars.map fun b => (b.1, b.2.without x)
    eng := k.eng.map (EngOp.disown x)
    sendq := k.sendq.map fun e => if e.ctx = x && !e.held then { e with ctx := 1000 } else e
    outst := k.outst.map fun o => if o.flight.ctx = x then { o with flight := { o.flight with ctx := 1000 } } else o }

/-- A message that belongs to no strand when it was of context x of core c. -/
def Flight.freed (c x : Nat) (f : Flight) : Flight :=
  let f := if f.asker = c ∧ f.ctx = x then { f with ctx := 1000 } else f
  if f.merged.contains (c, x) then { f with merged := f.merged.map fun e => if e = (c, x) then (c, 1000) else e } else f

theorem Flight.freed_eq (f : Flight) : f.freed c x = { f with ctx := (f.freed c x).ctx, merged := (f.freed c x).merged } := by
  unfold Flight.freed
  dsimp only
  split <;> split <;> rfl

theorem State.freeCtx_eq : s.freeCtx c x = { s with
    cores := (s.modCore c (Core.freed x)).cores, spires := (s.freeCtx c x).spires, net := s.net.map (Flight.freed c x) } := by
  conv_lhs => unfold State.freeCtx; dsimp only; rw [State.trimTakes_eq]
  rfl

theorem State.coreAt_freeCtx (d : Nat) : (s.freeCtx c x).coreAt d = if d = c then (s.coreAt c).freed x else s.coreAt d := by
  rw [State.freeCtx_eq]
  exact State.coreAt_modCore s c d _

theorem State.strandAt_freeCtx_self : (s.freeCtx c x).strandAt c x = {} := by
  rw [State.strandAt, State.coreAt_freeCtx, if_pos rfl]
  exact fget_fdel_self _ _ _

theorem State.strandAt_freeCtx_ne {y : Nat} (hy : y ≠ x) : (s.freeCtx c x).strandAt c y = s.strandAt c y := by
  rw [State.strandAt, State.coreAt_freeCtx, if_pos rfl]
  exact fget_fdel_ne _ _ _ _ hy

end

end Sys2Proof.Machine
end

section
/-! A strand leaves its core for an address that is not local, or traps at one it cannot use (R130, R132 to R134). -/

namespace Sys2Proof.Machine
open Sys2Proof

/-! ### The strand as it leaves -/

/-- Of a core one strand has changed, as f says, and no other; beside that, only cores, messages and the takes of spires have. -/
structure State.Readies (s t : State) (c x : Nat) (f : Strand → Strand) : Prop where
  rest : t = { s with cores := t.cores, spires := t.spires, net := t.net }
  strand : t.strandAt c x = f (s.strandAt c x)
  strands : ∀ y, y ≠ x → t.strandAt c y = s.strandAt c y
  length_net : t.net.length = s.net.length

section
variable {s t u : State} {c x : Nat} {f : Strand → Strand}

theorem State.KeepsStrands.readies (h : s.KeepsStrands t) (c x : Nat) : s.Readies t c x id :=
  ⟨h.rest, h.strandAt c x, fun y _ => h.strandAt c y, h.length_net⟩

theorem State.Readies.modStrand (h : s.Readies t c x f) (g : Strand → Strand) : s.Readies (t.modStrand c x g) c x fun a => g (f a) where
  rest := by
    have hrest : t.modStrand c x g = { t with cores := (t.modStrand c x g).cores } := rfl
    rw [hrest, h.rest]
  strand := by rw [State.strandAt_modStrand, if_pos ⟨rfl, rfl⟩, h.strand]
  strands y hy := by rw [State.strandAt_modStrand, if_neg fun hc => hy hc.2, h.strands y hy]
  length_net := h.length_net

theorem State.Readies.modCore (h : s.Readies t c x f) (g : Core → Core) (hg : ∀ k, (g k).ctxs = k.ctxs) :
    s.Readies (t.modCore c g) c x f where
  rest := by
    have hrest : t.modCore c g = { t with cores := (t.modCore c g).cores } := rfl
    rw [hrest, h.rest]
  strand := by
    rw [State.strandAt, State.coreAt_modCore_self, hg]
    exact h.strand
  strands y hy := by
    rw [State.strandAt, State.coreAt_modCore_self, hg]
    exact h.strands y hy
  length_net := h.length_net

theorem State.Readies.trans {g : Strand → Strand} (h : s.Readies t c x f) (k : t.Readies u c x g) : s.Readies u c x fun a => g (f a) where
  rest := by
    have := k.rest
    rw [h.rest] at this
    exact this
  strand := by rw [k.strand, h.strand]
  strands y hy := (k.strands y hy).trans (h.strands y hy)
  length_net := k.length_net.trans h.length_net

end

/-- The acting strand as the only one of its core: a composed core has handed back (R134). -/
def State.handedBack (s : State) : State := if s.st.cmp then (s.handBack s.core).modSt fun t => { t with cmp := false } else s

theorem State.readies_handedBack (s : State) : s.Readies s.handedBack s.core s.ctx fun t => { t with cmp := false } := by
  unfold State.handedBack
  split
  · have hk := s.keepsStrands_handBack s.core
    rw [State.modSt, hk.core_eq, hk.ctx_eq]
    exact (hk.readies s.core s.ctx).modStrand _
  · next h =>
    refine ⟨rfl, ?_, fun _ _ => rfl, rfl⟩
    rw [← Bool.eq_false_iff.2 h]
    rfl

theorem State.readies_leave (s : State) (c x : Nat) :
    ∃ kept left : Strand → List _, s.Readies (s.leave c x) c x fun t => { t with kept := kept t, left := left t } := by
  unfold State.leave
  split
  · refine ⟨fun _ => [], fun t => t.left ++ [(c, (s.coreAt c).seqNo)],
      (((s.keepsStrands_rekey c x (2000 + (s.coreAt c).seqNo)).readies c x).modCore _ ?_).modStrand _⟩
    exact fun _ => rfl
  · exact ⟨Strand.kept, Strand.left, (State.KeepsStrands.refl s).readies c x⟩

/-- A strand as it travels: with its registers, its mode and its launch, at the instruction that moves it, of no composed core (R132). -/
structure Strand.Travels (t u : Strand) : Prop where
  g : u.g = t.g
  pc : u.pc = t.pc
  flags : u.flags = t.flags
  rm : u.rm = t.rm
  sys : u.sys = t.sys
  lix : u.lix = t.lix
  cmp : u.cmp = false

theorem Strand.travels_packed {t v : Strand} (h : t.Travels v) : t.Travels v.packed := by
  unfold Strand.packed
  dsimp only
  split <;> exact ⟨h.g, h.pc, h.flags, h.rm, h.sys, h.lix, h.cmp⟩

theorem State.migrate_eq {s v : State} (hv : s.handedBack.leave s.handedBack.core s.handedBack.ctx = v) (pa : Nat) : s.migrate pa =
    .gone ((v.post v.core (saddleOf (pkgOf v.core) pa) 3 v.ctx v.st.lix 0 (.migr v.st.packed)).freeCtx v.core v.ctx) := by
  rw [← hv]
  rfl

theorem State.strandAt_post (s : State) (src dst net ctx : Nat) (lix : Option Nat) (tag : Nat) (pay : Pay) (c x : Nat) :
    (s.post src dst net ctx lix tag pay).strandAt c x = s.strandAt c x := by
  have hctxs : ((s.post src dst net ctx lix tag pay).coreAt c).ctxs = (s.coreAt c).ctxs := by
    change ((s.modCore src fun k => { k with txSeq := fset k.txSeq (dst * 8 + net) ((s.nextSeq src dst net + 1) % 65536) }).coreAt c).ctxs = _
    rw [State.coreAt_modCore]
    split
    · next h => rw [h]
    · rfl
  rw [State.strandAt, hctxs, State.strandAt]

/-- The strand leaves: its context is free, and the last message carries it (R132, R134). -/
theorem State.migrate_gone (s : State) (pa : Nat) : ∃ t f u, s.migrate pa = .gone t ∧ t.strandAt s.core s.ctx = {} ∧
    t.net.getLast? = some f ∧ t.net.length = s.net.length + 1 ∧ f.src = s.core ∧ f.dst = saddleOf (pkgOf s.core) pa ∧ f.pay = .migr u ∧
    s.st.Travels u ∧ (∀ a, t.byte a = s.byte a) ∧ ∀ y, y ≠ s.ctx → t.strandAt s.core y = s.strandAt s.core y := by
  have hback := s.readies_handedBack
  obtain ⟨kept, left, hl⟩ := s.handedBack.readies_leave s.core s.ctx
  have hr := hback.trans hl
  have hbcore : s.handedBack.core = s.core := by rw [hback.rest]
  have hbctx : s.handedBack.ctx = s.ctx := by rw [hback.rest]
  generalize hv : s.handedBack.leave s.core s.ctx = v at hr
  have heq := State.migrate_eq ((congrArg₂ s.handedBack.leave hbcore hbctx).trans hv) pa
  have hcore : v.core = s.core := by rw [hr.rest]
  have hctx : v.ctx = s.ctx := by rw [hr.rest]
  have hst : v.st = _ := (congrArg₂ v.strandAt hcore hctx).trans hr.strand
  have htravels : s.st.Travels v.st.packed := Strand.travels_packed (by rw [hst]; exact ⟨rfl, rfl, rfl, rfl, rfl, rfl, rfl⟩)
  rw [hcore, hctx] at heq
  refine ⟨_, Flight.freed s.core s.ctx
      { src := s.core, dst := saddleOf (pkgOf s.core) pa, net := 3, seq := v.nextSeq s.core (saddleOf (pkgOf s.core) pa) 3, ctx := s.ctx
        lix := v.st.lix, tag := 0, pay := .migr v.st.packed },
    v.st.packed, heq, State.strandAt_freeCtx_self .., ?last, ?length, ?src, ?dst, ?pay, htravels, ?byte, fun y hy => ?strands⟩
  case last =>
    rw [State.freeCtx_eq]
    exact (List.getLast?_map ..).trans (congrArg _ (List.getLast?_concat ..))
  case length =>
    rw [State.freeCtx_eq]
    exact (List.length_map ..).trans ((List.length_append ..).trans (congrArg (· + 1) hr.length_net))
  case src => rw [Flight.freed_eq]
  case dst => rw [Flight.freed_eq]
  case pay => rw [Flight.freed_eq]
  case byte =>
    intro a
    have hmem : v.mem = s.mem := by rw [hr.rest]
    rw [State.freeCtx_eq]
    exact congrArg (fget memDefault · a) hmem
  case strands =>
    rw [State.strandAt_freeCtx_ne _ _ _ hy, State.strandAt_post, hr.strands y hy]

/-! ### The access -/

/-- No failure is kept for a strand that a read of memory would change. -/
theorem State.Scrubbed.report_none {s t : State} (h : s.Scrubbed t) {want : Nat → Bool} (hs : s.report want = none) : t.report want = none := by
  have haway (l : List (Nat × Nat)) : s.reportAway want l = none → t.reportAway want l = none := by
    induction l with
    | nil => exact id
    | cons e l ih =>
      simp only [State.reportAway, h.coreAt]
      cases firstKept want (((s.coreAt e.1).away.filter fun a => a.1 == 2000 + e.2).map (·.2)) with
      | none => exact ih
      | some => nofun
  simp only [State.report, h.st_eq] at hs ⊢
  cases hr : s.reportAway want s.st.left with
  | some => simp only [hr, reduceCtorEq] at hs
  | none =>
    simp only [hr, haway _ hr] at hs ⊢
    cases hk : firstKept want s.st.kept with
    | some => simp only [hk, reduceCtorEq] at hs
    | none => rfl

section
variable {i : Instr} {ra : BitVec 4} {off : BitVec 11} {n : Nat} {k : Acc} {eff : Eff} {s : State}

/-- A remote access of a strand with no pending instruction is made at issue. -/
theorem memOp_remote {pa : Nat} (h : s.Ready i) (hacc : s.accPhys (accAddr s.st.g ra off n) n k = .ok pa) (hrem : s.isLocal s.core pa = false) :
    memOp i ra off n k eff s = issueNow i true
      (fun u => remoteAccess pa (i64 (accAddr s.st.g ra off n)) (u.xlated (accAddr s.st.g ra off n).toNat n)) s := by
  have hmoves : (s.migrates pa && !s.st.pend.isEmpty) = false := by rw [h.pend, List.isEmpty_nil, Bool.not_true, Bool.and_false]
  unfold memOp
  dsimp only
  rw [State.remote?_remote hacc hrem]
  exact if_neg (Bool.eq_false_iff.1 hmoves)

/-- An access whose address is no address of its size, or outside the space, traps before anything else (R130). -/
theorem memOp_badAddress {x : Trap} (h : s.ReadyUnit i) (ha : Accesses i ra off n k eff) (hp : i.pins = false)
    (hacc : s.accPhys (accAddr s.st.g ra off n) n k = .error (x, false)) : memOp i ra off n k eff s = s.raise x := by
  have hl : memOp i ra off n k eff s = longOp i eff s := by simp only [memOp, State.remote?_error hacc]
  have hstart : s.start i = s := by rw [State.start, hp, if_neg Bool.false_ne_true]
  rw [hl, longOp_ready h, hstart]
  cases ha with
  | load | store => simp only [loadEff, storeEff, State.envOf, hacc]

end

section
variable {w : State} {pa : Nat} {va : Word}

/-- With nothing to wait for and nothing to report, the strand leaves (R132). -/
theorem remoteAccess_leaves (hhnd : w.st.hnd = false) (hpin : w.st.pin = false) (hlink : w.linkDown w.core (saddleOf (pkgOf w.core) pa) = false)
    (haway : w.away (saddleOf (pkgOf w.core) pa) = false) (hpend : w.st.pend = []) (hacks : (w.places.any fun e => w.unacked e.1 e.2) = false)
    (hrep : (w.report fun q => q == 0) = none) : remoteAccess pa va w = w.migrate pa := by
  simp only [remoteAccess, hhnd, hpin, hlink, haway, Bool.or_self, Bool.false_eq_true, if_false, afterPend, State.quiet, hpend,
    List.isEmpty_nil, if_true, afterAcks, hacks, hrep]

/-- A pinned strand, and a handler, cannot leave (R133). -/
theorem remoteAccess_pinned (h : w.st.hnd = true ∨ w.st.pin = true) : remoteAccess pa va w =
    .trap { code := 0x14, info := va ||| (if w.st.hnd then 0x8000000000000000 else 0) } w := by
  unfold remoteAccess
  split
  · rfl
  · next hhnd =>
    have hinfo : va ||| 0 = va := BitVec.or_zero
    rw [if_pos (h.resolve_left hhnd), hinfo]
    rfl

end

/-- Settles O13: a remote access leaves the core or traps at issue, on the state its walks leave; the checks of an address come before. -/
theorem remoteAndBadAddresses : Obligations.RemoteAndBadAddresses := by
  refine ⟨?_, ?_, ?_⟩
  · intro i ra off n k s pa hi d hr hacc hrem hhnd hpin hlink haway hacks hrep
    obtain ⟨eff, hex, -, -⟩ := exec_access hi s
    have hw := s.scrubbed_accWalked ra off n
    obtain ⟨t, f, u, hm, hfree, hlast, hlen, hsrc, hdst, hpay, hu, hbyte, hothers⟩ := (s.accWalked ra off n).migrate_gone pa
    rw [hw.core_eq] at hfree hsrc hdst hothers
    rw [hw.ctx_eq] at hfree hothers
    rw [hw.st_eq] at hu
    have hleave : remoteAccess pa (i64 (accAddr s.st.g ra off n)) (s.accWalked ra off n) = .gone t := by
      rw [← hm]
      apply remoteAccess_leaves
      · rw [hw.st_eq, hhnd]
      · rw [hw.st_eq, hpin]
      · rw [hw.linkDown, hw.core_eq, hlink]
      · rw [hw.away, hw.core_eq, haway]
      · rw [hw.st_eq, hr.pend]
      · rw [hw.places, ← hacks]
        exact congrArg _ (funext fun e => hw.unacked e.1 e.2)
      · exact hw.report_none hrep
    refine ⟨t, f, u, hex.trans (congrArg _ ((memOp_remote hr hacc hrem).trans (issueNow_gone hr hleave))), hfree, hlast, ?_, hsrc, hdst, hpay,
      hu.g, hu.pc, hu.flags, hu.rm, hu.sys, hu.lix, hu.cmp, fun a => (hbyte a).trans (hw.byte a),
      fun y hy _ => (hothers y hy).trans (hw.strandAt s.core y)⟩
    rw [hlen, hw.net_eq]
  · intro i ra off n k s pa hi addr hr hacc hrem hheld
    obtain ⟨eff, hex, -, -⟩ := exec_access hi s
    have hst : (s.accWalked ra off n).st = s.st := (s.scrubbed_accWalked ra off n).st_eq
    have htrap := remoteAccess_pinned (pa := pa) (va := i64 addr) (w := s.accWalked ra off n) (by rwa [hst])
    rw [hst] at htrap
    exact hex.trans (congrArg _ ((memOp_remote hr hacc hrem).trans (issueNow_trap hr htrap)))
  · intro i ra off n k s hi hr addr
    obtain ⟨eff, hex, ha, hp⟩ := exec_access hi s
    constructor
    · intro hmis
      exact hex.trans (congrArg _ (memOp_badAddress hr ha hp (if_pos hmis)))
    · intro hal hout
      exact hex.trans (congrArg _ (memOp_badAddress hr ha hp ((if_neg (not_not.2 hal)).trans (if_pos hout))))

end Sys2Proof.Machine
end

section
/-! Taking an exception, whatever the strand was in (R143, R349, R350, R353). -/

namespace Sys2Proof
open Sys2Proof

/-- A map whose values have been mapped, the default on itself. -/
theorem fget_mapVals {α : Type} (f : α → α) (d : α) (hd : f d = d) (m : List (Nat × α)) (k : Nat) :
    fget d (m.map fun e => (e.1, f e.2)) k = f (fget d m k) := by
  induction m with
  | nil => exact hd.symm
  | cons e m ih =>
    obtain ⟨j, v⟩ := e
    simp only [List.map_cons, fget]
    split
    · rfl
    · exact ih

end Sys2Proof

namespace Sys2Proof.Machine
open Sys2Proof

/-! ### svc, trap and brk -/

/-- What svc, trap and brk raise (R143). -/
inductive SoftTrap : Instr → Nat → BitVec 12 → Prop
  | svc (code : BitVec 12) : SoftTrap (.svc code) 0x08 code
  | trap (code : BitVec 12) : SoftTrap (.trap code) 0x09 code
  | brk (code : BitVec 12) : SoftTrap (.brk code) 0x0A code

/-- The trap of a soft trap's code. -/
def softTrapOf (cause : Nat) (code : BitVec 12) : Trap := { code := cause, info := code.setWidth 64 }

/-- A ready strand enters its trap at the instruction (R143, R349). -/
theorem exec_softTrap {i : Instr} {cause : Nat} {code : BitVec 12} {s : State} (hi : SoftTrap i cause code) (h : s.Ready i) :
    exec i s = .next (s.enterTrap s.core s.ctx (softTrapOf cause code) s.st.pc 0 (s.st.pc + 4)) := by
  have hquiet : s.quiet = true := by rw [State.quiet, h.pend, List.isEmpty_nil]
  have hraise (x : Trap) : s.raise x = s.enterTrap s.core s.ctx x s.st.pc 0 (s.st.pc + 4) := by
    simp only [State.raise, h.pend, h.replay, List.isEmpty_nil, if_true]
  have hbody : afterPend (fun s => .trap (softTrapOf cause code) s) s = .trap (softTrapOf cause code) s := if_pos hquiet
  rw [← hraise, ← issueNow_trap (adv := true) h hbody]
  cases hi with
  | svc | trap | brk => rfl

/-! ### A handler aborted -/

/-- A strand that the check of R366 may have made ready. -/
def Strand.rechecked (now : Nat) (t : Strand) : Strand := if t.waitSq && t.life == .waiting then { t with life := .ready, since := now } else t

theorem Strand.rechecked_eq (now : Nat) (t : Strand) :
    t.rechecked now = { t with life := (t.rechecked now).life, since := (t.rechecked now).since } := by
  unfold Strand.rechecked
  split <;> rfl

theorem Core.ctxs_recheck (k : Core) (now : Nat) :
    (k.recheck now).ctxs = k.ctxs ∨ (k.recheck now).ctxs = k.ctxs.map fun e => (e.1, e.2.rechecked now) := by
  unfold Core.recheck
  split
  · exact .inl rfl
  · refine .inr (List.map_congr_left fun e _ => ?_)
    unfold Strand.rechecked
    split <;> rfl

theorem Core.recheck_eq (k : Core) (now : Nat) : k.recheck now = { k with ctxs := (k.recheck now).ctxs } := by
  unfold Core.recheck
  split <;> rfl

/-- What waits for the send queue keeps everything but its life. -/
theorem Core.strand_recheck (k : Core) (now x : Nat) :
    ∃ life since, fget {} (k.recheck now).ctxs x = { fget ({} : Strand) k.ctxs x with life := life, since := since } := by
  rcases k.ctxs_recheck now with h | h
  · exact ⟨_, _, by rw [h]⟩
  · rw [h, fget_mapVals (Strand.rechecked now) {} rfl]
    exact ⟨_, _, Strand.rechecked_eq now _⟩

/-- A strand at its handler's abort or without one: of no composed core, with the registers it had (R349, R353). -/
structure Strand.Aborts (a b : Strand) : Prop where
  g : b.g = a.g
  flags : b.flags = a.flags
  rm : b.rm = a.rm
  prio : b.prio = a.prio
  hnd : b.hnd = false
  cmp : b.cmp = a.cmp
  msg : a.hnd = false → b.tMsg = a.tMsg

/-- Of a state only core c has changed, and of that nothing that trap entry reads beside strands. -/
structure State.AbortsAt (s t : State) (c x : Nat) : Prop where
  rest : t = { s with cores := t.cores }
  strand : (s.strandAt c x).Aborts (t.strandAt c x)
  tcount : (t.coreAt c).tcount = (s.coreAt c).tcount
  cores : ∀ d, d ≠ c → t.coreAt d = s.coreAt d

theorem State.abortsAt_abortHandler (s : State) (c x : Nat) (h : (s.strandAt c x).hnd = true) : s.AbortsAt (s.abortHandler c x) c x := by
  unfold State.abortHandler
  extract_lets q rq id rq' v
  have hv : v.coreAt c = Core.recheck { s.coreAt c with sendq := dropHeld x (s.coreAt c).sendq, rq := rq' } s.tick :=
    State.coreAt_modCore_self s c _
  have hvx : ∃ life since, v.strandAt c x = { s.strandAt c x with life := life, since := since } := by
    rw [State.strandAt, hv]
    exact Core.strand_recheck _ s.tick x
  refine ⟨rfl, ?strand, ?tcount, fun d hd => ?cores⟩
  case strand =>
    obtain ⟨life, since, hvx⟩ := hvx
    rw [State.strandAt_modStrand, if_pos ⟨rfl, rfl⟩, hvx]
    exact ⟨rfl, rfl, rfl, rfl, rfl, rfl, fun hn => absurd (h.symm.trans hn) nofun⟩
  case tcount =>
    refine (congrArg Core.tcount (State.coreAt_modCore_self v c _)).trans ?_
    change (v.coreAt c).tcount = _
    rw [hv, Core.recheck_eq]
  case cores => exact (State.coreAt_modCore_ne v c d _ hd).trans (State.coreAt_modCore_ne s c d _ hd)

/-- The state with a handler of strand x of core c aborted. -/
def State.aborted (s : State) (c x : Nat) : State := if (s.strandAt c x).hnd then s.abortHandler c x else s

theorem State.abortsAt_aborted (s : State) (c x : Nat) : s.AbortsAt (s.aborted c x) c x := by
  unfold State.aborted
  split
  · next h => exact s.abortsAt_abortHandler c x h
  · next h => exact ⟨rfl, ⟨rfl, rfl, rfl, rfl, Bool.eq_false_iff.2 h, rfl, fun _ => rfl⟩, rfl, fun _ _ => rfl⟩

/-! ### Trap entry -/

/-- The acting strand as its handler begins: out of a composed core, out of a message handler (R349). -/
def State.atHandler (s : State) (x : Trap) (pc : BitVec 48) (t : Strand) : Strand :=
  { t.trapped x pc 0 (pc + 4) s.me.tvec s.tick with
    tCmp := s.st.cmp, tHab := s.st.hnd, tSwHi := (Strand.sw { s.st with cmp := false }).extractLsb' 48 16 }

/-- What trap entry finds: the acting strand handed back, its takes gone, a message handler aborted. -/
def State.leftForHandler (s : State) : State := (s.handedBack.trimTakes s.core s.ctx 0).aborted s.core s.ctx

/-- The handler of the acting strand has begun, and the trap is counted. -/
def State.handlerBegun (s : State) (x : Trap) (pc : BitVec 48) : State :=
  (s.leftForHandler.modStrand s.core s.ctx (s.atHandler x pc)).modCore s.core Core.trapCounted

theorem State.handedBack_eq (s : State) : s.handedBack =
    if s.st.cmp then (s.handBack s.core).modStrand s.core s.ctx fun t => { t with cmp := false } else s := by
  have hk := s.keepsStrands_handBack s.core
  rw [State.handedBack, State.modSt, hk.core_eq, hk.ctx_eq]

section
variable (s : State)

theorem State.st_handedBack : s.handedBack.strandAt s.core s.ctx = { s.st with cmp := false } := s.readies_handedBack.strand

theorem State.over_handedBack (l : Option Nat) : s.handedBack.over l = s.over l := by
  rw [s.readies_handedBack.rest]
  rfl

theorem State.coreAt_handedBack : s.handedBack.coreAt s.core = { s.me with
    ctxs := (s.handedBack.coreAt s.core).ctxs, eng := (s.handedBack.coreAt s.core).eng, sendq := (s.handedBack.coreAt s.core).sendq
    outst := (s.handedBack.coreAt s.core).outst, rq := (s.handedBack.coreAt s.core).rq, leader := (s.handedBack.coreAt s.core).leader
    members := (s.handedBack.coreAt s.core).members } := by
  rw [State.handedBack_eq]
  split
  · have h := (s.keepsStrands_handBack s.core).cores s.core
    rw [State.modStrand, State.setStrand, State.coreAt_modCore_self, h]
    rfl
  · rfl

theorem State.coreAt_handedBack_ne {c : Nat} (hc : c ≠ s.core) (hm : c ∉ s.me.members) : s.handedBack.coreAt c = s.coreAt c := by
  rw [State.handedBack_eq]
  split
  · exact (State.coreAt_modCore_ne _ _ _ _ hc).trans (s.coreAt_handBack_ne s.core hc hm)
  · rfl

/-- A trap is taken where a handler is installed and no trap is active (R349). -/
theorem State.enterTrap_taken {x : Trap} (hvec : bitsOf s.me.tvec 47 2 ≠ 0) (hact : s.st.tAct = false)
    (hover : s.st.hnd = true → s.over s.st.lix = false) (pc : BitVec 48) : s.enterTrap s.core s.ctx x pc 0 (pc + 4) = s.handlerBegun x pc := by
  have hst := s.st_handedBack
  have htvec : (s.handedBack.coreAt s.core).tvec = s.me.tvec := by rw [State.coreAt_handedBack]
  have hlive : ((s.handedBack.strandAt s.core s.ctx).hnd && s.handedBack.over (s.handedBack.strandAt s.core s.ctx).lix) = false := by
    rw [hst, s.over_handedBack]
    cases hh : s.st.hnd with
    | false => rfl
    | true => exact hover hh
  have htick : s.leftForHandler.tick = s.tick := by
    rw [State.leftForHandler, (State.abortsAt_aborted _ _ _).rest, State.trimTakes_eq, s.readies_handedBack.rest]
  have haborted : s.leftForHandler =
      if s.st.hnd then (s.handedBack.trimTakes s.core s.ctx 0).abortHandler s.core s.ctx else s.handedBack.trimTakes s.core s.ctx 0 := by
    rw [State.leftForHandler, State.aborted, (State.keepsStrands_trimTakes _ _ _ _).strandAt, hst]
  unfold State.enterTrap
  extract_lets cmp v k st sw hab v1 v2 v3
  have hv : v = s.handedBack := s.handedBack_eq.symm
  have hv2 : v2 = s.leftForHandler := by
    rw [haborted]
    simp only [v2, v1, hab, st, hv, hst]
  have hstv : st = { s.st with cmp := false } := by rw [← hst, ← hv]
  have hkv : k.tvec = s.me.tvec := by rw [← htvec, ← hv]
  have hv3 : v3 = v2.modStrand s.core s.ctx (s.atHandler x pc) := by
    have htick2 : v2.tick = s.tick := by rw [hv2, htick]
    simp only [v3, State.modStrand, State.atHandler, Strand.trapped, htick2, hkv, sw, hab, hstv, cmp]
    rfl
  rw [← hv] at hlive
  rw [if_neg (Bool.eq_false_iff.1 hlive), hkv, if_neg hvec, hstv, if_neg (Bool.eq_false_iff.1 hact), hv3, hv2]
  rfl

theorem State.leftForHandler_rest : s.leftForHandler =
    { s with cores := s.leftForHandler.cores, spires := s.leftForHandler.spires, net := s.leftForHandler.net } := by
  have hv := (s.readies_handedBack.trans ((s.handedBack.keepsStrands_trimTakes s.core s.ctx 0).readies s.core s.ctx)).rest
  have ha := ((s.handedBack.trimTakes s.core s.ctx 0).abortsAt_aborted s.core s.ctx).rest
  unfold State.leftForHandler
  generalize (s.handedBack.trimTakes s.core s.ctx 0).aborted s.core s.ctx = u at ha
  generalize s.handedBack.trimTakes s.core s.ctx 0 = v at hv ha
  rw [ha, hv]

theorem State.strandAt_leftForHandler : Strand.Aborts { s.st with cmp := false } (s.leftForHandler.strandAt s.core s.ctx) := by
  have ha := (s.handedBack.trimTakes s.core s.ctx 0).abortsAt_aborted s.core s.ctx
  rw [← s.st_handedBack, ← (s.handedBack.keepsStrands_trimTakes s.core s.ctx 0).strandAt s.core s.ctx]
  exact ha.strand

theorem State.tcount_leftForHandler : (s.leftForHandler.coreAt s.core).tcount = s.me.tcount := by
  have ha := (s.handedBack.trimTakes s.core s.ctx 0).abortsAt_aborted s.core s.ctx
  refine ha.tcount.trans ?_
  rw [(s.handedBack.keepsStrands_trimTakes s.core s.ctx 0).cores, State.coreAt_handedBack]

theorem State.coreAt_leftForHandler_ne {c : Nat} (hc : c ≠ s.core) (hm : c ∉ s.me.members) : s.leftForHandler.coreAt c = s.coreAt c := by
  have ha := (s.handedBack.trimTakes s.core s.ctx 0).abortsAt_aborted s.core s.ctx
  refine (ha.cores c hc).trans (Eq.trans ?_ (s.coreAt_handedBack_ne hc hm))
  rw [State.trimTakes_eq]
  rfl

end

/-- Counting a trap adds one to the count, which stops at its top (R36). -/
theorem Core.tcount_trapCounted (k : Core) : k.trapCounted.tcount = k.tcount + 1 ∨
    (0xFFFFFFFF ≤ k.tcount.toNat ∧ k.trapCounted.tcount = k.tcount) := by
  unfold Core.trapCounted
  dsimp only
  split
  · exact .inl rfl
  · next h => exact .inr ⟨Nat.le_of_not_lt h, rfl⟩

section
variable (s : State) (x : Trap) (pc : BitVec 48)

theorem State.coreAt_handlerBegun : ∃ ctxs, (s.handlerBegun x pc).coreAt s.core =
    { (s.leftForHandler.coreAt s.core).trapCounted with ctxs := ctxs } := by
  rw [State.handlerBegun, State.coreAt_modCore_self, State.modStrand, State.setStrand, State.coreAt_modCore_self]
  exact ⟨_, rfl⟩

/-- The strand with what the trap saved, and the registers it had (R349). -/
theorem State.st_handlerBegun : ∃ b, Strand.Aborts { s.st with cmp := false } b ∧ (s.handlerBegun x pc).st = s.atHandler x pc b := by
  refine ⟨_, s.strandAt_leftForHandler, ?_⟩
  have hst : (s.handlerBegun x pc).st = (s.leftForHandler.modStrand s.core s.ctx (s.atHandler x pc)).strandAt s.core s.ctx := by
    change State.strandAt _ s.leftForHandler.core s.leftForHandler.ctx = _
    rw [s.leftForHandler_rest, State.handlerBegun, State.strandAt, State.coreAt_modCore_self]
    rfl
  rw [hst, State.strandAt_modStrand, if_pos ⟨rfl, rfl⟩]

theorem State.tcount_handlerBegun : (s.handlerBegun x pc).me.tcount = s.me.tcount + 1 ∨
    (0xFFFFFFFF ≤ s.me.tcount.toNat ∧ (s.handlerBegun x pc).me.tcount = s.me.tcount) := by
  have hme : (s.handlerBegun x pc).me = (s.handlerBegun x pc).coreAt s.core := by
    change State.coreAt _ s.leftForHandler.core = _
    rw [s.leftForHandler_rest]
  obtain ⟨ctxs, hcore⟩ := s.coreAt_handlerBegun x pc
  rw [hme, hcore, ← s.tcount_leftForHandler]
  exact Core.tcount_trapCounted _

theorem State.byte_handlerBegun (a : Nat) : (s.handlerBegun x pc).byte a = s.byte a := by
  change s.leftForHandler.byte a = _
  rw [s.leftForHandler_rest]
  rfl

theorem State.coreAt_handlerBegun_ne {c : Nat} (hc : c ≠ s.core) (hm : c ∉ s.me.members) : (s.handlerBegun x pc).coreAt c = s.coreAt c := by
  rw [State.handlerBegun, State.coreAt_modCore_ne _ _ _ _ hc, State.modStrand, State.setStrand, State.coreAt_modCore_ne _ _ _ _ hc]
  exact s.coreAt_leftForHandler_ne hc hm

end

end Sys2Proof.Machine
end

section
/-! What is left when strands stop and launches end (R350, R351). -/

namespace Sys2Proof.Machine
open Sys2Proof

/-- Strands have stopped: contexts may have become free, but none taken, no core has come back, and memory, launches and the rest of the
machine are as they were. -/
structure State.Tidied (s t : State) : Prop where
  rest : t = { s with cores := t.cores, spires := t.spires, plains := t.plains, net := t.net }
  ctxs : ∀ c, ∀ a ∈ (t.coreAt c).ctxs, ∃ b ∈ (s.coreAt c).ctxs, b.1 = a.1
  lost : ∀ c, (t.coreAt c).lost = (s.coreAt c).lost

theorem State.Tidied.refl (s : State) : s.Tidied s := ⟨rfl, fun _ a ha => ⟨a, ha, rfl⟩, fun _ => rfl⟩

namespace State.Tidied
variable {s t u : State} (h : s.Tidied t)
include h

theorem trans (k : t.Tidied u) : s.Tidied u where
  rest := by
    have := k.rest
    rw [h.rest] at this
    exact this
  ctxs c a ha := by
    obtain ⟨b, hb, hba⟩ := k.ctxs c a ha
    obtain ⟨d, hd, hdb⟩ := h.ctxs c b hb
    exact ⟨d, hd, hdb.trans hba⟩
  lost c := (k.lost c).trans (h.lost c)

theorem byte (a : Nat) : t.byte a = s.byte a := by rw [h.rest]; rfl
theorem launchAt (l : Nat) : t.launchAt l = s.launchAt l := by rw [h.rest]; rfl

/-- A core without strands stays without. -/
theorem ctxs_nil {c : Nat} (hc : (s.coreAt c).ctxs = []) : (t.coreAt c).ctxs = [] := by
  refine List.eq_nil_iff_forall_not_mem.2 fun a ha => ?_
  obtain ⟨b, hb, -⟩ := h.ctxs c a ha
  rw [hc] at hb
  exact List.not_mem_nil hb

/-- A context that nothing is listed for stays free. -/
theorem strandAt_free {c x : Nat} (hx : ∀ b ∈ (s.coreAt c).ctxs, b.1 ≠ x) : t.strandAt c x = {} := by
  refine fget_none ({} : Strand) _ x fun a ha => ?_
  obtain ⟨b, hb, hba⟩ := h.ctxs c a ha
  exact hba ▸ hx b hb

end State.Tidied

theorem State.KeepsStrands.tidied {s t : State} (h : s.KeepsStrands t) : s.Tidied t :=
  ⟨by rw [h.rest], fun c a ha => ⟨a, by rwa [h.ctxs] at ha, rfl⟩, fun c => by rw [h.cores c]⟩

theorem State.tidied_modCore (s : State) (c : Nat) (f : Core → Core) (hf : ∀ a ∈ (f (s.coreAt c)).ctxs, ∃ b ∈ (s.coreAt c).ctxs, b.1 = a.1)
    (hlost : (f (s.coreAt c)).lost = (s.coreAt c).lost) : s.Tidied (s.modCore c f) := by
  refine ⟨rfl, fun d a ha => ?_, fun d => ?_⟩
  · rw [State.coreAt_modCore] at ha
    split at ha
    · next h => rw [h]; exact hf a ha
    · exact ⟨a, ha, rfl⟩
  · rw [State.coreAt_modCore]
    split
    · next h => rw [h]; exact hlost
    · rfl

theorem State.tidied_foldl {α : Type} {f : State → α → State} (hf : ∀ (s : State) a, s.Tidied (f s a)) (l : List α) (s : State) :
    s.Tidied (l.foldl f s) := by
  induction l generalizing s with
  | nil => exact .refl s
  | cons a l ih => exact (hf s a).trans (ih (f s a))

section
variable (s : State) (c x : Nat)

theorem State.tidied_freeCtx : s.Tidied (s.freeCtx c x) := by
  have h := s.tidied_modCore c (Core.freed x) (fun a ha => ⟨a, mem_fdel ha, rfl⟩) rfl
  have hcore (d : Nat) : (s.freeCtx c x).coreAt d = (s.modCore c (Core.freed x)).coreAt d := by rw [State.freeCtx_eq]; rfl
  exact ⟨by rw [State.freeCtx_eq], fun d a ha => h.ctxs d a (hcore d ▸ ha), fun d => (congrArg Core.lost (hcore d)).trans (h.lost d)⟩

/-- A context is free once it has been freed. -/
theorem State.freeCtx_free : ∀ a ∈ ((s.freeCtx c x).coreAt c).ctxs, a.1 ≠ x := by
  rw [State.coreAt_freeCtx, if_pos rfl]
  exact fdel_keys x _

theorem State.tidied_quit (t : Strand) : s.Tidied (s.quit c x t) := by
  have hm : s.Tidied (s.modCore c fun k => (k.quit x).recheck s.tick) := by
    refine s.tidied_modCore c _ (fun a ha => ?_) (by rw [Core.recheck_eq]; rfl)
    rcases ((s.coreAt c).quit x).ctxs_recheck s.tick with h | h
    · exact ⟨a, h ▸ ha, rfl⟩
    · rw [h] at ha
      obtain ⟨b, hb, rfl⟩ := List.mem_map.1 ha
      exact ⟨b, hb, rfl⟩
  exact (hm.trans (State.keepsStrands_unhold _ t).tidied).trans (State.keepsStrands_disownLeft _ t).tidied

/-- A strand that runs on is in a context. -/
theorem State.tidied_modStrand (f : Strand → Strand) (h : (s.strandAt c x).pend ≠ []) : s.Tidied (s.modStrand c x f) := by
  refine s.tidied_modCore c (fun k => { k with ctxs := fset k.ctxs x (f (s.strandAt c x)) }) (fun a ha => ?_) rfl
  rcases mem_fset ha with rfl | ⟨ha, -⟩
  · rcases fget_mem {} (s.coreAt c).ctxs x with hd | hm
    · exact absurd (congrArg Strand.pend hd) h
    · exact ⟨_, hm, rfl⟩
  · exact ⟨a, ha, rfl⟩

theorem State.strandAt_quit_pend (t : Strand) : ((s.quit c x t).strandAt c x).pend = (s.strandAt c x).pend := by
  have hk := (State.keepsStrands_unhold (s.modCore c fun k => (k.quit x).recheck s.tick) t).trans (State.keepsStrands_disownLeft _ t)
  obtain ⟨life, since, hx⟩ := Core.strand_recheck ((s.coreAt c).quit x) s.tick x
  have hm : (s.modCore c fun k => (k.quit x).recheck s.tick).strandAt c x = fget {} (((s.coreAt c).quit x).recheck s.tick).ctxs x := by
    rw [State.strandAt, State.coreAt_modCore_self]
  rw [State.quit, hk.strandAt, hm, hx]
  rfl

theorem State.tidied_endStrandOf : s.Tidied (s.endStrandOf c x) := by
  unfold State.endStrandOf
  extract_lets t left v w
  split
  · exact .refl s
  · have hkv : s.KeepsStrands v := State.keepsStrands_ite (s.keepsStrands_handBack c) (.refl s)
    have hw : s.Tidied w := hkv.tidied.trans (v.tidied_quit c x t)
    split
    · exact hw.trans (w.tidied_freeCtx c x)
    · next hleft =>
      have htrim := w.keepsStrands_trimTakes c x (takesOf left)
      refine hw.trans (htrim.tidied.trans (State.tidied_modStrand _ c x _ ?_))
      have hpend : (w.strandAt c x).pend = t.pend := by rw [v.strandAt_quit_pend c x t, hkv.strandAt]
      rw [htrim.strandAt, hpend]
      rintro hnil
      exact hleft (by rw [List.isEmpty_iff]; exact (congrArg (List.filter Pend.runsOn) hnil).trans rfl)

theorem State.tidied_disownParked (l : Nat) : s.Tidied (s.disownParked l) :=
  State.tidied_foldl (fun s _ => ((s.keepsStrands_rekey _ _ _).trans (State.keepsStrands_disownLeft _ _)).tidied) _ s

theorem State.tidied_dropLaunch (l : Nat) : s.Tidied { s with cores := s.cores.map fun (e : Nat × Core) => (e.1, e.2.dropLaunch l) } := by
  have hcore (d : Nat) : State.coreAt { s with cores := s.cores.map fun (e : Nat × Core) => (e.1, e.2.dropLaunch l) } d =
      (s.coreAt d).dropLaunch l := fget_mapVals (Core.dropLaunch · l) {} rfl s.cores d
  refine ⟨rfl, fun d a ha => ⟨a, ?_, rfl⟩, fun d => ?_⟩
  · rw [hcore] at ha
    exact ha
  · rw [hcore]
    rfl

/-- A launch that is not done ends: its first reason stays, and its strands and what they left stop (R351). -/
theorem State.endLaunch_tidied (l : Nat) (why : Nat × Word × Nat × Nat) (h : (s.launchAt l).st ≠ .done) :
    (s.modLaunch l fun a => { a with st := .ended, why := some (a.why.getD why) }).Tidied (s.endLaunch l why) := by
  unfold State.endLaunch
  rw [if_neg h]
  extract_lets v1 v2 v3 v4 v5
  have h2 : v1.Tidied v2 := ⟨rfl, fun _ a ha => ⟨a, ha, rfl⟩, fun _ => rfl⟩
  have h3 : v2.Tidied v3 := v2.tidied_disownParked l
  have h4 : v3.Tidied v4 := ⟨rfl, fun _ a ha => ⟨a, ha, rfl⟩, fun _ => rfl⟩
  have h5 : v4.Tidied v5 := v4.tidied_dropLaunch l
  exact h2.trans (h3.trans (h4.trans (h5.trans (State.tidied_foldl (fun s (e : Nat × Nat) => s.tidied_endStrandOf e.1 e.2) _ v5))))

end

end Sys2Proof.Machine
end

section
/-! svc, trap and brk: the exception taken, or the strand stopped (R143, R349, R350). -/

namespace Sys2Proof.Machine
open Sys2Proof

section
variable {s : State} {x : Trap}

/-- A trap stops the strand where no handler is installed or one runs (R350). -/
theorem State.enterTrap_stopped (hno : bitsOf s.me.tvec 47 2 = 0 ∨ s.st.tAct = true) (hcmp : s.st.cmp = false)
    (hover : s.st.hnd = true → s.over s.st.lix = false) (pc : BitVec 48) (w : Nat) (cont : BitVec 48) :
    s.enterTrap s.core s.ctx x pc w cont = s.stopStrand s.core s.ctx x pc (if bitsOf s.me.tvec 47 2 = 0 then 0 else 1) := by
  have hst : s.strandAt s.core s.ctx = s.st := rfl
  have hme : s.coreAt s.core = s.me := rfl
  have hlive : ¬(s.st.hnd && s.over s.st.lix) = true := by
    rw [Bool.and_eq_true]
    exact fun h => absurd ((hover h.1).symm.trans h.2) nofun
  simp only [State.enterTrap, hst, hcmp, hme, Bool.false_eq_true, if_false, hlive]
  by_cases hvec : bitsOf s.me.tvec 47 2 = 0
  · rw [if_pos hvec, if_pos hvec]
  · rw [if_neg hvec, if_neg hvec, if_pos (hno.resolve_left hvec)]

/-- A stopped strand leaves its context, and ends its launch with the reason (R350, R351). -/
theorem State.stopStrand_ends {c y l : Nat} (hlix : (s.strandAt c y).lix = some l) (hwhy : (s.launchAt l).why = none)
    (hdone : (s.launchAt l).st ≠ .done) (pc : BitVec 48) (reason : Nat) :
    ((s.stopStrand c y x pc reason).strandAt c y) = {} ∧ ((s.stopStrand c y x pc reason).launchAt l).st = .ended ∧
      ((s.stopStrand c y x pc reason).launchAt l).why = some (x.code, x.info, pc.toNat, reason) ∧
      ∀ a, (s.stopStrand c y x pc reason).byte a = s.byte a := by
  have hstop : s.stopStrand c y x pc reason =
      ((s.quit c y (s.strandAt c y)).freeCtx c y).endLaunch l (x.code, x.info, pc.toNat, reason) := by
    simp only [State.stopStrand, hlix]
  have hfree := (s.quit c y (s.strandAt c y)).freeCtx_free c y
  have hv := (s.tidied_quit c y (s.strandAt c y)).trans (State.tidied_freeCtx _ c y)
  generalize (s.quit c y (s.strandAt c y)).freeCtx c y = v at hstop hfree hv
  have ht := v.endLaunch_tidied l (x.code, x.info, pc.toNat, reason) (by rwa [hv.launchAt])
  rw [hstop]
  refine ⟨ht.strandAt_free hfree, ?_, ?_, fun a => (ht.byte a).trans (hv.byte a)⟩ <;>
    rw [ht.launchAt, State.launchAt_modLaunch, if_pos rfl]
  rw [hv.launchAt, hwhy]
  rfl

end

theorem softTrap_of {i : Instr} {cause : Nat} {code : BitVec 12}
    (h : (i = .svc code ∧ cause = 0x08) ∨ (i = .trap code ∧ cause = 0x09) ∨ (i = .brk code ∧ cause = 0x0A)) : SoftTrap i cause code := by
  rcases h with ⟨rfl, rfl⟩ | ⟨rfl, rfl⟩ | ⟨rfl, rfl⟩
  · exact .svc code
  · exact .trap code
  · exact .brk code

theorem SoftTrap.trapRe {i : Instr} {cause : Nat} {code : BitVec 12} (h : SoftTrap i cause code) : trapRe (softTrapOf cause code) = false := by
  cases h with
  | svc | trap | brk => rfl

/-- Settles O15: trap entry writes the trap-state registers of the strand that a hand-back and an abort leave; where none is possible the
strand's context is freed and no later part of the launch's end fills it. -/
theorem trapsTaken : Obligations.TrapsTaken := by
  constructor
  · intro i cause code s hi hr hvec hact hover
    have hnat {j : Instr} {n : BitVec 8} : i = j ∧ cause = n → i = j ∧ cause.toNat = n.toNat := And.imp_right (congrArg BitVec.toNat)
    have hsoft : SoftTrap i cause.toNat code := softTrap_of (hi.imp hnat (Or.imp hnat hnat))
    obtain ⟨b, hb, hst⟩ := s.st_handlerBegun (softTrapOf cause.toNat code) s.st.pc
    refine ⟨_, (exec_softTrap hsoft hr).trans (congrArg _ (s.enterTrap_taken hvec hact hover s.st.pc)), ?_⟩
    rw [hst]
    refine ⟨BitVec.ofNat_toNat 8 cause |>.trans (BitVec.setWidth_eq cause), rfl, rfl, rfl, hsoft.trapRe, rfl, rfl, rfl, rfl, rfl, rfl, rfl, rfl,
      hb.hnd, hb.cmp, hb.flags, hb.rm, hb.prio, fun r => ?_, hb.msg, State.byte_handlerBegun s _ _, State.tcount_handlerBegun s _ _,
      fun c => State.coreAt_handlerBegun_ne s _ _⟩
    rw [State.g, hst]
    exact congrArg (gread · r) hb.g
  · intro i cause code s l hi hr hno hcmp hlix hwhy hdone hover
    obtain ⟨hfree, hend, hreason, hbyte⟩ := State.stopStrand_ends (x := softTrapOf cause code) hlix hwhy hdone s.st.pc
      (if bitsOf s.me.tvec 47 2 = 0 then 0 else 1)
    refine ⟨_, (exec_softTrap (softTrap_of hi) hr).trans (congrArg _ (State.enterTrap_stopped hno hcmp hover _ _ _)), ?_, hend, hreason, hbyte⟩
    rw [hfree]

end Sys2Proof.Machine
end

section
/-! What a move carries from spire to spire, and what it leaves as it was (R336, R357, R359, R360). -/

namespace Sys2Proof.Machine
open Sys2Proof

/-- Memory, banks, slots, images of parked strands, logs and the host's records have changed, and nothing else: no core but for its parked
strands, no place, no forwarding entry, no message. -/
structure State.Carried (s t : State) : Prop where
  rest : t = { s with
    cores := t.cores, spires := t.spires, valleys := t.valleys, plains := t.plains, mem := t.mem, bad := t.bad, soft := t.soft
    corrLine := t.corrLine, queues := t.queues, msix := t.msix }
  cores : ∀ c, t.coreAt c = { s.coreAt c with parked := (t.coreAt c).parked }

theorem State.Carried.of_cores {s t : State} (h : t = { s with
    spires := t.spires, valleys := t.valleys, plains := t.plains, mem := t.mem, bad := t.bad, soft := t.soft, corrLine := t.corrLine
    queues := t.queues, msix := t.msix }) : s.Carried t := by
  rw [h]
  exact ⟨rfl, fun _ => rfl⟩

theorem State.Carried.refl (s : State) : s.Carried s := ⟨rfl, fun _ => rfl⟩

namespace State.Carried
variable {s t u : State} (h : s.Carried t)
include h

theorem trans (k : t.Carried u) : s.Carried u where
  rest := by
    have := k.rest
    rw [h.rest] at this
    exact this
  cores c := by
    have := k.cores c
    rw [h.cores c] at this
    exact this

theorem place_eq : t.place = s.place := by rw [h.rest]
theorem placeOf (c : Nat) : t.placeOf c = s.placeOf c := by rw [h.rest]; rfl
theorem fwd_eq : t.fwd = s.fwd := by rw [h.rest]
theorem henud_eq : t.henud = s.henud := by rw [h.rest]

end State.Carried

theorem State.Scrubbed.carried {s t : State} (h : s.Scrubbed t) : s.Carried t := .of_cores (by rw [h.rest])

theorem State.Powered.carried {s t : State} (h : s.Powered t) : s.Carried t := .of_cores (by rw [h.rest])

theorem State.carried_foldl {α : Type} {f : State → α → State} (hf : ∀ (s : State) a, s.Carried (f s a)) (l : List α) (s : State) :
    s.Carried (l.foldl f s) := by
  induction l generalizing s with
  | nil => exact .refl s
  | cons a l ih => exact (hf s a).trans (ih (f s a))

theorem State.carried_ite {s t u : State} {c : Prop} [Decidable c] (ht : s.Carried t) (hu : s.Carried u) : s.Carried (if c then t else u) := by
  split
  · exact ht
  · exact hu

section
variable (s : State)

theorem State.carried_modSpire (p : Nat) (f : Spire → Spire) : s.Carried (s.modSpire p f) := .of_cores rfl

theorem State.carried_logAt (resp code info launch src : Nat) : s.Carried (s.logAt resp code info launch src) :=
  State.carried_ite (.of_cores rfl) (.of_cores rfl)

theorem State.carried_power (a : Nat) : s.Carried (s.power a) := (s.powered_power a).carried

theorem State.carried_powerRange (a n : Nat) : s.Carried (s.powerRange a n) := by
  unfold State.powerRange
  refine State.carried_ite (.refl s) (.trans (State.carried_foldl (fun t b => ?_) _ s) (State.carried_power _ _))
  exact State.carried_ite (t.carried_power _) (.refl t)

theorem State.carried_copyMem (c a b n : Nat) : s.Carried (s.copyMem c a b n) := by
  unfold State.copyMem
  extract_lets v w out data rest
  have hv : s.Carried v := by
    simp only [v]
    split
    · exact s.carried_logAt _ _ _ _ _
    · exact .refl s
  have hw : v.Carried w := (v.scrubbed_scrub a n).carried
  exact hv.trans (hw.trans (.of_cores rfl))

theorem State.carried_copySp (c p q off n : Nat) : s.Carried (s.copySp c p q off n) := by
  unfold State.copySp
  extract_lets tags v
  have hv : s.Carried v := (s.carried_powerRange _ _).trans (State.carried_powerRange _ _ _)
  exact hv.trans ((v.carried_copyMem _ _ _ _).trans (State.carried_modSpire _ _ _))

theorem State.carried_copyBanks (c p q : Nat) (m : BitVec 8) : s.Carried (s.copyBanks c p q m) :=
  State.carried_foldl (fun t _ => State.carried_ite (t.carried_copySp _ _ _ _ _) (.refl t)) _ s

theorem State.carried_imageTried (p c : Nat) (t : Strand) (img : Option (Nat × Nat × Bool)) : s.Carried (s.imageTried p c t img) := by
  unfold State.imageTried
  extract_lets v n u
  have hu : s.Carried u :=
    State.carried_ite (.refl s) (State.carried_foldl (fun w i => (w.scrubbed_walkedAll c t.lix (v.ovBase + 128 * i) 128).carried) _ s)
  refine State.carried_ite hu (hu.trans (State.carried_foldl (fun w k => ?_) _ u))
  dsimp only
  split
  · exact State.carried_ite (w.carried_logAt _ _ _ _ _) (w.carried_logAt _ _ _ _ _)
  · exact State.carried_ite (w.carried_logAt _ _ _ _ _) (.refl w)

theorem State.carried_moveParked (c q : Nat) (l : List Parked) : s.Carried (s.moveParked c q l) := by
  induction l generalizing s with
  | nil => exact .refl s
  | cons p l ih =>
    unfold State.moveParked
    refine State.carried_ite (ih s) ?_
    extract_lets img v
    have hv : s.Carried v := s.carried_imageTried _ _ _ _
    clear_value v img
    match img with
    | none => exact hv.trans (ih v)
    | some (a, va, sp) =>
      have hw := (v.carried_power p.image).trans ((State.carried_power _ a).trans (State.carried_copyMem _ c p.image a 128))
      refine hv.trans (hw.trans (.trans ⟨rfl, fun d => ?_⟩ (ih _)))
      rw [State.coreAt_modCore]
      split
      · next h => rw [h]
      · rfl

theorem State.carried_moveHome (p q : Nat) (m : BitVec 8) (alone : Bool) : s.Carried (s.moveHome p q m alone) :=
  State.carried_ite (.of_cores rfl) (.of_cores rfl)

theorem State.carried_banksDown (p : Nat) (banks : BitVec 8) : s.Carried (s.banksDown p banks) :=
  State.carried_foldl (fun t _ => State.carried_ite (.of_cores rfl) (.refl t)) _ s

/-! ### Records -/

theorem State.drainRecs_eq (q n : Nat) : s.drainRecs q n = { s with
    queues := (s.drainRecs q n).queues, mem := (s.drainRecs q n).mem, msix := (s.drainRecs q n).msix } := by
  induction n generalizing s with
  | zero => rfl
  | succ n ih =>
    unfold State.drainRecs
    dsimp only
    split
    · rfl
    · split
      · rfl
      · rw [ih]
        rfl

theorem State.record_eq (q : Nat) (r : CRec) : s.record q r = { s with
    queues := (s.record q r).queues, mem := (s.record q r).mem, msix := (s.record q r).msix } := by
  unfold State.record
  rw [State.drainRecs_eq]
  rfl

theorem State.moveDone_eq (c : Nat) : s.moveDone c = { s with
    queues := (s.moveDone c).queues, mem := (s.moveDone c).mem, msix := (s.moveDone c).msix } := by
  unfold State.moveDone
  generalize s.movesOf c = l
  induction l generalizing s with
  | nil => rfl
  | cons e l ih =>
    rw [List.foldl_cons, ih, State.record_eq]

theorem State.carried_moveDone (c : Nat) : s.Carried (s.moveDone c) := .of_cores (by rw [State.moveDone_eq])

end

end Sys2Proof.Machine
end

section
/-! Cores change places: by a switch, and by the replacement of a spire (R357 to R363). -/

namespace Sys2Proof.Machine
open Sys2Proof

/-- A core at its new place (R357, R358): it runs again, the move is counted, its translation cache is empty. -/
def Core.rehoused (now : Nat) (k : Core) : Core :=
  { k with
    frozen := false, moves := if k.moves = 0xFFFF then k.moves else k.moves + 1, tlb := []
    ctxs := k.ctxs.map fun (e : Nat × Strand) => (e.1, { e.2 with since := if e.2.life = .ready then now else e.2.since }) }

/-- The numbers of cores take their new places, and forwarding entries stay behind at the old ones (R360). -/
def State.rehoused (s : State) (cs : List Nat) (place : Nat → Nat) (old : List (Nat × Nat)) : State :=
  cs.foldl (fun s c => s.modCore c (Core.rehoused s.tick))
    (old.foldl (fun s e => s.forward e.1 e.2) { s with place := cs.foldl (fun m c => fset m c (place c)) s.place })

/-- What a move carries comes first, and the banks left go down last. -/
theorem State.moveCores_rehoused (s : State) (c : Nat) (r : List Nat) (q : Nat) (whole : Bool) (place : Nat → Nat) :
    ∃ u, s.Carried u ∧ s.moveCores (c :: r) q whole place =
      (u.rehoused (c :: r) place ((c :: r).map fun c => (c, s.placeOf c))).banksDown (s.spireOf c) 0xFF := by
  suffices h : ∀ t, t = s.moveCores (c :: r) q whole place → ∃ u, s.Carried u ∧
      t = (u.rehoused (c :: r) place ((c :: r).map fun c => (c, s.placeOf c))).banksDown (s.spireOf c) 0xFF from h _ rfl
  intro t ht
  unfold State.moveCores at ht
  extract_lets alone banks slots regions old at ht
  dsimp -zeta only at ht
  extract_lets p carve s1 s2 s3 s4 s5 s6 sem wq taken s7 s8 s9 s10 at ht
  refine ⟨s7, ?_, ht⟩
  have h1 : s.Carried s1 := s.carried_copyBanks c p q banks
  have h2 : s1.Carried s2 := State.carried_foldl (fun s (r : Region) => s.carried_copySp c p q r.base r.size) regions s1
  have h3 : s2.Carried s3 := State.carried_foldl (fun s (d : Nat) => s.carried_moveParked d q (s.coreAt d).parked) (c :: r) s2
  have h4 : s3.Carried s4 := s3.carried_moveHome p q banks alone
  have h6 : s4.Carried s6 := (s4.carried_modSpire _ _).trans (s5.carried_modSpire _ _)
  have h7 : s6.Carried s7 := State.carried_ite ((s6.carried_modSpire _ _).trans (State.carried_modSpire _ _ _))
    ((s6.carried_modSpire _ _).trans (State.carried_modSpire _ _ _))
  exact h1.trans (h2.trans (h3.trans (h4.trans (h6.trans h7))))

/-! ### The numbers at their new places -/

theorem State.foldl_forward_eq (l : List (Nat × Nat)) (s : State) : l.foldl (fun s e => s.forward e.1 e.2) s =
    { s with fwd := (l.foldl (fun s e => s.forward e.1 e.2) s).fwd, net := (l.foldl (fun s e => s.forward e.1 e.2) s).net } := by
  induction l generalizing s with
  | nil => rfl
  | cons e l ih => rw [List.foldl_cons, ih]; rfl

theorem State.foldl_modCore_eq {α : Type} (c : α → Nat) (f : State → α → Core → Core) (l : List α) (s : State) :
    l.foldl (fun s a => s.modCore (c a) (f s a)) s = { s with cores := (l.foldl (fun s a => s.modCore (c a) (f s a)) s).cores } := by
  induction l generalizing s with
  | nil => rfl
  | cons a l ih => rw [List.foldl_cons, ih]; rfl

section
variable (s : State) (cs : List Nat) (place : Nat → Nat) (old : List (Nat × Nat))

theorem State.rehoused_eq : s.rehoused cs place old = { s with
    cores := (s.rehoused cs place old).cores, place := cs.foldl (fun m c => fset m c (place c)) s.place
    fwd := (s.rehoused cs place old).fwd, net := (s.rehoused cs place old).net } := by
  unfold State.rehoused
  rw [State.foldl_modCore_eq (fun c => c) (fun s _ => Core.rehoused s.tick), State.foldl_forward_eq]

/-- A moved core runs again (R357). -/
theorem State.rehoused_frozen {c : Nat} (h : c ∈ cs) : ((s.rehoused cs place old).coreAt c).frozen = false := by
  have hkeep (l : List Nat) (u : State) (hu : (u.coreAt c).frozen = false) :
      ((l.foldl (fun s c => s.modCore c (Core.rehoused s.tick)) u).coreAt c).frozen = false := by
    induction l generalizing u with
    | nil => exact hu
    | cons d l ih =>
      refine ih _ ?_
      rw [State.coreAt_modCore]
      split
      · rfl
      · exact hu
  have hset (l : List Nat) (u : State) (hl : c ∈ l) :
      ((l.foldl (fun s c => s.modCore c (Core.rehoused s.tick)) u).coreAt c).frozen = false := by
    induction l generalizing u with
    | nil => exact absurd hl List.not_mem_nil
    | cons d l ih =>
      rcases List.mem_cons.1 hl with rfl | hl
      · refine hkeep l _ ?_
        rw [State.coreAt_modCore_self]
        rfl
      · exact ih _ hl
  exact hset cs _ h

theorem State.coreAt_rehoused_single (c : Nat) : (s.rehoused [c] place old).coreAt c = (s.coreAt c).rehoused s.tick := by
  rw [State.rehoused, List.foldl_cons, List.foldl_nil, State.coreAt_modCore_self, State.foldl_forward_eq]
  rfl

end

/-- A strand of a moved core is as it was, but since when it waits for its turn. -/
theorem Core.strand_rehoused (k : Core) (now x : Nat) :
    ∃ since, fget {} (k.rehoused now).ctxs x = { fget ({} : Strand) k.ctxs x with since := since } := by
  refine ⟨_, (fget_mapVals (fun t : Strand => { t with since := if t.life = .ready then now else t.since }) {} rfl k.ctxs x)⟩

theorem State.carried_foldl_moveDone (cs : List Nat) (s : State) : s.Carried (cs.foldl (fun s c => s.moveDone c) s) :=
  State.carried_foldl (fun s (c : Nat) => s.carried_moveDone c) cs s

theorem State.valleys_foldl_moveDone (cs : List Nat) (s : State) : (cs.foldl (fun s c => s.moveDone c) s).valleys = s.valleys := by
  induction cs generalizing s with
  | nil => rfl
  | cons c cs ih => rw [List.foldl_cons, ih, State.moveDone_eq]

end Sys2Proof.Machine
end

section
/-! Migration's steps: arrivals, walks, freezing, switches, replacement, loss (R132, R302, R303, R357 to R364, R421). -/

namespace Sys2Proof.Machine
open Sys2Proof

/-! ### Arrivals and translations -/

section
variable {s : State}

section
variable {k x : Nat} {f : Flight} {t : Strand} (h : s.arriving k = some f) (hp : f.pay = .migr t)
include h hp

theorem exec_migrationArrival_free (hover : s.over t.lix = false) (hfree : s.freeCtxOf f.dst = some x) : exec (.migrationArrival k) s =
    .next ((s.take k f).setStrand f.dst x { t with life := .ready, since := s.tick, wd := 0 }) := by
  change Host.Outcome.next _ = _
  simp only [h, hp, hover, hfree, Bool.false_eq_true, if_false]

theorem exec_migrationArrival_full (hover : s.over t.lix = false) (hfree : s.freeCtxOf f.dst = none) :
    exec (.migrationArrival k) s = .next s := by
  change Host.Outcome.next _ = _
  simp only [h, hp, hover, hfree, Bool.false_eq_true, if_false]

theorem exec_migrationArrival_over (hover : s.over t.lix = true) :
    exec (.migrationArrival k) s = .next (((s.take k f).unhold t).disownLeft t) := by
  change Host.Outcome.next _ = _
  simp only [h, hp, hover, if_true]

end

theorem tlbPut_head (n : Nat) (e : TlbEnt) (t : List TlbEnt) : (tlbPut (n + 1) e t).head? = some e := rfl

theorem length_tlbPut (n : Nat) (e : TlbEnt) (t : List TlbEnt) : (tlbPut n e t).length ≤ n := List.length_take_le ..

/-- A walk of tables without single-bit errors corrects nothing. -/
theorem State.walkScrub_clean (h : s.soft = []) (c va k lvl root : Nat) : s.walkScrub c va k lvl root = s := by
  have hscrub (a n : Nat) : s.scrub a n = s := by
    unfold State.scrub
    rw [h]
    rfl
  induction k generalizing lvl root with
  | zero => rfl
  | succ k ih =>
    simp only [State.walkScrub, hscrub, ih, ite_self]

theorem State.sharedTlb_setSharedTlb (s : State) (c : Nat) (t : List TlbEnt) : (s.setSharedTlb c t).sharedTlb c = t := by
  unfold State.setSharedTlb State.sharedTlb
  split
  · rw [State.plainAt_modPlain, if_pos rfl]
  · refine (congrArg Valley.tlb (State.valleyAt_modValley s (s.valleyAtPlace c) (s.valleyAtPlace c) _)).trans ?_
    rw [if_pos rfl]

theorem State.setSharedTlb_eq (s : State) (c : Nat) (t : List TlbEnt) :
    s.setSharedTlb c t = { s with valleys := (s.setSharedTlb c t).valleys, plains := (s.setSharedTlb c t).plains } := by
  unfold State.setSharedTlb
  split <;> rfl

/-- A core's own translation cache is filled (R303). -/
def State.tlbFilled (s : State) (c : Nat) (e : TlbEnt) : State := s.modCore c fun k => { k with tlb := tlbPut Config.coreTlb e k.tlb }

theorem State.coreAt_tlbFilled (s : State) (c : Nat) (e : TlbEnt) :
    (s.tlbFilled c e).coreAt c = { s.coreAt c with tlb := tlbPut Config.coreTlb e (s.coreAt c).tlb } := State.coreAt_modCore_self ..

section
variable {c x l va : Nat} (hl : (s.strandAt c x).lix = some l)
include hl

theorem exec_pageWalk_shared {e : TlbEnt} (h : tlbFind l va (s.sharedTlb c) = some e) :
    exec (.pageWalk c x va) s = .next (s.tlbFilled c e) := by
  change Host.Outcome.next _ = _
  rw [hl]
  dsimp only
  rw [h]
  rfl

theorem exec_pageWalk_walked {b sz : Nat} {perm : BitVec 4} (h : tlbFind l va (s.sharedTlb c) = none)
    (hw : s.walk c va 4 0 (s.launchAt l).root = .ok (b, sz, perm)) (hsoft : s.soft = []) : exec (.pageWalk c x va) s =
      .next ((s.setSharedTlb c (tlbPut Config.sharedTlb { lix := l, size := sz, page := va / sz, base := b, perm := perm }
        (s.sharedTlb c))).tlbFilled c { lix := l, size := sz, page := va / sz, base := b, perm := perm }) := by
  change Host.Outcome.next _ = _
  rw [hl]
  dsimp only
  rw [h]
  dsimp only
  rw [hw]
  dsimp only
  rw [State.walkScrub_clean hsoft]
  rfl

end

end

/-! ### Freezing -/

section
variable {s : State} {c : Nat}

/-- A strand with nothing pending freezes as it is (R358). -/
theorem State.freezeStrand_idle {x : Nat} (h : (s.strandAt c x).pend = []) :
    s.freezeStrand c x = s.modStrand c x fun t => t := by
  have hstop : s.stopMacro c x = s := by simp only [State.stopMacro, h, List.find?_nil]
  have hfreeze : (s.strandAt c x).freeze = s.strandAt c x := by simp only [Strand.freeze, h, List.filter_nil, if_true]
  have hmod : s.modStrand c x Strand.freeze = s.modStrand c x fun t => t := congrArg (s.setStrand c x) hfreeze
  simp only [State.freezeStrand, hstop, hmod, State.strandAt_modStrand, and_self, if_true]

/-- No strand of the core has changed, and nothing else at all. -/
structure State.SameStrands (s t : State) (c : Nat) : Prop where
  rest : t = { s with cores := t.cores }
  core : t.coreAt c = { s.coreAt c with ctxs := (t.coreAt c).ctxs }
  cores : ∀ d, d ≠ c → t.coreAt d = s.coreAt d
  strands : ∀ y, t.strandAt c y = s.strandAt c y

theorem State.SameStrands.trans {t u : State} (h : s.SameStrands t c) (k : t.SameStrands u c) : s.SameStrands u c where
  rest := by
    have := k.rest
    rw [h.rest] at this
    exact this
  core := by
    have := k.core
    rw [h.core] at this
    exact this
  cores d hd := (k.cores d hd).trans (h.cores d hd)
  strands y := (k.strands y).trans (h.strands y)

theorem State.sameStrands_modStrand (s : State) (c x : Nat) : s.SameStrands (s.modStrand c x fun t => t) c where
  rest := rfl
  core := by rw [State.modStrand, State.setStrand, State.coreAt_modCore_self]
  cores d hd := State.coreAt_modCore_ne _ _ _ _ hd
  strands y := by
    rw [State.strandAt_modStrand]
    split
    · next h => rw [h.2]
    · rfl

/-- The strands of a core with nothing pending freeze as they are. -/
theorem State.foldl_freezeStrand_idle (l : List (Nat × Strand)) (h : ∀ y, (s.strandAt c y).pend = []) :
    s.SameStrands (l.foldl (fun s e => s.freezeStrand c e.1) s) c := by
  induction l generalizing s with
  | nil => exact ⟨rfl, rfl, fun _ _ => rfl, fun _ => rfl⟩
  | cons e l ih =>
    have hm := s.sameStrands_modStrand c e.1
    rw [List.foldl_cons, State.freezeStrand_idle (h e.1)]
    exact hm.trans (ih fun y => by rw [hm.strands, h])

section
variable (hsad : isSaddle c = false) (hfrozen : (s.coreAt c).frozen = false) (hlost : (s.coreAt c).lost = false) (hfill : s.noFill c = true)
  (hleader : (s.coreAt c).leader = none) (hhnd : ((s.coreAt c).ctxs.any fun e => e.2.hnd) = false)
include hsad hfrozen hlost hfill hleader hhnd

theorem exec_migrationFreeze_noReason (hreason : s.freezeReason c = false) : exec (.migrationFreeze c) s = .next s := by
  change Host.Outcome.next _ = _
  simp only [hsad, hfrozen, hlost, hfill, hleader, hhnd, hreason, Option.isSome_none, Bool.not_true, Bool.not_false, Bool.or_false,
    Bool.false_and, Bool.or_true, if_true]

theorem exec_migrationFreeze (hreason : s.freezeReason c = true) : exec (.migrationFreeze c) s =
    .next (((s.coreAt c).ctxs.foldl (fun s e => s.freezeStrand c e.1) s).modCore c fun k => { k with frozen := true }) := by
  change Host.Outcome.next _ = _
  simp only [hsad, hfrozen, hlost, hfill, hleader, hhnd, hreason, Option.isSome_none, Bool.not_true, Bool.or_self, Bool.false_and,
    Bool.false_eq_true, if_false, reduceCtorEq]

end

theorem exec_migrationFreeze_inBlock (hleader : (s.coreAt c).leader = some c) (hblock : (s.coreAt c).atBlock = false) :
    exec (.migrationFreeze c) s = .next s := by
  change Host.Outcome.next _ = _
  simp only [hleader, hblock, Option.isSome_some, Bool.not_false, Bool.and_self, Bool.or_true, Bool.true_or, if_true]

end

/-! ### The switch -/

section
variable {s : State}

/-- The spare map is not written by a move. -/
theorem State.henud_moveCores (s : State) (c : Nat) (r : List Nat) (q : Nat) (whole : Bool) (place : Nat → Nat) :
    (s.moveCores (c :: r) q whole place).henud = s.henud := by
  obtain ⟨u, hu, hm⟩ := s.moveCores_rehoused c r q whole place
  rw [hm, (State.carried_banksDown _ _ _).henud_eq, State.rehoused_eq]
  exact hu.henud_eq

/-- The places that cores trade: their targets' numbers get the places they had. -/
def State.tradedPlaces (s : State) (cs : List Nat) (dest : Nat → Nat) (places : List (Nat × Nat)) : List (Nat × Nat) :=
  (cs.map fun c => (s.placeOf c, dest c)).foldl (fun m e => fset m e.2 e.1) places

/-- A trade is a move, after which the targets have the places left, and the answers to what asked for it. -/
theorem State.trade_rehoused (s : State) (c : Nat) (r : List Nat) (whole : Bool) (dest : Nat → Nat) : ∃ u m, s.Carried u ∧
    (u.rehoused (c :: r) (fun c => s.placeOf (dest c)) ((c :: r).map fun c => (c, s.placeOf c))).Carried m ∧
    State.Carried { m with place := s.tradedPlaces (c :: r) dest m.place } (s.trade (c :: r) whole dest) := by
  obtain ⟨u, hu, hm⟩ := s.moveCores_rehoused c r (s.spireOf (dest c)) whole fun c => s.placeOf (dest c)
  refine ⟨u, s.moveCores (c :: r) (s.spireOf (dest c)) whole fun c => s.placeOf (dest c), hu, ?_, ?_⟩
  · rw [hm]
    exact State.carried_banksDown _ _ _
  · unfold State.trade
    exact State.carried_foldl_moveDone _ _

theorem State.henud_trade (s : State) (c : Nat) (r : List Nat) (whole : Bool) (dest : Nat → Nat) :
    (s.trade (c :: r) whole dest).henud = s.henud := by
  obtain ⟨u, m, hu, hm, ht⟩ := s.trade_rehoused c r whole dest
  rw [ht.henud_eq]
  refine hm.henud_eq.trans ?_
  rw [State.rehoused_eq]
  exact hu.henud_eq

/-- Two numbers have traded places: the one that moved runs again at its own new place, as it was, and a forwarding entry stays (R357,
R360). -/
structure State.Switched (s t : State) (c d : Nat) : Prop where
  place : t.placeOf c = s.placeOf d
  target : t.placeOf d = s.placeOf c
  fwd : (fget [] t.fwd (s.placeOf c)).contains c = true
  core : t.coreAt c = { (s.coreAt c).rehoused s.tick with parked := (t.coreAt c).parked }

theorem State.trade_switched {c d : Nat} {dest : Nat → Nat} (hd : dest c = d) (hne : c ≠ d) :
    s.Switched (s.trade [c] false dest) c d := by
  obtain ⟨u, m, hu, hm, ht⟩ := s.trade_rehoused c [] false dest
  have hplace : (s.trade [c] false dest).place = fset (fset s.place c (s.placeOf d)) d (s.placeOf c) := by
    rw [ht.place_eq, ← hd, ← hu.place_eq]
    exact congrArg (fset · (dest c) (s.placeOf c)) hm.place_eq
  have hfwd : (s.trade [c] false dest).fwd = fset s.fwd (s.placeOf c) (fget [] s.fwd (s.placeOf c) ++ [c]) := by
    rw [ht.fwd_eq, ← hu.fwd_eq]
    exact hm.fwd_eq
  refine ⟨?_, ?_, ?_, ?_⟩
  · rw [State.placeOf, hplace, fget_fset, if_neg hne, fget_fset, if_pos rfl]
  · rw [State.placeOf, hplace, fget_fset, if_pos rfl]
  · rw [hfwd, fget_fset, if_pos rfl, List.contains_iff_mem]
    exact List.mem_append_right _ List.mem_cons_self
  · have htick : u.tick = s.tick := by rw [hu.rest]
    have hcore : m.coreAt c = { (u.coreAt c).rehoused u.tick with parked := (m.coreAt c).parked } := by
      rw [← State.coreAt_rehoused_single]
      exact hm.cores c
    have ht' : (s.trade [c] false dest).coreAt c = { m.coreAt c with parked := ((s.trade [c] false dest).coreAt c).parked } := ht.cores c
    rw [hcore, hu.cores c, htick] at ht'
    exact ht'

theorem exec_migrationSwitch_alone {c d : Nat} (htarget : s.targetOk c d = true) (hreason : s.moveReason [c] c d = true)
    (hwhole : s.wholeSpire c = false) (hmove : s.canMove [c] (s.spireOf d) false = true) :
    exec (.migrationSwitch c d) s = .next (s.trade [c] false fun x => if x = c then d else s.sibOf d) := by
  change Host.Outcome.next _ = _
  simp only [hwhole, Bool.false_eq_true, if_false, htarget, hreason, hmove, Bool.and_self, if_true]

/-- A target is another core (R344). -/
theorem State.targetOk_ne {c d : Nat} (h : s.targetOk c d = true) : c ≠ d := by
  simp only [State.targetOk, State.fitsAt, State.targetFor, Bool.and_eq_true, bne_iff_ne] at h
  tauto

end

end Sys2Proof.Machine
end

section
/-! Worn spires are replaced, lost cores leave service (R363, R364). -/

namespace Sys2Proof.Machine
open Sys2Proof

/-! ### Replacement (R363) -/

section
variable {s : State} {p c d : Nat} (hc : s.numAt (4 * p) = some c) (hd : s.numAt (4 * p + 2) = some d)

/-- The valley's spare spire with the regions and empty slots of a worn one. -/
def State.recarved (s : State) (p : Nat) : State :=
  s.modSpire (sparePlace (4 * p) / 4) fun k => { k with
    carve := (s.spireAt p).carve, carved := (s.spireAt p).carved
    slots := (s.spireAt p).carve.slots.zipIdx.map fun e => (e.2, { base := e.1.base, size := e.1.size }) }

/-- Both cores of a spire moved to the valley's spare one, which is in use from then on. -/
def State.movedToSpare (s : State) (p : Nat) (cs : List Nat) : State :=
  (((s.recarved p).modSpire p fun k => { k with carved := false }).moveCores cs (sparePlace (4 * p) / 4) true fun c =>
    sparePlace (s.placeOf c)).modValley (p / 16) fun k => { k with spareUsed := true }

/-- The cores that stand in a worn spire, out of service (R363). -/
def State.outOfService (s : State) (cs : List Nat) : State := cs.foldl (fun s x => s.modCore x fun k => { k with oos := true }) s

include hc hd

theorem exec_spireReplace_waits (horphans : (s.spireAt p).orphans ≠ []) : exec (.spireReplace p) s = .next s := by
  change Host.Outcome.next _ = _
  simp only [hc, hd, List.isEmpty_eq_false_iff.2 horphans, Bool.not_false, if_true]

theorem exec_spireReplace_spare (horphans : (s.spireAt p).orphans = []) (hused : (s.valleyAt (p / 16)).spareUsed = false)
    (hmove : (s.recarved p).canMove [c, d] (sparePlace (4 * p) / 4) true = true) : exec (.spireReplace p) s =
      .next (([c, d].foldl (fun s c => s.moveDone c) (s.movedToSpare p [c, d])).spared (2 * 2 ^ 56 + p) (sparePlace (4 * p) / 4)) := by
  change Host.Outcome.next _ = _
  unfold State.recarved at hmove
  simp only [hc, hd, horphans, List.isEmpty_nil, Bool.not_true, Bool.false_eq_true, if_false, hused, Bool.not_false, if_true, hmove]
  rfl

theorem exec_spireReplace_free {b : Nat} (horphans : (s.spireAt p).orphans = []) (hused : (s.valleyAt (p / 16)).spareUsed = true)
    (hfree : s.freeSpireFor c = some b) (hmove : s.canMove [c, d] (s.spireOf b) true = true) : exec (.spireReplace p) s =
      .next (((s.trade [c, d] true fun x => if x = c then b else s.sibOf b).outOfService [b, s.sibOf b]).spared (2 * 2 ^ 56 + p)
        (s.spireOf b)) := by
  change Host.Outcome.next _ = _
  simp only [hc, hd, horphans, List.isEmpty_nil, Bool.not_true, Bool.false_eq_true, if_false, hused, hfree, hmove, if_true]
  rfl

end

/-- Both cores stand in the spare spire, and run again. -/
theorem State.movedToSpare_place (s : State) (p : Nat) {c d : Nat} (hne : c ≠ d) :
    (s.movedToSpare p [c, d]).placeOf c = sparePlace (s.placeOf c) ∧ (s.movedToSpare p [c, d]).placeOf d = sparePlace (s.placeOf d) ∧
      ((s.movedToSpare p [c, d]).valleyAt (p / 16)).spareUsed = true ∧ ((s.movedToSpare p [c, d]).coreAt c).frozen = false ∧
      (s.movedToSpare p [c, d]).henud = s.henud := by
  have hhenud := State.henud_moveCores ((s.recarved p).modSpire p fun k => { k with carved := false }) c [d] (sparePlace (4 * p) / 4) true
    fun c => sparePlace (s.placeOf c)
  obtain ⟨u, hu, hm⟩ := State.moveCores_rehoused ((s.recarved p).modSpire p fun k => { k with carved := false }) c [d]
    (sparePlace (4 * p) / 4) true fun c => sparePlace (s.placeOf c)
  have hdown := State.carried_banksDown (u.rehoused [c, d] (fun c => sparePlace (s.placeOf c))
    ([c, d].map fun c => (c, State.placeOf ((s.recarved p).modSpire p fun k => { k with carved := false }) c)))
    (State.spireOf ((s.recarved p).modSpire p fun k => { k with carved := false }) c) 0xFF
  rw [← hm] at hdown
  unfold State.movedToSpare
  generalize ((s.recarved p).modSpire p fun k => { k with carved := false }).moveCores [c, d] (sparePlace (4 * p) / 4) true
    (fun c => sparePlace (s.placeOf c)) = m at hdown hhenud
  have hplace : m.place = fset (fset s.place c (sparePlace (s.placeOf c))) d (sparePlace (s.placeOf d)) := by
    have hup : u.place = s.place := hu.place_eq
    rw [hdown.place_eq, State.rehoused_eq, hup]
    rfl
  refine ⟨?_, ?_, ?_, ?_, hhenud⟩
  · change fget c m.place c = _
    rw [hplace, fget_fset, if_neg hne, fget_fset, if_pos rfl]
  · change fget d m.place d = _
    rw [hplace, fget_fset, if_pos rfl]
  · rw [State.valleyAt_modValley, if_pos rfl]
  · change (m.coreAt c).frozen = false
    rw [hdown.cores]
    exact State.rehoused_frozen _ _ _ _ List.mem_cons_self

theorem State.spareMap_spared (s : State) (what by' : Nat) : (s.spared what by').henud.spareMap = s.henud.spareMap ++ [(what, by')] := rfl

/-- The replacement by the spare spire, whole (R363, R421). -/
theorem State.sparedSpire (s : State) (p q what : Nat) {c d : Nat} (hne : c ≠ d) :
    ∃ t, ([c, d].foldl (fun s c => s.moveDone c) (s.movedToSpare p [c, d])).spared what q = t ∧
      t.placeOf c = sparePlace (s.placeOf c) ∧ t.placeOf d = sparePlace (s.placeOf d) ∧ (t.valleyAt (p / 16)).spareUsed = true ∧
      (t.coreAt c).frozen = false ∧ t.henud.spareMap = s.henud.spareMap ++ [(what, q)] := by
  obtain ⟨hplace, hplace', hspare, hfrozen, hhenud⟩ := s.movedToSpare_place p hne
  have hdone := State.carried_foldl_moveDone [c, d] (s.movedToSpare p [c, d])
  have hvalleys := State.valleys_foldl_moveDone [c, d] (s.movedToSpare p [c, d])
  generalize s.movedToSpare p [c, d] = m at hplace hplace' hspare hfrozen hhenud hdone hvalleys
  generalize [c, d].foldl (fun s c => s.moveDone c) m = w at hdone hvalleys
  have hcore : (w.coreAt c).frozen = false := by rw [hdone.cores, hfrozen]
  have hvalley : (w.valleyAt (p / 16)).spareUsed = true := by rw [State.valleyAt, hvalleys]; exact hspare
  refine ⟨w.spared what q, rfl, (hdone.placeOf c).trans hplace, (hdone.placeOf d).trans hplace', hvalley, hcore, ?_⟩
  rw [State.spareMap_spared, hdone.henud_eq, hhenud]

/-- The replacement by a free spire, whole (R363, R421). -/
theorem State.sparedFree (s : State) (b u what q : Nat) : ∃ t, (s.outOfService [b, u]).spared what q = t ∧ (t.coreAt b).oos = true ∧
    (t.coreAt u).oos = true ∧ t.henud.spareMap = s.henud.spareMap ++ [(what, q)] := by
  refine ⟨_, rfl, ?_, ?_, rfl⟩
  · change (State.coreAt ((s.modCore b fun k => { k with oos := true }).modCore u fun k => { k with oos := true }) b).oos = true
    rw [State.coreAt_modCore]
    split
    · rfl
    · rw [State.coreAt_modCore_self]
  · change (State.coreAt ((s.modCore b fun k => { k with oos := true }).modCore u fun k => { k with oos := true }) u).oos = true
    rw [State.coreAt_modCore_self]

/-! ### Loss (R364) -/

/-- The state without what a core held: its takes, the landings that waited for it, and all of its state but the numbers of messages. -/
def State.lostCore (s : State) (c : Nat) : State :=
  (s.modSpire (s.spireOf c) fun p => { p with
    semq := p.semq.filter fun w => w.core != c
    orphans := p.orphans.map fun (o : Orphan) => if isCompute c then { o with comp := 0 } else { o with stage := 0 } }).setCore c
      { lost := true, txSeq := (s.coreAt c).txSeq, rxSeq := (s.coreAt c).rxSeq }

/-- The strands of a core, in contexts and parked. -/
def Core.allStrands (k : Core) : List Strand := (k.ctxs.map (·.2)) ++ k.parked.map (·.strand)

/-- A launch that held a strand or record on a lost core is reported, and ends if it runs. -/
def State.launchLost (c : Nat) (s : State) (e : Nat × Nat) : State :=
  let t := s.henudLog cCoreLost c (s.launchAt e.1).id.toNat c
  if (s.launchAt e.1).st == .placed then t.endLaunch e.1 (cCoreLost, w64 c, e.2, 2) else t

section
variable {s : State} {c : Nat}

theorem exec_coreLost (hlost : (s.coreAt c).lost = false) (hleader : (s.coreAt c).leader = none) (hmoves : s.movesOf c = []) :
    exec (.coreLost c) s = .next ((s.coreAt c).launchesOn.foldl (State.launchLost c)
      ((s.coreAt c).allStrands.foldl State.disownLeft (s.lostCore c))) := by
  have hk := State.keepsStrands_foldl (fun s (t : Strand) => s.keepsStrands_disownLeft t) (s.coreAt c).allStrands (s.lostCore c)
  generalize hv : (s.coreAt c).allStrands.foldl State.disownLeft (s.lostCore c) = v at hk
  have hnone : (v.movesOf c).foldl (fun s e => s.moveRefused e.1 e.2.toNat) v = v := by
    have hvm : v.movesOf c = [] := by
      rw [hk.rest]
      exact hmoves
    rw [hvm, List.foldl_nil]
  change Host.Outcome.next _ = _
  simp only [hlost, Bool.false_eq_true, if_false, hleader]
  subst hv
  exact congrArg (fun v => Host.Outcome.next ((s.coreAt c).launchesOn.foldl (State.launchLost c) v)) hnone

/-- What strands that left nothing on other cores leave behind belongs to no strand already. -/
theorem State.foldl_disownLeft_nil (l : List Strand) (h : ∀ t ∈ l, t.left = []) (s : State) : l.foldl State.disownLeft s = s := by
  induction l with
  | nil => rfl
  | cons t l ih =>
    have ht : s.disownLeft t = s := by rw [State.disownLeft, h t List.mem_cons_self, List.foldl_nil]
    rw [List.foldl_cons, ht]
    exact ih fun u hu => h u (List.mem_cons_of_mem t hu)

theorem State.coreAt_lostCore (s : State) (c d : Nat) : (s.lostCore c).coreAt d =
    if d = c then { lost := true, txSeq := (s.coreAt c).txSeq, rxSeq := (s.coreAt c).rxSeq } else s.coreAt d := State.coreAt_setCore ..

/-- A launch that runs ends with the loss of a core, unless it had a reason (R356, R364). -/
theorem State.launchLost_ends {v : State} {l pc : Nat} (hplaced : (v.launchAt l).st = .placed) (hwhy : (v.launchAt l).why = none) :
    ∃ t, v.launchLost c (l, pc) = t ∧ (∀ d, (v.coreAt d).ctxs = [] → (t.coreAt d).ctxs = []) ∧
      (∀ d, (t.coreAt d).lost = (v.coreAt d).lost) ∧ (t.launchAt l).st = .ended ∧ (t.launchAt l).why = some (0x53, w64 c, pc, 2) ∧
      ∀ y, t.byte y = v.byte y := by
  have hif : v.launchLost c (l, pc) =
      (v.henudLog cCoreLost c (v.launchAt l).id.toNat c).endLaunch l (cCoreLost, w64 c, pc, 2) := by
    simp only [State.launchLost, hplaced, beq_self_eq_true, if_true]
  have hlive : ((v.henudLog cCoreLost c (v.launchAt l).id.toNat c).launchAt l).st ≠ .done := by
    change (v.launchAt l).st ≠ .done
    rw [hplaced]
    decide
  have ht := State.endLaunch_tidied _ l (cCoreLost, w64 c, pc, 2) hlive
  refine ⟨_, hif, fun d hd => ht.ctxs_nil hd, ht.lost, ?_, ?_, ht.byte⟩ <;>
    rw [ht.launchAt, State.launchAt_modLaunch, if_pos rfl]
  change some ((v.launchAt l).why.getD _) = _
  rw [hwhy]
  rfl

/-- A lost core that held no launch, and whose strands had left nothing elsewhere, is all that is gone. -/
theorem exec_coreLost_noLaunch (hlost : (s.coreAt c).lost = false) (hleader : (s.coreAt c).leader = none) (hmoves : s.movesOf c = [])
    (hnone : (s.coreAt c).launchesOn = []) (hctxs : ∀ e ∈ (s.coreAt c).ctxs, e.2.left = [])
    (hparked : ∀ e ∈ (s.coreAt c).parked, e.strand.left = []) : exec (.coreLost c) s = .next (s.lostCore c) := by
  have hleft : ∀ t ∈ (s.coreAt c).allStrands, t.left = [] := by
    intro t ht
    rcases List.mem_append.1 ht with ht | ht
    · obtain ⟨e, he, rfl⟩ := List.mem_map.1 ht
      exact hctxs e he
    · obtain ⟨e, he, rfl⟩ := List.mem_map.1 ht
      exact hparked e he
  rw [exec_coreLost hlost hleader hmoves, State.foldl_disownLeft_nil _ hleft, hnone, List.foldl_nil]

/-- The launch of a lost core ends with CORE_LOST, and no strand stays there (R364). -/
theorem exec_coreLost_launch {l pc : Nat} (hlost : (s.coreAt c).lost = false) (hleader : (s.coreAt c).leader = none)
    (hmoves : s.movesOf c = []) (hone : (s.coreAt c).launchesOn = [(l, pc)]) (hplaced : (s.launchAt l).st = .placed)
    (hwhy : (s.launchAt l).why = none) : ∃ t, exec (.coreLost c) s = .next t ∧ (t.coreAt c).lost = true ∧ (t.coreAt c).ctxs = [] ∧
      (t.launchAt l).st = .ended ∧ (t.launchAt l).why = some (0x53, w64 c, pc, 2) ∧ ∀ y, t.byte y = s.byte y := by
  have hex := exec_coreLost hlost hleader hmoves
  have hk := State.keepsStrands_foldl (fun s (t : Strand) => s.keepsStrands_disownLeft t) (s.coreAt c).allStrands (s.lostCore c)
  have hcore : (s.lostCore c).coreAt c = { lost := true, txSeq := (s.coreAt c).txSeq, rxSeq := (s.coreAt c).rxSeq } := by
    rw [State.coreAt_lostCore, if_pos rfl]
  rw [hone, List.foldl_cons, List.foldl_nil] at hex
  generalize (s.coreAt c).allStrands.foldl State.disownLeft (s.lostCore c) = v at hex hk
  have hlaunch : v.launchAt l = s.launchAt l := hk.launchAt l
  obtain ⟨t, ht, hctxs, hlost', hended, hreason, hbyte⟩ := State.launchLost_ends (c := c) (v := v) (l := l) (pc := pc) (by rwa [hlaunch])
    (by rwa [hlaunch])
  refine ⟨t, hex.trans (congrArg _ ht), ?_, hctxs c ?_, hended, hreason, fun y => (hbyte y).trans (hk.byte y)⟩
  · rw [hlost', hk.tidied.lost, hcore]
  · rw [hk.ctxs, hcore]

end

end Sys2Proof.Machine
end

section
/-! The steps of migration together (R132, R297, R302, R303, R310, R356 to R364, R421). -/

namespace Sys2Proof.Machine
open Sys2Proof

/-! ### Channel saddles, lines, forwarding entries (R297, R360, R421) -/

section
variable {s : State}

/-- The spare channel saddle of a plain in the place of a worn one. -/
theorem exec_channelSaddleReplace {plain d : Nat} (h : (s.plainAt plain).spareFor = none) :
    ∃ t, exec (.channelSaddleReplace plain d) s = .next t ∧ t.plains = (s.modPlain plain fun p => { p with spareFor := some d }).plains ∧
      t.mem = s.mem := by
  have hnone : ¬(s.plainAt plain).spareFor.isSome = true := by rw [h]; exact Bool.false_ne_true
  exact ⟨_, congrArg Host.Outcome.next (if_neg hnone), rfl, rfl⟩

/-- Index 48 of a plain names no core once its spare is in use (R297). -/
theorem State.badSaddle_spare {plain d : Nat} (h : (s.plainAt plain).spareFor = some d) :
    s.badSaddle (plain * 4096 + 2048 + 48 * 32) = true := by
  have hsad : isSaddle (plain * 4096 + 2048 + 48 * 32) = true := by
    simp only [isSaddle, beq_iff_eq]
    omega
  have hix : sadIx (plain * 4096 + 2048 + 48 * 32) = 48 := by
    unfold sadIx
    omega
  have hplain : plainOf (plain * 4096 + 2048 + 48 * 32) = plain := by
    unfold plainOf
    omega
  simp only [State.badSaddle, hsad, hix, hplain, h, Option.isSome_some, beq_self_eq_true, Bool.and_true, Bool.or_true]

theorem exec_lineSpare {line : Nat} (h : 16 ≤ fget 0 s.corrLine line) : exec (.lineSpare line) s = .next { s with
    corrLine := fdel line s.corrLine, henud := { s.henud with spareMap := s.henud.spareMap ++ [(2 ^ 56 + line, 0)] } } :=
  congrArg Host.Outcome.next (if_pos h)

section
variable {p c : Nat} {rest : List Nat} (h : fget [] s.fwd p = c :: rest)
include h

theorem exec_forwardingEntryFree (hneed : (s.net.any fun f => f.dst == c && f.hops.contains p) = false) (hrest : rest ≠ []) :
    exec (.forwardingEntryFree p) s = .next { s with fwd := fset s.fwd p rest } := by
  change Host.Outcome.next _ = _
  simp only [h, hneed, List.isEmpty_eq_false_iff.2 hrest, Bool.false_eq_true, if_false, Bool.false_and]

theorem exec_forwardingEntryFree_needed (hneed : (s.net.any fun f => f.dst == c && f.hops.contains p) = true) :
    exec (.forwardingEntryFree p) s = .next s := by
  change Host.Outcome.next _ = _
  simp only [h, hneed, if_true]

end

end

/-! ### The clauses with a witness -/

section
variable (s : State) (c d : Nat)

/-- A walk fills the shared cache and the core's own, and nothing else changes (R302, R303). -/
theorem State.tlbsFilled (new : TlbEnt) : ∃ t, (s.setSharedTlb c (tlbPut Config.sharedTlb new (s.sharedTlb c))).tlbFilled c new = t ∧
    (t.coreAt c).tlb.head? = some new ∧ (t.coreAt c).tlb.length ≤ 32 ∧ (t.sharedTlb c).head? = some new ∧ (t.sharedTlb c).length ≤ 2048 ∧
    t.coreAt c = { s.coreAt c with tlb := (t.coreAt c).tlb } ∧ (∀ e, e ≠ c → t.coreAt e = s.coreAt e) ∧ ∀ y, t.byte y = s.byte y := by
  have hv := s.setSharedTlb_eq c (tlbPut Config.sharedTlb new (s.sharedTlb c))
  have hshared := s.sharedTlb_setSharedTlb c (tlbPut Config.sharedTlb new (s.sharedTlb c))
  generalize s.setSharedTlb c (tlbPut Config.sharedTlb new (s.sharedTlb c)) = v at hv hshared
  have hcore (e : Nat) : v.coreAt e = s.coreAt e := by rw [hv]; rfl
  have hfill : (v.tlbFilled c new).sharedTlb c = tlbPut Config.sharedTlb new (s.sharedTlb c) := hshared
  refine ⟨_, rfl, ?_⟩
  rw [hfill, State.coreAt_tlbFilled, hcore]
  refine ⟨tlbPut_head .., length_tlbPut .., tlbPut_head .., length_tlbPut .., rfl, fun e he => ?_, fun y => ?_⟩
  · exact (State.coreAt_modCore_ne _ _ _ _ he).trans (hcore e)
  · change v.byte y = s.byte y
    rw [hv]
    rfl

/-- A core whose strands have nothing pending freezes with its strands as they are (R358). -/
theorem State.frozen_idle (hidle : ∀ y, (s.strandAt c y).pend = []) :
    ∃ t, ((s.coreAt c).ctxs.foldl (fun s e => s.freezeStrand c e.1) s).modCore c (fun k => { k with frozen := true }) = t ∧
      t.coreAt c = { s.coreAt c with frozen := true, ctxs := (t.coreAt c).ctxs } ∧ (∀ y, t.strandAt c y = s.strandAt c y) ∧
      (∀ e, e ≠ c → t.coreAt e = s.coreAt e) ∧ ∀ y, t.byte y = s.byte y := by
  have hs := State.foldl_freezeStrand_idle (s.coreAt c).ctxs hidle
  generalize (s.coreAt c).ctxs.foldl (fun s e => s.freezeStrand c e.1) s = v at hs
  refine ⟨_, rfl, ?_, fun y => ?_, fun e he => (State.coreAt_modCore_ne _ _ _ _ he).trans (hs.cores e he), fun y => ?_⟩
  · rw [State.coreAt_modCore_self, hs.core]
  · rw [← hs.strands, State.strandAt, State.coreAt_modCore_self]
    rfl
  · change v.byte y = s.byte y
    rw [hs.rest]
    rfl

variable {s c d}

/-- What a moved core holds is what it held (R357, R359). -/
theorem State.Switched.kept {t : State} (h : s.Switched t c d) : (t.coreAt c).frozen = false ∧
    (t.coreAt c).moves = (if (s.coreAt c).moves = 0xFFFF then (s.coreAt c).moves else (s.coreAt c).moves + 1) ∧ (t.coreAt c).tlb = [] ∧
    (∀ y r, gread (t.strandAt c y).g r = gread (s.strandAt c y).g r ∧ (t.strandAt c y).pc = (s.strandAt c y).pc) ∧
    (t.coreAt c).ptr = (s.coreAt c).ptr ∧ (t.coreAt c).acc = (s.coreAt c).acc ∧ (t.coreAt c).bars = (s.coreAt c).bars ∧
    (t.coreAt c).ecs = (s.coreAt c).ecs ∧ (t.coreAt c).deque = (s.coreAt c).deque := by
  have hstrand (y : Nat) : ∃ since, t.strandAt c y = { s.strandAt c y with since := since } := by
    rw [State.strandAt, h.core]
    exact (s.coreAt c).strand_rehoused s.tick y
  rw [h.core]
  refine ⟨rfl, rfl, rfl, fun y r => ?_, rfl, rfl, rfl, rfl, rfl⟩
  obtain ⟨since, hy⟩ := hstrand y
  rw [hy]
  exact ⟨rfl, rfl⟩

end

/-- Settles O49, a clause at a time: what a move carries changes no core but its parked images, so that a switch and a replacement leave of a
moved core what `Core.rehoused` says; what a loss leaves is stopped, and nothing that stops takes a context. -/
theorem migrationSteps : Obligations.MigrationSteps := by
  intro s k c d x l va b sz pc line plain p perm f t0 rest ent kc st kept
  refine ⟨?arrival, ?walk, ?freeze, exec_migrationFreeze_inBlock, ?switch, exec_forwardingEntryFree, exec_forwardingEntryFree_needed,
    ?replace, ?lost, ?lostLaunch, ?channel, ?line⟩
  case arrival =>
    intro h hp
    exact ⟨exec_migrationArrival_free h hp, exec_migrationArrival_full h hp, exec_migrationArrival_over h hp⟩
  case walk =>
    intro hl
    constructor
    · intro h
      refine ⟨_, exec_pageWalk_shared hl h, ?_, ?_, ?_⟩
      · rw [State.coreAt_tlbFilled]
        exact tlbPut_head ..
      · rw [State.coreAt_tlbFilled]
        exact length_tlbPut ..
      · rw [State.coreAt_tlbFilled]
        rfl
    · intro h hw hsoft new
      obtain ⟨t, ht, hfilled⟩ := s.tlbsFilled c new
      exact ⟨t, (exec_pageWalk_walked hl h hw hsoft).trans (congrArg _ ht), hfilled⟩
  case freeze =>
    intro hsad hfrozen hlost hfill hleader hhnd
    refine ⟨exec_migrationFreeze_noReason hsad hfrozen hlost hfill hleader hhnd, fun hreason hidle => ?_⟩
    obtain ⟨t, ht, hkept⟩ := s.frozen_idle c hidle
    exact ⟨t, (exec_migrationFreeze hsad hfrozen hlost hfill hleader hhnd hreason).trans (congrArg _ ht), hkept⟩
  case switch =>
    intro htarget hreason hwhole hmove _
    have hex := exec_migrationSwitch_alone htarget hreason hwhole hmove
    have ht := State.trade_switched (s := s) (c := c) (d := d) (dest := fun x => if x = c then d else s.sibOf d) (if_pos rfl)
      (State.targetOk_ne htarget)
    generalize s.trade [c] false (fun x => if x = c then d else s.sibOf d) = t at hex ht
    obtain ⟨hfrozen, hmoves, htlb, hstrands, hcore⟩ := ht.kept
    exact ⟨t, hex, ht.place, ht.target, hfrozen, hmoves, htlb, ht.fwd, hstrands, hcore⟩
  case replace =>
    intro q v u hc hd hne
    refine ⟨exec_spireReplace_waits hc hd, fun horphans hused hmove => ?_, fun horphans hused hfree hmove => ?_⟩
    · obtain ⟨t, ht, hspared⟩ := s.sparedSpire p q (2 * 2 ^ 56 + p) hne
      exact ⟨t, (exec_spireReplace_spare hc hd horphans hused hmove).trans (congrArg _ ht), hspared⟩
    · obtain ⟨t, ht, hoos, hoos', hmap⟩ := State.sparedFree (s.trade [c, d] true fun x => if x = c then b else s.sibOf b) b (s.sibOf b)
        (2 * 2 ^ 56 + p) (s.spireOf b)
      rw [State.henud_trade] at hmap
      exact ⟨t, (exec_spireReplace_free hc hd horphans hused hfree hmove).trans (congrArg _ ht), hoos, hoos', hmap⟩
  case lost =>
    intro hlost hleader hnone hmoves hleft hparked
    refine ⟨_, exec_coreLost_noLaunch hlost hleader hmoves hnone hleft hparked, ?_, fun e he => ?_, fun _ => rfl⟩
    · rw [State.coreAt_lostCore, if_pos rfl]
    · rw [State.coreAt_lostCore, if_neg he]
  case lostLaunch =>
    intro hlost hleader hone hmoves hplaced hwhy
    exact exec_coreLost_launch hlost hleader hmoves hone hplaced hwhy
  case channel =>
    intro h
    obtain ⟨t, hex, hplains, hmem⟩ := exec_channelSaddleReplace (d := d) h
    have hspare : (t.plainAt plain).spareFor = some d := by
      rw [State.plainAt, hplains]
      exact congrArg Plain.spareFor ((State.plainAt_modPlain s plain plain _).trans (if_pos rfl))
    exact ⟨t, hex, hspare, State.badSaddle_spare hspare, fun y => congrArg (fget memDefault · y) hmem⟩
  case line =>
    intro h
    exact ⟨_, exec_lineSpare h, fget_fdel_self _ _ _, rfl, fun _ => rfl⟩

end Sys2Proof.Machine
end

section
/-! Pointer registers (R155 to R157), and instructions of the vector unit that change registers of their core or a general register only. -/

namespace Sys2Proof.Machine
open Sys2Proof

section
variable {i : Instr} {eff : Eff} {s : State} (h : s.ReadyUnit i) (hp : i.pins = true)
include h hp

/-- An instruction whose effect is a change of its core's registers. -/
theorem longOp_modMe {f : Core → Core} (hf : ∀ k, (f k).ctxs = k.ctxs) (he : eff s.envOf s.pinned = .done (s.pinned.modMe f)) :
    longOp i eff s = (s.pinned.modMe f).advance := by
  have hst : (s.pinned.modMe f).st = { s.st with pin := true } := (State.strandAt_modMe _ f hf _ _).trans s.st_pinned
  exact longOp_done h (by rwa [State.start, if_pos hp]) (by rw [hst]) (by rw [hst]) (by rw [hst])

/-- An instruction whose effect is one general register. -/
theorem longOp_setG_pinned {r : BitVec 4} {v : Word} (he : eff s.envOf s.pinned = .done (s.pinned.setG r v)) :
    longOp i eff s = (s.pinned.setG r v).advance := by
  have hst : (s.pinned.setG r v).st = { s.st with pin := true, g := (s.pinned.setG r v).st.g } := by
    rw [State.setG_st, s.st_pinned]
  exact longOp_done h (by rwa [State.start, if_pos hp]) (by rw [hst]) (by rw [hst]) (by rw [hst])

/-- An instruction that its own checks refuse: sw.pin is set, and the trap is raised (R19). -/
theorem longOp_trap_pinned {x : Trap} (he : eff s.envOf s.pinned = .trap x s.pinned) : longOp i eff s = s.pinned.raise x := by
  rw [longOp_ready h, State.start, if_pos hp, he]

end

/-! ### Fields of the words that set a pointer -/

section
variable (w : Word)

theorem bitsOf_high_eq : bitsOf w 63 48 = (w.extractLsb' 48 16).toNat := by
  rw [BitVec.extractLsb'_toNat, Nat.shiftRight_eq_div_pow, bitsOf, fld]

theorem extract_high_ne_zero : (w.extractLsb' 48 16).toNat ≠ 0 ↔ 2 ^ 48 ≤ w.toNat := by
  have := w.isLt
  rw [← bitsOf_high_eq, bitsOf, fld]
  omega

theorem bitsOf_low_mod_64 : bitsOf w 31 0 % 64 = w.toNat % 64 := by
  rw [bitsOf, fld]
  omega

end

/-- An address that a pointer gives, as a remainder of R21. -/
theorem w64_addr (p : Ptr) : w64 p.addr =
    i64 ((((p.base.toNat : Int) + p.i1.toNat * p.s1.toInt + p.i2.toNat * p.s2.toInt) % 2 ^ 48 + 2 ^ 48) % 2 ^ 48) := by
  rw [Ptr.addr, ← i64_natCast, Int.toNat_of_nonneg (Int.emod_nonneg _ (by decide)), Int.add_emod_right, Int.emod_emod_of_dvd _ dvd_rfl]

/-! ### The instructions -/

/-- The pointer that ptrset writes: base and inner dimension as given, the outer dimension as after reset (R155). -/
def innerPtr (b v : Word) : Ptr :=
  { base := b.setWidth 48, s1 := v.setWidth 32, c1 := v.extractLsb' 32 16, i1 := v.extractLsb' 48 16, s2 := 0, c2 := 1, i2 := 0 }

/-- A pointer with the outer dimension that ptrdim gives it (R156). -/
def Ptr.withOuter (p : Ptr) (v : Word) : Ptr :=
  { p with s2 := v.setWidth 32, c2 := v.extractLsb' 32 16, i2 := v.extractLsb' 48 16 }

/-- One pointer of the acting core written. -/
def State.putPtr (s : State) (k : BitVec 4) (p : Ptr) : State := s.modMe fun c => { c with ptr := fset c.ptr k.toNat p }

/-- The checks of ptrset, in their order (R155). -/
theorem effPtrset_eq (vd vs1 vs2 : BitVec 4) (s : State) : effPtrset vd vs1 vs2 s.envOf s.pinned =
    if 2 ^ 48 ≤ (s.g vs1).toNat then .trap (tr cReservedField (s.g vs1)) s.pinned
    else if (s.g vs1).toNat % 64 ≠ 0 ∨ (s.g vs2).toNat % 64 ≠ 0 then .trap (tr cMisalign (s.g vs1)) s.pinned
    else if cnt ((s.g vs2).extractLsb' 32 16) ≤ ((s.g vs2).extractLsb' 48 16).toNat then .trap (tr cReservedField (s.g vs2)) s.pinned
    else .done (s.pinned.putPtr vd (innerPtr (s.g vs1) (s.g vs2))) := by
  simp only [effPtrset, State.envOf_r, bitsOf_high_eq, extract_high_ne_zero, bitsOf_low_mod_64, State.putPtr, innerPtr,
    BitVec.setWidth_eq_extractLsb', Nat.reduceLeDiff]

/-- The checks of ptrdim, in their order (R156). -/
theorem effPtrdim_eq (vd vs1 : BitVec 4) (s : State) : effPtrdim vd vs1 s.envOf s.pinned =
    if (s.g vs1).toNat % 64 ≠ 0 then .trap (tr cMisalign (s.g vs1)) s.pinned
    else if cnt ((s.g vs1).extractLsb' 32 16) ≤ ((s.g vs1).extractLsb' 48 16).toNat then .trap (tr cReservedField (s.g vs1)) s.pinned
    else .done (s.pinned.putPtr vd ((ptrOf s.me.ptr vd).withOuter (s.g vs1))) := by
  have hptr : s.pinned.me.ptr = s.me.ptr := by rw [s.me_pinned]
  simp only [effPtrdim, State.envOf_r, bitsOf_low_mod_64, bitsOf_high_eq, State.putPtr, Ptr.withOuter, BitVec.setWidth_eq_extractLsb',
    Nat.reduceLeDiff, hptr]

/-- Settles O21: each of the three by the first of its checks that fails, or by what it writes. -/
theorem pointerRegisters : Obligations.PointerRegisters := by
  intro vd vs1 vs2 s b v count old p setP
  have hset : ∀ {i eff} {q : Ptr}, s.ReadyUnit i → i.pins = true → eff s.envOf s.pinned = .done (s.pinned.putPtr vd q) →
      (.next (longOp i eff s) : Out) = setP q := fun h hp he => congrArg _ (longOp_modMe h hp (fun _ => rfl) he)
  have htrap : ∀ {i eff x}, s.ReadyUnit i → i.pins = true → eff s.envOf s.pinned = .trap x s.pinned →
      (.next (longOp i eff s) : Out) = .next (s.pinned.raise x) := fun h hp he => congrArg _ (longOp_trap_pinned h hp he)
  refine ⟨fun h => ?ptrset, fun h => ?ptrdim, fun h => ?ptrget⟩
  case ptrset =>
    have heff := effPtrset_eq vd vs1 vs2 s
    refine ⟨fun hb hb64 hv64 hi => hset h rfl ?_, fun hb => htrap h rfl (heff.trans (if_pos hb)), fun hb h64 => htrap h rfl ?_,
      fun hb hb64 hv64 hi => htrap h rfl ?_⟩
    · rw [heff, if_neg (not_le.2 hb), if_neg (not_or.2 ⟨not_not.2 hb64, not_not.2 hv64⟩)]
      exact if_neg (not_le.2 hi)
    · rw [heff, if_neg (not_le.2 hb)]
      exact if_pos h64
    · rw [heff, if_neg (not_le.2 hb), if_neg (not_or.2 ⟨not_not.2 hb64, not_not.2 hv64⟩)]
      exact if_pos hi
  case ptrdim =>
    have heff := effPtrdim_eq vd vs1 s
    refine ⟨fun hb64 hi => hset h rfl ?_, fun hb64 => htrap h rfl (heff.trans (if_pos hb64)), fun hb64 hi => htrap h rfl ?_⟩
    · rw [heff, if_neg (not_not.2 hb64)]
      exact if_neg (not_le.2 hi)
    · rw [heff, if_neg (not_not.2 hb64)]
      exact if_pos hi
  case ptrget =>
    refine congrArg _ (longOp_setG_pinned h rfl ?_)
    have hptr : ptrOf s.pinned.me.ptr vs1 = p := by rw [s.me_pinned]; rfl
    rw [effPtrget, hptr]
    refine congrArg (fun w => Res.done (s.pinned.setG vd w)) ?_
    generalize vs2.toNat = sel
    match sel with
    | 0 => exact w64_addr p
    | 1 => rfl
    | 2 => rfl
    | _ + 3 => rfl

end Sys2Proof.Machine
end

section
/-! What va holds, cleared, stored and read (R168, R169): the folds over its lanes. -/

namespace Sys2Proof.Machine
open Sys2Proof

/-! ### Integers as codes -/

theorem sextI_emod (c w : Nat) : sextI c w % 2 ^ w = (c : Int) % 2 ^ w := by
  simp only [sextI]
  split
  · next h => simp [h]
  · split
    · rw [Int.sub_emod_right, Int.natCast_mod, Nat.cast_pow, Nat.cast_ofNat, Int.emod_emod_of_dvd _ dvd_rfl]
    · rw [Int.natCast_mod, Nat.cast_pow, Nat.cast_ofNat, Int.emod_emod_of_dvd _ dvd_rfl]

/-- The value of a lane's code (R54). -/
def laneInt (uns : Bool) (w c : Nat) : Int := if uns then (c : Int) else sextI c w

theorem laneInt_emod (uns : Bool) (w c : Nat) : laneInt uns w c % 2 ^ w = (c : Int) % 2 ^ w := by
  rw [laneInt]
  split
  · rfl
  · exact sextI_emod c w

theorem codeI_emod (w : Nat) (v : Int) : (codeI w v : Int) % 2 ^ w = v % 2 ^ w := by
  rw [codeI, Int.toNat_of_nonneg (Int.emod_nonneg _ (by positivity)), Int.emod_emod_of_dvd _ dvd_rfl]

theorem codeI_congr {w : Nat} {u v : Int} (h : u % 2 ^ w = v % 2 ^ w) : codeI w u = codeI w v := by rw [codeI, codeI, h]

theorem codeI_laneInt (uns : Bool) {w c : Nat} (hc : c < 2 ^ w) : codeI w (laneInt uns w c) = c := by
  rw [codeI, laneInt_emod, Int.emod_eq_of_lt (by positivity) (by exact_mod_cast hc), Int.toNat_natCast]

theorem intVal_fst_eq_laneInt (uns : Bool) {w c : Nat} (hw : w ≠ 4) (hc : c < 2 ^ w) : (intVal (.i w) uns c).1 = laneInt uns w c := by
  cases uns
  · rw [intVal, if_neg Bool.false_ne_true, if_neg (fun h => hw h.1)]
    rfl
  · rw [intVal, if_pos rfl, Nat.mod_eq_of_lt hc]
    rfl

theorem clampI_eq {lo hi : Int} (h : lo ≤ hi) (v : Int) : clampI lo hi v = max lo (min hi v) := by
  rw [clampI]
  split
  · omega
  · split <;> omega

/-- A lane's value is one that its format holds. -/
theorem clampI_laneInt (uns : Bool) {w c : Nat} (hw : 4 < w) (hc : c < 2 ^ w) :
    clampI (intLo (.i w) uns) (intHi (.i w) uns) (laneInt uns w c) = laneInt uns w c := by
  have hpow : (2 : Int) ^ w = 2 ^ (w - 1) + 2 ^ (w - 1) := by
    rw [← two_mul, ← pow_succ']
    congr 1
    omega
  have hpos : (0 : Int) < 2 ^ (w - 1) := by positivity
  have hc' : (c : Int) < 2 ^ w := by exact_mod_cast hc
  have hlo : intLo (.i w) uns ≤ laneInt uns w c ∧ laneInt uns w c ≤ intHi (.i w) uns := by
    cases uns
    · have hmod : c % 2 ^ w = c := Nat.mod_eq_of_lt hc
      have hcast : ((2 ^ (w - 1) : Nat) : Int) = 2 ^ (w - 1) := by push_cast; rfl
      simp only [intLo, intHi, laneInt, sextI, hmod, Bool.false_eq_true, if_false, if_neg (show w ≠ 4 by omega), if_neg (show w ≠ 0 by omega)]
      split <;> omega
    · simp only [intLo, intHi, laneInt, if_true]
      omega
  rw [clampI, if_neg (not_lt.2 hlo.2), if_neg (not_lt.2 hlo.1)]

/-! ### Folds over lanes -/

/-- A sum of F lanes, rounded at each addition, and the flags on its way (R169). -/
def addLaneF (f : FpFmt) (x : Nat × Flags) (y : Nat) : Nat × Flags :=
  let v := (f.value x.1).add rne (f.value y)
  ((f.round rne v.1).1, x.2 ||| v.2 ||| (f.round rne v.1).2)

theorem foldl_near (f : FpFmt) (ls : List Nat) (c : Nat) (r : Raise) :
    ls.foldl (fun (x : Nat × Raise) v => x.2.near f ((f.value x.1).add rne (f.value v))) (c, r) =
      ((ls.foldl (addLaneF f) (c, r.fl)).1, { r with fl := (ls.foldl (addLaneF f) (c, r.fl)).2 }) := by
  induction ls generalizing c r with
  | nil => rfl
  | cons v ls ih =>
    simp only [List.foldl_cons]
    exact ih _ _

/-- A sum of INT32 lanes, saturated at each addition, and how often (R169). -/
def addLane32 (uns : Bool) (x : Nat × Nat) (y : Nat) : Nat × Nat :=
  let v := laneInt uns 32 x.1 + laneInt uns 32 y
  let c := max (if uns then 0 else -2 ^ 31) (min (if uns then 2 ^ 32 - 1 else 2 ^ 31 - 1) v)
  ((c % 2 ^ 32).toNat, if c = v then x.2 else x.2 + 1)

theorem laneAdd_32 (uns : Bool) {c v : Nat} (hc : c < 2 ^ 32) (hv : v < 2 ^ 32) (r : Raise) :
    laneAdd uns 32 c (intVal (.i 32) uns v).1 r = ((addLane32 uns (c, r.sat) v).1, { r with sat := (addLane32 uns (c, r.sat) v).2 }) := by
  have hlo : intLo (.i 32) uns = if uns then 0 else -2 ^ 31 := by cases uns <;> rfl
  have hhi : intHi (.i 32) uns = if uns then 2 ^ 32 - 1 else 2 ^ 31 - 1 := by cases uns <;> rfl
  have hle : (if uns then 0 else -2 ^ 31 : Int) ≤ if uns then 2 ^ 32 - 1 else 2 ^ 31 - 1 := by cases uns <;> decide
  rw [laneAdd, if_neg (by decide), intVal_fst_eq_laneInt uns (by decide) hc, intVal_fst_eq_laneInt uns (by decide) hv, hlo, hhi,
    clampI_eq hle, addLane32]
  generalize laneInt uns 32 c + laneInt uns 32 v = sum
  generalize max (if uns = true then 0 else -2 ^ 31) (min (if uns = true then 2 ^ 32 - 1 else 2 ^ 31 - 1) sum) = kept
  by_cases h : kept = sum
  · simp only [if_pos h, codeI]
  · simp only [if_neg h, codeI]

theorem foldl_laneAdd_32 (uns : Bool) (ls : List Nat) (hls : ∀ v ∈ ls, v < 2 ^ 32) (c : Nat) (hc : c < 2 ^ 32) (r : Raise) :
    ls.foldl (fun (x : Nat × Raise) v => laneAdd uns 32 x.1 (intVal (.i 32) uns v).1 x.2) (c, r) =
      ((ls.foldl (addLane32 uns) (c, r.sat)).1, { r with sat := (ls.foldl (addLane32 uns) (c, r.sat)).2 }) := by
  induction ls generalizing c r with
  | nil => rfl
  | cons v ls ih =>
    rw [List.foldl_cons, List.foldl_cons, laneAdd_32 uns hc (hls v (by simp))]
    exact ih (fun u hu => hls u (by simp [hu])) _ (codeI_lt 32 _) _

theorem foldl_laneAdd_64 (uns : Bool) (ls : List Nat) (hls : ∀ v ∈ ls, v < 2 ^ 64) (c : Nat) (hc : c < 2 ^ 64) (r : Raise) :
    ls.foldl (fun (x : Nat × Raise) v => laneAdd uns 64 x.1 (intVal (.i 64) uns v).1 x.2) (c, r) =
      (codeI 64 (laneInt uns 64 c + (ls.map (laneInt uns 64)).sum), r) := by
  induction ls generalizing c with
  | nil => rw [List.map_nil, List.sum_nil, add_zero, codeI_laneInt uns hc]; rfl
  | cons v ls ih =>
    have hstep : laneAdd uns 64 c (intVal (.i 64) uns v).1 r = (codeI 64 (laneInt uns 64 c + laneInt uns 64 v), r) := by
      rw [laneAdd, if_pos rfl, intVal_fst_eq_laneInt uns (by decide) hc, intVal_fst_eq_laneInt uns (by decide) (hls v (by simp))]
    have hcongr : (laneInt uns 64 (codeI 64 (laneInt uns 64 c + laneInt uns 64 v)) + (ls.map (laneInt uns 64)).sum) % 2 ^ 64 =
        (laneInt uns 64 c + (laneInt uns 64 v + (ls.map (laneInt uns 64)).sum)) % 2 ^ 64 := by
      rw [Int.add_emod, laneInt_emod, codeI_emod, ← Int.add_emod, add_assoc]
    rw [List.foldl_cons, hstep, ih (fun u hu => hls u (by simp [hu])) _ (codeI_lt 64 _), List.map_cons, List.sum_cons]
    exact congrArg (·, r) (codeI_congr hcongr)

/-- The greatest or the least of values is one of them, which none exceeds or falls below. -/
theorem foldl_extremum (isMax : Bool) (f : Nat → Int) (n : Nat) : ∃ m, m < n + 1 ∧
    ((List.range n).map fun l => f (l + 1)).foldl (fun a b => if isMax then max a b else min a b) (f 0) = f m ∧
    ∀ l, l < n + 1 → if isMax then f l ≤ f m else f m ≤ f l := by
  induction n with
  | zero => exact ⟨0, by omega, rfl, fun l hl => by rw [show l = 0 by omega]; split <;> exact le_rfl⟩
  | succ n ih =>
    obtain ⟨m, hm, hfold, hall⟩ := ih
    have hnext : ((List.range (n + 1)).map fun l => f (l + 1)).foldl (fun a b => if isMax then max a b else min a b) (f 0) =
        if isMax then max (f m) (f (n + 1)) else min (f m) (f (n + 1)) := by
      rw [List.range_succ, List.map_append, List.foldl_append, hfold]
      rfl
    by_cases hnew : if isMax then f m ≤ f (n + 1) else f (n + 1) ≤ f m
    · refine ⟨n + 1, by omega, ?_, fun l hl => ?_⟩
      · rw [hnext]
        cases isMax
        · exact min_eq_right hnew
        · exact max_eq_right hnew
      · rcases Nat.lt_succ_iff_lt_or_eq.1 hl with h | rfl
        · have := hall l h
          cases isMax
          · exact le_trans hnew this
          · exact le_trans this hnew
        · cases isMax <;> exact le_rfl
    · refine ⟨m, by omega, ?_, fun l hl => ?_⟩
      · rw [hnext]
        cases isMax
        · exact min_eq_left (le_of_not_ge hnew)
        · exact max_eq_left (le_of_not_ge hnew)
      · rcases Nat.lt_succ_iff_lt_or_eq.1 hl with h | rfl
        · exact hall l h
        · cases isMax
          · exact le_of_not_ge hnew
          · exact le_of_not_ge hnew

theorem redLaneI_extremum (isMax uns : Bool) {w : Nat} (hw : 4 < w) (lane : Nat → Nat) (hl : ∀ l, lane l < 2 ^ w) :
    ∃ m, m < 32 ∧ redLaneI isMax uns w (lane 0) ((List.range 31).map fun l => (intVal (.i w) uns (lane (l + 1))).1) = lane m ∧
      ∀ l, l < 32 → if isMax then laneInt uns w (lane l) ≤ laneInt uns w (lane m) else laneInt uns w (lane m) ≤ laneInt uns w (lane l) := by
  obtain ⟨m, hm, hfold, hall⟩ := foldl_extremum isMax (fun l => laneInt uns w (lane l)) 31
  refine ⟨m, hm, ?_, hall⟩
  simp only [redLaneI, intVal_fst_eq_laneInt uns (by omega : w ≠ 4) (hl _)]
  rw [hfold, clampI_laneInt uns hw (hl m), codeI_laneInt uns (hl m)]

end Sys2Proof.Machine
end

section
/-! Clearing, storing and reading va, as a whole (R168, R169). -/

namespace Sys2Proof.Machine
open Sys2Proof

/-! ### Clearing -/

/-- Lanes named in a list are set, the others are as they were. -/
theorem lane_foldl_setLane (ls : List Nat) (v : Nat) (k : Core) (j : Nat) : (ls.foldl (fun k l => k.setLane l v) k).lane j =
    if j ∈ ls then v % 2 ^ fmtWidth (accCode k.fmt) else k.lane j := by
  induction ls generalizing k with
  | nil => simp
  | cons l ls ih =>
    rw [List.foldl_cons, ih, lane_setLane]
    by_cases hj : j = l
    · subst hj
      simp [Core.setLane]
    · simp [hj, Core.setLane]

theorem foldl_setLane_eq (ls : List Nat) (v : Nat) (k : Core) : ls.foldl (fun k l => k.setLane l v) k =
    { k with va := (ls.foldl (fun k l => k.setLane l v) k).va } := by
  induction ls generalizing k with
  | nil => rfl
  | cons l ls ih => rw [List.foldl_cons, ih, Core.setLane]

/-- va with every lane set (R168). -/
def clearLanes (v : Nat) (k : Core) : Core := (List.range 32).foldl (fun k l => k.setLane l v) k

theorem clearLanes_eq (v : Nat) (k : Core) : clearLanes v k = { k with va := (clearLanes v k).va } := foldl_setLane_eq _ v k

theorem lane_clearLanes (v : Nat) (k : Core) {l : Nat} (hl : l < 32) : (clearLanes v k).lane l = v % 2 ^ fmtWidth (accCode k.fmt) :=
  (lane_foldl_setLane _ _ _ _).trans (if_pos (List.mem_range.2 hl))

/-- An instruction whose effect is a change of va. -/
theorem longOp_modVa {i : Instr} {eff : Eff} {s : State} (h : s.ReadyUnit i) (hp : i.pins = true) {f : Core → Core}
    (hf : ∀ k, f k = { k with va := (f k).va }) (he : eff s.envOf s.pinned = .done (s.pinned.modMe f)) :
    ∃ t, (.next (longOp i eff s) : Out) = .next t ∧ (∀ l, t.me.lane l = (f s.pinned.me).lane l) ∧ (∀ j, t.g j = s.g j) ∧
      (∀ b, t.byte b = s.byte b) ∧ t.st.pc = s.st.pc + 4 ∧ t.st.pin = true ∧ t.me.q = s.me.q ∧ t.me.ptr = s.me.ptr := by
  have hctxs : ∀ k, (f k).ctxs = k.ctxs := fun k => by rw [hf]
  have hst : (s.pinned.modMe f).st = { s.st with pin := true } := (State.strandAt_modMe _ _ hctxs _ _).trans s.st_pinned
  refine ⟨_, congrArg _ (longOp_modMe h hp hctxs he), fun l => ?_, fun j => ?_, fun _ => rfl, ?_, ?_, ?_, ?_⟩
  · rw [Core.lane, Core.lane, State.me_advance, State.me_modMe]
  · rw [State.g_advance, State.g, hst, State.g]
  · rw [State.st_advance, hst]
  · rw [State.st_advance, hst]
  · rw [State.me_advance, State.me_modMe, hf, s.me_pinned]
  · rw [State.me_advance, State.me_modMe, hf, s.me_pinned]

/-- vacc.clr (R168). -/
theorem exec_vaccClr {s : State} {vs1 : BitVec 4} (h : s.ReadyUnit (.vaccClr 0 vs1)) : ∃ t, exec (.vaccClr 0 vs1) s = .next t ∧
    (∀ l, l < 32 → t.me.lane l = (s.g vs1).toNat % 2 ^ fmtWidth (accCode s.me.fmt)) ∧ (∀ j, t.g j = s.g j) ∧
    (∀ b, t.byte b = s.byte b) ∧ t.st.pc = s.st.pc + 4 ∧ t.st.pin = true ∧ t.me.q = s.me.q ∧ t.me.ptr = s.me.ptr := by
  have he : effVaccClr vs1 s.envOf s.pinned =
      .done (s.pinned.modMe (clearLanes ((s.g vs1).toNat % 2 ^ fmtWidth (accCode s.me.fmt)))) := by
    rw [effVaccClr, s.fmt_pinned]
    rfl
  obtain ⟨t, ht, hlane, hrest⟩ := longOp_modVa h rfl (clearLanes_eq _) he
  refine ⟨t, ht, fun l hl => ?_, hrest⟩
  rw [hlane, lane_clearLanes _ _ hl, s.fmt_pinned, Nat.mod_mod]

/-! ### Storing -/

/-- The enabled lanes of va, as elements. -/
def State.enabledLanes (s : State) (pm : BitVec 4) : List (Nat × Nat) := ((List.range 32).filter (s.on pm)).map fun l => (l, s.me.lane l)

theorem State.inBlocks_enabledLanes (s : State) (pm : BitVec 4) :
    InBlocks (fmtWidth (accCode s.me.fmt)) (32 * fmtWidth (accCode s.me.fmt) / 512) (s.enabledLanes pm) := by
  have hkeys : (s.enabledLanes pm).map (·.1) = (List.range 32).filter (s.on pm) := by simp [State.enabledLanes, Function.comp_def]
  have hroom : 512 * (32 * fmtWidth (accCode s.me.fmt) / 512) / fmtWidth (accCode s.me.fmt) = 32 := by
    rcases fmtWidth_accCode s.me.fmt with hw | hw <;> rw [hw]
  refine ⟨hkeys ▸ List.nodup_range.filter _, fun p hp => ?_⟩
  have hmem : p.1 ∈ (List.range 32).filter (s.on pm) := hkeys ▸ List.mem_map_of_mem hp
  rw [hroom]
  exact List.mem_range.1 (List.mem_of_mem_filter hmem)

/-- Lanes in a format written through the destination, and the end (R168). -/
def putLanes (a : Nat) (on : Nat → Bool) (ds : List Blk) (ps : List (Nat × Ptr)) (r : Raise) (u : State) : Res :=
  let p := packEls (fmtWidth a) (((List.range 32).filter on).map fun l => (l, u.me.lane l))
  match u.putBlks a ds p.1 p.2 with
  | (u, some (t, ga)) => u.failAt ga t
  | (u, none) => vecDone ps r u

theorem effVaccSt_pinned (s : State) (vd pm : BitVec 4) : effVaccSt vd pm s.envOf s.pinned =
    withBlocks (s.on pm) [] none vd (32 * fmtWidth (accCode s.me.fmt) / 512)
      (fun _ ds ps r u => putLanes (accCode s.me.fmt) (s.on pm) ds ps r u) s.pinned := by
  rw [effVaccSt, s.fmt_pinned, s.on_pinned]
  rfl

/-- vacc.st writes the enabled lanes through its destination (R168). -/
theorem exec_vaccSt {s : State} {vd pm : BitVec 4} {ds : List Blk}
    (h : s.VecReady (.vaccSt 0 vd pm) [] vd (32 * fmtWidth (accCode s.me.fmt) / 512) .wr [] ds) :
    ∃ t, exec (.vaccSt 0 vd pm) s = .next t ∧ (∀ j, t.g j = s.g j) ∧
      s.VecDone t (s.ptrsAfter [] vd (32 * fmtWidth (accCode s.me.fmt) / 512)) s.calm ∧ t.me.q = s.me.q ∧ t.me.va = s.me.va ∧
      s.Wrote t ds (fmtWidth (accCode s.me.fmt)) (s.enabledLanes pm) := by
  obtain ⟨u, hu, hw⟩ := withBlocks_ready h (srcs' := []) rfl (s.on pm) none rfl fun _ ds ps r u =>
    putLanes (accCode s.me.fmt) (s.on pm) ds ps r u
  have hme : u.me = { s.me with ctxs := u.me.ctxs } := by rw [hu.me_eq, ← s.me_pinned]
  have hlanes : (((List.range 32).filter (s.on pm)).map fun l => (l, u.me.lane l)) = s.enabledLanes pm := by rw [hme]; rfl
  have hpos : 0 < fmtWidth (accCode s.me.fmt) := by rcases fmtWidth_accCode s.me.fmt with hw | hw <;> omega
  obtain ⟨hnd, hlt⟩ := s.inBlocks_enabledLanes pm
  rw [← h.toVecSet.length_dst] at hlt
  obtain ⟨v, hv, hvt, hvw⟩ := State.putBlks_packEls (hu.bad_eq.trans h.noBad) (hu.soft_eq.trans h.noSoft) (accCode s.me.fmt) hpos h.disjoint
    hnd hlt
  have he : effVaccSt vd pm s.envOf s.pinned = vecDone (s.ptrsAfter [] vd (32 * fmtWidth (accCode s.me.fmt) / 512)) s.calm v := by
    rw [effVaccSt_pinned, hw, putLanes, hlanes]
    simp only [hv]
  have hvm : s.VecMid v := (s.vecMid_pinned.touched hu.touched).touched hvt
  have hvme : v.me = u.me := by rw [State.me, hvt.rest]; rfl
  have hex : exec (.vaccSt 0 vd pm) s = .next (v.vecEnd (s.ptrsAfter [] vd (32 * fmtWidth (accCode s.me.fmt) / 512)) s.calm) :=
    congrArg _ (longOp_vecDone h.toReadyUnit rfl he hvm)
  refine ⟨_, hex, hvm.g_vecEnd _ _, hvm.vecDone _ _, ?_, ?_, hvw.of_bytes (fun a => ?_) fun a => State.byte_vecEnd _ _ _ a⟩
  · rw [State.me_vecEnd, hvme, hme]
  · rw [State.me_vecEnd, hvme, hme]
  · exact ((hu.sameView.byte a).trans (s.sameView_pinned.byte a)).symm

/-! ### Reading -/

theorem State.me_setG (s : State) (j : BitVec 4) (v : Word) : (s.setG j v).me = { s.me with ctxs := (s.setG j v).me.ctxs } := by
  unfold State.setG
  split
  · rfl
  · rw [State.me_modSt]

/-- Setting sw.pin and writing a register do not depend on their order. -/
theorem State.setG_pinned (s : State) (j : BitVec 4) (v : Word) : s.pinned.setG j v = (s.setG j v).pinned := by
  unfold State.setG
  split
  · rfl
  · rw [State.pinned, State.pinned, State.modSt_modSt, State.modSt_modSt]

/-- Pointers that are written as they were. -/
theorem State.commit_withPtrs_self (s : State) (r : Raise) : (s.withPtrs s.me.ptr).commit r = s.commit r := by
  unfold State.commit State.mergeFlags
  split <;>
    simp [State.withPtrs, State.modSt, State.modStrand, State.setStrand, State.modMe, State.modCore, State.setCore, State.strandAt,
      State.coreAt, State.me]

/-- What is done after a register was written is done, but for that register (R97). -/
theorem State.VecDone.of_setG {s t : State} {j : BitVec 4} {v : Word} {ps : List (Nat × Ptr)} {r : Raise}
    (h : (s.setG j v).VecDone t ps r) : s.VecDone t ps r := by
  unfold State.setG at h
  split at h
  · exact h
  · exact {
      cores := fun d hd => (h.cores d hd).trans (State.coreAt_modCore_ne s s.core d _ hd)
      strands := fun y hy => (h.strands y hy).trans (State.strandAt_modSt_ne s _ s.core y fun k => hy k.2)
      spires := h.spires, valleys := h.valleys, plains := h.plains, bad := h.bad, soft := h.soft, net := h.net, place := h.place
      launches := h.launches, colls := h.colls, queues := h.queues, links := h.links, henud := h.henud
      st := by rw [h.st, State.st_modSt]
      me := by rw [h.me, State.me_modSt] }

/-- The value vacc.rd writes to its register (R169). -/
def State.vaccWord (s : State) (v : Nat) : Word := if accCode s.me.fmt = 11 then i64 (sextI v 32) else w64 v

theorem State.vaccVal_pinned (s : State) (l mode : Nat) (r : Raise) : s.pinned.vaccVal l mode r = s.vaccVal l mode r := by
  rw [State.vaccVal, s.me_pinned, s.ctl_pinned]
  rfl

theorem effVaccRd_pinned (s : State) (vd vs1 vs2 : BitVec 4) {v : Nat} {r : Raise}
    (hv : s.vaccVal (bitsOf (s.g vs1) 4 0) vs2.toNat s.calm = (v, r)) :
    effVaccRd vd vs1 vs2 s.envOf s.pinned = vecDone s.me.ptr r (s.setG vd (s.vaccWord v)).pinned := by
  have hptr : (s.setG vd (s.vaccWord v)).pinned.me.ptr = s.me.ptr := by rw [State.me_pinned, State.me_setG]
  have hcommit := (s.setG vd (s.vaccWord v)).pinned.commit_withPtrs_self r
  rw [hptr] at hcommit
  rw [effVaccRd, s.vaccVal_pinned, s.calm_pinned, State.envOf_r, hv, s.fmt_pinned]
  refine congrArg Res.done (Eq.trans ?_ hcommit.symm)
  exact congrArg (·.commit r) (s.setG_pinned vd (s.vaccWord v))

/-- vacc.rd writes its register and commits what its fold raised (R169). -/
theorem exec_vaccRd {s : State} {vd vs1 vs2 : BitVec 4} (h : s.ReadyUnit (.vaccRd 0 vd vs1 vs2)) {v : Nat} {r : Raise}
    (hv : s.vaccVal (bitsOf (s.g vs1) 4 0) vs2.toNat s.calm = (v, r)) :
    ∃ t, exec (.vaccRd 0 vd vs1 vs2) s = .next t ∧ s.VecDone t s.me.ptr r ∧ t.me.q = s.me.q ∧ t.me.va = s.me.va ∧
      (∀ b, t.byte b = s.byte b) ∧ (∀ j, j ≠ vd → t.g j = s.g j) ∧ (vd ≠ 0 → t.g vd = s.vaccWord v) := by
  have hmid := (s.setG vd (s.vaccWord v)).vecMid_pinned
  have hme : (s.setG vd (s.vaccWord v)).pinned.me = { s.me with ctxs := (s.setG vd (s.vaccWord v)).pinned.me.ctxs } := by
    rw [State.me_pinned, State.me_setG]
  have hst : (((s.setG vd (s.vaccWord v)).pinned.withPtrs s.me.ptr).commit r).st =
      { s.st with g := (s.setG vd (s.vaccWord v)).st.g, pin := true, flags := s.st.flags ||| r.fl } := by
    rw [State.st_commit, State.st_withPtrs, State.st_pinned, State.setG_st]
  have hex : exec (.vaccRd 0 vd vs1 vs2) s = .next ((s.setG vd (s.vaccWord v)).pinned.vecEnd s.me.ptr r) :=
    congrArg _ (longOp_done (t := ((s.setG vd (s.vaccWord v)).pinned.withPtrs s.me.ptr).commit r) h (effVaccRd_pinned s vd vs1 vs2 hv)
      (by rw [hst]) (by rw [hst]) (by rw [hst]))
  refine ⟨_, hex, (hmid.vecDone _ _).of_setG, ?_, ?_, fun b => ?_, fun j hj => ?_, fun h0 => ?_⟩
  · rw [State.me_vecEnd, hme]
  · rw [State.me_vecEnd, hme]
  · rw [State.byte_vecEnd, (State.sameView_pinned _).byte, State.byte_setG]
  · rw [hmid.g_vecEnd, State.g_setG, if_neg hj]
  · rw [hmid.g_vecEnd, State.g_setG, if_pos rfl, if_neg h0]

/-! ### The value read -/

section
variable (s : State) (l : Nat) (r : Raise)

/-- The lanes behind the first, in ascending order. -/
def State.restLanes (s : State) : List Nat := (List.range 31).map fun l => s.me.lane (l + 1)

theorem State.lane_lt (l : Nat) : s.me.lane l < 2 ^ fmtWidth (accCode s.me.fmt) := Nat.mod_lt _ (Nat.two_pow_pos _)

theorem State.restLanes_lt : ∀ v ∈ s.restLanes, v < 2 ^ fmtWidth (accCode s.me.fmt) := by
  intro v hv
  obtain ⟨j, -, rfl⟩ := List.mem_map.1 hv
  exact s.lane_lt _

theorem State.vaccVal_lane : s.vaccVal l 0 r = (s.me.lane l, r) := by rw [State.vaccVal, if_pos rfl]

theorem State.vaccVal_sum_f {f : FpFmt} (ha : elemOf (accCode s.me.fmt) = some (.f f)) : s.vaccVal l 1 r =
    ((s.restLanes.foldl (addLaneF f) (s.me.lane 0, r.fl)).1, { r with fl := (s.restLanes.foldl (addLaneF f) (s.me.lane 0, r.fl)).2 }) := by
  rw [← foldl_near, State.vaccVal, if_neg one_ne_zero, ha]
  rfl

theorem State.vaccVal_sum_32 (ha : accCode s.me.fmt = 11) : s.vaccVal l 1 r =
    ((s.restLanes.foldl (addLane32 s.ctl.uns) (s.me.lane 0, r.sat)).1,
      { r with sat := (s.restLanes.foldl (addLane32 s.ctl.uns) (s.me.lane 0, r.sat)).2 }) := by
  have hw : fmtWidth (accCode s.me.fmt) = 32 := by rw [ha]; rfl
  rw [← foldl_laneAdd_32 s.ctl.uns s.restLanes (hw ▸ s.restLanes_lt) _ (hw ▸ s.lane_lt 0), State.vaccVal, if_neg one_ne_zero, ha]
  rfl

theorem State.vaccVal_sum_64 (ha : accCode s.me.fmt = 12) : s.vaccVal l 1 r =
    (codeI 64 (laneInt s.ctl.uns 64 (s.me.lane 0) + (s.restLanes.map (laneInt s.ctl.uns 64)).sum), r) := by
  have hw : fmtWidth (accCode s.me.fmt) = 64 := by rw [ha]; rfl
  rw [← foldl_laneAdd_64 s.ctl.uns s.restLanes (hw ▸ s.restLanes_lt) _ (hw ▸ s.lane_lt 0), State.vaccVal, if_neg one_ne_zero, ha]
  rfl

theorem State.near_calm (f : FpFmt) (x : Fv) : s.calm.near f (x, 0) = ((f.round rne x).1, { s.calm with fl := (f.round rne x).2 }) := by
  have hfl : (s.calm.fl ||| 0) ||| (f.round rne x).2 = (f.round rne x).2 := by
    rw [show s.calm.fl = 0 from rfl, BitVec.or_self]
    exact BitVec.zero_or
  rw [Raise.near, Raise.take, Raise.flag, Raise.flag, hfl]

variable {mode : Nat} (h0 : mode ≠ 0) (h1 : mode ≠ 1)
include h0 h1

theorem State.vaccVal_best_f {f : FpFmt} (ha : elemOf (accCode s.me.fmt) = some (.f f)) :
    s.vaccVal l mode r = redLaneF (mode == 2) f (s.me.lane 0) (s.restLanes.map f.value) r := by
  rw [State.vaccVal, if_neg h0, ha]
  exact if_neg h1

theorem State.vaccVal_best_i (hF : isF (accCode s.me.fmt) = false) : ∃ m, m < 32 ∧ s.vaccVal l mode r = (s.me.lane m, r) ∧
    ∀ j, j < 32 → if (mode == 2) = true
      then laneInt s.ctl.uns (fmtWidth (accCode s.me.fmt)) (s.me.lane j) ≤ laneInt s.ctl.uns (fmtWidth (accCode s.me.fmt)) (s.me.lane m)
      else laneInt s.ctl.uns (fmtWidth (accCode s.me.fmt)) (s.me.lane m) ≤ laneInt s.ctl.uns (fmtWidth (accCode s.me.fmt)) (s.me.lane j) := by
  have hel : ∀ a f, isF a = false → elemOf a ≠ some (.f f) := fun a f h => by
    unfold elemOf
    split <;> first | exact absurd h (by decide) | simp
  have hw : 4 < fmtWidth (accCode s.me.fmt) := by rcases fmtWidth_accCode s.me.fmt with h | h <;> omega
  obtain ⟨m, hm, hred, hall⟩ := redLaneI_extremum (mode == 2) s.ctl.uns hw s.me.lane s.lane_lt
  refine ⟨m, hm, ?_, hall⟩
  rw [State.vaccVal, if_neg h0]
  split
  · next f he => exact absurd he (hel _ f hF)
  · refine (if_neg h1).trans (congrArg (·, r) (Eq.trans ?_ hred))
    rw [List.map_map]
    rfl

end

/-- Settles O26: lanes are written as elements or to a register; each fold of vacc.rd is the model's, a lane at a time. -/
theorem vectorAccumulator : Obligations.VectorAccumulator := by
  intro vd vs1 vs2 pm s ds a aw lane rest iv lo hi addF add32 best rd read
  refine ⟨exec_vaccClr, exec_vaccSt, fun h => ?_⟩
  have hread : ∀ {v : Nat} {fl : Flags} {sat : Nat},
      s.vaccVal (bitsOf (s.g vs1) 4 0) vs2.toNat s.calm = (v, { s.calm with fl := fl, sat := sat }) →
      ∃ t, exec rd s = .next t ∧ read t v fl sat := exec_vaccRd h
  have hmode : vs2 = 2 ∨ vs2 = 3 → vs2.toNat ≠ 0 ∧ vs2.toNat ≠ 1 ∧ (vs2.toNat == 2) = (vs2 == 2) := by
    rintro (rfl | rfl) <;> decide
  refine ⟨?lane, ?sumF, ?sum32, ?sum64, ?bestF, ?bestI⟩
  case lane =>
    rintro rfl
    have hbits : bitsOf (s.g vs1) 4 0 = (s.g vs1).toNat % 32 := by simp [bitsOf, fld]
    rw [← hbits]
    exact hread (s.vaccVal_lane _ _)
  case sumF =>
    rintro f rfl hf
    exact hread (s.vaccVal_sum_f _ _ hf)
  case sum32 =>
    rintro rfl ha
    have haw : aw = 32 := congrArg fmtWidth ha
    have hadd : add32 = addLane32 s.ctl.uns := by
      have hiv : iv = laneInt s.ctl.uns 32 := by rw [← haw]; rfl
      funext x y
      simp only [add32, addLane32, congrFun hiv x.1, congrFun hiv y, lo, hi]
    rw [hadd]
    exact hread (s.vaccVal_sum_32 _ _ ha)
  case sum64 =>
    rintro rfl ha
    have haw : aw = 64 := congrArg fmtWidth ha
    have hiv : iv = laneInt s.ctl.uns 64 := by rw [← haw]; rfl
    rw [hiv]
    exact hread (s.vaccVal_sum_64 _ _ ha)
  case bestF =>
    intro f hv hf
    obtain ⟨h0, h1, h2⟩ := hmode hv
    refine hread ((s.vaccVal_best_f _ _ h0 h1 hf).trans ?_)
    rw [h2, redLaneF, s.near_calm]
    rfl
  case bestI =>
    intro hv hF
    obtain ⟨h0, h1, h2⟩ := hmode hv
    obtain ⟨m, hm, hval, hall⟩ := s.vaccVal_best_i (bitsOf (s.g vs1) 4 0) s.calm h0 h1 hF
    obtain ⟨t, ht, hr⟩ := hread hval
    refine ⟨t, m, ht, hr, hm, fun l hl => ?_⟩
    have hbound := hall l hl
    simp only [h2, beq_iff_eq] at hbound
    exact hbound

end Sys2Proof.Machine
end

section
/-! Conversions of elements, with and without a block's scale, and packing (R163 to R165). -/

namespace Sys2Proof.Machine
open Sys2Proof

/-! ### Elements of several blocks -/

/-- A run over as many elements as the destination's blocks have room for. -/
theorem inBlocks_mapEls_of_le (on : Nat → Bool) (f : Nat → Raise → Nat × Raise) {w nd n : Nat} (hn : n ≤ 512 * nd / w) (r : Raise) :
    InBlocks w nd (mapEls on f n 0 r).1 := by
  have hk := mapEls_keys on f n 0 r
  refine ⟨hk ▸ List.Nodup.filter _ List.nodup_range', fun p hp => ?_⟩
  have hmem : p.1 ∈ (List.range' 0 n).filter on := hk ▸ List.mem_map_of_mem hp
  have hlt := (List.mem_range'_1.1 (List.mem_of_mem_filter hmem)).2
  omega

/-- Whether one of the elements written is of a kind. -/
theorem mapEls_any (on : Nat → Bool) (f : Nat → Raise → Nat × Raise) (n : Nat) (r : Raise) (p : Nat → Bool) :
    ((mapEls on f n 0 r).1.any fun e => p e.1) = (List.range n).any fun e => on e && p e := by
  calc ((mapEls on f n 0 r).1.any fun e => p e.1) = ((mapEls on f n 0 r).1.map (·.1)).any p := by rw [List.any_map]; rfl
    _ = _ := by rw [mapEls_keys, List.any_filter, List.range_eq_range']

theorem isFI_of_isF {x : Nat} (h : isF x = true) : isFI x = true := by rw [isFI, h, Bool.true_or]

theorem isFI_of_isScl {x : Nat} (h : isScl x = true) : isFI x = true := by
  obtain ⟨h4, h8⟩ := Bool.and_eq_true _ _ ▸ h
  have := of_decide_eq_true h4
  have := of_decide_eq_true h8
  interval_cases x <;> rfl

/-- The blocks of vcvt's destination hold the elements of a block of the wider format (R163). -/
theorem vcvt_room {x y : Nat} (hx : isFI x = true) (hy : isFI y = true) : 512 / Nat.min (fmtWidth x) (fmtWidth y) ≤
    512 * (512 / Nat.min (fmtWidth x) (fmtWidth y) * fmtWidth x / 512) / fmtWidth x := by
  have hall : ∀ x < 13, ∀ y < 13, isFI x = true → isFI y = true → 512 / Nat.min (fmtWidth x) (fmtWidth y) ≤
    512 * (512 / Nat.min (fmtWidth x) (fmtWidth y) * fmtWidth x / 512) / fmtWidth x := by decide
  exact hall x (isFI_lt hx) y (isFI_lt hy) hx hy

/-- The blocks of vcvt.s's destination hold the elements of a block of the scaled format (R164). -/
theorem vcvtS_room {x : Nat} (hx : isScl x = true) (fmt : Word) (q : Bool) : 512 / fmtWidth x ≤
    512 * (if q then 1 else 512 / fmtWidth x * fmtWidth (accCode fmt) / 512) / fmtWidth (if q then x else accCode fmt) := by
  have hall : ∀ x < 13, isScl x = true → 512 / fmtWidth x ≤ 512 * (512 / fmtWidth x * 32 / 512) / 32 ∧
    512 / fmtWidth x ≤ 512 * (512 / fmtWidth x * 64 / 512) / 64 := by decide
  obtain ⟨h32, h64⟩ := hall x (isFI_lt (isFI_of_isScl hx)) hx
  cases q
  · rcases fmtWidth_accCode fmt with hw | hw
    · simpa only [Bool.false_eq_true, if_false, hw] using h32
    · simpa only [Bool.false_eq_true, if_false, hw] using h64
  · exact le_rfl

/-! ### vcvt and vcvt.s -/

/-- Elements converted from format y (R163). -/
def State.cvtEls (s : State) (pm : BitVec 4) (y n : Nat) (xs : List Nat) (r : Raise) : List (Nat × Nat) × Raise :=
  mapEls (s.on pm) (fun e => cvtEl s.ctl ((elemOf y).getD (.i 8)) s.elem (elt (fmtWidth y) (xs.getD 0 0) e)) n 0 r

theorem effVcvt_pinned (s : State) (vd vs1 vs2 pm : BitVec 4) :
    let x := bitsOf s.me.fmt 3 0
    let y := vs2.toNat
    let n := 512 / Nat.min (fmtWidth x) (fmtWidth y)
    effVcvt vd vs1 vs2 pm s.envOf s.pinned =
      withBlocks (s.on pm) [{ k := vs1, n := n * fmtWidth y / 512, fmt := some y }] none vd (n * fmtWidth x / 512)
        (fun xs ds ps r t => vecPut x ds ps (s.cvtEls pm y n xs r).1 (s.cvtEls pm y n xs r).2 t) s.pinned := by
  intro x y n
  rw [effVcvt, s.on_pinned, s.ctl_pinned, s.elem_pinned, s.fmt_pinned]
  rfl

/-- One element of vcvt.s from format y to z, by the scale of its block (R164). -/
def State.blockScaled (s : State) (q : Bool) (y z : Nat) (sc : Nat → Fv) (xs : List Nat) (e : Nat) (r : Raise) : Nat × Raise :=
  if (sc (e / blkLen s.me.fmt)).isNaN then (nanCode ((elemOf z).getD (.i 8)), r.flag fNV)
  else scaledEl s.ctl q ((elemOf y).getD (.i 8)) ((elemOf z).getD (.i 8)) (sc (e / blkLen s.me.fmt)) (elt (fmtWidth y) (xs.getD 0 0) e) r

/-- Elements scaled, and the NaN-scaled blocks among them counted (R164). -/
def State.scaledEls (s : State) (pm : BitVec 4) (q : Bool) (y z n : Nat) (sc : Nat → Fv) (xs : List Nat) (r : Raise) :
    List (Nat × Nat) × Raise :=
  let m := mapEls (s.on pm) (s.blockScaled q y z sc xs) n 0 r
  let nans := (List.range (n / blkLen s.me.fmt)).filter fun b => (sc b).isNaN && m.1.any fun e => e.1 / blkLen s.me.fmt == b
  (m.1, { m.2 with nan := m.2.nan + nans.length })

/-- A NaN-scaled block is counted when one of its elements is enabled (R164). -/
theorem State.scaledEls_eq (s : State) (pm : BitVec 4) (q : Bool) (y z n : Nat) (sc : Nat → Fv) (xs : List Nat) (r : Raise) :
    s.scaledEls pm q y z n sc xs r =
      let m := mapEls (s.on pm) (s.blockScaled q y z sc xs) n 0 r
      let nans := (List.range (n / blkLen s.me.fmt)).filter fun b =>
        (sc b).isNaN && (List.range n).any fun e => s.on pm e && e / blkLen s.me.fmt == b
      (m.1, { m.2 with nan := m.2.nan + nans.length }) := by
  have hany : ∀ b, ((mapEls (s.on pm) (s.blockScaled q y z sc xs) n 0 r).1.any fun e => e.1 / blkLen s.me.fmt == b) =
      (List.range n).any fun e => s.on pm e && e / blkLen s.me.fmt == b := fun b => mapEls_any _ _ _ _ fun e => e / blkLen s.me.fmt == b
  simp only [State.scaledEls, hany]

/-- The scales in the registers that vcvt.s names (R164). -/
def State.cvtScale (s : State) (sreg : BitVec 3) : Nat → Fv :=
  scaleOf (bitsOf s.me.fmt 9 8) [s.g (8 + sreg.setWidth 4), s.g (8 + sreg.setWidth 4 + 1)]

theorem effVcvtS_pinned (s : State) (vd vs1 : BitVec 4) (quant : BitVec 1) (sreg : BitVec 3) (pm : BitVec 4) :
    let x := bitsOf s.me.fmt 3 0
    let a := accCode s.me.fmt
    let n := 512 / fmtWidth x
    let nw := n * fmtWidth a / 512
    let q := quant == 1
    let y := if q then a else x
    let z := if q then x else a
    effVcvtS vd vs1 quant sreg pm s.envOf s.pinned =
      withBlocks (s.on pm) [{ k := vs1, n := if q then nw else 1, fmt := some y }] none vd (if q then 1 else nw)
        (fun xs ds ps r t => vecPut z ds ps (s.scaledEls pm q y z n (s.cvtScale sreg) xs r).1
          (s.scaledEls pm q y z n (s.cvtScale sreg) xs r).2 t) s.pinned := by
  intro x a n nw q y z
  rw [effVcvtS, s.on_pinned, s.ctl_pinned, s.fmt_pinned]
  rfl

theorem chkVcvtS_none {i : Instr} {sreg : BitVec 3} {s : State} (hok : sclChk s.me.fmt = true) (hr : 8 < vecNb s.me.fmt → sreg ≠ 7) :
    chkVcvtS i sreg s = none := by
  rw [chkVcvtS, fmtChk_none hok]
  exact if_neg fun ⟨h8, h7⟩ => hr h8 h7

/-! ### vpack and vunpack -/

/-- A vector instruction that reads its sources and writes elements of any format of R28, the ternary one among them. -/
theorem longOp_withBlocks_vecPut_of_elem {i : Instr} {eff : Eff} {s : State} {srcs srcs' : List Src} {d : BitVec 4} {nd : Nat}
    {bs : List (List Blk)} {ds : List Blk} (h : s.VecReady i srcs d nd .wr bs ds) (hp : i.pins = true)
    (hs : srcs'.map (fun a => (a.k, a.n)) = srcs.map fun a => (a.k, a.n)) {on : Nat → Bool} {x : Nat} {el : Elem}
    (hel : elemOf x = some el) (hw : 0 < fmtWidth x) {m : List Nat → Raise → List (Nat × Nat) × Raise}
    (he : eff s.envOf s.pinned = withBlocks on srcs' none d nd (fun xs ds ps r s => vecPut x ds ps (m xs r).1 (m xs r).2 s) s.pinned)
    (hin : ∀ xs r, InBlocks (fmtWidth x) nd (m xs r).1) :
    ∃ t, (.next (longOp i eff s) : Out) = .next t ∧ (∀ r, t.g r = s.g r) ∧ s.VecOut t srcs d x ds (m (bs.map s.value) s.calm) := by
  obtain ⟨u, hu, hput⟩ := withBlocks_ready h hs on none rfl fun xs ds ps r s => vecPut x ds ps (m xs r).1 (m xs r).2 s
  have hbs : bs ++ (if (none : Option Nat).isSome then [ds] else []) = bs := List.append_nil bs
  rw [hbs] at hput
  have hmid : s.VecMid u := s.vecMid_pinned.touched hu.touched
  have hin' := (h.toVecSet.length_dst.symm ▸ hin (bs.map s.value) s.calm).fixed s.ctl.uns
  obtain ⟨v, hv, hvt, hvw⟩ := State.putBlks_packEls (hu.bad_eq.trans h.noBad) (hu.soft_eq.trans h.noSoft) x hw h.disjoint hin'.1 hin'.2
  have hdone : vecPut x ds (s.ptrsAfter srcs d nd) (m (bs.map s.value) s.calm).1 (m (bs.map s.value) s.calm).2 u =
      vecDone (s.ptrsAfter srcs d nd) (m (bs.map s.value) s.calm).2 v := by
    rw [Machine.fixed, hel, Option.getD_some] at hv
    simp only [vecPut, hel, hmid.uns_eq, hv]
  have hvm := hmid.touched hvt
  have hvme : v.me = u.me := by rw [State.me, hvt.rest]; rfl
  refine ⟨_, congrArg _ (longOp_vecDone h.toReadyUnit hp (he.trans (hput.trans hdone)) hvm), hvm.g_vecEnd _ _,
    h.toVecSet.vecOut (u := u) (fun a => (hu.sameView.byte a).trans (s.sameView_pinned.byte a)) ?_ ?_ hvm ?_ ?_ hvw⟩
  · rw [hu.me_eq, s.me_pinned]
  · rw [hu.me_eq, s.me_pinned]
  · rw [hvme]
  · rw [hvme]

/-- INT8 elements saturated to the format of fmt.elem (R165). -/
def State.packedEls (s : State) (uns : Bool) (n : Nat) (xs : List Nat) (r : Raise) : List (Nat × Nat) × Raise :=
  mapEls (fun _ => true) (fun e r =>
    (codeI s.elem.width (clampI (intLo s.elem uns) (intHi s.elem uns) (intVal (.i 8) uns (elt 8 (xs.getD 0 0) e)).1), r)) n 0 r

theorem effVpack_pinned (s : State) (vd vs1 : BitVec 4) :
    let x := bitsOf s.me.fmt 3 0
    let n := 512 / fmtWidth x
    let uns := s.ctl.uns && x == 8
    effVpack vd vs1 s.envOf s.pinned = withBlocks (fun _ => true) [{ k := vs1, n := n / 64, fmt := some 7, uns := some uns }] none vd 1
      (fun xs ds ps r t => vecPut x ds ps (s.packedEls uns n xs r).1 (s.packedEls uns n xs r).2 t) s.pinned := by
  intro x n uns
  rw [effVpack, s.ctl_pinned, s.elem_pinned, s.fmt_pinned]
  rfl

/-- Elements of the format of fmt.elem as INT8 (R165). -/
def State.unpackedEls (s : State) (uns : Bool) (n : Nat) (xs : List Nat) (r : Raise) : List (Nat × Nat) × Raise :=
  mapEls (fun _ => true) (fun e r =>
    let v := r.int s.elem uns (elt (fmtWidth (bitsOf s.me.fmt 3 0)) (xs.getD 0 0) e)
    (codeI 8 v.1, v.2)) n 0 r

theorem effVunpack_pinned (s : State) (vd vs1 : BitVec 4) :
    let x := bitsOf s.me.fmt 3 0
    let n := 512 / fmtWidth x
    let uns := s.ctl.uns && x == 8
    effVunpack vd vs1 s.envOf s.pinned = withBlocks (fun _ => true) [{ k := vs1, n := 1, fmt := some x }] none vd (n / 64)
      (fun xs ds ps r t => vecPut 7 ds ps (s.unpackedEls uns n xs r).1 (s.unpackedEls uns n xs r).2 t) s.pinned := by
  intro x n uns
  rw [effVunpack, s.ctl_pinned, s.elem_pinned, s.fmt_pinned]
  rfl

/-- Every element is written, and the reserved codes among those read are counted (R53, R165). -/
theorem State.unpackedEls_eq (s : State) (uns : Bool) (n : Nat) (xs : List Nat) (r : Raise) : s.unpackedEls uns n xs r =
    ((List.range n).map fun e => (e, codeI 8 (intVal s.elem uns (elt (fmtWidth (bitsOf s.me.fmt 3 0)) (xs.getD 0 0) e)).1),
      { r with sub := r.sub + ((List.range n).filter fun e =>
        (intVal s.elem uns (elt (fmtWidth (bitsOf s.me.fmt 3 0)) (xs.getD 0 0) e)).2).length }) := by
  rw [List.range_eq_range']
  exact mapEls_counted (fun e => (codeI 8 (intVal s.elem uns (elt (fmtWidth (bitsOf s.me.fmt 3 0)) (xs.getD 0 0) e)).1,
    (intVal s.elem uns (elt (fmtWidth (bitsOf s.me.fmt 3 0)) (xs.getD 0 0) e)).2)) n 0 r

theorem State.packedEls_eq (s : State) (uns : Bool) (n : Nat) (xs : List Nat) (r : Raise) : s.packedEls uns n xs r =
    ((List.range n).map fun e => (e, codeI s.elem.width (clampI (intLo s.elem uns) (intHi s.elem uns)
      (laneInt uns 8 (elt 8 (xs.getD 0 0) e)))), r) := by
  rw [State.packedEls, mapEls_pure, List.filter_true]
  simp only [intVal_fst_eq_laneInt uns (by decide : 8 ≠ 4) (elt_lt 8 _ _)]

/-- INT4 and ternary: formats whose elements fill whole blocks of INT8 (R154, R165). -/
theorem isPack_cases {x : Nat} (h : isPack x = true) : x = 8 ∨ x = 9 := by
  simpa [isPack] using h

/-- Settles O24: each instruction writes, through its destination, what its function of the elements read is. -/
theorem vectorConversions : Obligations.VectorConversions := by
  intro vd vs1 vs2 pm quant sreg s bs ds x w v
  refine ⟨?vcvt, ?vcvtS, ?vpack, ?vunpack⟩
  case vcvt =>
    intro y n srcs hx hy h
    obtain ⟨p, rfl⟩ := List.length_eq_one_iff.1 h.toVecSet.length
    obtain ⟨t, ht, hg, ho⟩ := longOp_withBlocks_vecPut (peek := none) h rfl rfl rfl hx (effVcvt_pinned s vd vs1 vs2 pm) fun _ _ =>
      inBlocks_mapEls_of_le _ _ (vcvt_room hx hy) _
    exact ⟨t, (congrArg _ (longChk_none (fmtChk_none hx))).trans ht, hg, ho⟩
  case vcvtS =>
    intro a n nw q y z srcs g sc dst bad none' el m nans hx ha hr h
    obtain ⟨p, rfl⟩ := List.length_eq_one_iff.1 h.toVecSet.length
    have hok : sclChk s.me.fmt = true := by rw [sclChk, Bool.and_eq_true]; exact ⟨hx, ha⟩
    have hz : isFI z = true := by
      cases hq : q
      · simpa [z, hq] using isFI_of_isF ha
      · simpa [z, hq] using isFI_of_isScl hx
    obtain ⟨t, ht, hg, ho⟩ := longOp_withBlocks_vecPut (peek := none) h rfl rfl rfl hz (effVcvtS_pinned s vd vs1 quant sreg pm) fun _ _ =>
      inBlocks_mapEls_of_le _ _ (vcvtS_room hx s.me.fmt q) _
    have hel : s.blockScaled q y z (s.cvtScale sreg) [s.value p] = el := rfl
    have hout : s.VecOut t srcs vd z ds (s.scaledEls pm q y z n (s.cvtScale sreg) [s.value p] s.calm) := ho
    rw [State.scaledEls_eq, hel] at hout
    exact ⟨t, (congrArg _ (longChk_none (chkVcvtS_none hok hr))).trans ht, hg, hout⟩
  case vpack =>
    intro n uns srcs hx h
    obtain ⟨p, rfl⟩ := List.length_eq_one_iff.1 h.toVecSet.length
    obtain ⟨e, he, hwe, hpos⟩ : ∃ e, elemOf x = some e ∧ e.width = w ∧ 0 < w := by
      rcases isPack_cases hx with hx | hx <;> simp only [w, hx] <;> exact ⟨_, rfl, rfl, by decide⟩
    obtain ⟨t, ht, hg, ho⟩ := longOp_withBlocks_vecPut_of_elem h rfl (srcs' := [{ k := vs1, n := n / 64, fmt := some 7, uns := some uns }])
      rfl he hpos (m := s.packedEls uns n) (effVpack_pinned s vd vs1) fun _ _ =>
      inBlocks_mapEls_of_le _ _ le_rfl _
    rw [State.packedEls_eq] at ho
    have hwidth : s.elem.width = w := by rw [State.elem, he]; exact hwe
    rw [hwidth] at ho
    exact ⟨t, (congrArg _ (longChk_none (fmtChk_none hx))).trans ht, hg, ho⟩
  case vunpack =>
    intro n uns srcs hx h
    obtain ⟨p, rfl⟩ := List.length_eq_one_iff.1 h.toVecSet.length
    have hroom : n ≤ 512 * (n / 64) / fmtWidth 7 := by
      rcases isPack_cases hx with hx | hx <;> simp only [n, w, hx] <;> decide
    obtain ⟨t, ht, hg, ho⟩ := longOp_withBlocks_vecPut (peek := none) h rfl rfl rfl (x := 7) rfl (effVunpack_pinned s vd vs1) fun _ _ =>
      inBlocks_mapEls_of_le _ _ hroom _
    rw [State.unpackedEls_eq] at ho
    exact ⟨t, _, (congrArg _ (longChk_none (fmtChk_none hx))).trans ht, hg, ho, rfl, Nat.zero_add _⟩

end Sys2Proof.Machine
end

section
/-! A scatter to two addresses that a translation cache maps to overlapping words (R171, R303). -/

namespace Sys2Proof.Machine
open Sys2Proof

/-! ### An element of a block is read from its own bytes -/

theorem ofLe_bytes_add (s : State) (a m n : Nat) :
    ofLe (s.bytes a (m + n)) = ofLe (s.bytes a m) + 256 ^ m * ofLe (s.bytes (a + m) n) := by
  induction m generalizing a with
  | zero => simp [State.bytes, ofLe]
  | succ m ih =>
    rw [Nat.add_right_comm, State.bytes, State.bytes, ofLe, ofLe, ih, Nat.add_assoc a 1 m, Nat.add_comm 1 m]
    ring

theorem bytes_lt (s : State) (a n : Nat) : ofLe (s.bytes a n) < 256 ^ n := by
  have h := ofLe_lt (s.bytes a n)
  rwa [length_bytes] at h

theorem elt_bytes (s : State) (a : Nat) {k e n : Nat} (h : k * e + k ≤ n) :
    elt (8 * k) (ofLe (s.bytes a n)) e = ofLe (s.bytes (a + k * e) k) := by
  obtain ⟨r, rfl⟩ := Nat.exists_eq_add_of_le h
  have hpow : ∀ j, 2 ^ (8 * j) = 256 ^ j := fun j => by rw [Nat.pow_mul]
  rw [elt, Nat.mul_assoc, hpow, hpow, Nat.add_assoc, ofLe_bytes_add, ofLe_bytes_add, Nat.add_mul_div_left _ _ (by positivity),
    Nat.div_eq_of_lt (bytes_lt _ _ _), Nat.zero_add, Nat.add_mul_mod_self_left, Nat.mod_eq_of_lt (bytes_lt _ _ _)]

theorem value_singleton (s : State) (b : Blk) : s.value [b] = ofLe (s.bytes b.ga 64) := Nat.add_zero _

/-! ### The state -/

/-- Core 2 with a strand of launch 0, whose translation cache maps the first page of the scratchpad on itself and the second to two bytes
behind the start of the first: the base of the second entry is no multiple of the page's size. The index block names words 0 and 0x4000,
which lie in the two pages, for the two enabled elements; the values scattered are 0 and 1. -/
def overlapSt : State :=
  { State.reset with
    cores := [(2, { ctxs := [(0, { pc := 0x1000, sys := true, life := .ready, lix := some 0, g := [(8, 0xFF0000000000)] })], tvec := 0x2000
                    fmt := 0x2B, q := [(0, 3)], ptr := [(0, { base := 0xFF0000001000 }), (1, { base := 0xFF0000002000 })]
                    tlb := [{ lix := 0, size := 65536, page := 0xFF000000, base := 0xFF0000000000, perm := 7 },
                            { lix := 0, size := 65536, page := 0xFF000001, base := 0xFF0000000002, perm := 7 }] })]
    launches := [(0, { st := .placed })]
    mem := [(2 ^ 60 + 0x1004, 1), (2 ^ 60 + 0x2005, 0x40)] }

/-- The enabled words of the block at p0 scattered to where the block at p1 says, from the address in g8. -/
def overlapScatter : Instr := .vscat 0 8 0 1 8

def overlapSrcs : List Src := [{ k := 0, n := 1, fmt := some 11 }, { k := 1, n := 1, fmt := some 11, uns := true }]

def valueBlk : Blk := { va := 0xFF0000001000, ga := 2 ^ 60 + 0x1000 }

def indexBlk : Blk := { va := 0xFF0000002000, ga := 2 ^ 60 + 0x2000 }

/-- Where the two elements go: four bytes each, of which two are shared. -/
def overlapEls : List (Nat × Blk) := [(0, { va := 0xFF0000000000, ga := 2 ^ 60 }), (1, { va := 0xFF0000010000, ga := 2 ^ 60 + 2 })]

theorem overlapSt_ready : overlapSt.VecReady overlapScatter overlapSrcs 0 0 .wr [[valueBlk], [indexBlk]] [] where
  pend := by decide
  found := by decide
  live := by decide
  awake := by decide
  replay := by decide
  moving := by decide
  seen := by decide
  assigned := by decide
  core := by decide
  mode := by decide
  fast := by decide
  idle := by decide
  alone := by decide
  noBad := by decide
  noSoft := by decide
  src := by decide
  dst := by decide
  quiet := by decide
  quietDst := by decide
  disjoint := List.Pairwise.nil
  noTags := by decide

theorem overlapSt_elt {b : Blk} {e c : Nat} (he : e < 16) (h : ofLe (overlapSt.bytes (b.ga + 4 * e) 4) = c) :
    elt 32 (overlapSt.value [b]) e = c := by
  rw [value_singleton]
  exact (elt_bytes overlapSt b.ga (k := 4) (by omega)).trans h

/-- The addresses of the two enabled elements. -/
theorem overlapSt_addrs : (((List.range 16).filter (overlapSt.on 8)).map fun e =>
    (e, (overlapSt.g 8).toNat + elt 32 (overlapSt.value [indexBlk]) e * 4)) = [(0, 0xFF0000000000), (1, 0xFF0000010000)] := by
  have hon : (List.range 16).filter (overlapSt.on 8) = [0, 1] := by decide
  have h0 : elt 32 (overlapSt.value [indexBlk]) 0 = 0 := overlapSt_elt (by decide) (by decide)
  have h1 : elt 32 (overlapSt.value [indexBlk]) 1 = 0x4000 := overlapSt_elt (by decide) (by decide)
  have hbase : (overlapSt.g 8).toNat = 0xFF0000000000 := by decide
  rw [hon, hbase, List.map_cons, List.map_cons, List.map_nil, h0, h1]

theorem overlapSt_spElems : overlapSt.spElems .wr 4 [(0, 0xFF0000000000), (1, 0xFF0000010000)] = .ok overlapEls := by decide

/-- Refutes O28: two enabled elements go to different addresses two bytes apart, and the four bytes of each would hold its value: 0 in the
first, whose upper half is the lower half of the second, and 1 in the second. It takes a translation whose base is no multiple of its
page's size, which the statement does not rule out; a walk gives none (R302). -/
theorem not_vectorGatherAndFilter : ¬ Obligations.VectorGatherAndFilter := by
  intro h
  obtain ⟨-, hscat, -⟩ := h 8 0 1 8 overlapSt [[valueBlk], [indexBlk]] [] overlapEls
  obtain ⟨t, -, -, -, hels, -⟩ := hscat (by decide) (by decide) ((congrArg _ overlapSt_addrs).trans overlapSt_spElems) overlapSt_ready
  have hv0 : elt 32 (overlapSt.value [valueBlk]) 0 = 0 := overlapSt_elt (by decide) (by decide)
  have hv1 : elt 32 (overlapSt.value [valueBlk]) 1 = 1 := overlapSt_elt (by decide) (by decide)
  have hfirst : ofLe (t.bytes (2 ^ 60) 4) = 0 := (hels 0 (by decide) fun k hk hlt => by
    obtain rfl : k = 1 := by simp [overlapEls] at hlt; omega
    decide).trans hv0
  have hsecond : ofLe (t.bytes (2 ^ 60 + 2) 4) = 1 := (hels 1 (by decide) fun k hk hlt => absurd hlt (by
    simp [overlapEls]; omega)).trans hv1
  have hsplit := ofLe_bytes_add t (2 ^ 60) 2 2
  have hsplit' := ofLe_bytes_add t (2 ^ 60 + 2) 2 2
  rw [hfirst] at hsplit
  rw [hsecond] at hsplit'
  omega

end Sys2Proof.Machine
end
